-- ==== Sys2Proof/Word.lean ====
section
/-! DEFINITION. The word types of the Trelend model and the names of its fixed ranges of numbers (00_scope.md R4, R38;
10_pod_fabric.md R346; 13_host.md Table 13.2). -/
namespace Sys2Proof

/-- One byte of memory, of a descriptor or of a message. -/
abbrev Byte := BitVec 8
/-- A 16-bit field. -/
abbrev W16 := BitVec 16
/-- A 32-bit field. -/
abbrev W32 := BitVec 32
/-- A 64-bit field. -/
abbrev W64 := BitVec 64

/-- A function of the device: 0 is the PF, 1 to 63 are the VFs (Table 13.2). -/
abbrev Fn := Fin 64
/-- A partition number, 0 to 63 (R38). -/
abbrev PartId := Fin 64
/-- A logical tile, 0 to 63. -/
abbrev TileId := Fin 64
/-- A pod device index, 0 to 63 (R346). -/
abbrev DevIx := Fin 64
/-- A fabric port, 0 to 15 (Table 1.2). -/
abbrev PortNo := Fin 16

/-- A half of the device (Table 1.2). -/
inductive Half where
  | w
  | e
deriving DecidableEq, Repr

/-- A clock domain, in the order of UINDEX for UKIND 0x07 of Table 14.14. -/
inductive Domain where
  | tclk | kclk | cclk | mclk | fclk | aclk | hclk | sclk
deriving DecidableEq, Repr

/-- The status codes of Table 0.4 (R11); R14: no other value is ever returned. -/
inductive Status where
  | ok | okLate | cancelled | badDescriptor | badLength | quotaExceeded | budgetHeld | blockSize
  | basisAbsent | basisBusy | memUncorrectable | targetLost | remoteTimeout | contextWait | pageDropped
  | ownershipUnresolved | stateLost | residueMismatch | configMismatch | functionReset | windowLate
  | internal
deriving DecidableEq, Repr

end Sys2Proof
end

