-- ==== Sys2Proof/Syntax.lean ====
section
/-! DEFINITION. The commands of the Trelend block: one constructor of Instr for each row of spec/opcode_table.json, with the
operands that the row's rule gives it, and the plain data those operands carry. A command is an operation posted by host
software, a register write, a message, packet or cell that arrives, a timer's expiry, or an event on a pin or in the
physical world; its effect is Machine/Dispatch.lean's exec. -/
namespace Sys2Proof

/-! ## Posted descriptors (R460, R461) -/

/-- Where a descriptor comes from: a submission ring of a function, with the ring's fetch count when it was fetched, or the
lock-keeper's own step of a partition, with the index of the step's task (R285, R286). -/
inductive Src where
  | ring (fn : Fn) (ring : Nat) (idx : Nat)
  | step (part : PartId) (k : Nat)
deriving DecidableEq, Repr

/-- An operand that the lock-keeper stages for a step's task in its region (R285, Table 8.8): the role of Table 4.2 and the
bytes. -/
structure Staged where
  role  : Byte
  bytes : List Byte
deriving DecidableEq, Repr

/-- A descriptor as the device has fetched it: the 64 bytes as one little-endian number, the block of host memory that the
descriptor names and that is read once with it (R122: argument block, parameter block, templates, entry record, save map,
pair list, nonce), and the row map. -/
structure Post where
  src    : Src
  desc   : BitVec 512
  arg    : List Byte
  rows   : List W64
  staged : List Staged
deriving DecidableEq, Repr

/-! ## Fabric cells (10_pod_fabric.md Table 10.4) -/

/-- A cell's header and payload; `kind`, `vc`, `resv` are kept as received, since R348 discards a cell that breaks them. -/
structure Cell where
  kind    : Byte
  vc      : BitVec 2
  tc      : BitVec 3
  hops    : BitVec 2
  dst     : DevIx
  src     : DevIx
  engine  : W16
  txn     : W16
  addr    : W64
  length  : W16
  aop     : BitVec 4
  status  : W16
  resvOk  : Bool
  lseq    : BitVec 12
  lack    : BitVec 12
  credVc  : BitVec 2
  cred    : BitVec 6
  payload : List Byte
deriving DecidableEq, Repr

/-- A HELLO of Table 10.7. -/
structure Hello where
  seen     : Bool
  port     : PortNo
  dev      : DevIx
  pod      : Byte
  fwFamily : W16
  members  : W64
  digest   : BitVec 256
deriving DecidableEq, Repr

/-! ## Transport packets (11_transport.md Tables 11.6 and 11.7) -/

/-- The Finham transport header of Table 11.6. -/
structure PktHdr where
  first   : Bool
  last    : Bool
  notify  : Bool
  rsp     : Bool
  ece     : Bool
  retx    : Bool
  keyed   : Bool
  tc      : BitVec 3
  psn     : W32
  dstQp   : BitVec 24
  srcQp   : BitVec 24
  srcDev  : BitVec 14
  dstDev  : BitVec 14
  msn     : BitVec 56
  offset  : W32
  mlen    : W32
  raddr   : W64
  status  : W16
deriving DecidableEq, Repr

/-! ## Lock and serving messages (07_barges_locks.md Tables 7.8 to 7.11, 08_serving.md Table 8.11) -/

/-- The header of Table 7.8 less KIND, which the command's own name gives. -/
structure LockHdr where
  reason     : W16
  xfer       : W32
  request    : W64
  epoch      : W64
  sender     : BitVec 14
  senderPart : Byte
  party      : Byte
  home       : BitVec 14
deriving DecidableEq, Repr

/-- A holder: system device index and partition. -/
structure Holder where
  dev  : BitVec 14
  part : PartId
deriving DecidableEq, Repr

/-- The layout fields that FILL_OPEN carries: bytes 18 to 55 of KV_LAYOUT, and the SHA-256 of the copied projections when
DIGEST_EN is set (R201, Table 7.10). -/
structure LayoutKey where
  fields  : BitVec 304
  projSha : Option (BitVec 256)
deriving DecidableEq, Repr

/-- The payload of FILL_OPEN: the destinations, the layout, the basis generations that the frames name, the sizes of the
sections of Table 7.11, STEP_DURING_FILL, whether the transfer takes the weir path (R193), and whether it is
a mooring's (R303; Table 7.10 names no place for this, Table 5.3 needs it: log 80). -/
structure FillOpenPay where
  dstOwner       : Option Holder
  dstPages       : Option Holder
  layout         : Option LayoutKey
  bases          : List (Nat × Nat)
  sizes          : List Nat
  stepDuringFill : Bool
  weir           : Bool
  mooring        : Bool
deriving DecidableEq, Repr

/-- The sampling fields of Table 4.11, bytes 0 to 23. -/
structure Sampling where
  temperature : W32
  topK        : W16
  flags       : Byte
  topP        : W32
  seed        : W64
deriving DecidableEq, Repr

/-- A barge header of Table 7.1 (R247, R284, R291, R300, R303), as the owner holds it and as section 0 of a FILL stream carries
it. `deadline` and `ttl` are remainders in TCLK cycles, `charged` the cycles charged since the request's last record,
`failPos` the position at which a step has failed and been resumed (R307), `pages` and `handle` the page holder and the table's
handle, `lastOwner` the owner before mooring, `moorTier` where a moored barge lies (0 STAY, 1 CACHE, 2 HOST), `fedTo` the positions that
committed steps have fed, `fedHigh` the position
below which positions are given and charged at PREFILL_W. -/
structure BargeHdr where
  request      : W64
  sampling     : Sampling
  originDev    : BitVec 14
  originFn     : Fn
  slot         : Nat
  compId       : Nat
  nextPosition : Nat
  promptLen    : Nat
  tokensLeft   : Nat
  deadline     : Option Nat
  ttl          : Nat
  charged      : Nat
  lease        : Nat
  moored       : Bool
  fedHigh      : Nat
  fedTo        : Nat
  stop         : List W32
  endTtl       : Nat
  classFlags   : Byte
  failTtl      : Nat
  failPos      : Option Nat
  failed       : Bool
  weir         : Bool
  late         : Bool
  recomputed   : Bool
  cancelPend   : Bool
  home         : BitVec 14
  pages        : Holder
  handle       : W64
  lastOwner    : Holder
  moorTier     : Nat
deriving DecidableEq, Repr

/-- A page record of section 4: STATE (0 EMPTY, 1 PRESENT, 2 DROPPED), RECOMPUTE, LAYER_DONE. -/
structure PageRec where
  state     : Nat
  recompute : Bool
  layerDone : BitVec 128
deriving DecidableEq, Repr

/-- One chunk's content of a FILL stream (Table 7.11): the header, the table record and page records, whose encodings are private
(R202), and the bytes of every other section. -/
inductive FillSec where
  | header (h : BargeHdr)
  | tableRec (lengths tentative : List Nat) (isRing : Bool) (w windowPos : Nat)
  | pageRecs (recs : List PageRec)
  | bytes (bs : List Byte)
deriving DecidableEq, Repr

/-- The number 0 to 7 of the section a chunk belongs to (Table 7.11). -/
abbrev SecNo := Fin 8

/-- An output record of Table 8.10 without PHASE. -/
structure OutRec where
  token    : W32
  position : W32
  last     : Bool
  late     : Bool
  cancel   : Bool
  error    : Bool
  status   : Status
  delta    : W32
deriving DecidableEq, Repr

/-- A home record's answer in HOME_REPLY: state 0 IDLE, 1 FILL, 2 SEAL, 3 GATE, 4 DRAIN, 5 SUNK, 6 unknown request. -/
structure HomeAnswer where
  state     : Nat
  epoch     : W64
  owner     : Holder
  pages     : Holder
  xfer      : W32
deriving DecidableEq, Repr

/-! ## Attention between devices (06_attention.md R235, Table 6.9, Table 6.10) -/

/-- A length-table entry of Table 6.9. -/
structure LenEntry where
  seqLen   : W32
  qLen     : W16
  mask     : Byte
  accept   : Byte
  handle   : W64
  maskAddr : W64
  resv     : W64
deriving DecidableEq, Repr

/-- The query message of a far leg (R235): the task's identity at the sender, the SUBOP, PARAM0, PARAM1 and formats, the
entries with their mask maps, and the rows of A, KNEW and VNEW in their own formats. -/
structure FarQuery where
  fromDev : DevIx
  part    : PartId
  task    : Nat
  subop   : W16
  scale   : W32
  param1  : W32
  fmtA    : Byte
  fmtK    : Byte
  fmtV    : Byte
  entries : List LenEntry
  maps    : List (List Byte)
  rowsA   : List Byte
  rowsK   : List Byte
  rowsV   : List Byte
deriving DecidableEq, Repr

/-- A partial record of Table 6.10. -/
structure Partial where
  row    : Nat
  first  : Nat
  last   : Nat
  qhead  : Nat
  empty  : Bool
  nan    : Bool
  flags  : BitVec 7
  m      : W32
  l      : W32
  o      : List W32
deriving DecidableEq, Repr

/-! ## Frames in Ethernet mode (11_transport.md R387 to R389) -/

/-- The kinds of a transport packet, PKIND of Table 11.6. -/
inductive PKind where
  | data | getReq | atomicReq | atomicRsp | signal | tow | ack | msgNak | contextWait
deriving DecidableEq, Repr

/-- A transport packet: header and payload bytes. -/
structure Packet where
  kind    : PKind
  hdr     : PktHdr
  payload : List Byte
deriving DecidableEq, Repr

/-- What the MAC, IPv6 and UDP layers of a received frame hold, and the packet it carries. `plain` says that the frame is
an untagged or once-tagged IPv6 UDP frame without extension headers or fragments and of a length Table 11.5 accepts. -/
structure Frame where
  dstMac  : BitVec 48
  fcsOk   : Bool
  plain   : Bool
  vid     : Option (BitVec 12)
  dstIp   : BitVec 128
  srcIp   : BitVec 128
  dscp    : BitVec 6
  ecn     : BitVec 2
  flow    : BitVec 20
  sport   : W16
  dport   : W16
  csumOk  : Bool
  packet  : Packet
deriving DecidableEq, Repr

/-! ## Flash, journal, reliability -/

/-- A firmware image as it lies in a flash slot (R527): its length in bytes, the VERSION and FW_FAMILY of its header, the
header's hash of the body, the header's signature and the body. -/
structure Image where
  length  : Nat
  version : W16
  family  : W16
  hash    : BitVec 256
  sig     : BitVec 512
  header  : List Byte
  body    : List Byte
deriving DecidableEq, Repr

/-- A journal record's kind and payload before its header is built (R532). -/
structure JEntry where
  kind    : Nat
  payload : List Byte
deriving DecidableEq, Repr

/-- What a memory read's error code finds in a line or word (R331, R334). -/
inductive Ecc where
  | clean
  | corrected
  | uncorrectable
deriving DecidableEq, Repr

/-- A residue mismatch as the checker reports it (Table 4.5). -/
structure Residue where
  column   : Nat
  expander : Bool
  chunk    : Nat
deriving DecidableEq, Repr

/-- A part whose state an admission stream copies (R501), named by the receiving device's partition: a T1 page, a basis slot by its
place in the partition's range, a KV layout with bytes 18 to 55 of KV_LAYOUT, or a step program with its templates as
descriptor, PATCH and argument block. -/
inductive AdmitPart where
  | page (part : PartId) (pas : Nat) (cells : List (Nat × Byte))
  | basis (part : PartId) (slot : Nat) (second : Bool) (st gen rank columns : Nat) (v : List W16)
  | layout (part : PartId) (id : Nat) (fields : BitVec 304) (proj : List W16)
  | program (part : PartId) (decode : Bool) (batch chunk : Nat) (templates : List (BitVec 512 × Nat × List Byte))
deriving DecidableEq, Repr

/-- A field held in three copies (Table 16.3). -/
inductive TriField where
  | role | tileMask | t1Quota | t2Quota | t3Quota | basisBase | basisCount | lockBit | keyEnable
deriving DecidableEq, Repr

/-- An upset of one bit of one copy of a triplicated field of the numbered register. -/
structure Upset where
  field : TriField
  index : Nat
  copy  : Fin 3
  bit   : Nat
deriving DecidableEq, Repr

/-- An analogue self-test slice of Table 14.7. -/
inductive SliceKind where
  | nearLoop | pll | thermal | voltage | farLoop
deriving DecidableEq, Repr

/-- What a self-test slice examines: its kind and the block's number (lane, domain, sensor or rail). -/
structure Slice where
  kind  : SliceKind
  block : Nat
deriving DecidableEq, Repr

/-! ## The commands -/

/-- The rows of spec/opcode_table.json, in the table's order. -/
inductive Instr where
  -- reset, bring-up and power (15_bringup.md, 17_package.md)
  | powerOnDetect
  | sysRstNLow
  | pwrOkLow
  | resetRelease
  | referenceCheck (sysref fref peRefclk : Bool)
  | optionLoad
  | pllLock (d : Domain)
  | domainRelease (d : Domain)
  | imageVerify
  | endpointReady
  | hbmTrainingDone (failed : BitVec 12)
  | hbmClearDone
  | deviceReady
  | pllLockLoss (d : Domain)
  | clockMonitorTrip (d : Domain) (offFrequency : Bool)
  | supplyMonitorTrip (rail : Fin 10) (mV : W16)
  | thermTrip
  | thermalSample (h : Half) (readings : List (BitVec 16))
  | pwrStateDormant (p : Post)
  | pwrStateActive (p : Post)
  | d3hotEntry
  | d0Entry
  | optWrite (p : Post) (readBackOk : Bool)
  | fwWrite (p : Post) (img : Image)
  | attest (p : Post)
  | jrnlRead (p : Post)
  | journalCommit (entries : List JEntry)
  -- registers (16_registers.md)
  | registerWrite (fn : Fn) (offset : Nat) (eight : Bool) (value : W64)
  | barInvalidAccess (fn : Fn) (offset size : Nat) (isWrite : Bool)
  | bitAliasWrite (offset : Nat) (eight : Bool) (value : W64)
  | lockOptSet
  | lockPartSet
  | lockRouteSet
  | lockKeysSet
  | lockDebugSet
  | secKeyCmd (slot : Fin 256)
  | xptIpLowWrite (n : PortNo) (value : W64)
  | xptIpHighWrite (n : PortNo) (value : W64)
  | camCfgWrite (h : Half) (value : W32)
  | fabPortMode (n : PortNo) (mode : BitVec 2)
  | fabPortRetrain (n : PortNo)
  | alertClear (newFence : Bool)
  | lkpFailoverGo
  -- host interface (13_host.md)
  | vfEnableWrite (enable : Bool) (numVfs : Nat)
  | busMasterEnable (fn : Fn) (on : Bool)
  | msixUnmask (fn : Fn) (vec : Nat)
  | vfFlr (v : Fn)
  | pfFlr
  | pcieHotReset
  | pcieLinkDown
  | vfPageClearDone (v : Fn)
  | ringEnable (fn : Fn) (ring : Nat) (ctl : W64)
  | ringDisable (fn : Fn) (ring : Nat)
  | producedDoorbell (fn : Fn) (ring : Nat) (value : W64) (wrote : List (Nat × Byte))
  | consumedDoorbell (fn : Fn) (ring : Nat) (value : W64)
  | cancelDoorbell (fn : Fn) (value : W64)
  | descriptorFetch (fn : Fn) (ring : Nat) (poison : List Nat)
  | completionRecordWrite (fn : Fn) (ring : Nat)
  | eventPost (fn : Fn)
  | ringModTimer (fn : Fn) (ring : Nat)
  -- tasks (04_tasks.md)
  | matmul (p : Post)
  | groupedMatmul (p : Post)
  | route (p : Post)
  | norm (p : Post)
  | elementwise (p : Post)
  | softmax (p : Post)
  | gather (p : Post)
  | sample (p : Post)
  | convert (p : Post)
  | compress (p : Post)
  | reduce (p : Post)
  | copy (p : Post)
  | gradWeight (p : Post)
  | actBwd (p : Post)
  | normBwd (p : Post)
  | optimAdamw (p : Post)
  -- attention (06_attention.md)
  | kvAppend (p : Post)
  | attend (p : Post)
  | kvVerify (p : Post)
  | appendSlotWaitEnd (part : PartId)
  | farLegQuery (q : FarQuery)
  | partialRecords (task : Nat) (fromDev : DevIx) (status : Status) (detail : W64) (recs : List Partial)
  | farLegTimeout (task : Nat)
  | tileBoundary (tile : TileId)
  | chunkEnd (tile : TileId) (mismatch : Option Residue)
  | workItemComplete (task : Nat) (tile : TileId)
  -- bases (03_lowrank.md)
  | basisReplace (p : Post)
  | basisRetire (p : Post)
  | basisDrainDone (id : Nat)
  -- partitions, composition, the lift (05_partitions.md)
  | partCreate (p : Post)
  | partDestroy (p : Post)
  | partRole (p : Post)
  | partSuspend (p : Post)
  | partResume (p : Post)
  | partSwitch (p : Post)
  | passAbandonTimeout (part : PartId)
  | partSaveComplete (part : PartId)
  | partRestoreComplete (part : PartId)
  | compose (p : Post)
  | composeRemove (p : Post)
  | composeConfirmTimeout (compId : Byte) (link : Fin 3)
  | liftStart (p : Post)
  | liftStop (p : Post)
  | liftLoadComplete (part : PartId)
  | liftLoadFailure (part : PartId) (lost : Bool) (addr : W64)
  | liftFenceTimeout (part : PartId)
  | weirRetry (request : W64)
  -- the page cache (06_attention.md)
  | kvLayout (p : Post)
  | kvLayoutRemove (p : Post)
  | kvPolicy (p : Post)
  | ptCreate (p : Post)
  | ptFork (p : Post)
  | ptTruncate (p : Post)
  | ptDestroy (p : Post)
  | ptQuery (p : Post)
  -- barges and locks (07_barges_locks.md)
  | lockMove (p : Post)
  | lockResolve (p : Post)
  | bargeQuery (p : Post)
  | bargeRehome (p : Post)
  | bargeRelease (p : Post)
  | fillOpen (h : LockHdr) (pay : FillOpenPay)
  | ready (h : LockHdr)
  | fillData (h : LockHdr) (sec : SecNo) (chunk : Nat) (content : FillSec)
  | fillRoundEnd (request : W64)
  | seal (h : LockHdr) (chunks : List Nat) (digest : BitVec 256)
  | accept (h : LockHdr) (handle : W64)
  | refuse (h : LockHdr)
  | commit (h : LockHdr) (owner pages : Holder) (handle : W64)
  | abort (h : LockHdr)
  | drainDone (h : LockHdr)
  | homeQuery (h : LockHdr)
  | homeReply (h : LockHdr) (answer : HomeAnswer)
  | resolve (h : LockHdr) (dest : Bool) (owner pages : Holder) (parties : List (BitVec 14))
  | resolved (h : LockHdr) (owner pages : Holder)
  | release (h : LockHdr)
  | loss (h : LockHdr) (detail : W64)
  | token (h : LockHdr) (position : Nat) (tokens : List W32)
  | tokenAck (h : LockHdr) (historyLen : Nat)
  | tokenAckTimeout (request : W64)
  | gateTimerExpiry (request : W64)
  | fillReadyTimeout (request : W64)
  | partyQueryTimeout (request : W64)
  | drainResendTimeout (request : W64)
  | queryReplyTimeout (request : W64)
  -- serving (08_serving.md)
  | requestSubmit (p : Post)
  | requestAdmitRetry (fn : Fn) (request : W64)
  | requestCancel (p : Post)
  | requestMoor (p : Post)
  | requestResume (p : Post)
  | reqClass (p : Post)
  | budgetSet (p : Post)
  | stepProgram (p : Post)
  | stepAdmission (part : PartId)
  | stepEnd (part : PartId)
  | deadlineCheck (request : W64)
  | mooringTtlExpiry (request : W64)
  | budgetWindowStart (fn : Fn)
  | output (h : LockHdr) (recs : List OutRec) (historyLen : Nat)
  | consumerWordReread (fn : Fn) (slot : Nat) (consumed : W32)
  | outputModTimer (fn : Fn) (slot : Nat)
  | leaseAsk (h : LockHdr) (tokens : Nat)
  | leaseGrant (h : LockHdr) (tokens : Nat)
  | ringHold (h : LockHdr)
  | ringFree (h : LockHdr)
  | cancel (h : LockHdr)
  | report (h : LockHdr) (kind : Nat) (status : Status) (detail : W64) (dstOwner dstPages : Option Holder)
  -- memory (09_memory.md)
  | memMap (p : Post)
  | memUnmap (p : Post)
  | memModePool (p : Post)
  | memModeNormal (p : Post)
  | memHeap (p : Post)
  | hbmDredgeTick (stack : Fin 12) (found : Ecc)
  | tsDredgeTick (tile : TileId) (found : Ecc)
  -- pod memory (10_pod_fabric.md)
  | podAtomic (p : Post)
  | podFence (p : Post)
  | replRegion (p : Post)
  | replRegionRemove (p : Post)
  | replicateUpdate (p : Post)
  | replCoordinatorUpdate (fromDev : DevIx) (tag : Nat) (region : Fin 16) (offset : Nat) (bytes : List Byte)
  | replMemberAck (member : DevIx) (region : Fin 16) (version : W64)
  | laneFailure (lane : Fin 80) (cause : Nat)
  | trainingLock (n : PortNo)
  | trainingTimeout (n : PortNo)
  | helloTimer (n : PortNo)
  | hello (n : PortNo) (m : Hello)
  | helloTimeout (n : PortNo)
  | retrainLock (n : PortNo)
  | retrainTimeout (n : PortNo)
  | cellCrcFailure (n : PortNo)
  | nak (n : PortNo) (lack : BitVec 12)
  | idle (n : PortNo) (c : Cell)
  | routerForward (n : PortNo) (c : Cell)
  | load (n : PortNo) (c : Cell)
  | store (n : PortNo) (c : Cell)
  | atomic (n : PortNo) (c : Cell)
  | loadRsp (n : PortNo) (c : Cell)
  | storeAck (n : PortNo) (c : Cell)
  | atomicRsp (n : PortNo) (c : Cell)
  | podCompletionTimeout (engine txn : W16)
  | beatSend
  | beat (fromDev : DevIx)
  | peerLossTimeout (member : DevIx)
  | aqueductCrcFailure
  -- transport (11_transport.md)
  | qpCreate (p : Post)
  | qpConnect (p : Post)
  | qpDestroy (p : Post)
  | qpQuery (p : Post)
  | xptPut (p : Post)
  | xptGet (p : Post)
  | xptAtomic (p : Post)
  | xptSignal (p : Post)
  | qpWait (p : Post)
  | qpWaitSatisfied (fn : Fn) (ring : Nat)
  | qpWaitTimeout (fn : Fn) (ring : Nat)
  | data (k : PktHdr) (bytes : List Byte) (ce tagOk : Bool)
  | getReq (k : PktHdr) (dest : W64) (length : W32) (ce tagOk : Bool)
  | atomicReq (k : PktHdr) (operand compare : W64) (aop : BitVec 4) (ce tagOk : Bool)
  | atomicRspPacket (k : PktHdr) (former : W64) (ce tagOk : Bool)
  | signal (k : PktHdr) (value : W32) (ce tagOk : Bool)
  | tow (k : PktHdr) (msgClass : Nat) (body : Option Hello) (bytes : List Byte)
  | ack (k : PktHdr) (cack : W32) (msnDone : BitVec 56) (sacks : List (W32 × W32))
  | msgNak (k : PktHdr) (detail : W64) (resend : Bool)
  | contextWait (k : PktHdr) (backoff : W32)
  | backoffEnd (qp : BitVec 24)
  | ackTimer (qp : BitVec 24)
  | rtoExpiry (qp : BitVec 24)
  | contextFetchDone (qp : BitVec 24)
  | frameReceive (n : PortNo) (f : Frame)
  | frameClassify (n : PortNo)
  -- the sluice (12_sluice.md)
  | classifyInsert (p : Post)
  | classifyRemove (p : Post)
  | policerSet (p : Post)
  | policerQuery (p : Post)
  | policerCreditTick
  | locateScan (p : Post)
  | camShadowCheck (h : Half) (locate : Bool) (row : Nat) (mismatch : Bool)
  | egressServe (n : PortNo)
  -- reliability (14_reliability.md)
  | voteSweep (upsets : List Upset)
  | lockstepMismatch (count : W64)
  | failoverResume
  | selftestSliceStart (group : Fin 18) (sl : Slice)
  | selftestSliceEnd (group : Fin 18) (pass : Bool)
  | healthWindowEnd
  | healthGrantRequest (fromDev : DevIx) (part : Nat)
  | hltRepairSubstitute (p : Post)
  | hltRepairUnfence (p : Post)
  | hltRepairClearFlag (p : Post)
  | hltRepairFullSelftest (p : Post) (failed : List Nat)
  | admitDevice (p : Post) (failed : List Nat)
  | admitOpen (fromDev : DevIx) (pairs : List (PartId × PartId)) (shapes : List (Nat × Nat × Nat × Nat × List Nat))
  | admitLoadDone (parts : List AdmitPart) (digest : BitVec 256)
  | admitStallTimeout (partnerAborts : Bool)
  | joinCall (joiner : DevIx) (barrierTo : Nat)
  | joinArrive (fromDev : DevIx)
  | joinGo (joiner : DevIx)
  | joinCancel (joiner : DevIx)
  | joinBarrierTimeout
  -- management port and JTAG (17_package.md)
  | smbReadGlbId
  | smbReadRstStat
  | smbReadOptStat
  | smbReadHltStat
  | smbReadTemperature
  | smbReadRails
  | smbAlertResponse
  | jtagBypass
  | jtagSamplePreload (preload : List Bool)
  | jtagExtest
  | jtagIdcode
  | trainingRestart (n : PortNo)
  | suppliesGood
  | composePeerConfirm (compId : Byte) (link : Fin 3) (qp : BitVec 24)
  | expelGrant (part : Nat) (granted : Bool)
  | admitPartnerRefuse
  | hbmLaneFailing (stack : Fin 12) (channel lane : Nat)
  | trstNLow
  | jtagPrivateInstruction (code : Byte)
deriving DecidableEq, Repr

end Sys2Proof
end

