-- ==== Sys2Proof/Config.lean ====
section
/-! DEFINITION. What the spec leaves open: identities it does not state, private encodings and free values. Each is a constant
with no body, so that nothing proved of the model rests on what it is. -/
namespace Sys2Proof

/-! ## Identities and keys (15_bringup.md R527 to R530, 17_package.md R562) -/

/-- Whether the ECDSA P-256 signature `sig` of a message whose SHA-256 is `hash` verifies against Nymwald's public key in the
boot ROM (R527). The key is not in the spec (log 10). -/
opaque Config.imageSigOk : (hash : BitVec 256) → (sig : BitVec 512) → Bool
/-- The device identity's public key, X then Y, big-endian (R529, Table 15.7; log 10). -/
opaque Config.identityKey : BitVec 512
/-- The ECDSA P-256 signature r, then s, of the identity key over a hash (R530; log 10). -/
opaque Config.identitySign : BitVec 256 → BitVec 512
/-- Nymwald's JEP106 identity, IDCODE [11:1] (R562; log 10). -/
opaque Config.jep106 : BitVec 11
/-- What a flash sector holds after a programming whose read-back differs (R525; log 11). -/
opaque Config.badSector : List Byte → List Byte
/-- The part that the payload of a HEALTH record of the journal belongs to; the payload's layout is private (R534; log 12). -/
opaque Config.journalPart : List Byte → Nat
/-- The cause that CLK_LOSS reports when a PLL loses lock: Table 14.13 names no edge and frequency only (R519; log 13). -/
opaque Config.lockLossCause : Nat → Bool

/-- The TAG in the completion of a descriptor that could not itself be read from host memory (R341, Table 13.9; log 76). -/
opaque Config.lostTag : Nat → W32

/-! ## Tasks and memory -/

/-- Which of several failures of one task is the one reported: the index, modulo their number (R103, R136; log 19). -/
opaque Config.pickFail : Nat → Nat
/-- Whether a line of OUT of a failed task holds a value that the task wrote, by the task's number and the line: else it keeps
its former contents (R136; log 20). -/
opaque Config.freeMix : Nat → Nat → Bool
/-- The value that a failed task wrote, by the task's number and the bit it starts at (R136; log 20). -/
opaque Config.freeByteOf : Nat → Nat → Nat
/-- The bytes of running accumulators that a suspension saves beside the operands of a task (R175; log 21). -/
opaque Config.accBytes : Nat → Nat

/-- What Table 3.5's address holds for a partition address whose page has no device memory offset any more (R97; log 32). -/
opaque Config.goneLine : Nat → Nat

/-- The port index that a router's hash picks among several (R358; log 24), by the values it hashes. -/
opaque Config.routeHash : Nat → Nat → Nat → Nat → Nat

/-- The members that an update had not written when its coordinator was lost, by the update's tag (R371; log 29). -/
opaque Config.replMask : Nat → W64

/-- The layout fields, bytes 18 to 55 of KV_LAYOUT, by which the poster of a far leg sizes the rows of the task whose table
another device holds, by the handle: no message carries them (R228; log 36). -/
opaque Config.farLayout : W64 → BitVec 304

/-- The 20-bit hash of the flow label, by the two queue pairs (R387; log 39). -/
opaque Config.flowHash : Nat → Nat → Nat

/-- The verdict of GCM on the tag of a message whose last packet arrives in a frame: ciphertext and tags are not modelled (log 40). -/
opaque Config.frameTagOk : Packet → Bool

/-- A byte of the destination range of a message whose tag has failed twice, by its message sequence number and its address: the
contents are undefined (R116; log 41). -/
opaque Config.tornByte : Nat → Nat → Byte

/-- A byte of a save area after a suspension, by partition and offset: its layout is private (R175; log 46). -/
opaque Config.saveByte : Nat → Nat → Byte

/-! ## Locks: what other devices know and no message carries (log 47) -/

/-- The bytes that are dirty at a source page holder on another device when a round ends, by the transfer (R262). -/
opaque Config.farDirty : Nat → Nat
/-- Of the table of a request held elsewhere, by its handle: the layout's projections' hash, the basis generations that its frames
name, the section sizes (Table 7.10). -/
opaque Config.farProj : W64 → BitVec 256
opaque Config.farBases : W64 → List (Nat × Nat)
opaque Config.farSizes : W64 → List Nat
/-- The handle of a request's table when HOME_REPLY, which carries none, stands for COMMIT (Table 7.14). -/
opaque Config.farHandle : W64 → W64
/-- What LDONE holds of a transfer whose source owner is another device (R258). -/
opaque Config.farLdone : W64 → Nat
/-- The token history that a chosen party on another device gives a new home (R272). -/
opaque Config.farHistory : W64 → List W32
/-- The private encoding of the header, the table record and the page records in a FILL stream (R202, Table 7.11; log 48). -/
opaque Config.encodeSec : FillSec → List Byte
/-- The offset on a prompt device of a page's frame, by table handle and page: the weir path's page records are private (R194; log 49). -/
opaque Config.farFrame : W64 → Nat → Nat
/-- A byte of a frame that lies on another device, by device and offset, when such a frame is sent on (R194; log 49). -/
opaque Config.farByte : Nat → Nat → Byte
/-- The partition that a queue pair of a composition link reaches at its peer: COMPOSE names queue pairs only (R182; log 50). -/
opaque Config.peerPart : Nat → PartId

/-- A field, by number, of a barge's header or home record that only another device holds (R279; log 56). -/
opaque Config.farBarge : W64 → Nat → Nat

/-- DELTA of a CANCELLED record when the owner, which keeps the charged time, is another device (R292, R298; log 51). -/
opaque Config.farDelta : W64 → W32

/-- The parts whose EXPEL grants a member of the pod reports to a new coordinator that asks for them (R495; log 60). -/
opaque Config.farGrants : Nat → List Nat

/-- Whether the page holder on another device has reserved the frames that a step's row needs, by the table's handle, the length
reached and the time: no message carries it (R286; log 58). -/
opaque Config.farReserve : W64 → Nat → W64 → Bool

/-- Whether an admission that ends while it loads had loaded an item of a partition: a page, a basis, a layout or a program by number
(R504; log 62). -/
opaque Config.admitLoaded : Nat → Nat → Bool

/-- The bytes over which partner and joining device take SHA-256 of the copied state: their order is private (R501; log 63). -/
opaque Config.encodeAdmit : List AdmitPart → List Byte

/-- DETAIL of an HLT_REPAIR UNFENCE of a unit that is no part of the health score (R496; log 65). -/
opaque Config.noPart : Nat → Nat

/-- How many redundant lanes a stack's channels have (R497; log 66). -/
opaque Config.hbmSpareLanes : Nat

/-- The number that HLT_SLICE_FAIL gives a slice of Table 14.7, or the test of a part in the full self-test (Table 14.13; log 67). -/
opaque Config.sliceCode : SliceKind → Nat
opaque Config.selftestCode : Nat → Nat

end Sys2Proof
end

