-- ==== Sys2Proof/Machine/State.lean ====
section
/-! DEFINITION. The state of the Trelend block as plain data: every register, ring, table, queue, counter and pin that the
spec gives it, the reasons a step can stop, and the state right after a device reset (15_bringup.md Table 15.10). A record
type is declared beside the chapter that names its fields. -/
namespace Sys2Proof.Machine

/-- A sparse table: pairs of key and value, keys strictly rising. A key that is not listed holds the table's default. -/
abbrev Tab (α : Type) := List (Nat × α)

/-- A memory: the bytes that differ from what an unlisted address reads as, addresses strictly rising. -/
abbrev Mem := List Host.Cell

/-- A field held in three copies and voted (R10, R553). -/
structure Tri (α : Type) where
  a : α
  b : α
  c : α
deriving DecidableEq, Repr

/-! ## Host interface (13_host.md) -/

/-- A completion record of Table 13.9 that has been produced and not yet written; PHASE and TIMESTAMP are set at the write.
`irq` says that it takes the place of the LAST trigger (R467). -/
structure CplRec where
  tag    : W32
  status : Status
  ring   : Nat
  detail : W64
  extra  : W64
  irq    : Bool
deriving DecidableEq, Repr

/-- An event that has been raised and not yet posted (Table 13.10). -/
structure EventRec where
  code   : W16
  source : W32
  detail : W64
  extra  : W64
deriving DecidableEq, Repr

/-- A descriptor fetched from a ring and not yet completed: the ring's and the function's fetch counts at its fetch, its
opcode, its flags and its tag. -/
structure Flight where
  idx  : Nat
  seq  : Nat
  op   : W16
  flags : W16
  tag  : W32
deriving DecidableEq, Repr

/-- A reason that an operation itself stalls its ring (STALL of Table 13.5): a basis drain (2), a held partition (3), the
queue-pair limit (4), a QP_WAIT (5). -/
inductive Stall where
  | basis
  | partition
  | qpLimit
  | qpWait
deriving DecidableEq, Repr

/-- A QP_WAIT that its ring waits for (R403): its post and its ring's fetch count at it. -/
structure QpWaitSt where
  post : Post
  idx  : Nat
deriving DecidableEq, Repr

/-- A ring of a function: the registers of Tables 13.4 and 13.5 and what the device holds for it; `skip` is the range of fetch
counts that a failed QP_WAIT cancels (R403). -/
structure RingSt where
  base     : W64
  enable   : Bool
  kind     : BitVec 3
  log2     : BitVec 5
  cplRing  : BitVec 9
  vector   : BitVec 12
  modCount : W16
  modUsec  : W16
  fetched  : W32
  held     : W32
  done     : W64
  setupErr : W16
  dbBad    : W16
  fetchNo  : Nat
  queue    : List Post
  flight   : List Flight
  fails    : List (Nat × W32)
  stalls   : List Stall
  waiting  : List CplRec
  modPend  : Nat
  modTimer : Bool
  qpWait   : Option QpWaitSt
  skip     : Nat × Nat
deriving DecidableEq, Repr

/-- A function's own state at the host interface: Bus Master Enable, the rings, the unmasked and the pending MSI-X vectors,
the events waiting to be posted, LOST and LOST_BEFORE (R465), how many descriptors have been fetched, and its reset's
progress (R469, R471). -/
structure FnSt where
  busMaster : Bool
  rings     : Tab RingSt
  unmasked  : List Nat
  pendVec   : List Nat
  events    : List EventRec
  evLost    : W16
  evMark    : Bool
  fetchSeq  : Nat
  inReset   : Bool
  clearing  : Bool
deriving DecidableEq, Repr

/-- One entry of the Advanced Error Reporting log (R453): the function, the offset and the access size of a discarded
access, and whether it was a write. -/
structure AerRec where
  fn      : Fn
  offset  : Nat
  size    : Nat
  isWrite : Bool
deriving DecidableEq, Repr

/-! ## Reset, bring-up and flash (15_bringup.md) -/

/-- Where bring-up stands: the drive of SYS_RST_N (R511), the steps of Table 15.1 each named by what ends it, the end. -/
inductive Phase where
  | held
  | refCheck
  | optLoad
  | clkRelease
  | boot
  | hbmTrain
  | hbmClear
  | region
  | ready
  | bootFailed
deriving DecidableEq, Repr

/-- The option values in effect (Table 15.4). -/
structure OptVals where
  xspiDiv     : Nat
  xspiMode    : Bool
  bootPref    : Bool
  xspiEntry   : List Byte
  imgAAddr    : Nat
  imgBAddr    : Nat
  minFwVer    : W16
  pcieSpeed   : Nat
  smbAddr     : Nat
  jrnlAddr    : Nat
  jrnlSize    : Nat
  regionPages : Nat
deriving DecidableEq, Repr

/-- A record of the journal (R532). -/
structure JRec where
  seq     : W32
  kind    : Nat
  payload : List Byte
deriving DecidableEq, Repr

/-- The flash (Table 15.3): the two option copies, the two image slots, whether each helper copy passes its check (R529), the
two journal regions and which of them is current. -/
structure FlashSt where
  optA   : List Byte
  optB   : List Byte
  imgA   : Option Image
  imgB   : Option Image
  pufA   : Bool
  pufB   : Bool
  jrnlA  : List JRec
  jrnlB  : List JRec
  jrnlOnB : Bool
deriving DecidableEq, Repr

/-- What RST_STAT, OPT_STAT and CLK_STAT show, and the rest of bring-up (Tables 15.5, 15.8, 16.6). -/
structure BootSt where
  phase      : Phase
  supplies   : Bool
  refBad     : BitVec 3
  imgAFail   : Bool
  imgBFail   : Bool
  imgUsed    : Bool
  lkpStarted : Bool
  fwFamily   : W16
  fwVersion  : W16
  pufFail    : Bool
  por        : Bool
  stackFail  : BitVec 12
  resets     : W32
  endpoint   : Bool
  optLoaded  : Bool
  opts       : OptVals
  optDef     : Bool
  optCopyB   : Bool
  aBad       : Bool
  bBad       : Bool
  fieldDef   : BitVec 8
  optSeq     : W32
  clkLocked  : BitVec 8
  clkReleased : BitVec 8
  clkFenced  : BitVec 8
  dormant    : Bool
  byD3hot    : Bool
  d3hot      : Bool
deriving DecidableEq, Repr

/-! ## Pins, SMBus and JTAG (17_package.md) -/

/-- What the package pins and the management ports hold. -/
structure PinSt where
  alert      : Bool
  smbReleased : Bool
  thermTrip  : Bool
  sensors    : List (BitVec 16)
  rails      : List W16
  jtagIr     : Byte
  boundary   : List Bool
  tdo        : List Bool
  driven     : List Bool
deriving DecidableEq, Repr

/-! ## Key slots (03_lowrank.md Table 3.7) -/

/-- A key slot: SEC_SLOT_n and its key. -/
structure KeySlot where
  enable  : Tri Bool
  gcm     : Bool
  owner   : Fn
  loaded  : Bool
  refused : Bool
  key     : BitVec 512
deriving DecidableEq, Repr

/-! ## Memory (09_memory.md) -/

/-- The key mode of a translation page (R107): NONE, or BLOCK or LINE with the XTS slot. -/
inductive KeyMode where
  | none
  | block (slot : Nat)
  | line (slot : Nat)
deriving DecidableEq, Repr

/-- A mapped T1 page of a partition: the device page, the key mode and MFLAGS (Table 9.7). -/
structure PageMap where
  page  : Nat
  key   : KeyMode
  write : Bool
  xport : Bool
deriving DecidableEq, Repr

/-- A T2 or T3 page granted to a partition (R325). -/
structure Grant where
  key   : KeyMode
  write : Bool
deriving DecidableEq, Repr

/-- The heap kinds of Table 9.4. -/
inductive HeapKind where
  | table
  | frame
  | digest
  | basin
  | basis
  | state
deriving DecidableEq, Repr

/-- An object in a heap page: its number, its offset in the page and its size. -/
structure HeapObj where
  id   : Nat
  off  : Nat
  size : Nat
deriving DecidableEq, Repr

/-- A heap page, or a RUN of consecutive pages (R316): the first device page, how many, the kind, the objects. -/
structure HeapPage where
  page : Nat
  run  : Nat
  kind : HeapKind
  objs : List HeapObj
deriving DecidableEq, Repr

/-! ## Partitions, composition and the lift (05_partitions.md) -/

/-- The states of Table 5.4. -/
inductive PState where
  | free
  | active
  | suspending
  | suspended
  | resuming
deriving DecidableEq, Repr

/-- An entry of a save map (Table 5.5), as read. -/
structure SaveEnt where
  tile   : Nat
  offset : Nat
  length : Nat
deriving DecidableEq, Repr

/-- A suspension or switch under way: its descriptor, its save map and the incoming partition of a switch. -/
structure Suspend where
  post     : Post
  map      : List SaveEnt
  saveAddr : Nat
  saveLen  : Nat
  incoming : Option PartId
deriving DecidableEq, Repr

/-- What a suspended partition saved: the save area's place, the bytes saved with their tile-store addresses, how many. -/
structure Saved where
  addr  : Nat
  bytes : Nat
  cells : Mem
deriving DecidableEq, Repr

/-- A layer-table entry (Table 5.9). -/
structure LayerEnt where
  src    : Nat
  tier   : Nat
  uses   : Nat
  length : Nat
deriving DecidableEq, Repr

/-- A load of the lift that has started or completed: its number in the load sequence, whether it is complete, the readers
bound to it that have not completed, and how many readers it has still to bind (R186, R187). -/
structure LoadSt where
  q        : Nat
  complete : Bool
  readers  : List Post
  waiting  : List Post
  unbound  : Nat
deriving DecidableEq, Repr

/-- The lift of a partition (Table 5.8): what LIFT_START set, the layer table, the number of the next load, the loads, what has
come of the load in flight from pod memory, the loads to fetch again after a resumption (R192). -/
structure LiftSt where
  run      : Bool
  halted   : Bool
  depth    : Nat
  loop     : Bool
  first    : Nat
  limit    : Nat
  slotBase : Nat
  slotSize : Nat
  feedRing : Nat
  layers   : List LayerEnt
  nextQ    : Nat
  loads    : List LoadSt
  buf      : Mem
  podLeft  : Nat
  refetch  : List Nat
deriving DecidableEq, Repr

/-- A partition (Tables 5.1, 5.6, 9.8, 16.6). -/
structure PartSt where
  state       : PState
  role        : Tri (BitVec 2)
  tiles       : Tri W64
  t1Quota     : Tri (BitVec 19)
  t2Quota     : Tri (BitVec 25)
  t3Quota     : Tri (BitVec 24)
  basisBase   : Tri (BitVec 14)
  basisCount  : Tri (BitVec 15)
  owner       : Fn
  roleByOwner : Bool
  t2En        : Bool
  t3En        : Bool
  heapKey     : Option Nat
  maps        : Tab PageMap
  grants2     : Tab Grant
  grants3     : Tab Grant
  heap        : List HeapPage
  spill       : List HeapPage
  held        : List Post
  suspend     : Option Suspend
  saved       : Option Saved
  resuming    : Option Post
  lift        : LiftSt
  dropMoored  : Bool
deriving DecidableEq, Repr

/-- A composition link (Table 5.7): COMP_ID and LINK are its key. -/
structure LinkSt where
  src    : PartId
  weir   : Bool
  qpBase : Nat
  qpCount : Nat
deriving DecidableEq, Repr

/-- A COMPOSE that waits for its peers to confirm (R184): its descriptor, the link it will bind, the queue pairs not yet
confirmed. -/
structure ComposeSt where
  post    : Post
  comp    : Nat
  link    : Nat
  next    : LinkSt
  missing : List Nat
deriving DecidableEq, Repr

/-! ## Basis slots (03_lowrank.md R91, Table 3.3) -/

/-- The states of a generation slot. -/
inductive SlotSt where
  | empty
  | current
  | previous
  | draining
deriving DecidableEq, Repr

/-- A generation slot: its state, generation, rank, columns, V as bfloat16 values row by row, its pin count, and the heap
object that holds V in the owner's T1 quota. -/
structure BasisSlot where
  state   : SlotSt
  gen     : Nat
  rank    : Nat
  columns : Nat
  v       : List W16
  pins    : Nat
  obj     : Nat
deriving DecidableEq, Repr

/-- A basis ID: its two slots and the descriptor that waits for a drain, with the slot it waits for and the V it has read
(R97, R98). -/
structure BasisSt where
  s0      : BasisSlot
  s1      : BasisSlot
  waiting : Option Post
deriving DecidableEq, Repr

/-! ## The page cache (06_attention.md) -/

/-- A KV layout (Table 6.1): bytes 18 to 55, the copied digest projections (R200) and the heap object that holds them. -/
structure KvLayout where
  fields : BitVec 304
  proj   : List W16
  obj    : Option Nat
deriving DecidableEq, Repr

/-- A table entry that is not EMPTY (Table 6.4): PRESENT or DROPPED, RECOMPUTE, the device whose T1 holds the frame, on this
device the partition and the heap object of the frame, elsewhere the frame's device offset; the digests' object; LAYER_DONE. -/
structure PtEntry where
  dropped   : Bool
  recompute : Bool
  dev       : Nat
  part      : Nat
  frame     : Nat
  dig       : Option Nat
  done      : BitVec 128
deriving DecidableEq, Repr

/-- A layer of a table: its committed length, its tentative count, the pages it has flushed (R202, R213). -/
structure PtLayer where
  len   : Nat
  tent  : Nat
  pages : Nat
deriving DecidableEq, Repr

/-- A walker bucket in use (R211). -/
structure Bucket where
  epoch : Nat
  count : Nat
deriving DecidableEq, Repr

/-- A heap object that has retired (R212): the epoch of the commit, its partition and number, whether it is a frame. -/
structure RetObj where
  epoch : Nat
  part  : Nat
  obj   : Nat
  frame : Bool
deriving DecidableEq, Repr

/-- A page table (R202 to R212): the device, partition, INDEX and TAG of its handle; the partition that pays for its basin and
new frames (another one on the weir path, R194); its layout; its request; RING, W and WINDOW_POS; its epoch, entries and
layers; the heap objects of root, basin and leaves; walkers; what has retired; whether its handle is live; whether its pages
lie in T3 (R303); frames set aside for a step (R286). -/
structure TableSt where
  dev       : Nat
  part      : Nat
  index     : Nat
  tag       : Nat
  hold      : Nat
  layoutId  : Nat
  layout    : KvLayout
  request   : W64
  isRing    : Bool
  w         : Nat
  windowPos : Nat
  epoch     : Nat
  entries   : Tab PtEntry
  layers    : List PtLayer
  root      : Nat
  basin     : Nat
  leaves    : Tab Nat
  buckets   : List Bucket
  retired   : List RetObj
  live      : Bool
  atHost    : Bool
  rsv       : List Nat
deriving DecidableEq, Repr

/-- A walker (R210): the entry of the task's length table, its table, the label of its bucket, its snapshot. -/
structure Walker where
  entry   : Nat
  table   : Nat
  label   : Nat
  entries : Tab PtEntry
  layers  : List PtLayer
deriving DecidableEq, Repr

/-! ## Tasks (04_tasks.md) -/

/-- An operand descriptor of an argument block (Table 4.2), with its index there; of a step task split by page holder the rows
that it takes (R287), empty for all. -/
structure Opd where
  ix      : Nat
  role    : Nat
  fmt     : Nat
  tier    : Nat
  trans   : Bool
  lowrank : Bool
  outl    : Bool
  bcast   : Bool
  resv    : Bool
  ld      : Nat
  addr    : Nat
  aux     : Nat
  extent  : Nat
  sel     : List Nat
deriving DecidableEq, Repr

/-- A task that has started (R128 to R136): its descriptor and partition, the tiles whose work items have not completed, the
basis slots it pins, its failure if one has been detected, its rows with the requests they belong to and the dropout seeds of
those, the rows squashed, the flags raised by committed rows, the completion's own DETAIL, what it has read of pod memory so
far, the pod operations and the far legs it still waits for, whether its results stand; of an attention task its walkers, the
partial records received, the flags that its appends raised by row, the entry at which its append phase waits (R222), its
length table and its mask maps. -/
structure TaskSt where
  post     : Post
  part     : PartId
  tiles    : List Nat
  pins     : List (Nat × Bool)
  fail     : Option (Status × Nat)
  rows     : Nat
  owners   : List W64
  seeds    : List W64
  squashed : List Nat
  flags    : BitVec 7
  detail   : Nat
  buf      : Mem
  podLeft  : Nat
  legsLeft : Nat
  computed : Bool
  walkers  : List Walker
  recs     : List Partial
  rowFl    : List (Nat × BitVec 7)
  appendAt : Option Nat
  ents     : List LenEntry
  maps     : List (List Byte)
deriving DecidableEq, Repr

/-! ## Barges and locks (07_barges_locks.md) -/

/-- The barge states of Table 7.2. -/
inductive BState where
  | moored
  | underway
  | inLock
  | adrift
  | sunk
deriving DecidableEq, Repr

/-- A source party of a transfer (Table 7.14): the transfer, STEP_DURING_FILL, the destinations, the destination parties that are
READY, the rounds ended, the chunks sent with their section and index, SEALED, QUERYING, the seal that waits for the running
step, when the barge froze, whether a step ran during FILL, whether the transfer is the weir path's, the queue pairs that the
first transfer has still to try for pages and owner (R182), whether the lock-keeper started it itself, and the tier and TTL of the
mooring that it serves (R303). -/
structure SrcSt where
  xfer      : Nat
  stepFill  : Bool
  dstOwner  : Option Holder
  dstPages  : Option Holder
  ready     : List Nat
  rounds    : Nat
  sent      : List (Nat × Nat × FillSec)
  frozen    : Bool
  querying  : Bool
  sealPend  : Bool
  frozenAt  : W64
  stepped   : Bool
  weir      : Bool
  tries0    : List Nat
  tries1    : List Nat
  first     : Bool
  moorTo    : Option (Nat × Nat)
deriving DecidableEq, Repr

/-- A barge at its owner (Table 7.1): the header, its epoch and state, the owning partition, the token history, the decode state,
the heap objects that hold them; HOME_LOST; the holds (budget, quota, output ring, weir path); a lease asked for; a mooring
that waits for the step's end (tier, TTL); the order of its mooring; its place as source of a transfer; whether it is in a step;
whether it is cancelled, and with which reason; when its remainders were last brought up to date; the output records whose tokens the home has not
acknowledged; the history length that the home has acknowledged. -/
structure Barge where
  hdr       : BargeHdr
  epoch     : Nat
  state     : BState
  part      : PartId
  history   : List W32
  dstate    : List Byte
  objs      : List Nat
  homeLost  : Bool
  holdBudget : Bool
  holdQuota : Bool
  holdRing  : Bool
  holdWeir  : Bool
  asked     : Bool
  moorPend  : Option (Nat × Nat)
  mooredNo  : Nat
  src       : Option SrcSt
  inStep    : Bool
  cancelled : Option Nat
  clockAt   : W64
  unacked   : List OutRec
  homeLen   : Nat
deriving DecidableEq, Repr

/-- The source page holder of a transfer whose owner is another device: the header of its instructions, the table, what it
has sent. -/
structure PageSrc where
  hdr   : LockHdr
  table : Nat
  src   : SrcSt
deriving DecidableEq, Repr

/-- A destination party (Table 7.14): the FILL_OPEN it answered, its party code (2 owner, 3 page holder) and partition, the heap
objects it reserved, the chunks placed, the chunk counts and digest of SEAL, VERIFIED, the table it has built, QUERYING,
ADRIFT. -/
structure DstSt where
  hdr      : LockHdr
  pay      : FillOpenPay
  party    : Nat
  part     : PartId
  rsv      : List Nat
  chunks   : List (Nat × Nat × FillSec)
  counts   : List Nat
  digest   : Option (BitVec 256)
  verified : Bool
  table    : Option Nat
  querying : Bool
  adrift   : Bool
deriving DecidableEq, Repr

/-- The states of a home record (Table 7.13). -/
inductive HomeSt where
  | idle
  | fill
  | gate
  | drain
  | sunk
deriving DecidableEq, Repr

/-- A home record (Tables 7.5, 7.13): its state and epoch; owner and page holder and the ones before the commit; the transfer
with its destinations, the ACCEPTs received by party, a REFUSE that came before the seal (Table 7.17), the handle, the drains counted by party; the history and the tokens the
region holds room for; CANCEL_PENDING with its reason; whether a source party was lost; the origin. -/
structure HomeRec where
  state     : HomeSt
  epoch     : Nat
  owner     : Holder
  pages     : Holder
  oldOwner  : Holder
  oldPages  : Holder
  xfer      : Nat
  dstOwner  : Option Holder
  dstPages  : Option Holder
  accepts   : List Nat
  refused   : Option Nat
  handle    : W64
  drained   : List Nat
  history   : List W32
  room      : Nat
  cancelPend : Option Nat
  srcLost   : Bool
  originDev : BitVec 14
  originFn  : Fn
deriving DecidableEq, Repr

/-- The lock and serving messages of Tables 7.10 and 8.11, and those between lock-keepers that the spec names without a
format: the home entry of an admission (R255), a descriptor passed to the owner (R256, R304, R306), room for more history
at the home (R574). -/
inductive LockMsg where
  | fillOpen (pay : FillOpenPay)
  | ready
  | fillData (sec chunk : Nat) (content : FillSec)
  | sealMsg (counts : List Nat) (digest : BitVec 256)
  | acceptMsg (handle : W64)
  | refuse
  | commit (owner pages : Holder) (handle : W64)
  | abort
  | drainDone
  | homeQuery
  | homeReply (a : HomeAnswer)
  | resolve (dest : Bool) (owner pages : Holder) (parties : List (BitVec 14))
  | resolved (owner pages : Holder)
  | release
  | loss (detail : W64)
  | token (position : Nat) (tokens : List W32)
  | tokenAck (len : Nat)
  | output (recs : List OutRec) (len fed : Nat)
  | leaseAsk (tokens : Nat)
  | leaseGrant (tokens : Nat)
  | ringHold
  | ringFree
  | cancel
  | report (kind : Nat) (status : Status) (detail : W64) (dstOwner dstPages : Option Holder)
  | homeEntry (owner pages : Holder) (history : List W32) (room : Nat) (originFn : Fn)
  | order (desc : BitVec 512) (tokens : List W32)
  | moreRoom (tokens : Nat)
deriving DecidableEq, Repr

/-! ## Serving (08_serving.md) -/

/-- Where a request stands at its origin: its home is asked (R253), it is held under check 10 or 11 (R282), or it is admitted. -/
inductive ReqPhase where
  | asking
  | held
  | live
deriving DecidableEq, Repr

/-- A request at its origin (R280 to R298): its post, slot and class as admitted, its prompt partition, its home, owner, page
holder and epoch, the destinations of a transfer that the origin knows of, the output ring's counts and waiting records, what it
has emitted and been charged, moderation, the descriptors that wait for it, its ADRIFT DETAIL, what the source owner has told of
the transfer's LDONE, the end that waits until its records are written, whether the last report was STEP_FAILED, and while it is not admitted its deadline's remainder in TCLK cycles and since when that runs. -/
structure ReqSt where
  post      : Post
  fn        : Fn
  ring      : Nat
  slot      : Nat
  classFlags : Byte
  failTtl   : Nat
  part      : PartId
  phase     : ReqPhase
  home      : BitVec 14
  epoch     : Nat
  owner     : Holder
  pages     : Holder
  dstOwner  : Option Holder
  dstPages  : Option Holder
  produced  : W32
  consumed  : W32
  waiting   : List OutRec
  emitted   : Nat
  cancelled : Option Nat
  late      : Bool
  weir      : Bool
  recomputed : Bool
  ending    : Option (Status × W64)
  failRep   : Bool
  prefillRes : Nat
  leaseRes  : Nat
  leaseAsk  : Nat
  historyLen : Nat
  modPend   : Nat
  modTimer  : Bool
  ringHeld  : Bool
  asks      : List Post
  adrift    : Option W64
  ldone     : Option Nat
  left      : Option Nat
  since     : W64
deriving DecidableEq, Repr

/-- A configured request class (Table 8.6). -/
structure ClassCfg where
  flags   : Byte
  failTtl : Nat
deriving DecidableEq, Repr

/-- A tenant's token budget (Table 8.9, R290), USED and RESERVED in units of 1/256 token. -/
structure Budget where
  metered  : Bool
  weight   : Nat
  window   : Nat
  limit    : Nat
  used     : Nat
  reserved : Nat
deriving DecidableEq, Repr

/-- A task template of a step program (R285): descriptor, PATCH, argument block. -/
structure Template where
  desc  : BitVec 512
  patch : Nat
  arg   : List Byte
deriving DecidableEq, Repr

/-- A step program (Table 8.7). -/
structure Program where
  temps : List Template
  batch : Nat
  chunk : Nat
deriving DecidableEq, Repr

/-- A request's rows in a step: its first position, how many, whether it emits (R287). -/
structure StepRow where
  request : W64
  first   : Nat
  count   : Nat
  emits   : Bool
deriving DecidableEq, Repr

/-- The step of a partition (R286, R307): DECODE or PREFILL, its rows, the tasks still to start with their index, how many have been
posted, the EMIT task's output operand, the bytes of staging it takes (Table 9.14), whether a decode-state array goes with it. -/
structure StepSt where
  decode : Bool
  rows   : List StepRow
  posts  : List Post
  count  : Nat
  emit   : Option (Nat × Nat)
  staged : Nat
  dstate : Bool
deriving DecidableEq, Repr

/-! ## Reliability (14_reliability.md) -/

/-- The health states of Table 14.8, in the order of HLT_SCORE_i.STATE. -/
inductive HState where
  | ok
  | watch
  | expel
  | fenced
deriving DecidableEq, Repr

/-- HLT_SCORE_i of one part (Table 14.2), and whether it holds a grant of the pod's coordinator (R495). -/
structure HealthPart where
  score   : W32
  state   : HState
  run     : Nat
  capped  : Bool
  granted : Bool
deriving DecidableEq, Repr

/-- The admission states of Table 14.11. -/
inductive AdmPhase where
  | idle
  | selftest
  | loading
  | verify
  | barrier
  | admitted
deriving DecidableEq, Repr

/-- An admission of this device (Tables 14.10, 14.11). -/
structure AdmSt where
  phase   : AdmPhase
  post    : Option Post
  partner : DevIx
  pairs   : List (PartId × PartId)
  barrier : Nat
  group   : W64
  arrived : W64
  bytes   : Nat
deriving DecidableEq, Repr

/-- The state of the reliability blocks: the lock-keeper pairs, the health score, the fences of Table 14.3, the fenced
spare tiles by physical number, the spares in use, the self-test slices, grants and admission: the sessions open as partner, the joining
devices for which steps are held, and those that wait for JOIN_ARRIVE until the running steps end; the parts whose request for a grant has no answer yet; when each rail and clock
domain last tripped its monitor. Tile-store spare rows are keyed by physical tile, CAM rows by CAM bank, HBM lanes by stack. -/
structure HealthSt where
  pairB       : Bool
  standbyOk   : Bool
  alert       : Bool
  halted      : Bool
  dead        : Bool
  failingOver : Bool
  counts      : Tab Nat
  parts       : Tab HealthPart
  window      : W64
  grants      : List (Nat × Nat)
  digest      : BitVec 256
  laneFence   : BitVec 80
  portFence   : BitVec 16
  stackFence  : BitVec 12
  aqFence     : Bool
  spareFence  : List Nat
  sensorFence : BitVec 16
  railFence   : BitVec 10
  ioFence     : Bool
  aonLost     : Bool
  aqRetries   : Nat
  tsRows      : Tab (List Nat)
  tsBanks     : Tab (List Nat)
  tsCorr      : Tab Nat
  camRows     : Tab (List Nat)
  hbmLanes    : Tab (List Nat)
  slices      : Tab Slice
  admState    : AdmSt
  sessions    : List DevIx
  joinHold    : List DevIx
  joinOwed    : List DevIx
  asks        : List Nat
  railTrip    : Tab W64
  clkTrip     : Tab W64
deriving DecidableEq, Repr

/-- TILE_MAP_n: the physical tile of the half, and the marks FENCED and SPARED (Table 16.6). -/
structure TileMap where
  phys   : Nat
  fenced : Bool
  spared : Bool
deriving DecidableEq, Repr

/-- The dredges (R335 to R338): the next line of each stack, the next row of each slice, the passes each has completed, the
lines found uncorrectable and already posted in this pass. -/
structure DredgeSt where
  hbmPos    : Tab Nat
  hbmPasses : Tab Nat
  tsPos     : Tab Nat
  tsPasses  : Tab Nat
deriving DecidableEq, Repr

/-- The result of one task of a step, by its index in the step (R286). -/
structure StepRes where
  part   : PartId
  k      : Nat
  status : Status
  detail : W64
  extra  : W64
deriving DecidableEq, Repr

/-! ## The pod fabric (10_pod_fabric.md) -/

/-- The link states of Table 10.8, in the order of FAB_PORT_STAT_n.LINK. -/
inductive LinkPhase where
  | down
  | training
  | hello
  | up
  | quarantined
  | retraining
deriving DecidableEq, Repr

/-- The start and finish tags of an entity of the egress scheduler, and whether it is backlogged (R449). -/
structure SchedTag where
  s    : W32
  f    : W32
  busy : Bool
deriving DecidableEq, Repr

/-- A port's scheduler: the virtual time and the tags of classes 1 to 7, the virtual time of each class's tenant level, the tags
of the tenant queues keyed by class × 128 + tenant, and the class-0 cells served in a row (R448, R449). -/
structure Sched where
  clsV : W32
  cls  : Tab SchedTag
  tenV : Tab W32
  ten  : Tab SchedTag
  run0 : Nat
deriving DecidableEq, Repr

/-- What waits at a port: a cell, or a frame. -/
inductive EgItem where
  | cell (c : Cell)
  | frame (f : Frame)
deriving DecidableEq, Repr

/-- A waiting item with its class and tenant queue (R447). -/
structure QItem where
  cls    : Nat
  tenant : Nat
  item   : EgItem
deriving DecidableEq, Repr

/-- A port (Tables 10.1, 10.8, 12.7; R351 to R355, R437): its link, the lanes found bad, the lane held as spare since the last
training, the peer of its last HELLO, the cells replayed, the sequence number of its next cell, the last one received in
order, whether it discards until a replay, the cells that no LACK covers, the replays of the oldest in a row, the credits it
holds and owes by VC, what waits, whether a HELLO of the peer and one with SEEN has come, its counts of discards, its
scheduler, and the frames that wait for classification. -/
structure PortSt where
  link      : LinkPhase
  laneBad   : BitVec 5
  spare     : Nat
  peerDev   : Nat
  peerPod   : Nat
  replays   : W32
  txSeq     : Nat
  rxSeq     : Nat
  skip      : Bool
  replay    : List Cell
  tries     : Nat
  credits   : List Nat
  owed      : List Nat
  queue     : List QItem
  seen      : Bool
  peerSeen  : Bool
  discards  : Nat
  sched     : Sched
  frames    : List Frame
  qfull     : W32
  dropped   : W32
deriving DecidableEq, Repr

/-- What an outstanding pod operation serves: a load or a store of a task, a POD_ATOMIC, a load of the lift. -/
inductive PodUse where
  | taskLoad (task : Nat)
  | taskStore (task : Nat)
  | atomic (p : Post)
  | lift (part : PartId)
deriving DecidableEq, Repr

/-- An outstanding pod operation (R362, R367): its engine and transaction tag, its target, its pod address and length, the
cell kind, the function it was issued for and its use. -/
structure PodOp where
  engine : Nat
  txn    : Nat
  dst    : DevIx
  addr   : Nat
  len    : Nat
  kind   : Nat
  fn     : Fn
  use    : PodUse
deriving DecidableEq, Repr

/-- A POD_FENCE that waits (R365): the operations it waits for as engine and tag, and the first failure among them. -/
structure FenceWait where
  post : Post
  left : List (Nat × Nat)
  fail : Option (Status × Nat)
deriving DecidableEq, Repr

/-- A replicated region (R368). -/
structure ReplReg where
  offset : Nat
  count  : Nat
deriving DecidableEq, Repr

/-- An update that this device's coordinator performs or holds (R370): who posted it and its tag, the region, the offset, the
data, the members still to write, those skipped as lost, and the version assigned once it has started. -/
structure ReplUpd where
  by_     : DevIx
  tag     : Nat
  region  : Nat
  offset  : Nat
  bytes   : List Byte
  left    : List Nat
  missed  : List Nat
  version : Option Nat
deriving DecidableEq, Repr

/-! ## Transport (11_transport.md) -/

/-- The queue-pair states of Table 11.3; a FREE one is not listed. -/
inductive QState where
  | idle
  | connected
  | draining
  | error
deriving DecidableEq, Repr

/-- A message of a queue pair's send stream (R392, R394 to R398): the posted operation, none for an answer to the peer and for a
towpath message; its packet kind; its message sequence number once it has one; its payload; the header's RADDR, NOTIFY and
RSP; the payload bytes already in packets; whether every packet is built; whether it has been sent again after a tag failure; of
an ATOMIC the former value; its result when it waits its turn; of an answer, the status it carries. -/
structure XOp where
  post   : Option Post
  kind   : PKind
  msn    : Option Nat
  bytes  : List Byte
  raddr  : Nat
  notify : Bool
  rsp    : Bool
  sent   : Nat
  built  : Bool
  resent : Bool
  acked  : Bool
  former : Option Nat
  result : Option (Status × Nat × Nat)
deriving DecidableEq, Repr

/-- A packet sent and not acknowledged (Table 11.10). -/
structure SentPkt where
  pkt    : Packet
  sacked : Bool
  again  : Bool
  held   : Bool
deriving DecidableEq, Repr

/-- A packet as it arrived: with Congestion Experienced or not, with the verdict on the tag of its message, and of a TOW its HELLO. -/
structure RxPkt where
  pkt   : Packet
  ce    : Bool
  tagOk : Bool
  hello : Option Hello
deriving DecidableEq, Repr

/-- A message being received (R400): its packets as offset and payload, whether the LAST one has come, a bad tag, the tag
failures so far, the failure of its access. -/
structure InMsg where
  msn    : Nat
  first  : RxPkt
  got    : List (Nat × List Byte)
  last   : Bool
  tagBad : Bool
  fails  : Nat
  fail   : Option (Status × Nat)
deriving DecidableEq, Repr

/-- A queue pair (Tables 11.1 to 11.4, R406 to R415): partition, owner and context home; its peer and settings; the status of
ERROR with its DETAIL; the counts; the send stream with PSNs, window (its size, what has been acknowledged since it rose, the PSN before which it
is not halved again), retries and back-off; the receive stream with the lowest PSN missing, those marked above it, the lowest MSN
not released, messages under way, arrivals since the last ACK, an ECE owed; whether its context is cached or being fetched, when it was last used, the packets that wait for it, when it last sent CONTEXT_WAIT and
for how long; the result of its classification as a host injection once it is made (R430), the packets to be sent again that a
policer holds (R443). -/
structure QpSt where
  state    : QState
  part     : PartId
  owner    : Fn
  ctxHost  : Option W64
  towpath  : Bool
  dev      : BitVec 14
  lport    : Nat
  keyEn    : Bool
  peer     : BitVec 24
  tc       : BitVec 3
  ip       : BitVec 128
  mtu      : Nat
  keySlot  : Nat
  winInit  : Nat
  rto      : Nat
  retryMax : Nat
  ackEvery : Nat
  err      : Status
  errDet   : Nat
  ccount   : W64
  acount   : W64
  ops      : List XOp
  txPsn    : W32
  txMsn    : Nat
  pkts     : List SentPkt
  window   : Nat
  winAck   : Nat
  noHalve  : Option W32
  retries  : Nat
  rtoMul   : Nat
  backoff  : Bool
  rxPsn    : W32
  marked   : List W32
  rxMsn    : Nat
  msgs     : List InMsg
  unacked  : Nat
  ece      : Bool
  resident : Bool
  fetching : Bool
  used     : Nat
  waiting  : List RxPkt
  cwaitAt  : Option (W64 × Nat)
  inj      : Option (Option W64)
  redHeld  : List W32
  retx     : W32
  cwaits   : W32
  eces     : W32
deriving DecidableEq, Repr

/-! ## The sluice (12_sluice.md) -/

/-- A CLASSIFY entry of a half: its index, ID, priority, and record (Table 12.6). -/
structure ClsEntry where
  index    : Nat
  id       : Nat
  priority : Nat
  value    : BitVec 320
  care     : BitVec 320
  result   : W64
deriving DecidableEq, Repr

/-- A policer (Table 12.8, R440): its setting, its buckets in units of 2^-20 packet with the remainders carried, and its
counts. -/
structure Policer where
  owner  : Fn
  mode   : Byte
  cir    : Nat
  pir    : Nat
  cbs    : Nat
  xbs    : Nat
  tc     : Nat
  tx     : Nat
  remC   : Nat
  remX   : Nat
  green  : W64
  yellow : W64
  red    : W64
deriving DecidableEq, Repr

/-- The CAM of one half: its CLASSIFY entries in index order, the LOCATE entries as index and request ID, and THROTTLE. -/
structure CamHalf where
  cls      : List ClsEntry
  loc      : List (Nat × W64)
  throttle : Nat
deriving DecidableEq, Repr

/-! ## What leaves the device -/

/-- What the device has sent, in the order it was sent: an MSI-X message (R466), an SMBus answer (R560), bits shifted out of
TDO, a HELLO on a port, a towpath message to a member, the other messages, cells, packets and frames of the fabric, a completion with
Unsupported Request (R453). -/
inductive Sent where
  | msi (fn : Fn) (vec : Nat)
  | smb (bytes : List Byte)
  | tdo (bits : List Bool)
  | smbAlertAddr (addr : Nat)
  | hello (port : Nat) (m : Hello)
  | beat (dst : DevIx)
  | link (port : Nat) (item : EgItem)
  | nak (port : Nat) (lack : Nat)
  | replUpdate (dst : DevIx) (tag region offset : Nat) (bytes : List Byte)
  | replWrite (dst : DevIx) (region version offset : Nat) (bytes : List Byte)
  | replAck (dst : DevIx) (region version : Nat)
  | replDone (dst : DevIx) (tag version : Nat) (missed : List Nat)
  | grantAsk (dst : DevIx) (part : Nat)
  | grantAnswer (dst : DevIx) (part : Nat) (granted : Bool)
  | grantReturn (dst : DevIx) (part : Nat)
  | grantsHeld (dst : DevIx)
  | lock (dst : Nat) (h : LockHdr) (kind : LockMsg)
  | farQuery (dst : DevIx) (q : FarQuery)
  | partials (dst : DevIx) (task : Nat) (status : Status) (detail : W64) (recs : List Partial)
  | tow (dev : BitVec 14) (msgClass : Nat) (hello : Option Hello) (bytes : List Byte)
  | composeAsk (dst : BitVec 14) (comp link qp : Nat)
  | admitOpen (dst : DevIx) (pairs : List (PartId × PartId)) (shapes : List (Nat × Nat × Nat × Nat × List Nat))
  | admitData (dst : DevIx) (parts : List AdmitPart) (digest : BitVec 256)
  | admitRefuse (dst : DevIx)
  | admitClose (dst : DevIx)
  | joinCall (dst : DevIx) (barrierTo : Nat)
  | joinArrive (dst : DevIx)
  | joinGo (dst : DevIx)
  | joinCancel (dst : DevIx)
  | unsupported (fn : Fn) (offset : Nat)
  --SENT
deriving DecidableEq, Repr

/-! ## The whole state -/

/-- The device: everything but the queue of waiting commands. -/
structure Dev where
  tclk      : W64
  boot      : BootSt
  flash     : FlashSt
  pins      : PinSt
  regs      : Tab (BitVec 128)
  ipHeld    : Tab W64
  locks     : Tri (BitVec 5)
  keys      : Tab KeySlot
  keyData   : BitVec 512
  numVfs    : Nat
  vfEnable  : Bool
  fns       : Tab FnSt
  aer       : List AerRec
  host      : Mem
  hostBad   : List Nat
  hbm       : Mem
  hbmBad    : List Nat
  ts        : Mem
  tsBad     : List Nat
  pool      : Option (Nat × Nat)
  dredge    : DredgeSt
  tileMap   : Tab TileMap
  tileFreeW : BitVec 36
  tileFreeE : BitVec 36
  parts     : Tab PartSt
  stallCyc  : Tab W64
  stallCnt  : Tab W64
  links     : Tab LinkSt
  composing : List ComposeSt
  health    : HealthSt
  stepResults : List StepRes
  clearPages : Tab Nat
  objNo     : Nat
  bases     : Tab BasisSt
  tasks     : Tab TaskSt
  taskNo    : Nat
  cancelled : List W64
  staging   : Mem
  ports     : Tab PortSt
  podOps    : List PodOp
  podTxn    : Nat
  fences    : List FenceWait
  peerLost  : W64
  beats     : Tab W64
  repl      : Tab ReplReg
  replVer   : Tab W64
  replPosts : List (Nat × Post)
  replTag   : Nat
  replQueue : List ReplUpd
  camW      : CamHalf
  camE      : CamHalf
  policers  : Tab Policer
  layouts   : Tab KvLayout
  tables    : Tab TableSt
  tags      : Tab Nat
  farWait   : List FarQuery
  tableHeld : List Post
  barges    : Tab Barge
  pageSrcs  : Tab PageSrc
  dsts      : List DstSt
  homes     : Tab HomeRec
  xferNo    : Nat
  mooredNo  : Nat
  inbox     : List (LockHdr × LockMsg)
  requests  : Tab ReqSt
  ended     : List (Fn × W64)
  badCancels : Nat
  classes   : Tab ClassCfg
  budgets   : Tab Budget
  programs  : Tab Program
  steps     : Tab StepSt
  qps       : Tab QpSt
  qpDestroys : List (Post × Nat × Nat)
  qpClock   : Nat
  towBad    : List Nat
  xptCount  : Tab W64
  --DEV
  out       : List Sent
deriving DecidableEq, Repr

/-- The state of the block: the device and the commands that wait, first in, first out. -/
structure State where
  dev     : Dev
  pending : List Instr
deriving DecidableEq, Repr

/-- No command of the block is a machine fault: the spec gives every bad operation a status, an event or no effect. -/
inductive Fault where
deriving DecidableEq, Repr

/-- Why a command has no next state. -/
inductive Refusal where
  /-- A row whose meaning is not written yet; raised by Dispatch only. Safe: the model stops. -/
  | notModelled (mnemonic : String)
  /-- A JTAG private instruction while LOCK_DEBUG is 0 (R562): the spec names no effect of any of them. Safe: the model
  stops. -/
  | jtagPrivate
deriving DecidableEq, Repr

/-! ## Reset -/

/-- A field whose three copies agree. -/
def Tri.same {α : Type} (v : α) : Tri α := ⟨v, v, v⟩

/-- A ring of a function after reset (Tables 13.4, 13.5). -/
def RingSt.reset : RingSt :=
  { base := 0, enable := false, kind := 0, log2 := 0, cplRing := 0, vector := 0xFFF, modCount := 0, modUsec := 0,
    fetched := 0, held := 0, done := 0, setupErr := 0, dbBad := 0, fetchNo := 0, queue := [], flight := [],
    fails := [], stalls := [], waiting := [], modPend := 0, modTimer := false, qpWait := none, skip := (0, 0) }

/-- A function after reset: Bus Master Enable 0, every ring at reset, every vector masked. -/
def FnSt.reset : FnSt :=
  { busMaster := false, rings := [], unmasked := [], pendVec := [], events := [], evLost := 0, evMark := false,
    fetchSeq := 0, inReset := false, clearing := false }

/-- A key slot after reset: ENABLE 0, zeroed (Table 15.10). -/
def KeySlot.reset : KeySlot :=
  { enable := Tri.same false, gcm := false, owner := 0, loaded := false, refused := false, key := 0 }

/-- The lift of a partition that has none running (Table 5.6). -/
def LiftSt.reset : LiftSt :=
  { run := false, halted := false, depth := 0, loop := false, first := 0, limit := 0, slotBase := 0, slotSize := 0,
    feedRing := 0, layers := [], nextQ := 0, loads := [], buf := [], podLeft := 0, refetch := [] }

/-- A FREE partition: every field 0 (Tables 5.6, 16.6). -/
def PartSt.reset : PartSt :=
  { state := .free, role := Tri.same 0, tiles := Tri.same 0, t1Quota := Tri.same 0, t2Quota := Tri.same 0,
    t3Quota := Tri.same 0, basisBase := Tri.same 0, basisCount := Tri.same 0, owner := 0, roleByOwner := false,
    t2En := false, t3En := false, heapKey := none, maps := [], grants2 := [], grants3 := [], heap := [], spill := [],
    held := [], suspend := none, saved := none, resuming := none, lift := LiftSt.reset, dropMoored := false }

/-- The factory defaults of the option fields (Table 15.4). -/
def OptVals.factory : OptVals :=
  { xspiDiv := 48, xspiMode := false, bootPref := false, xspiEntry := [], imgAAddr := 0x100000, imgBAddr := 0x500000,
    minFwVer := 0, pcieSpeed := 6, smbAddr := 0x5A, jrnlAddr := 0x1000000, jrnlSize := 64, regionPages := 12288 }

/-- Reset, bring-up and clock registers after a device reset (Tables 15.5, 15.8, 16.6): SYS_RST_N is held, no supply has
been judged good, no option value has been read. -/
def BootSt.reset : BootSt :=
  { phase := .held, supplies := false, refBad := 0, imgAFail := false, imgBFail := false, imgUsed := false,
    lkpStarted := false, fwFamily := 0, fwVersion := 0, pufFail := false, por := true, stackFail := 0, resets := 0,
    endpoint := false, optLoaded := false, opts := OptVals.factory, optDef := false, optCopyB := false, aBad := false,
    bBad := false, fieldDef := 0, optSeq := 0, clkLocked := 0, clkReleased := 0, clkFenced := 0, dormant := false,
    byD3hot := false, d3hot := false }

/-- DESIGN CHOICE (log 4): the flash before anything has programmed it, erased, without images or helper data. -/
def FlashSt.blank : FlashSt :=
  { optA := List.replicate 256 0xFF, optB := List.replicate 256 0xFF, imgA := none, imgB := none, pufA := false,
    pufB := false, jrnlA := [], jrnlB := [], jrnlOnB := false }

/-- Pins and management ports (R531): ALERT_N deasserted; DESIGN CHOICE (log 5) for the readings, which the spec leaves
open, and for the boundary-scan register; BYPASS, all ones, in the instruction register, PRESUMED (log 6). -/
def PinSt.reset : PinSt :=
  { alert := false, smbReleased := false, thermTrip := false, sensors := List.replicate 16 0,
    rails := List.replicate 10 0, jtagIr := 0xFF, boundary := [], tdo := [], driven := [] }

/-- No admission under way (Table 14.11). -/
def AdmSt.reset : AdmSt :=
  { phase := .idle, post := none, partner := 0, pairs := [], barrier := 0, group := 0, arrived := 0, bytes := 0 }

/-- The reliability blocks after reset (Table 14.2): pair 0 in service, STANDBY_OK 1, no fence, no score. -/
def HealthSt.reset : HealthSt :=
  { pairB := false, standbyOk := true, alert := false, halted := false, dead := false, failingOver := false, counts := [],
    parts := [], window := 0, grants := [], digest := 0, laneFence := 0, portFence := 0, stackFence := 0,
    aqFence := false, spareFence := [], sensorFence := 0, railFence := 0, ioFence := false, aonLost := false, aqRetries := 0, tsRows := [], tsBanks := [],
    tsCorr := [], camRows := [], hbmLanes := [], slices := [], admState := AdmSt.reset, sessions := [], joinHold := [], joinOwed := [], asks := [], railTrip := [], clkTrip := [] }

/-- A port after reset: MODE off, every count 0 (Table 10.1). -/
def PortSt.reset : PortSt :=
  { link := .down, laneBad := 0, spare := 4, peerDev := 0, peerPod := 0, replays := 0, txSeq := 0, rxSeq := 0xFFF,
    skip := false, replay := [], tries := 0, credits := [0, 0, 0, 0], owed := [0, 0, 0, 0], queue := [], seen := false,
    peerSeen := false, discards := 0, sched := { clsV := 0, cls := [], tenV := [], ten := [], run0 := 0 }, frames := [],
    qfull := 0, dropped := 0 }

/-- A CAM half after reset: empty, at the full rate. -/
def CamHalf.reset : CamHalf := { cls := [], loc := [], throttle := 0 }

/-- A policer after reset: OFF, owned by the PF, in W. -/
def Policer.reset : Policer :=
  { owner := 0, mode := 0, cir := 0, pir := 0, cbs := 0, xbs := 0, tc := 0, tx := 0, remC := 0, remX := 0, green := 0,
    yellow := 0, red := 0 }

/-- The device right after a device reset (Table 15.10, Table 16.5). Registers of the register file that are not listed
hold the reset values of Machine/Regs.lean. -/
def Dev.reset : Dev :=
  { tclk := 0, boot := BootSt.reset, flash := FlashSt.blank, pins := PinSt.reset, regs := [], ipHeld := [],
    locks := Tri.same 0, keys := [], keyData := 0, numVfs := 0, vfEnable := false, fns := [], aer := [],
    host := [], hostBad := [], hbm := [], hbmBad := [], ts := [], tsBad := [], pool := none,
    dredge := { hbmPos := [], hbmPasses := [], tsPos := [], tsPasses := [] },
    tileMap := [], tileFreeW := 0xF00000000, tileFreeE := 0xF00000000, parts := [], stallCyc := [], stallCnt := [],
    links := [], composing := [], health := HealthSt.reset,
    stepResults := [],
    clearPages := [], objNo := 0,
    bases := [], tasks := [], taskNo := 0, cancelled := [], staging := [],
    ports := [], podOps := [], podTxn := 0, fences := [], peerLost := 0, beats := [], repl := [], replVer := [], replPosts := [],
    replTag := 0, replQueue := [], camW := CamHalf.reset, camE := CamHalf.reset, policers := [],
    layouts := [], tables := [], tags := [], farWait := [], tableHeld := [], barges := [], pageSrcs := [], dsts := [], homes := [],
    xferNo := 0, mooredNo := 0, inbox := [], requests := [], ended := [], badCancels := 0, classes := [], budgets := [],
    programs := [], steps := [],
    qps := [], qpDestroys := [], qpClock := 0, towBad := [], xptCount := [],
    --DEVRESET
    out := [] }

/-- The machine right after reset, with no command waiting. -/
def State.reset : State := { dev := Dev.reset, pending := [] }

end Sys2Proof.Machine
end

