-- ==== Sys2Proof/Machine/Ops.lean ====
section
/-! DEFINITION. The shared operations over the state: sparse tables, memories, voted fields, byte strings and bit fields, the
fields of a descriptor, events, completions, and the order in which a ring's descriptors start (13_host.md R456 to R468). -/
namespace Sys2Proof.Machine

/-! ## Sparse tables -/

/-- The entry of key `k`. -/
def tget {α : Type} : Tab α → Nat → Option α
  | [], _ => none
  | (j, v) :: t, k => if j = k then some v else tget t k

/-- The table with `v` under key `k`. -/
def tset {α : Type} : Tab α → Nat → α → Tab α
  | [], k, v => [(k, v)]
  | (j, w) :: t, k, v => if k < j then (k, v) :: (j, w) :: t else if k = j then (k, v) :: t else (j, w) :: tset t k v

/-- The table without key `k`. -/
def tdel {α : Type} (t : Tab α) (k : Nat) : Tab α := t.filter (fun e => e.1 != k)

/-- The entry of key `k`, or the default `v`. -/
def tgetD {α : Type} (t : Tab α) (k : Nat) (v : α) : α := (tget t k).getD v

/-- The table with the entry of `k` changed by `f`; an absent entry stays absent. -/
def tmod {α : Type} (t : Tab α) (k : Nat) (f : α → α) : Tab α := t.map (fun e => if e.1 = k then (e.1, f e.2) else e)

/-- The keys strictly rise. -/
def tabWf {α : Type} : Tab α → Bool
  | [] => true
  | [_] => true
  | (j, _) :: (k, w) :: t => decide (j < k) && tabWf ((k, w) :: t)

/-! ## Memories -/

/-- The byte at address `a`; an unlisted byte reads 0: HBM and tile store are cleared at bring-up (R514), and host memory
that nothing has written is taken as 0, DESIGN CHOICE (log 3). -/
def memGet (m : Mem) (a : Nat) : Byte := tgetD m a 0

/-- The memory with byte `b` at `a`. A 0 is not listed. -/
def memPut (m : Mem) (a : Nat) (b : Byte) : Mem := if b = 0 then tdel m a else tset m a b

/-- The `n` bytes from address `a`. -/
def memRead (m : Mem) (a : Nat) : Nat → List Byte
  | 0 => []
  | n + 1 => memGet m a :: memRead m (a + 1) n

/-- The memory with the bytes `bs` from address `a`. -/
def memWrite (m : Mem) (a : Nat) : List Byte → Mem
  | [] => m
  | b :: bs => memWrite (memPut m a b) (a + 1) bs

/-- The memory with every address that `p` picks reading 0. -/
def memZero (m : Mem) (p : Nat → Bool) : Mem := m.filter (fun e => !p e.1)

/-- The memory with `n` bytes from `a` reading 0. -/
def memZeroRange (m : Mem) (a n : Nat) : Mem := memZero m (fun x => decide (a ≤ x) && decide (x < a + n))

/-- The canonical form of a memory: addresses strictly rising, no byte that an unlisted address reads as. -/
def Memory.wf (m : Mem) : Bool := tabWf m && m.all (fun e => e.2 != 0)

/-! ## Voted fields -/

/-- The voted value of a field held in three copies: the value two copies agree on (R10); when all three differ no majority
exists and copy `a` is returned, DESIGN CHOICE (log 7). -/
def vote {α : Type} [DecidableEq α] (t : Tri α) : α := if t.b = t.c then t.b else t.a

/-- The voted value bit by bit, as single-bit upsets are outvoted (R486). -/
def voteBits {w : Nat} (t : Tri (BitVec w)) : BitVec w := (t.a &&& t.b) ||| (t.a &&& t.c) ||| (t.b &&& t.c)

/-- The voted value of a one-bit field. -/
def voteBool (t : Tri Bool) : Bool := (t.a && t.b) || (t.a && t.c) || (t.b && t.c)

/-! ## Byte strings and bit fields -/

/-- The number a little-endian byte string spells (R4). -/
def leNat : List Byte → Nat
  | [] => 0
  | b :: bs => b.toNat + 256 * leNat bs

/-- The little-endian byte string of `n` bytes of a number (R4). -/
def leBytes (v : Nat) : Nat → List Byte
  | 0 => []
  | n + 1 => BitVec.ofNat 8 v :: leBytes (v / 256) n

/-- The big-endian byte string of `n` bytes of a number. -/
def beBytes (v n : Nat) : List Byte := (leBytes v n).reverse

/-- Bytes `o` to `o + n - 1` of a byte string, absent bytes reading 0. -/
def slice (bs : List Byte) (o n : Nat) : List Byte :=
  let l := (bs.drop o).take n
  l ++ List.replicate (n - l.length) 0

/-- The number in bytes `o` to `o + n - 1` of a byte string. -/
def leAt (bs : List Byte) (o n : Nat) : Nat := leNat (slice bs o n)

/-- Whether bytes `o` to `o + n - 1` of a byte string are all 0. -/
def zeroAt (bs : List Byte) (o n : Nat) : Bool := (slice bs o n).all (· == 0)

/-- Bits `lo` to `lo + w - 1` of a number. -/
def bits (v lo w : Nat) : Nat := v / 2 ^ lo % 2 ^ w

/-- A Boolean as a number. -/
def b2n (b : Bool) : Nat := if b then 1 else 0

/-- The numbers of the set bits of a mask of `w` bits, rising. -/
def maskList (w : Nat) (m : Nat) : List Nat := (List.range w).filter (fun i => m.testBit i)

/-- The number of set bits of a mask of `w` bits. -/
def popcount (w : Nat) (m : Nat) : Nat := (maskList w m).length

/-- The list without repetitions, first occurrences kept. -/
def dedup (l : List Nat) : List Nat := (l.foldl (fun acc x => if acc.contains x then acc else x :: acc) []).reverse

/-- ⌈a ÷ b⌉. -/
def ceilDiv (a b : Nat) : Nat := (a + b - 1) / b

/-! ## Statuses (Table 0.4) -/

/-- The code of a status (R11). -/
def statusCode : Status → W16
  | .ok => 0x0000
  | .okLate => 0x0001
  | .cancelled => 0x0010
  | .badDescriptor => 0x0020
  | .badLength => 0x0021
  | .quotaExceeded => 0x0030
  | .budgetHeld => 0x0031
  | .blockSize => 0x0040
  | .basisAbsent => 0x0041
  | .basisBusy => 0x0042
  | .memUncorrectable => 0x0050
  | .targetLost => 0x0051
  | .remoteTimeout => 0x0052
  | .contextWait => 0x0053
  | .pageDropped => 0x0060
  | .ownershipUnresolved => 0x0070
  | .stateLost => 0x0071
  | .residueMismatch => 0x0080
  | .configMismatch => 0x0090
  | .functionReset => 0x00A0
  | .windowLate => 0x00B0
  | .internal => 0x00F0

/-- Only OK and OK_LATE mean that the operation completed as requested (R12). -/
def statusGood (s : Status) : Bool := s == .ok || s == .okLate

/-! ## Descriptor fields -/

/-- The number in bytes `o` to `o + n - 1` of a descriptor (R4). -/
def dNat (p : Post) (o n : Nat) : Nat := bits p.desc.toNat (8 * o) (8 * n)

/-- Whether bytes `o` to `o + n - 1` of a descriptor are 0. -/
def dZero (p : Post) (o n : Nat) : Bool := dNat p o n == 0

/-- OPCODE of the common header (Table 13.8). -/
def opcode (p : Post) : Nat := dNat p 0 2

/-- FLAGS of the common header. -/
def dFlags (p : Post) : W16 := BitVec.ofNat 16 (dNat p 2 2)

/-- TAG of the common header. -/
def dTag (p : Post) : W32 := BitVec.ofNat 32 (dNat p 4 4)

/-- REQUEST or HANDLE, bytes 8 to 15 of the common header. -/
def dHandle (p : Post) : W64 := BitVec.ofNat 64 (dNat p 8 8)

def flagFence (f : W16) : Bool := f.getLsbD 0
def flagIrq (f : W16) : Bool := f.getLsbD 1
def flagWait (f : W16) : Bool := f.getLsbD 2
def flagChain (f : W16) : Bool := f.getLsbD 3

/-! ## Functions and rings -/

/-- The state of function `f`. -/
def getFn (d : Dev) (f : Fn) : FnSt := tgetD d.fns f.val FnSt.reset

/-- The device with function `f`'s state set. -/
def setFn (d : Dev) (f : Fn) (x : FnSt) : Dev := { d with fns := tset d.fns f.val x }

/-- Whether a function exists: the PF always, VF v while VF Enable is 1 and v ≤ NumVFs (R455). -/
def fnExists (d : Dev) (f : Fn) : Bool := f.val == 0 || (d.vfEnable && decide (f.val ≤ d.numVfs))

/-- The number of rings of a function (R456). -/
def ringCount (f : Fn) : Nat := if f.val = 0 then 511 else 64

/-- The number of MSI-X vectors of a function (R466). -/
def vecCount (f : Fn) : Nat := if f.val = 0 then 2048 else 64

/-- Ring `r` of function `f`. -/
def getRing (d : Dev) (f : Fn) (r : Nat) : RingSt := tgetD (getFn d f).rings r RingSt.reset

/-- The device with ring `r` of function `f` set. -/
def setRing (d : Dev) (f : Fn) (r : Nat) (x : RingSt) : Dev :=
  setFn d f { getFn d f with rings := tset (getFn d f).rings r x }

/-- The number of entries of a ring: a power of two (Table 13.4). -/
def ringEntries (R : RingSt) : Nat := 2 ^ R.log2.toNat

/-- The ring kinds of Table 13.3. -/
def kindSubmission (k : BitVec 3) : Bool := decide (k.toNat ≤ 3)
def kindCompletion (k : BitVec 3) : Bool := k.toNat == 4
def kindEvent (k : BitVec 3) : Bool := k.toNat == 5

/-- The opcodes that a ring of a kind accepts (Table 13.3). -/
def kindAccepts (k : BitVec 3) (op : Nat) : Bool :=
  match k.toNat with
  | 0 => (decide (0x0100 ≤ op) && decide (op ≤ 0x01FF)) || op == 0x0614
  | 1 => decide (0x0600 ≤ op) && decide (op ≤ 0x0614)
  | 2 => op == 0x0500
  | 3 => (decide (0x0400 ≤ op) && decide (op ≤ 0x04FF)) || (decide (0x0501 ≤ op) && decide (op ≤ 0x0505))
  | _ => false

/-- Whether the lock-keeper works: it has been started (R474), its pair in service runs (R484, R485) and KCLK is not fenced. -/
def keeperRuns (d : Dev) : Bool :=
  d.boot.phase == .ready && !d.health.halted && !d.health.dead && !d.health.failingOver && !d.boot.clkFenced.getLsbD 1

/-- The functions whose rings the device can serve now: the device is ready (R474), a lock-keeper runs (R484) and the
function is not in reset. -/
def serving (d : Dev) (f : Fn) : Bool :=
  keeperRuns d && fnExists d f && !(getFn d f).inReset

/-- Whether the device may issue memory requests for a function: Bus Master Enable is 1 (R475), the PF is not in D3hot
(R538), and the function is not in reset (Table 13.11). -/
def hostOpen (d : Dev) (f : Fn) : Bool := (getFn d f).busMaster && !d.boot.d3hot && !(getFn d f).inReset

/-! ## Events (R465, R507) -/

/-- SOURCE of an event: unit kind and index (R507). -/
def unitOf (ukind uindex : Nat) : W32 := BitVec.ofNat 32 (ukind + 256 * uindex)

/-- The device with an event raised for function `f`. A function in reset receives nothing (R470). -/
def raiseFn (d : Dev) (f : Fn) (code : Nat) (src : W32) (detail : Nat) (extra : Nat) : Dev :=
  if (getFn d f).inReset then d
  else setFn d f { getFn d f with
    events := (getFn d f).events ++ [⟨BitVec.ofNat 16 code, src, BitVec.ofNat 64 detail, BitVec.ofNat 64 extra⟩] }

/-- The device with an event raised for the PF, where every event but MOORING_EXPIRED goes (R507). -/
def raise (d : Dev) (code : Nat) (src : W32) (detail : Nat) : Dev := raiseFn d 0 code src detail 0

/-- A fence sets ALERT and asserts ALERT_N (R482). -/
def assertAlert (d : Dev) : Dev :=
  { d with health := { d.health with alert := true }, pins := { d.pins with alert := true, smbReleased := false } }

/-- The device with a message sent. -/
def send (d : Dev) (m : Sent) : Dev := { d with out := d.out ++ [m] }

/-! ## Completion records (R463, R464) -/

/-- The completion of a ring's descriptor: the flight ends, a failed chain member is noted for its successor (R462), and the
record joins those waiting at the completion ring. A function in reset is written nothing (R470). -/
def completeRing (d : Dev) (f : Fn) (r idx : Nat) (tag failTag : W32) (flags : W16) (st : Status) (detail extra : W64) : Dev :=
  let R := getRing d f r
  let R' := { R with
    flight := R.flight.filter (fun x => x.idx != idx)
    fails := if flagChain flags && !statusGood st then (idx, failTag) :: R.fails else R.fails }
  let d1 := setRing d f r R'
  if (getFn d f).inReset then d1
  else
    let c := R.cplRing.toNat
    let C := getRing d1 f c
    setRing d1 f c { C with waiting := C.waiting ++ [⟨tag, st, r, detail, extra, flagIrq flags⟩] }

/-- A result of a step's task, which goes to the step's record and to no ring (R286). -/
def completeStep (d : Dev) (part : PartId) (k : Nat) (st : Status) (detail extra : W64) : Dev :=
  { d with stepResults := d.stepResults ++ [⟨part, k, st, detail, extra⟩] }

/-- The completion of a descriptor with its status, DETAIL and the record's bytes 24 to 31. -/
def complete (d : Dev) (p : Post) (st : Status) (detail extra : Nat) : Dev :=
  match p.src with
  | .ring f r idx =>
    completeRing d f r idx (dTag p) (dTag p) (dFlags p) st (BitVec.ofNat 64 detail) (BitVec.ofNat 64 extra)
  | .step part k => completeStep d part k st (BitVec.ofNat 64 detail) (BitVec.ofNat 64 extra)

/-- What performing a descriptor answers: it completes now, or it runs on and a later command completes it, or it cannot
start yet and stays at the head of its ring with the reason that STALL shows. -/
inductive Res where
  | done (st : Status) (detail extra : Nat) (d : Dev)
  | later (d : Dev)
  | wait (why : Stall) (d : Dev)

/-- A completion that changes nothing else. -/
def Res.plain (st : Status) (d : Dev) : Res := .done st 0 0 d

/-- The function that posted a descriptor; the lock-keeper's own step tasks are posted for their partition's owner. -/
def poster (d : Dev) (p : Post) : Fn :=
  match p.src with
  | .ring f _ _ => f
  | .step part _ => (tgetD d.parts part.val PartSt.reset).owner

/-! ## The order in which descriptors start (R462) -/

/-- The function's fetch count at a descriptor's fetch; a descriptor not yet listed as fetched counts as fetched last. -/
def fetchSeqOf (d : Dev) (f : Fn) (r idx : Nat) : Nat :=
  match (getRing d f r).flight.find? (fun x => x.idx == idx) with
  | some x => x.seq
  | none => (getFn d f).fetchSeq

/-- Whether a descriptor may start: with FENCE no earlier descriptor of its ring is in flight; with WAIT none fetched earlier
from any submission ring of the function is; and the member before it of a chain has completed. -/
def startable (d : Dev) (p : Post) : Bool :=
  match p.src with
  | .step _ _ => true
  | .ring f r idx =>
    let n := fetchSeqOf d f r idx
    let earlier := (getRing d f r).flight.filter (fun x => decide (x.seq < n))
    let anywhere := (getFn d f).rings.any (fun e => e.2.flight.any (fun x => decide (x.seq < n)))
    let chained := earlier.any (fun x => x.idx + 1 == idx && flagChain x.flags)
    !chained && !(flagFence (dFlags p) && !earlier.isEmpty) && !(flagWait (dFlags p) && anywhere)

/-- The tag of the failed member when the descriptor is a later member of a failed chain (R462). -/
def chainFailed (d : Dev) (p : Post) : Option W32 :=
  match p.src with
  | .step _ _ => none
  | .ring f r idx => if idx = 0 then none else tget (getRing d f r).fails (idx - 1)

/-! ## Performing a descriptor -/

/-- The device with the descriptor taken from its ring's queue. A descriptor that its ring does not list as fetched is
fetched now: FETCHED and the function's count advance (DESIGN CHOICE, log 8). -/
def takePost (d : Dev) (p : Post) : Dev :=
  match p.src with
  | .step part _ => { d with steps := tmod d.steps part.val (fun y => { y with posts := y.posts.erase p }) }
  | .ring f r idx =>
    let R := getRing d f r
    if R.queue.contains p then setRing d f r { R with queue := R.queue.erase p, stalls := [] }
    else
      let F := getFn d f
      let d1 := setRing d f r { R with
        fetched := R.fetched + 1, fetchNo := idx + 1, stalls := []
        flight := R.flight ++ [⟨idx, F.fetchSeq, BitVec.ofNat 16 (opcode p), dFlags p, dTag p⟩] }
      setFn d1 f { getFn d1 f with fetchSeq := F.fetchSeq + 1 }

/-- The device with a descriptor's ring marked as stalled by it, the descriptor kept at the head of the queue. -/
def keepPost (d : Dev) (p : Post) (why : Stall) : Dev :=
  match p.src with
  | .step _ _ => d
  | .ring f r _ =>
    let R := getRing d f r
    let q := if R.queue.contains p then R.queue else p :: R.queue
    setRing d f r { R with queue := q, stalls := why :: R.stalls.erase why }

/-- A result that fails its step (R307): a task all of whose rows were squashed fails nothing. -/
def resFailed (r : StepRes) : Bool := !statusGood r.status && r.status != .cancelled

/-- Whether a task of a step starts now: it is the next one of the step, no task of the step has failed, and with FENCE or WAIT
every one before it has completed (R286, R462). -/
def stepReady (d : Dev) (part : PartId) (k : Nat) (p : Post) : Bool :=
  let res := d.stepResults.filter (fun r => r.part == part)
  match tget d.steps part.val with
  | none => false
  | some y => y.posts.head? == some p && !res.any resFailed &&
      (!(flagFence (dFlags p) || flagWait (dFlags p)) || decide (k ≤ res.length))

/-- Whether the device can perform a descriptor now: it is the next of its ring in fetch order (R462), or the active ring lists none,
the function is served (R474, R484), the flags let it start (R462), and Bus Master Enable lets it reach host memory (R475). -/
def performable (d : Dev) (p : Post) : Bool :=
  match p.src with
  | .step part k => stepReady d part k p
  | .ring f r idx =>
    let R := getRing d f r
    (R.queue.head? == some p || (R.queue.isEmpty && R.enable && kindSubmission R.kind && decide (R.fetchNo ≤ idx))) && serving d f && hostOpen d f && startable d p &&
      (match R.qpWait with
        | some w => decide (idx < w.idx)
        | none => true)

/-- The checks that every descriptor meets before its own (R6, R456, R461): the opcode is the one performed and its ring's
kind accepts it, no reserved bit of FLAGS is set, and on a REQUEST ring only IRQ is. -/
def headerOk (d : Dev) (p : Post) (op : Nat) : Bool :=
  match p.src with
  | .step _ _ => opcode p == op
  | .ring f r _ =>
    let k := (getRing d f r).kind
    opcode p == op && kindAccepts k op && bits (dNat p 2 2) 4 12 == 0 &&
      !(k.toNat == 2 && (dFlags p &&& 0xFFFD) != 0)

/-- DETAIL of a failed header check: of a task the offset of FLAGS or of OPCODE (R126), else 0. -/
def headerDetail (p : Post) (op : Nat) : Nat :=
  if op / 256 == 1 && opcode p == op && bits (dNat p 2 2) 4 12 != 0 then 2 else 0

/-- The opcodes that need tiles, HBM, the CAM or a lane, and so complete with BAD_DESCRIPTOR, DETAIL 0xD0, in DORMANT
(R537): tasks, attention, bases, transfers, table and lock operations, the lift, mappings, CLASSIFY and LOCATE. DEDUCED
(log 9). -/
def needsPower (op : Nat) : Bool :=
  (decide (0x0100 ≤ op) && decide (op ≤ 0x01FF)) || (decide (0x0600 ≤ op) && decide (op ≤ 0x0614)) ||
  [0x0400, 0x0401, 0x0404, 0x0405, 0x0410, 0x0411, 0x0420, 0x0421, 0x0430, 0x0432, 0x0433, 0x0434, 0x0435, 0x0436, 0x0440,
   0x0441, 0x0443, 0x0444, 0x0461, 0x0470, 0x0490, 0x0491, 0x0494, 0x04A8, 0x0500, 0x0502, 0x0503].contains op

/-- Whether a fenced clock domain bars a descriptor, which completes with INTERNAL (Table 15.2): CCLK what needs a search of the CAM, MCLK
what needs HBM, FCLK what needs the router or the transport. Tasks have their own check. DEDUCED (log 68). -/
def clockBars (d : Dev) (op : Nat) : Bool :=
  let f := d.boot.clkFenced
  let cam := [0x0490, 0x0491, 0x0494].contains op
  (f.getLsbD 2 && (cam || (decide (0x0440 ≤ op) && decide (op ≤ 0x0444)) || op == 0x0500)) ||
    (f.getLsbD 3 && ((needsPower op && !cam) || op == 0x0450 || op == 0x0460 || op == 0x0463)) ||
    (f.getLsbD 4 && op / 256 == 6)

/-- Whether a failed QP_WAIT cancels the descriptor (R403). -/
def skipped (d : Dev) (p : Post) : Bool :=
  match p.src with
  | .step .. => false
  | .ring f r idx => let k := (getRing d f r).skip; decide (k.1 ≤ idx) && decide (idx < k.2)

/-- Bytes 24 to 31 of the completion of a descriptor that ends before its own rules: of a REQUEST_SUBMIT the request's final completion,
FINAL and kind ENDED (R283, Table 8.4). -/
def stopExtra (op : Nat) : Nat := if op == 0x0500 then 2 ^ 24 + 2 ^ 28 * 5 else 0

/-- Performing the descriptor `p` as the operation of opcode `op` whose own rules are `eff`; a descriptor of another operation is left
to its own row. Opcode 0xFFFF stands for the refusal of a descriptor that no row performs (R456). -/
def perform (op : Nat) (p : Post) (eff : Dev → Res) (d : Dev) : Dev :=
  if !performable d p || (op != 0xFFFF && opcode p != op) then d
  else
    let d1 := takePost d p
    match chainFailed d p with
    | some tag =>
      match p.src with
      | .ring f r idx =>
        completeRing d1 f r idx (dTag p) tag (dFlags p) .cancelled (BitVec.setWidth 64 tag) 0
      | .step _ _ => d1
    | none =>
      if skipped d p then complete d1 p .cancelled 0 0
      else if !headerOk d p op then complete d1 p .badDescriptor (headerDetail p op) (stopExtra op)
      else if d.health.aonLost || clockBars d op then complete d1 p .internal 0 (stopExtra op)
      else if d.boot.dormant && needsPower op then complete d1 p .badDescriptor 0xD0 (stopExtra op)
      else
        match eff d1 with
        | .done st detail extra d2 => complete d2 p st detail extra
        | .later d2 => d2
        | .wait why d2 => keepPost d2 p why

/-- The answer of a meaning: the state with the device changed. -/
def answer (s : State) (d : Dev) : Host.Outcome State Fault Refusal := .next { s with dev := d }

end Sys2Proof.Machine
end

