-- ==== Sys2Proof/Machine/Hash.lean ====
section
/-! DEFINITION. The checksums that the spec names by their standards: CRC-32 of IEEE 802.3 with the parameters of
15_bringup.md (Table 15.4), and SHA-256, PRESUMED as FIPS 180-4 gives it (log 14). -/
namespace Sys2Proof.Machine

/-- One bit of the reflected CRC-32 of polynomial 0x04C1_1DB7. -/
def crcBit (c : W32) : W32 := if c.getLsbD 0 then (c >>> 1) ^^^ 0xEDB88320 else c >>> 1

/-- One byte of the CRC-32. -/
def crcByte (c : W32) (b : Byte) : W32 :=
  let x := c ^^^ b.setWidth 32
  crcBit (crcBit (crcBit (crcBit (crcBit (crcBit (crcBit (crcBit x)))))))

/-- The CRC-32 of a byte string: initial value 0xFFFF_FFFF, final inversion. -/
def crc32 (bs : List Byte) : W32 := ~~~(bs.foldl crcByte 0xFFFFFFFF)

/-- The first 32 bits of the fractional parts of the cube roots of the first 64 primes. -/
def shaK : List W32 :=
  [0x428a2f98, 0x71374491, 0xb5c0fbcf, 0xe9b5dba5, 0x3956c25b, 0x59f111f1, 0x923f82a4, 0xab1c5ed5,
   0xd807aa98, 0x12835b01, 0x243185be, 0x550c7dc3, 0x72be5d74, 0x80deb1fe, 0x9bdc06a7, 0xc19bf174] ++
  [0xe49b69c1, 0xefbe4786, 0x0fc19dc6, 0x240ca1cc, 0x2de92c6f, 0x4a7484aa, 0x5cb0a9dc, 0x76f988da,
   0x983e5152, 0xa831c66d, 0xb00327c8, 0xbf597fc7, 0xc6e00bf3, 0xd5a79147, 0x06ca6351, 0x14292967] ++
  [0x27b70a85, 0x2e1b2138, 0x4d2c6dfc, 0x53380d13, 0x650a7354, 0x766a0abb, 0x81c2c92e, 0x92722c85,
   0xa2bfe8a1, 0xa81a664b, 0xc24b8b70, 0xc76c51a3, 0xd192e819, 0xd6990624, 0xf40e3585, 0x106aa070] ++
  [0x19a4c116, 0x1e376c08, 0x2748774c, 0x34b0bcb5, 0x391c0cb3, 0x4ed8aa4a, 0x5b9cca4f, 0x682e6ff3,
   0x748f82ee, 0x78a5636f, 0x84c87814, 0x8cc70208, 0x90befffa, 0xa4506ceb, 0xbef9a3f7, 0xc67178f2]

/-- The eight working words of SHA-256. -/
structure ShaSt where
  a : W32
  b : W32
  c : W32
  d : W32
  e : W32
  f : W32
  g : W32
  h : W32

def ror (x : W32) (n : Nat) : W32 := (x >>> n) ||| (x <<< (32 - n))

/-- One round with constant `k` and schedule word `w`. -/
def shaRound (s : ShaSt) (k w : W32) : ShaSt :=
  let s1 := ror s.e 6 ^^^ ror s.e 11 ^^^ ror s.e 25
  let ch := (s.e &&& s.f) ^^^ (~~~s.e &&& s.g)
  let t1 := s.h + s1 + ch + k + w
  let s0 := ror s.a 2 ^^^ ror s.a 13 ^^^ ror s.a 22
  let maj := (s.a &&& s.b) ^^^ (s.a &&& s.c) ^^^ (s.b &&& s.c)
  ⟨t1 + (s0 + maj), s.a, s.b, s.c, s.d + t1, s.e, s.f, s.g⟩

/-- The rounds over the constants `ks`, the schedule held as its last 16 words, oldest first. -/
def shaRounds (s : ShaSt) (win : List W32) : List W32 → ShaSt
  | [] => s
  | k :: ks =>
    let w := win.headD 0
    let w1 := win.getD 1 0
    let w14 := win.getD 14 0
    let x := w + (ror w1 7 ^^^ ror w1 18 ^^^ (w1 >>> 3)) + win.getD 9 0 + (ror w14 17 ^^^ ror w14 19 ^^^ (w14 >>> 10))
    shaRounds (shaRound s k w) (win.tail ++ [x]) ks

/-- The 16 big-endian words of a block. -/
def shaWords (bs : List Byte) : Nat → List W32
  | 0 => []
  | n + 1 => (BitVec.ofNat 32 (leNat (slice bs 0 4).reverse)) :: shaWords (bs.drop 4) n

/-- The hash of one more block of 64 bytes. -/
def shaBlock (s : ShaSt) (bs : List Byte) : ShaSt :=
  let t := shaRounds s (shaWords bs 16) shaK
  ⟨s.a + t.a, s.b + t.b, s.c + t.c, s.d + t.d, s.e + t.e, s.f + t.f, s.g + t.g, s.h + t.h⟩

/-- The hash of `n` blocks. -/
def shaBlocks (s : ShaSt) (bs : List Byte) : Nat → ShaSt
  | 0 => s
  | n + 1 => shaBlocks (shaBlock s (bs.take 64)) (bs.drop 64) n

/-- SHA-256 of a byte string, as a big-endian number. -/
def sha256 (bs : List Byte) : BitVec 256 :=
  let n := bs.length
  let pad := (64 - (n + 9) % 64) % 64
  let m := bs ++ (0x80 : Byte) :: List.replicate pad 0 ++ beBytes (8 * n) 8
  let s := shaBlocks ⟨0x6a09e667, 0xbb67ae85, 0x3c6ef372, 0xa54ff53a, 0x510e527f, 0x9b05688c, 0x1f83d9ab, 0x5be0cd19⟩ m
    (m.length / 64)
  s.a ++ s.b ++ s.c ++ s.d ++ s.e ++ s.f ++ s.g ++ s.h

end Sys2Proof.Machine
end

