-- ==== Sys2Proof/Machine/Regs.lean ====
section
/-! DEFINITION. The register map of PF BAR0 (16_registers.md Table 16.5): the name of every register and where it lies, the
fields, access codes and reset values of the registers that host software writes, and how a write acts on them (R8, R9, R16,
R542, R549). What a register's write sets off beside its value is in Machine/RegWrite.lean; what a register that the device
itself keeps reads as is in Machine/Views.lean. -/
namespace Sys2Proof.Machine

/-- The registers of Table 16.5 by name. -/
inductive RegName where
  | glbId | glbLock | rstStat | optStat | clkStat
  | partStatus (n : Nat) | partUse (n : Nat) | partUse3 (n : Nat) | partTiles (n : Nat) | partCfg (n : Nat)
  | tileMap (n : Nat) | tileFree (h : Nat) | stallCyc (n : Nat) | stallCnt (n : Nat)
  | dredgeCtl | dredgeStat
  | portCtl (n : Nat) | portStat (n : Nat) | fabSelf | tcMap | cplTo | members | peerLost
  | route (n : Nat) | homeMap (n : Nat) | partTc (n : Nat) | replVer (n : Nat)
  | qpRange (n : Nat) | xptCtl | xptDscp | xptMac (n : Nat) | xptNh (n : Nat) | xptIp (n : Nat) | xptTow (p : Nat)
  | xptMiss (h : Nat) | xptCwait (h : Nat) | xptDrop (h : Nat) | xptRetx (h : Nat)
  | sluDefault (n : Nat) | sluDrop (n : Nat) | clsW (n : Nat) | tenW (f : Nat)
  | camCfg (h : Nat) | camStat (h : Nat)
  | ringBase (r : Nat) | ringCtl (r : Nat) | ringMod (r : Nat) | ringStat (r : Nat) | ringCnt (r : Nat) | ringErr (r : Nat)
  | vfReset | vfClear
  | lockTo | lkpRegion | lkpFailover | secSlot (n : Nat) | secKeyCmd | secKeyData
  | hltCtl | hltStat | spareCtl | podSpares | hltWeight | hltWindow | hltThresh (k : Nat) | hltDigest (j : Nat)
  | hltScore (i : Nat)
deriving DecidableEq, Repr

/-- The offset of a register (Table 16.5). -/
def regBase : RegName → Nat
  | .glbId => 0x0 | .glbLock => 0x8 | .rstStat => 0x1000 | .optStat => 0x2000 | .clkStat => 0x3000
  | .partStatus n => 0x4000 + 4 * n | .partUse n => 0x4100 + 8 * n | .partUse3 n => 0x4300 + 4 * n
  | .partTiles n => 0x4400 + 8 * n | .partCfg n => 0x4600 + 16 * n
  | .tileMap n => 0x6000 + 4 * n | .tileFree h => 0x6100 + 8 * h
  | .stallCyc n => 0x7000 + 16 * n | .stallCnt n => 0x7008 + 16 * n
  | .dredgeCtl => 0x8000 | .dredgeStat => 0x8008
  | .portCtl n => 0x9000 + 4 * n | .portStat n => 0x9040 + 8 * n
  | .fabSelf => 0x9100 | .tcMap => 0x9104 | .cplTo => 0x9108 | .members => 0x9110 | .peerLost => 0x9118
  | .route n => 0x9200 + 4 * n | .homeMap n => 0x9300 + 4 * n | .partTc n => 0x9400 + 4 * n
  | .replVer n => 0x9500 + 8 * n
  | .qpRange n => 0xB000 + 8 * n | .xptCtl => 0xB200 | .xptDscp => 0xB208 | .xptMac n => 0xB300 + 8 * n
  | .xptNh n => 0xB380 + 8 * n | .xptIp n => 0xB400 + 16 * n | .xptTow p => 0xB800 + 4 * p
  | .xptMiss h => 0xBC00 + 8 * h | .xptCwait h => 0xBC10 + 8 * h | .xptDrop h => 0xBC20 + 8 * h
  | .xptRetx h => 0xBC30 + 8 * h
  | .sluDefault n => 0xD000 + 4 * n | .sluDrop n => 0xD040 + 8 * n | .clsW n => 0xD100 + 8 * n
  | .tenW f => 0xD200 + 8 * f
  | .camCfg h => 0xE000 + 4 * h | .camStat h => 0xE010 + 8 * h
  | .ringBase r => 0x10000 + 64 * r | .ringCtl r => 0x10008 + 64 * r | .ringMod r => 0x10010 + 64 * r
  | .ringStat r => 0x10018 + 64 * r | .ringCnt r => 0x10020 + 64 * r | .ringErr r => 0x10028 + 64 * r
  | .vfReset => 0x18000 | .vfClear => 0x18008
  | .lockTo => 0x20000 | .lkpRegion => 0x20004 | .lkpFailover => 0x20008
  | .secSlot n => 0x21000 + 4 * n | .secKeyCmd => 0x21400 | .secKeyData => 0x21440
  | .hltCtl => 0x22000 | .hltStat => 0x22004 | .spareCtl => 0x22008 | .podSpares => 0x2200C | .hltWeight => 0x22010
  | .hltWindow => 0x22018 | .hltThresh k => 0x22020 + 4 * k | .hltDigest j => 0x22040 + 8 * j
  | .hltScore i => 0x22100 + 8 * i

/-- The width of a register in bytes; SEC_KEY_DATA is a window of 64 bytes (Table 16.5). -/
def regBytes : RegName → Nat
  | .glbLock | .clkStat | .partStatus _ | .partUse3 _ | .tileMap _ | .dredgeCtl | .portCtl _ | .fabSelf | .tcMap | .cplTo
  | .route _ | .homeMap _ | .partTc _ | .xptCtl | .xptTow _ | .sluDefault _ | .camCfg _ | .lockTo | .lkpRegion
  | .lkpFailover | .secSlot _ | .secKeyCmd | .hltCtl | .hltStat | .spareCtl | .podSpares | .hltThresh _ => 4
  | .partCfg _ | .xptIp _ => 16
  | .secKeyData => 64
  | _ => 8

/-- A run of registers in the map: the first offset, the distance, how many, and the register of each number. -/
structure RegRun where
  first : Nat
  dist  : Nat
  count : Nat
  name  : Nat → RegName

/-- The runs of Table 16.5, in the order of their offsets. -/
def regRuns : List RegRun :=
  [⟨0x0, 8, 1, fun _ => .glbId⟩, ⟨0x8, 4, 1, fun _ => .glbLock⟩, ⟨0x1000, 8, 1, fun _ => .rstStat⟩,
   ⟨0x2000, 8, 1, fun _ => .optStat⟩, ⟨0x3000, 4, 1, fun _ => .clkStat⟩, ⟨0x4000, 4, 64, .partStatus⟩,
   ⟨0x4100, 8, 64, .partUse⟩, ⟨0x4300, 4, 64, .partUse3⟩, ⟨0x4400, 8, 64, .partTiles⟩, ⟨0x4600, 16, 64, .partCfg⟩,
   ⟨0x6000, 4, 64, .tileMap⟩, ⟨0x6100, 8, 2, .tileFree⟩, ⟨0x7000, 16, 64, .stallCyc⟩, ⟨0x7008, 16, 64, .stallCnt⟩,
   ⟨0x8000, 4, 1, fun _ => .dredgeCtl⟩, ⟨0x8008, 8, 1, fun _ => .dredgeStat⟩] ++
  [⟨0x9000, 4, 16, .portCtl⟩, ⟨0x9040, 8, 16, .portStat⟩, ⟨0x9100, 4, 1, fun _ => .fabSelf⟩,
   ⟨0x9104, 4, 1, fun _ => .tcMap⟩, ⟨0x9108, 4, 1, fun _ => .cplTo⟩, ⟨0x9110, 8, 1, fun _ => .members⟩,
   ⟨0x9118, 8, 1, fun _ => .peerLost⟩, ⟨0x9200, 4, 64, .route⟩, ⟨0x9300, 4, 64, .homeMap⟩, ⟨0x9400, 4, 64, .partTc⟩,
   ⟨0x9500, 8, 16, .replVer⟩, ⟨0xB000, 8, 64, .qpRange⟩, ⟨0xB200, 4, 1, fun _ => .xptCtl⟩,
   ⟨0xB208, 8, 1, fun _ => .xptDscp⟩, ⟨0xB300, 8, 16, .xptMac⟩, ⟨0xB380, 8, 16, .xptNh⟩, ⟨0xB400, 16, 16, .xptIp⟩,
   ⟨0xB800, 4, 256, .xptTow⟩, ⟨0xBC00, 8, 2, .xptMiss⟩, ⟨0xBC10, 8, 2, .xptCwait⟩, ⟨0xBC20, 8, 2, .xptDrop⟩,
   ⟨0xBC30, 8, 2, .xptRetx⟩] ++
  [⟨0xD000, 4, 16, .sluDefault⟩, ⟨0xD040, 8, 16, .sluDrop⟩, ⟨0xD100, 8, 16, .clsW⟩, ⟨0xD200, 8, 65, .tenW⟩,
   ⟨0xE000, 4, 2, .camCfg⟩, ⟨0xE010, 8, 2, .camStat⟩, ⟨0x10000, 64, 511, .ringBase⟩, ⟨0x10008, 64, 511, .ringCtl⟩,
   ⟨0x10010, 64, 511, .ringMod⟩, ⟨0x10018, 64, 511, .ringStat⟩, ⟨0x10020, 64, 511, .ringCnt⟩, ⟨0x10028, 64, 511, .ringErr⟩,
   ⟨0x18000, 8, 1, fun _ => .vfReset⟩, ⟨0x18008, 8, 1, fun _ => .vfClear⟩, ⟨0x20000, 4, 1, fun _ => .lockTo⟩,
   ⟨0x20004, 4, 1, fun _ => .lkpRegion⟩, ⟨0x20008, 4, 1, fun _ => .lkpFailover⟩, ⟨0x21000, 4, 256, .secSlot⟩,
   ⟨0x21400, 4, 1, fun _ => .secKeyCmd⟩, ⟨0x21440, 64, 1, fun _ => .secKeyData⟩] ++
  [⟨0x22000, 4, 1, fun _ => .hltCtl⟩, ⟨0x22004, 4, 1, fun _ => .hltStat⟩, ⟨0x22008, 4, 1, fun _ => .spareCtl⟩,
   ⟨0x2200C, 4, 1, fun _ => .podSpares⟩, ⟨0x22010, 8, 1, fun _ => .hltWeight⟩, ⟨0x22018, 8, 1, fun _ => .hltWindow⟩,
   ⟨0x22020, 4, 5, .hltThresh⟩, ⟨0x22040, 8, 4, .hltDigest⟩, ⟨0x22100, 8, 181, .hltScore⟩]

/-- The register that a run places at an offset, with the byte within it. -/
def runAt (o : Nat) (r : RegRun) : Option (RegName × Nat) :=
  if o < r.first then none
  else
    let n := (o - r.first) / r.dist
    let b := (o - r.first) % r.dist
    if n < r.count ∧ b < regBytes (r.name n) then some (r.name n, b) else none

/-- The register at an offset of PF BAR0 and the byte within it; none is an unassigned offset (R541). -/
def regAt (o : Nat) : Option (RegName × Nat) := regRuns.findSome? (runAt o)

/-! ## Fields that host software writes -/

/-- The access codes of the fields that a write may change (Table 0.3); RWL names its lock bit of GLB_LOCK. -/
inductive Acc where
  | rw
  | rwl (lock : Nat)
deriving DecidableEq, Repr

/-- A writable field: its low bit, its width and its access code. -/
structure FieldDef where
  lo  : Nat
  w   : Nat
  acc : Acc
deriving DecidableEq, Repr

/-- The writable fields of the registers whose value host software sets and the device only uses. A register not named here
has none: the device keeps it, or its write is an operation. -/
def regFields : RegName → List FieldDef
  | .dredgeCtl => [⟨0, 1, .rw⟩, ⟨1, 1, .rw⟩, ⟨8, 8, .rw⟩, ⟨16, 8, .rw⟩]
  | .portCtl _ => [⟨0, 2, .rwl 2⟩, ⟨2, 1, .rw⟩, ⟨3, 3, .rw⟩]
  | .fabSelf => [⟨0, 6, .rwl 2⟩, ⟨6, 8, .rwl 2⟩]
  | .members => [⟨0, 64, .rwl 2⟩]
  | .route _ => [⟨0, 16, .rwl 2⟩, ⟨16, 1, .rwl 2⟩]
  | .homeMap _ => [⟨0, 6, .rwl 2⟩]
  | .tcMap => [⟨1, 7, .rwl 2⟩]
  | .cplTo => [⟨0, 24, .rw⟩]
  | .partTc _ => [⟨0, 3, .rw⟩, ⟨3, 3, .rw⟩]
  | .qpRange _ => [⟨0, 24, .rwl 1⟩, ⟨32, 25, .rwl 1⟩]
  | .xptCtl => [⟨0, 16, .rwl 2⟩, ⟨16, 8, .rw⟩]
  | .xptDscp => [⟨0, 48, .rw⟩]
  | .xptMac _ => [⟨0, 48, .rwl 2⟩, ⟨48, 12, .rwl 2⟩, ⟨60, 1, .rwl 2⟩]
  | .xptNh _ => [⟨0, 48, .rwl 2⟩]
  | .xptIp _ => [⟨0, 128, .rwl 2⟩]
  | .xptTow _ => [⟨0, 24, .rwl 2⟩, ⟨24, 6, .rwl 2⟩, ⟨30, 1, .rwl 2⟩]
  | .sluDefault _ => [⟨0, 1, .rw⟩, ⟨1, 10, .rw⟩, ⟨11, 1, .rw⟩, ⟨12, 6, .rw⟩]
  | .clsW _ => (List.range 7).map (fun t => ⟨8 * (t + 1), 8, .rw⟩)
  | .tenW _ => (List.range 8).map (fun t => ⟨8 * t, 8, .rw⟩)
  | .camCfg _ => [⟨0, 5, .rwl 2⟩, ⟨5, 2, .rwl 2⟩, ⟨7, 3, .rwl 2⟩]
  | .lockTo => [⟨0, 17, .rw⟩]
  | .hltCtl => [⟨0, 1, .rw⟩, ⟨1, 1, .rwl 4⟩, ⟨2, 1, .rwl 4⟩, ⟨3, 1, .rw⟩]
  | .spareCtl => [⟨0, 1, .rw⟩, ⟨1, 1, .rw⟩, ⟨2, 1, .rw⟩, ⟨3, 1, .rw⟩, ⟨4, 1, .rw⟩]
  | .podSpares => [⟨0, 8, .rw⟩]
  | .hltWeight => (List.range 7).map (fun t => ⟨8 * t, 8, .rw⟩)
  | .hltThresh _ => [⟨0, 32, .rw⟩]
  | _ => []

/-- The reset values of those registers (their own tables). -/
def regReset : RegName → Nat
  | .dredgeCtl => 1 + 2 + 32 * 2 ^ 8 + 100 * 2 ^ 16
  | .portCtl _ => 4 * 2 ^ 3
  | .tcMap => 0x1C * 2
  | .cplTo => 50
  | .partTc _ => 1 + 3 * 8
  | .xptCtl => 0xC5B3 + 64 * 2 ^ 16
  | .clsW _ => 0x0101010101010100
  | .tenW _ => 0x0101010101010101
  | .camCfg _ => 8 + 1 * 2 ^ 5 + 2 * 2 ^ 7
  | .lockTo => 2000
  | .hltCtl => 0xF
  | .hltWeight => 16 + 16 * 2 ^ 8 + 8 * 2 ^ 16 + 1 * 2 ^ 24 + 255 * 2 ^ 32 + 64 * 2 ^ 40 + 64 * 2 ^ 48
  | .hltThresh 0 => 4096
  | .hltThresh 1 => 4096
  | .hltThresh 2 => 65536
  | .hltThresh 3 => 16384
  | .hltThresh _ => 1048576
  | _ => 0

/-- Whether a field accepts a value (R9, R16 and the field's own description). -/
def fieldAccepts : RegName → Nat → Nat → Bool
  | .dredgeCtl, 8, v => decide (1 ≤ v) && decide (v ≤ 35)
  | .dredgeCtl, 16, v => decide (1 ≤ v) && decide (v ≤ 122)
  | .portCtl _, 0, v => v != 3
  | .portCtl _, 3, v => decide (v ≤ 4)
  | .cplTo, _, v => decide (1 ≤ v) && decide (v ≤ 10000)
  | .partTc _, _, v => v != 0
  | .xptCtl, 16, v => v != 0
  | .clsW _, _, v => v != 0
  | .tenW _, _, v => v != 0
  | .lockTo, _, v => decide (100 ≤ v) && decide (v ≤ 100000)
  | .hltThresh _, _, v => v != 0
  | _, _, _ => true

/-- The value of a register of the register file. -/
def cfgGet (d : Dev) (r : RegName) : BitVec 128 := tgetD d.regs (regBase r) (BitVec.ofNat 128 (regReset r))

/-- The device with a register of the register file set; a register at its reset value is not listed. -/
def cfgSet (d : Dev) (r : RegName) (v : BitVec 128) : Dev :=
  { d with regs :=
      if v = BitVec.ofNat 128 (regReset r) then tdel d.regs (regBase r) else tset d.regs (regBase r) v }

/-- A field of a register of the register file, as a number. -/
def cfgField (d : Dev) (r : RegName) (lo w : Nat) : Nat := bits (cfgGet d r).toNat lo w

/-- A mask of `w` ones from bit `lo`. -/
def maskOf (lo w : Nat) : BitVec 128 := BitVec.ofNat 128 ((2 ^ w - 1) * 2 ^ lo)

/-- Whether a lock bit of GLB_LOCK is set, by vote (R551, R553). -/
def locked (d : Dev) (b : Nat) : Bool := (voteBits d.locks).getLsbD b

/-- LOCK_OPT, LOCK_PART, LOCK_ROUTE, LOCK_KEYS and LOCK_DEBUG (Table 16.2). -/
def lockOpt (d : Dev) : Bool := locked d 0
def lockPart (d : Dev) : Bool := locked d 1
def lockRoute (d : Dev) : Bool := locked d 2
def lockKeys (d : Dev) : Bool := locked d 3
def lockDebug (d : Dev) : Bool := locked d 4

/-- A field's new value inside the register's value `old` when the bits of `mask` are written with `val` (R9, R549). -/
def fieldWrite (d : Dev) (r : RegName) (mask val : BitVec 128) (old : BitVec 128) (f : FieldDef) : BitVec 128 :=
  let fm := maskOf f.lo f.w
  let m := mask &&& fm
  if m = 0 then old
  else
    let barred := match f.acc with
      | .rw => false
      | .rwl b => locked d b
    let cand := (old &&& ~~~m) ||| (val &&& m)
    if !barred && fieldAccepts r f.lo (bits cand.toNat f.lo f.w) then cand else old

/-- A register's value after a write of `val` to the bits of `mask`, field by field. -/
def fieldsWritten (d : Dev) (r : RegName) (mask val : BitVec 128) : BitVec 128 :=
  (regFields r).foldl (fieldWrite d r mask val) (cfgGet d r)

/-! ## Settings read by the rest of the machine -/

def selfDev (d : Dev) : DevIx := ⟨cfgField d .fabSelf 0 6, Nat.mod_lt _ (by decide)⟩
def selfPod (d : Dev) : Nat := cfgField d .fabSelf 6 8
def fabMembers (d : Dev) : Nat := cfgField d .members 0 64
def isMember (d : Dev) (i : Nat) : Bool := (fabMembers d).testBit i
def lockTimeout (d : Dev) : Nat := cfgField d .lockTo 0 17
def cplTimeout (d : Dev) : Nat := cfgField d .cplTo 0 24
def weightOf (d : Dev) (i : Nat) : Nat := cfgField d .hltWeight (8 * i) 8
def sliceEn (d : Dev) : Bool := cfgField d .hltCtl 0 1 == 1
def lockstepEn (d : Dev) : Bool := cfgField d .hltCtl 1 1 == 1
def monEn (d : Dev) : Bool := cfgField d .hltCtl 2 1 == 1
def healthEn (d : Dev) : Bool := cfgField d .hltCtl 3 1 == 1
def tileAuto (d : Dev) : Bool := cfgField d .spareCtl 0 1 == 1
def tsAuto (d : Dev) : Bool := cfgField d .spareCtl 1 1 == 1
def camAuto (d : Dev) : Bool := cfgField d .spareCtl 2 1 == 1
def hbmAuto (d : Dev) : Bool := cfgField d .spareCtl 3 1 == 1
def lkpAuto (d : Dev) : Bool := cfgField d .spareCtl 4 1 == 1
def hbmEn (d : Dev) : Bool := cfgField d .dredgeCtl 0 1 == 1
def tsEn (d : Dev) : Bool := cfgField d .dredgeCtl 1 1 == 1

/-- PROMISE reads 1 exactly while every enable of R477 is set (R479). -/
def promise (d : Dev) : Bool := hbmEn d && tsEn d && sliceEn d && lockstepEn d && monEn d

end Sys2Proof.Machine
end

