-- ==== Sys2Proof/Machine/Rings.lean ====
section
/-! DEFINITION. Rings, doorbells, records and interrupts (13_host.md R456 to R468, R475): the set-up and the stop of a ring,
the counts that doorbells carry, the writing of completion and event records, interrupt moderation and MSI-X. -/
namespace Sys2Proof.Machine

/-! ## MSI-X and moderation -/

/-- The device with vector `vec` of function `f` fired (R466): one message, or its pending bit while the vector is masked or
the function may not write memory (R475). 0xFFF names no vector. -/
def fireVector (d : Dev) (f : Fn) (vec : Nat) : Dev :=
  let F := getFn d f
  if vec ≥ vecCount f then d
  else if F.unmasked.contains vec && hostOpen d f then send d (.msi f vec)
  else if F.pendVec.contains vec then d
  else setFn d f { F with pendVec := F.pendVec ++ [vec] }

/-- Whether a record fires its ring's vector: IRQ, the count of records since the last interrupt reaching MOD_COUNT, or no
moderation at all (R295, R467). -/
def firesNow (modCount modUsec : W16) (count : Nat) (irq : Bool) : Bool :=
  irq || (modCount != 0 && decide (modCount.toNat ≤ count)) || (modCount == 0 && modUsec == 0)

/-- The ring's moderation after one more record, and the interrupt it fires (R467). -/
def moderate (d : Dev) (f : Fn) (r : Nat) (irq : Bool) : Dev :=
  let R := getRing d f r
  let n := R.modPend + 1
  if firesNow R.modCount R.modUsec n irq then
    fireVector (setRing d f r { R with modPend := 0, modTimer := false }) f R.vector.toNat
  else setRing d f r { R with modPend := n, modTimer := R.modTimer || R.modUsec != 0 }

/-- The moderation timer of a ring expires (R467): it fires the vector when it was running. -/
def modTimerEnd (d : Dev) (f : Fn) (r : Nat) : Dev :=
  let R := getRing d f r
  if R.modTimer && R.enable then
    fireVector (setRing d f r { R with modPend := 0, modTimer := false }) f R.vector.toNat
  else d

/-- RING_MOD_TIMER (R467). -/
def execRingModTimer (fn : Fn) (ring : Nat) (s : State) : Host.Outcome State Fault Refusal :=
  answer s (modTimerEnd s.dev fn ring)

/-- MSIX_UNMASK (R466): the vector's mask bit clears, and a pending vector sends one message. -/
def execMsixUnmask (fn : Fn) (vec : Nat) (s : State) : Host.Outcome State Fault Refusal :=
  let d := s.dev
  let F := getFn d fn
  if vec ≥ vecCount fn || !fnExists d fn || F.unmasked.contains vec then answer s d
  else
    let d1 := setFn d fn { F with unmasked := F.unmasked ++ [vec], pendVec := F.pendVec.erase vec }
    answer s (if F.pendVec.contains vec then fireVector d1 fn vec else d1)

/-- BUS_MASTER_ENABLE (R475): setting it lets the pending messages of unmasked vectors go. -/
def execBusMasterEnable (fn : Fn) (on : Bool) (s : State) : Host.Outcome State Fault Refusal :=
  let d := s.dev
  if !fnExists d fn || (getFn d fn).inReset then answer s d
  else
    let F := getFn d fn
    if !on then answer s (setFn d fn { F with busMaster := false })
    else
      let go := F.pendVec.filter (fun v => F.unmasked.contains v)
      let d1 := setFn d fn { F with busMaster := true, pendVec := F.pendVec.filter (fun v => !F.unmasked.contains v) }
      answer s (go.foldl (fun d v => fireVector d fn v) d1)

/-! ## Ring set-up and stop -/

/-- Whether a completion ring of the function is set up and enabled. -/
def cplActive (d : Dev) (f : Fn) (r : Nat) : Bool :=
  let C := getRing d f r
  decide (r < ringCount f) && C.enable && kindCompletion C.kind

/-- The status that the set-up of ring `r` answers, checked in the order of R457. -/
def setupStatus (d : Dev) (f : Fn) (r : Nat) (R : RingSt) : Status :=
  let k := R.kind
  let otherEvent := (getFn d f).rings.any (fun e => e.1 != r && e.2.enable && kindEvent e.2.kind)
  if decide (6 ≤ k.toNat) || (kindEvent k && otherEvent) then .badDescriptor
  else if R.log2 = 0 then .badLength
  else if decide (R.log2.toNat < 6) || decide (16 < R.log2.toNat) || bits R.base.toNat 0 12 != 0 ||
      (kindSubmission k && !cplActive d f R.cplRing.toNat) ||
      (!kindSubmission k && R.vector != 0xFFF && decide (vecCount f ≤ R.vector.toNat)) then .badDescriptor
  else .ok

/-- The device with ring `r` set up, or with the status of its rejection in SETUP_ERR (R457). -/
def ringSetup (d : Dev) (f : Fn) (r : Nat) (R : RingSt) : Dev :=
  match setupStatus d f r R with
  | .ok => setRing d f r { R with
      enable := true, setupErr := 0, fetched := 0, held := 0, done := 0, modPend := 0, modTimer := false, stalls := [],
      fails := [] }
  | st => setRing d f r { R with enable := false, setupErr := statusCode st }

/-- Whether a write of ENABLE 0 to a completion ring is ignored (R458): an active submission ring names it, a descriptor whose
completion it receives is in flight, records wait for it, or a request's final completion is still to come to it. -/
def cplBusy (d : Dev) (f : Fn) (r : Nat) : Bool :=
  let F := getFn d f
  F.rings.any (fun e => kindSubmission e.2.kind && e.2.cplRing.toNat == r && (e.2.enable || !e.2.flight.isEmpty)) ||
    !(getRing d f r).waiting.isEmpty || d.requests.any (fun e => e.2.fn == f && (getRing d f e.2.ring).cplRing.toNat == r)

/-- The device with ring `r` stopped (R458). -/
def ringStop (d : Dev) (f : Fn) (r : Nat) : Dev :=
  let R := getRing d f r
  if kindCompletion R.kind && cplBusy d f r then d else setRing d f r { R with enable := false }

/-- A write of `val` to the bits `mask` of PCI_RING_CTL_r (Table 13.4): KIND, LOG2, CPL_RING and VECTOR keep their value while
ENABLE is 1; a change of ENABLE sets the ring up or stops it. -/
def ringCtlWrite (d : Dev) (f : Fn) (r : Nat) (mask val : W64) : Dev :=
  let R := getRing d f r
  let pick {w : Nat} (old : BitVec w) (lo : Nat) : BitVec w :=
    let m := BitVec.extractLsb' lo w mask
    (old &&& ~~~m) ||| (BitVec.extractLsb' lo w val &&& m)
  let en := if mask.getLsbD 0 then val.getLsbD 0 else R.enable
  if r ≥ ringCount f then d
  else if R.enable then (if en then d else ringStop d f r)
  else
    let R' := { R with
      kind := pick R.kind 1, log2 := pick R.log2 4, cplRing := pick R.cplRing 10, vector := pick R.vector 32 }
    if en then ringSetup d f r R' else setRing d f r R'

/-- A write to PCI_RING_BASE_r, ignored while ENABLE is 1 (Table 13.4). -/
def ringBaseWrite (d : Dev) (f : Fn) (r : Nat) (mask val : W64) : Dev :=
  let R := getRing d f r
  if R.enable || r ≥ ringCount f then d else setRing d f r { R with base := (R.base &&& ~~~mask) ||| (val &&& mask) }

/-- A write to PCI_RING_MOD_r (Table 13.4). -/
def ringModWrite (d : Dev) (f : Fn) (r : Nat) (mask val : W64) : Dev :=
  let R := getRing d f r
  if r ≥ ringCount f then d
  else
    let new := ((R.modUsec ++ R.modCount : BitVec 32).setWidth 64 &&& ~~~mask) ||| (val &&& mask)
    setRing d f r { R with modCount := new.extractLsb' 0 16, modUsec := new.extractLsb' 16 16 }

/-- Whether a function answers accesses to its BAR now: it exists, is not in reset (Table 13.11) and the endpoint is ready. -/
def barOpen (d : Dev) (f : Fn) : Bool := fnExists d f && !(getFn d f).inReset && d.boot.endpoint

/-- RING_ENABLE (R457): `ctl` is the value written to PCI_RING_CTL_r. -/
def execRingEnable (fn : Fn) (ring : Nat) (ctl : W64) (s : State) : Host.Outcome State Fault Refusal :=
  answer s (if barOpen s.dev fn then ringCtlWrite s.dev fn ring (BitVec.allOnes 64) (ctl ||| 1) else s.dev)

/-- RING_DISABLE (R458). -/
def execRingDisable (fn : Fn) (ring : Nat) (s : State) : Host.Outcome State Fault Refusal :=
  answer s (if barOpen s.dev fn then ringCtlWrite s.dev fn ring 1 0 else s.dev)

/-! ## Doorbells (R459) -/

/-- A doorbell counted in DB_BAD, which saturates. -/
def countBad (d : Dev) (f : Fn) (r : Nat) : Dev :=
  let R := getRing d f r
  setRing d f r { R with dbBad := if R.dbBad = 0xFFFF then 0xFFFF else R.dbBad + 1 }

/-- A doorbell write of `value` to ring `r` of function `f`: PRODUCED on a submission ring, CONSUMED on a completion or event
ring; every difference is taken modulo 2^32. -/
def doorbell (d : Dev) (f : Fn) (r : Nat) (value : W64) : Dev :=
  let R := getRing d f r
  let new : W32 := value.setWidth 32
  if !barOpen d f || r ≥ ringCount f || !R.enable then d
  else if value.extractLsb' 32 32 != 0 then countBad d f r
  else if kindSubmission R.kind then
    if ringEntries R < (new - R.fetched).toNat then countBad d f r
    else if (new - R.fetched).toNat < (R.held - R.fetched).toNat then d
    else setRing d f r { R with held := new }
  else
    if ringEntries R < (R.fetched - new).toNat then countBad d f r
    else if (R.fetched - R.held).toNat < (R.fetched - new).toNat then d
    else setRing d f r { R with held := new }

/-- PRODUCED_DOORBELL (R459): the host has written the cells `wrote` of its memory, then rings. -/
def execProducedDoorbell (fn : Fn) (ring : Nat) (value : W64) (wrote : List (Nat × Byte)) (s : State) :
    Host.Outcome State Fault Refusal :=
  let d := { s.dev with
    host := wrote.foldl (fun m c => memPut m c.1 c.2) s.dev.host
    hostBad := s.dev.hostBad.filter (fun l => !wrote.any (fun c => c.1 / 64 * 64 == l)) }
  answer s (doorbell d fn ring value)

/-- CONSUMED_DOORBELL (R459). -/
def execConsumedDoorbell (fn : Fn) (ring : Nat) (value : W64) (s : State) : Host.Outcome State Fault Refusal :=
  answer s (doorbell s.dev fn ring value)

/-! ## Records -/

/-- PHASE of record `n` of a ring: 1 on the first pass, inverted on each wrap (R463). -/
def phaseOf (R : RingSt) (n : W32) : Bool := n.toNat / ringEntries R % 2 == 0

/-- Whether a completion or event ring has room for one more record (R464). -/
def hasRoom (R : RingSt) : Bool := decide ((R.fetched - R.held).toNat < ringEntries R)

/-- The host address of record `n` of a ring of 32-byte records. -/
def recordAddr (R : RingSt) (n : W32) : Nat := R.base.toNat + 32 * (n.toNat % ringEntries R)

/-- The 32 bytes of a completion record (Table 13.9). -/
def cplBytes (d : Dev) (R : RingSt) (c : CplRec) : List Byte :=
  leBytes c.tag.toNat 4 ++ leBytes (statusCode c.status).toNat 2 ++
    leBytes (c.ring % 512 + 2 ^ 15 * b2n (phaseOf R R.fetched)) 2 ++ leBytes c.detail.toNat 8 ++
    leBytes d.tclk.toNat 8 ++ leBytes c.extra.toNat 8

/-- The oldest waiting record of a completion ring is written when the ring has room (R464): the record, its submission
ring's DONE, and the interrupt it may fire. -/
def writeRecord (d : Dev) (f : Fn) (r : Nat) : Dev :=
  let R := getRing d f r
  match R.waiting with
  | [] => d
  | c :: rest =>
    if R.enable && kindCompletion R.kind && hostOpen d f && hasRoom R then
      let d1 := { d with host := memWrite d.host (recordAddr R R.fetched) (cplBytes d R c) }
      let d2 := setRing d1 f r { R with fetched := R.fetched + 1, waiting := rest }
      let S := getRing d2 f c.ring
      let d3 := setRing d2 f c.ring { S with done := S.done + 1 }
      moderate d3 f r c.irq
    else d

/-- COMPLETION_RECORD_WRITE (R464). -/
def execCompletionRecordWrite (fn : Fn) (ring : Nat) (s : State) : Host.Outcome State Fault Refusal :=
  answer s (writeRecord s.dev fn ring)

/-- The active event ring of a function (R465). -/
def eventRing (d : Dev) (f : Fn) : Option (Nat × RingSt) :=
  (getFn d f).rings.find? (fun e => e.2.enable && kindEvent e.2.kind)

/-- The 32 bytes of an event record (Table 13.10). -/
def eventBytes (d : Dev) (R : RingSt) (e : EventRec) (lostBefore : Bool) : List Byte :=
  leBytes e.code.toNat 2 ++ leBytes (b2n lostBefore + 2 ^ 15 * b2n (phaseOf R R.fetched)) 2 ++ leBytes e.source.toNat 4 ++
    leBytes e.detail.toNat 8 ++ leBytes d.tclk.toNat 8 ++ leBytes e.extra.toNat 8

/-- An event lost (R465): counted in LOST, and the next record written carries LOST_BEFORE. -/
def loseEvent (d : Dev) (f : Fn) (rest : List EventRec) : Dev :=
  let F := getFn d f
  setFn d f { F with events := rest, evLost := if F.evLost = 0xFFFF then 0xFFFF else F.evLost + 1, evMark := true }

/-- The oldest event of a function is written to its event ring, or lost for want of room or of an active ring (R465). While
Bus Master Enable is 0 it waits (R475). -/
def postEvent (d : Dev) (f : Fn) : Dev :=
  let F := getFn d f
  match F.events with
  | [] => d
  | e :: rest =>
    match eventRing d f with
    | none => loseEvent d f rest
    | some (r, R) =>
      if !hostOpen d f then d
      else if !hasRoom R then loseEvent d f rest
      else
        let d1 := { d with host := memWrite d.host (recordAddr R R.fetched) (eventBytes d R e F.evMark) }
        let d2 := setFn d1 f { F with events := rest, evMark := false }
        let d3 := setRing d2 f r { R with fetched := R.fetched + 1 }
        moderate d3 f r false

/-- EVENT_POST (R465, R507). -/
def execEventPost (fn : Fn) (s : State) : Host.Outcome State Fault Refusal := answer s (postEvent s.dev fn)

end Sys2Proof.Machine
end

