-- ==== Sys2Proof/Machine/Bringup.lean ====
section
/-! DEFINITION. Device reset and the bring-up sequence (15_bringup.md R509 to R529, 17_package.md R566, R569): the reset events,
the steps of Table 15.1 each ended by its command, the choice of option copy and of firmware image. Durations are left out. -/
namespace Sys2Proof.Machine

/-! ## Device reset -/

/-- Whether TCLK runs: its PLL is locked, released and not fenced (R513). -/
def tclkRuns (d : Dev) : Bool :=
  d.boot.clkLocked.getLsbD 0 && d.boot.clkReleased.getLsbD 0 && !d.boot.clkFenced.getLsbD 0

/-- The device after a reset event that is not power-on (R511, Table 15.10): every setting at its reset value; the flash, the
world outside, the sensors' and rails' readings and THERM_TRIP_N as they were; TCLK and the time counters running on when
SYSREF stayed present, else cleared (R513). -/
def deviceReset (d : Dev) : Dev :=
  let keep := tclkRuns d
  { Dev.reset with
    tclk := if keep then d.tclk else 0
    flash := d.flash
    host := d.host
    hostBad := d.hostBad
    pins := { PinSt.reset with
      thermTrip := d.pins.thermTrip, sensors := d.pins.sensors, rails := d.pins.rails }
    boot := { BootSt.reset with
      por := false
      resets := d.boot.resets + 1
      supplies := d.boot.supplies
      clkLocked := if keep then 0x81 else 0
      clkReleased := if keep then 0x81 else 0 }
    out := d.out }

/-- A reset event: unseen while the device drives SYS_RST_N (R511). -/
def resetEvent (d : Dev) : Dev := if d.boot.phase == .held then d else deviceReset d

/-- POWER_ON_DETECT (R509, R513, R29): everything starts from reset, both time counters cleared, RESETS counting this reset
as the first (Table 15.8). The flash keeps its contents. -/
def execPowerOnDetect (s : State) : Host.Outcome State Fault Refusal :=
  let d := s.dev
  answer s { Dev.reset with
    flash := d.flash, host := d.host, hostBad := d.hostBad, out := d.out
    pins := { PinSt.reset with sensors := d.pins.sensors, rails := d.pins.rails }
    boot := { BootSt.reset with resets := 1 } }

/-- SYS_RST_N_LOW (R510, R511): a low level of 1 µs or longer. -/
def execSysRstNLow (s : State) : Host.Outcome State Fault Refusal := answer s (resetEvent s.dev)

/-- PWR_OK_LOW (R566, R512): a reset event at any time, and supplies are not good while it lasts. -/
def execPwrOkLow (s : State) : Host.Outcome State Fault Refusal :=
  let d := resetEvent s.dev
  answer s { d with boot := { d.boot with supplies := false } }

/-- SUPPLIES_GOOD (R512). -/
def execSuppliesGood (s : State) : Host.Outcome State Fault Refusal :=
  answer s { s.dev with boot := { s.dev.boot with supplies := true } }

/-- RESET_RELEASE (R511): the drive has ended, which it does only with supplies good, and the pin reads high. -/
def execResetRelease (s : State) : Host.Outcome State Fault Refusal :=
  let d := s.dev
  answer s (if d.boot.phase == .held && d.boot.supplies then { d with boot := { d.boot with phase := .refCheck } } else d)

/-- Whether the device is past the reset's release and not yet ready (R516). -/
def beforeReady (ph : Phase) : Bool :=
  match ph with
  | .optLoad | .clkRelease | .boot | .hbmTrain | .hbmClear | .region | .bootFailed => true
  | .held | .refCheck | .ready => false

/-- REFERENCE_CHECK (R514 step 1, R516, R563): the three verdicts. At step 1 a bad reference holds bring-up; when all are good
TCLK is locked and released, and SCLK runs from SYSREF. A reference that fails later, before device ready, is a reset
event. -/
def execReferenceCheck (sysref fref peRefclk : Bool) (s : State) : Host.Outcome State Fault Refusal :=
  let d := s.dev
  let bad : BitVec 3 := BitVec.ofNat 3 (b2n (!sysref) + 2 * b2n (!fref) + 4 * b2n (!peRefclk))
  if d.boot.phase == .refCheck then
    if bad == 0 then
      answer s { d with boot := { d.boot with
        refBad := 0, phase := .optLoad, clkLocked := d.boot.clkLocked ||| 0x81,
        clkReleased := d.boot.clkReleased ||| 0x81 } }
    else answer s { d with boot := { d.boot with refBad := bad } }
  else if beforeReady d.boot.phase && bad != 0 then answer s (resetEvent d)
  else answer s d

/-! ## The option load (R520 to R523) -/

/-- Whether an option copy is good (R521). -/
def optGood (bs : List Byte) : Bool :=
  leAt bs 252 4 == (crc32 (slice bs 0 252)).toNat && leAt bs 0 4 == 0x4C544F50 && leAt bs 4 2 == 1 && zeroAt bs 6 2 &&
    zeroAt bs 48 204 && bs.length == 256

/-- Whether two areas of the flash overlap. -/
def overlaps (a la b lb : Nat) : Bool := decide (a < b + lb) && decide (b < a + la)

/-- The option values of a good copy and the fields that took their default, as FIELD_DEF numbers them (R522). The flash has
at least 64 MiB (R520); an area past 64 MiB is not held out of range, for the flash may be larger. -/
def optParse (bs : List Byte) : OptVals × BitVec 8 :=
  let f := OptVals.factory
  let div := leAt bs 12 2
  let divBad := div % 2 == 1 || decide (div < 6) || decide (254 < div)
  let mode := leAt bs 14 1
  let pref := leAt bs 15 1
  let n := leAt bs 16 1
  let entryBad := decide (7 < n) || decide (1 < mode) || (n != 0 && mode == 0) || (n == 0 && mode == 1)
  let imgA := leAt bs 24 4
  let imgB := leAt bs 28 4
  let jrnl := leAt bs 36 4
  let size := leAt bs 40 4
  let sizeBad := decide (size < 2) || decide (1024 < size)
  let jlen := 2 * (if sizeBad then f.jrnlSize else size) * 65536
  let ab := overlaps imgA 0x400000 imgB 0x400000
  let aj := overlaps imgA 0x400000 jrnl jlen
  let bj := overlaps imgB 0x400000 jrnl jlen
  let aBad := imgA % 65536 != 0 || decide (imgA < 0x40000) || ab || aj
  let bBad := imgB % 65536 != 0 || decide (imgB < 0x40000) || ab || bj
  let jOver := decide (jrnl < 0x40000) || aj || bj
  let jBad := jrnl % 65536 != 0 || jOver
  let jsBad := sizeBad || jOver
  let pages := leAt bs 44 4
  let pagesBad := decide (pages < 2048) || decide (65536 < pages)
  let speed := leAt bs 34 1
  let speedBad := decide (6 < speed)
  let smb := leAt bs 35 1
  let smbBad := decide (smb < 8) || decide (0x77 < smb)
  let v : OptVals :=
    { xspiDiv := if divBad then f.xspiDiv else div
      xspiMode := if entryBad then f.xspiMode else mode == 1
      bootPref := pref == 1
      xspiEntry := if entryBad then [] else slice bs 17 n
      imgAAddr := if aBad then f.imgAAddr else imgA
      imgBAddr := if bBad then f.imgBAddr else imgB
      minFwVer := BitVec.ofNat 16 (leAt bs 32 2)
      pcieSpeed := if speedBad then f.pcieSpeed else speed
      smbAddr := if smbBad then f.smbAddr else smb
      jrnlAddr := if jBad then f.jrnlAddr else jrnl
      jrnlSize := if jsBad then f.jrnlSize else size
      regionPages := if pagesBad then f.regionPages else pages }
  let def8 := b2n divBad + 2 * b2n entryBad + 4 * b2n (aBad || bBad) + 8 * b2n jBad + 16 * b2n jsBad + 32 * b2n pagesBad +
    64 * b2n speedBad + 128 * b2n smbBad
  (v, BitVec.ofNat 8 def8)

/-- Whether copy B is the one in use (R521): the good one, or of two good ones that with the larger SEQ, A when equal. -/
def optUseB (a b : List Byte) : Bool :=
  optGood b && (!optGood a || decide (leAt a 8 4 < leAt b 8 4))

/-- OPTION_LOAD (R521 to R523): both copies are read and the option values take effect together. -/
def execOptionLoad (s : State) : Host.Outcome State Fault Refusal :=
  let d := s.dev
  if d.boot.phase != .optLoad then answer s d
  else
    let a := d.flash.optA
    let b := d.flash.optB
    let useB := optUseB a b
    let none := !optGood a && !optGood b
    let bs := if useB then b else a
    let (v, fd) := if none then (OptVals.factory, 0) else optParse bs
    answer s { d with boot := { d.boot with
      phase := .clkRelease, optLoaded := true, opts := v, fieldDef := fd, optDef := none || fd != 0, optCopyB := useB,
      aBad := !optGood a, bBad := !optGood b,
      optSeq := if none then 0 else BitVec.ofNat 32 (leAt bs 8 4) } }

/-! ## Clock release (R517) -/

/-- The bit of CLK_STAT of a domain, as UINDEX of Table 14.14 numbers it. -/
def domainBit : Domain → Nat
  | .tclk => 0 | .kclk => 1 | .cclk => 2 | .mclk => 3 | .fclk => 4 | .aclk => 5 | .hclk => 6 | .sclk => 7

/-- The byte with one bit set. -/
def bit8 (i : Nat) : BitVec 8 := BitVec.ofNat 8 (2 ^ i)

/-- PLL_LOCK (R517): the lock detector of a domain's PLL has seen 1,024 reference cycles within limits. PLLs run once the
clocks are being released. -/
def execPllLock (dom : Domain) (s : State) : Host.Outcome State Fault Refusal :=
  let d := s.dev
  if d.boot.phase == .held || d.boot.phase == .refCheck || d.boot.phase == .optLoad then answer s d
  else answer s { d with boot := { d.boot with clkLocked := d.boot.clkLocked ||| bit8 (domainBit dom) } }

/-- Whether a domain may be released now: its PLL is locked and every domain before it in the order of Table 15.1, step 4 is
released (R517). -/
def mayRelease (b : BootSt) (dom : Domain) : Bool :=
  b.clkLocked.getLsbD (domainBit dom) &&
    (List.range (domainBit dom)).all (fun i => i == 0 || b.clkReleased.getLsbD i)

/-- DOMAIN_RELEASE (R517): in step 4 the domain leaves reset; the release of HCLK ends the step. -/
def execDomainRelease (dom : Domain) (s : State) : Host.Outcome State Fault Refusal :=
  let d := s.dev
  if d.boot.phase != .clkRelease || !mayRelease d.boot dom then answer s d
  else
    let b := { d.boot with clkReleased := d.boot.clkReleased ||| bit8 (domainBit dom) }
    answer s { d with boot := if dom == .hclk then { b with phase := .boot } else b }

/-! ## Boot (R527 to R529) -/

/-- Whether an image passes (R527). -/
def imagePasses (v : OptVals) (img : Image) : Bool :=
  decide (img.length ≤ 0x400000) && decide (v.minFwVer.toNat ≤ img.version.toNat) && sha256 img.body == img.hash &&
    Config.imageSigOk (sha256 img.header) img.sig

/-- Whether the slot's content passes. -/
def slotPasses (v : OptVals) : Option Image → Bool
  | none => false
  | some img => imagePasses v img

/-- IMAGE_VERIFY (R527 to R529): the preferred image, then the other; the lock-keeper starts from the first that passes, and
when neither passes STAGE reads BOOT_FAILED. PUF_FAIL when both helper copies fail. -/
def execImageVerify (s : State) : Host.Outcome State Fault Refusal :=
  let d := s.dev
  if d.boot.phase != .boot then answer s d
  else
    let v := d.boot.opts
    let okA := slotPasses v d.flash.imgA
    let okB := slotPasses v d.flash.imgB
    let pref := v.bootPref
    let useB := if pref then okB else okB && !okA
    let triedA := !pref || !okB
    let triedB := pref || !okA
    let img := if useB then d.flash.imgB else d.flash.imgA
    let b := { d.boot with
      imgAFail := triedA && !okA, imgBFail := triedB && !okB, pufFail := !d.flash.pufA && !d.flash.pufB }
    if !okA && !okB then answer s { d with boot := { b with phase := .bootFailed } }
    else
      answer s { d with boot := { b with
        phase := .hbmTrain, imgUsed := useB, lkpStarted := true,
        fwFamily := (img.map (·.family)).getD 0, fwVersion := (img.map (·.version)).getD 0 } }

/-- ENDPOINT_READY (R474, R514 step 7): PCIe training, which starts at the release of HCLK, has ended. -/
def execEndpointReady (s : State) : Host.Outcome State Fault Refusal :=
  let d := s.dev
  answer s (if d.boot.clkReleased.getLsbD 6 then { d with boot := { d.boot with endpoint := true } } else d)

/-- HBM_TRAINING_DONE (R514 step 8): the stacks that failed training are marked in STACK_FAIL and fenced, and a fence sets
ALERT (R482). -/
def execHbmTrainingDone (failed : BitVec 12) (s : State) : Host.Outcome State Fault Refusal :=
  let d := s.dev
  if d.boot.phase != .hbmTrain then answer s d
  else
    let d1 := { d with
      boot := { d.boot with phase := .hbmClear, stackFail := failed }
      health := { d.health with stackFence := d.health.stackFence ||| failed } }
    answer s (if failed = 0 then d1 else assertAlert d1)

/-- HBM_CLEAR_DONE (R514 step 9): every HBM line, the tile store and the CAM are cleared; no line is uncorrectable for never
having been written. -/
def execHbmClearDone (s : State) : Host.Outcome State Fault Refusal :=
  let d := s.dev
  if d.boot.phase != .hbmClear then answer s d
  else answer s { d with hbm := [], hbmBad := [], ts := [], tsBad := [], boot := { d.boot with phase := .region } }

/-- THERM_TRIP (R569): the comparator drives THERM_TRIP_N low until VDD_AON is removed; nothing in the device stops. -/
def execThermTrip (s : State) : Host.Outcome State Fault Refusal :=
  answer s { s.dev with pins := { s.dev.pins with thermTrip := true } }

/-- An idle step: the local time counters advance by one TCLK while TCLK runs (R29, R513). -/
def idleTick (s : State) : State :=
  if tclkRuns s.dev then { s with dev := { s.dev with tclk := s.dev.tclk + 1 } } else s

/-- STAGE of RST_STAT (Table 15.8). -/
def stageCode : Phase → Nat
  | .held => 0 | .refCheck => 0 | .optLoad => 1 | .clkRelease => 2 | .boot => 3 | .hbmTrain => 4 | .hbmClear => 4
  | .region => 4 | .ready => 5 | .bootFailed => 6

end Sys2Proof.Machine
end

