-- ==== Sys2Proof/Machine/Flash.lean ====
section
/-! DEFINITION. The flash descriptors and the journal (15_bringup.md R524 to R535, Tables 15.6 and 15.7). -/
namespace Sys2Proof.Machine

/-- Whether the flash can be reached: SCLK runs and VDD_IO is not fenced (Tables 14.6, 15.2). -/
def flashOpen (d : Dev) : Bool := !d.boot.clkFenced.getLsbD 7 && !d.health.ioFence

/-- The checks of a flash descriptor that come before its own (R524, R6, R572): posted by the PF, reserved fields 0, the
addresses `addrs` 64-byte aligned. -/
def flashHead (d : Dev) (p : Post) (addrs : List Nat) : Bool :=
  poster d p == 0 && dZero p 8 8 && dZero p 17 3 && dZero p 28 4 && dZero p 48 16 && addrs.all (fun o => dNat p o 8 % 64 == 0)

/-- OPT_WRITE's rules (R525): the block is the argument read with the descriptor. -/
def optWrite (p : Post) (readBackOk : Bool) (d : Dev) : Res :=
  let len := dNat p 20 4
  if !flashHead d p [32] then .plain .badDescriptor d
  else if len != 0 && len != 256 then .plain .badLength d
  else if len == 0 then .plain .ok d
  else if lockOpt d || !optGood p.arg || decide (leAt p.arg 8 4 ≤ d.boot.optSeq.toNat) then .plain .badDescriptor d
  else
    let block := if readBackOk then p.arg else Config.badSector p.arg
    let flash := if d.boot.optCopyB then { d.flash with optA := block } else { d.flash with optB := block }
    .plain (if readBackOk then .ok else .internal) { d with flash := flash }

/-- OPT_WRITE (R525). -/
def execOptWrite (p : Post) (readBackOk : Bool) (s : State) : Host.Outcome State Fault Refusal :=
  answer s (if flashOpen s.dev then perform 0x04B2 p (optWrite p readBackOk) s.dev else s.dev)

/-- FW_WRITE's rules (R526): the slot is erased, the image programmed and verified; one that fails leaves the slot
erased. -/
def fwWrite (p : Post) (img : Image) (d : Dev) : Res :=
  let len := dNat p 20 4
  let slot := dNat p 16 1
  if !flashHead d p [32] || decide (1 < slot) then .plain .badDescriptor d
  else if decide (0x400000 < len) || len % 256 != 0 then .plain .badLength d
  else if len == 0 then .plain .ok d
  else if lockOpt d || (slot == 1) == d.boot.imgUsed then .plain .badDescriptor d
  else
    let good := imagePasses d.boot.opts { img with length := len }
    let v : Option Image := if good then some { img with length := len } else none
    let flash := if slot == 1 then { d.flash with imgB := v } else { d.flash with imgA := v }
    .plain (if good then .ok else .badDescriptor) { d with flash := flash }

/-- FW_WRITE (R526). -/
def execFwWrite (p : Post) (img : Image) (s : State) : Host.Outcome State Fault Refusal :=
  answer s (if flashOpen s.dev then perform 0x04B3 p (fwWrite p img) s.dev else s.dev)

/-- Bytes 0 to 207 of the attestation record (Table 15.7). -/
def attestBody (d : Dev) (nonce : List Byte) : List Byte :=
  let img := if d.boot.imgUsed then d.flash.imgB else d.flash.imgA
  let opt := if d.boot.optCopyB then d.flash.optB else d.flash.optA
  let defaulted := d.boot.aBad && d.boot.bBad
  leBytes 1 2 ++ leBytes 0x7E48 2 ++ leBytes 0xA0 1 ++ leBytes (b2n d.boot.imgUsed) 1 ++ leBytes d.boot.fwFamily.toNat 2 ++
    leBytes d.tclk.toNat 8 ++ beBytes Config.identityKey.toNat 64 ++
    beBytes (match img with | some i => (sha256 (i.header ++ i.body)).toNat | none => 0) 32 ++
    beBytes (if defaulted then 0 else (sha256 opt).toNat) 32 ++ beBytes d.health.digest.toNat 32 ++ slice nonce 0 32

/-- ATTEST's rules (R529, R530): the record of 272 bytes goes to DEST, signed by the identity key. -/
def attest (p : Post) (d : Dev) : Res :=
  if !flashHead d p [32, 40] then .plain .badDescriptor d
  else if d.boot.pufFail then .plain .internal d
  else
    let body := attestBody d p.arg
    let rec272 := body ++ beBytes (Config.identitySign (sha256 body)).toNat 64
    .plain .ok { d with host := memWrite d.host (dNat p 40 8) rec272 }

/-- ATTEST (R530). -/
def execAttest (p : Post) (s : State) : Host.Outcome State Fault Refusal :=
  answer s (perform 0x04B0 p (attest p) s.dev)

/-! ## The journal -/

/-- The size of a record: a header of 16 bytes and the payload padded to a multiple of 16 (R532). -/
def jrecSize (r : JRec) : Nat := 16 + 16 * ceilDiv r.payload.length 16

/-- The bytes of a record (R532). -/
def jrecBytes (r : JRec) : List Byte :=
  let head (crc : Nat) := leBytes r.seq.toNat 4 ++ leBytes r.kind 2 ++ leBytes r.payload.length 2 ++ leBytes crc 4 ++ leBytes 0 4
  let pad := List.replicate (16 * ceilDiv r.payload.length 16 - r.payload.length) (0 : Byte)
  head (crc32 (head 0 ++ r.payload)).toNat ++ r.payload ++ pad

/-- The committed records of the current region (R533). -/
def journal (d : Dev) : List JRec := if d.flash.jrnlOnB then d.flash.jrnlB else d.flash.jrnlA

/-- The bytes that records take. -/
def jSize (l : List JRec) : Nat := l.foldl (fun n r => n + jrecSize r) 0

/-- Records numbered on from `seq` (R532). -/
def jNumber (seq : W32) : List JEntry → List JRec
  | [] => []
  | e :: es => ⟨seq, e.kind, e.payload⟩ :: jNumber (seq + 1) es

/-- The sequence number that follows a journal; the first record of all has 1, DESIGN CHOICE (log 15). -/
def jNext (l : List JRec) : W32 :=
  match l.getLast? with
  | some r => r.seq + 1
  | none => 1

/-- The newest records of a list, newest last, that fit in `room` bytes. -/
def jNewest (room : Nat) : List JRec → List JRec
  | [] => []
  | r :: rs =>
    let rest := jNewest room rs
    if rest.length == rs.length && decide (jSize rest + jrecSize r ≤ room) then r :: rest else rest

/-- The last HEALTH record of each part (R534). -/
def jLastHealth : List JRec → List JRec
  | [] => []
  | r :: rs =>
    if rs.any (fun x => x.kind == 2 && Config.journalPart x.payload == Config.journalPart r.payload) then jLastHealth rs
    else r :: jLastHealth rs

/-- What compaction writes (R534): the live configuration, taken as every CONFIG record that stands (DESIGN CHOICE, log 12),
the last health record of each part and the newest error records that fit in half of the region. -/
def jCompact (cap : Nat) (l : List JRec) : List JEntry :=
  let keep := l.filter (fun r => r.kind == 1) ++ jLastHealth (l.filter (fun r => r.kind == 2)) ++
    jNewest (cap / 2) (l.filter (fun r => r.kind == 3))
  keep.map (fun r => ⟨r.kind, r.payload⟩)

/-- The bytes of a journal region. -/
def jCap (d : Dev) : Nat := d.boot.opts.jrnlSize * 65536

/-- The flash with the current region's records replaced. -/
def jSet (f : FlashSt) (l : List JRec) : FlashSt := if f.jrnlOnB then { f with jrnlB := l } else { f with jrnlA := l }

/-- A batch of records and its COMMIT record, programmed and read back (R533); at 75 % fill the other region is erased and
rewritten, ending in a COMPACTED commit, and becomes current (R534). A batch whose records are not CONFIG, HEALTH or ERROR,
or that are longer than R532 allows, is no batch. -/
def jCommit (d : Dev) (entries : List JEntry) : Dev :=
  if !d.boot.lkpStarted || !flashOpen d ||
      entries.any (fun e => decide (e.kind < 1) || decide (3 < e.kind) || decide (4080 < e.payload.length)) then d
  else
    let l := journal d
    let l1 := l ++ jNumber (jNext l) (entries ++ [⟨4, []⟩])
    let f1 := jSet d.flash l1
    if 4 * jSize l1 < 3 * jCap d then { d with flash := f1 }
    else
      let l2 := jNumber (jNext l1) (jCompact (jCap d) l1 ++ [⟨5, []⟩])
      { d with flash := jSet { f1 with jrnlOnB := !f1.jrnlOnB } l2 }

/-- JOURNAL_COMMIT (R533, R534). -/
def execJournalCommit (entries : List JEntry) (s : State) : Host.Outcome State Fault Refusal :=
  answer s (jCommit s.dev entries)

/-- The first records of a list that fit in `room` bytes. -/
def jFit (room : Nat) : List JRec → List JRec
  | [] => []
  | r :: rs => if jrecSize r ≤ room then r :: jFit (room - jrecSize r) rs else []

/-- JRNL_READ's rules (R535). -/
def jrnlRead (p : Post) (d : Dev) : Res :=
  let len := dNat p 20 4
  let start := dNat p 24 4
  if !flashHead d p [40] then .plain .badDescriptor d
  else if len == 0 then .plain .ok d
  else
    let l := jFit len ((journal d).filter (fun r => decide (start ≤ r.seq.toNat)))
    let next := match l.getLast? with | some r => (r.seq + 1).toNat | none => start
    .done .ok l.length next { d with host := memWrite d.host (dNat p 40 8) (l.flatMap jrecBytes) }

/-- JRNL_READ (R535). -/
def execJrnlRead (p : Post) (s : State) : Host.Outcome State Fault Refusal :=
  answer s (if flashOpen s.dev then perform 0x04B1 p (jrnlRead p) s.dev else s.dev)

end Sys2Proof.Machine
end

