-- ==== Sys2Proof/Machine/FetchArg.lean ====
section
/-! DEFINITION. The host memory that a descriptor names and that is read once with it (R122, R280, R285, R431, R174, R501, R525,
R530). -/
namespace Sys2Proof.Machine

/-- A field of a descriptor. -/
def fNat (desc : BitVec 512) (o n : Nat) : Nat := bits desc.toNat (8 * o) (8 * n)

/-- The address and the length of the block that a descriptor names: the argument block of a task, the parameter block of
REQUEST_SUBMIT, the templates of STEP_PROGRAM, a save map, an entry record, a pair list, a nonce, an option block. -/
def argBlock (desc : BitVec 512) : Nat × Nat :=
  let op := fNat desc 0 2
  if op / 256 = 1 then (fNat desc 32 8, 32 * fNat desc 40 2)
  else match op with
    | 0x0500 => (fNat desc 40 8, 64)
    | 0x0450 => (fNat desc 32 8, 96 * fNat desc 20 2)
    | 0x0403 => (fNat desc 32 8, 16 * min 4096 (fNat desc 24 4))
    | 0x0405 => (fNat desc 32 8, 16 * min 4096 (fNat desc 24 4))
    | 0x0490 => (fNat desc 32 8, 96)
    | 0x04A8 => (fNat desc 32 8, 2 * fNat desc 17 1)
    | 0x04B0 => (fNat desc 32 8, 32)
    | 0x04B2 => (fNat desc 32 8, 256)
    | _ => (0, 0)

/-- The address and the length of a task's row map, when it has one. -/
def rowBlock (desc : BitVec 512) : Nat × Nat :=
  let a := fNat desc 48 8
  if fNat desc 0 2 / 256 = 1 ∧ fNat desc 0 2 ≠ 0x010C ∧ a ≠ 0 then (a, 8 * min 16777216 (fNat desc 20 4)) else (0, 0)

/-- The 8-byte words of a byte string. -/
def words64 (bs : List Byte) : List W64 := (List.range (bs.length / 8)).map (fun i => BitVec.ofNat 64 (leAt bs (8 * i) 8))

/-- A descriptor with what it names in host memory, as the device reads it now. -/
def fetchPost (d : Dev) (src : Src) (desc : BitVec 512) : Post :=
  let a := argBlock desc
  let r := rowBlock desc
  { src := src, desc := desc, arg := memRead d.host a.1 a.2, rows := words64 (memRead d.host r.1 r.2), staged := [] }

end Sys2Proof.Machine
end

