-- ==== Sys2Proof/Machine/Heap.lean ====
section
/-! DEFINITION. Pages of local HBM and the heap of a partition (09_memory.md R314 to R318, 05_partitions.md Table 5.1): which
device pages are free, where a heap object is placed, what a partition is charged. -/
namespace Sys2Proof.Machine

/-- A 2 MiB page. -/
def pageSize : Nat := 2 ^ 21

/-- The stack of a device offset, 0 to 5 in W and 6 to 11 in E: units of 4 KiB rotate across the six stacks of a half (R30). -/
def stackOf (o : Nat) : Nat := o / 0x4800000000 * 6 + o % 0x4800000000 / 4096 % 6

/-- The device offset of an address within a stack (R30). -/
def stackOffset (k x : Nat) : Nat := k / 6 * 0x4800000000 + x / 4096 * 24576 + k % 6 * 4096 + x % 4096

/-- The T1 pages of the device, 288 GiB in each half (Table 1.5). -/
def halfPages : Nat := 147456
def devicePages : Nat := 294912

/-- Partition `n`. -/
def getPart (d : Dev) (n : Nat) : PartSt := tgetD d.parts n PartSt.reset

/-- The device with partition `n` set. -/
def setPart (d : Dev) (n : Nat) (x : PartSt) : Dev := { d with parts := tset d.parts n x }

/-- Whether function `f` may name partition `n`, which is not FREE: its owner may, and the PF may name any object (R454; log 33). -/
def mayName (d : Dev) (f : Fn) (n : Nat) : Bool :=
  let x := getPart d n
  decide (n < 64) && x.state != .free && (f.val == 0 || x.owner == f)

/-- The voted tile mask, role, quotas and basis range of a partition (R553, Table 16.3). -/
def tilesOf (x : PartSt) : Nat := (voteBits x.tiles).toNat
def roleOf (x : PartSt) : Nat := (voteBits x.role).toNat
def t1QuotaOf (x : PartSt) : Nat := (voteBits x.t1Quota).toNat
def t2QuotaOf (x : PartSt) : Nat := (voteBits x.t2Quota).toNat
def t3QuotaOf (x : PartSt) : Nat := (voteBits x.t3Quota).toNat
def basisBaseOf (x : PartSt) : Nat := (voteBits x.basisBase).toNat
def basisCountOf (x : PartSt) : Nat := (voteBits x.basisCount).toNat

/-- The tiles a partition names, and how many. -/
def tileList (x : PartSt) : List Nat := maskList 64 (tilesOf x)
def tileCount (x : PartSt) : Nat := (tileList x).length

/-- The pages of the lock-keeper's region in each half (R314). -/
def regionW (d : Dev) : Nat := ceilDiv d.boot.opts.regionPages 2
def regionE (d : Dev) : Nat := d.boot.opts.regionPages / 2

/-- The runs of device pages that are not free, as first page and length: the region, mapped pages, heap pages, pages
released by a function reset and not yet cleared (R471), and replicated regions (R368). -/
def takenRuns (d : Dev) : List (Nat × Nat) :=
  [(halfPages - regionW d, regionW d), (devicePages - regionE d, regionE d)] ++
    d.parts.flatMap (fun e => e.2.maps.map (fun m => (m.2.page, 1)) ++ e.2.heap.map (fun h => (h.page, h.run))) ++
    d.clearPages.map (fun e => (e.1, 1)) ++ d.repl.map (fun e => (e.2.offset / pageSize, e.2.count))

/-- Whether the run of `n` pages from `pg` meets none of `runs`. -/
def runClear (runs : List (Nat × Nat)) (pg n : Nat) : Bool :=
  runs.all (fun r => decide (pg + n ≤ r.1) || decide (r.1 + r.2 ≤ pg) || r.2 == 0)

/-- The lowest run of `n` free pages within `[lo, hi)`. -/
def freeRun (d : Dev) (n lo hi : Nat) : Option Nat :=
  let runs := takenRuns d
  let starts := lo :: runs.map (fun r => r.1 + r.2)
  let good := starts.filter (fun s => decide (lo ≤ s) && decide (s + n ≤ hi) && runClear runs s n)
  good.foldl (fun best s => match best with | none => some s | some b => some (min b s)) none

/-- Whether page `pg` is a free page outside the region. -/
def pageFree (d : Dev) (pg : Nat) : Bool := decide (pg < devicePages) && runClear (takenRuns d) pg 1

/-- The T1 charge of a partition (R315). -/
def t1Charge (x : PartSt) : Nat := x.maps.length + x.heap.foldl (fun n h => n + h.run) 0

/-- The T3 charge of a partition: granted pages and the whole pages that hold its moored objects (R318). -/
def t3Charge (x : PartSt) : Nat := x.grants3.length

/-- Whether a partition holds most of its tiles in E; W is preferred when they are as many (R316). -/
def prefersE (x : PartSt) : Bool :=
  decide (popcount 64 (tilesOf x % 2 ^ 32) < popcount 64 (tilesOf x / 2 ^ 32))

/-- A free run of `n` pages in the half a partition prefers, else in the other (R316). -/
def placeRun (d : Dev) (x : PartSt) (n : Nat) : Option Nat :=
  let w := freeRun d n 0 halfPages
  let e := freeRun d n halfPages devicePages
  if prefersE x then (match e with | some p => some p | none => w) else (match w with | some p => some p | none => e)

/-- The lowest offset of a heap page at which an object of `size` bytes fits beside those there; first fit, DESIGN CHOICE
(log 16). -/
def gapIn (h : HeapPage) (size : Nat) : Option Nat :=
  let starts := 0 :: h.objs.map (fun o => o.off + o.size)
  let ok := starts.filter (fun s => decide (s + size ≤ pageSize) &&
    h.objs.all (fun o => decide (s + size ≤ o.off) || decide (o.off + o.size ≤ s)))
  ok.foldl (fun best s => match best with | none => some s | some b => some (min b s)) none

/-- The first heap page of the kind with room, and the offset there. -/
def findGap (kind : HeapKind) (size : Nat) : List HeapPage → Option (Nat × Nat)
  | [] => none
  | h :: hs =>
    if h.kind = kind ∧ h.run = 1 then
      match gapIn h size with
      | some o => some (h.page, o)
      | none => findGap kind size hs
    else findGap kind size hs

/-- What an allocation answers: the device with the objects placed and the device offset of the last, or the pages it lacks: the
excess over the quota, or the run's length when no run is free (R317). -/
inductive Alloc where
  | ok (d : Dev) (addr : Nat)
  | lacks (pages : Nat)

/-- The place of one object, whatever the quota: none when no run is free (R316). -/
def heapPlace (d : Dev) (n : Nat) (kind : HeapKind) (id size : Nat) : Option (Dev × Nat) :=
  let x := getPart d n
  let k := if size ≤ pageSize then 1 else ceilDiv size pageSize
  match if size ≤ pageSize then findGap kind size x.heap else none with
  | some (pg, o) =>
    let heap := x.heap.map (fun h => if h.page = pg then { h with objs := h.objs ++ [⟨id, o, size⟩] } else h)
    some (setPart d n { x with heap := heap }, pg * pageSize + o)
  | none =>
    (placeRun d x k).map (fun pg =>
      (setPart d n { x with heap := x.heap ++ [⟨pg, k, kind, [⟨id, 0, size⟩]⟩] }, pg * pageSize))

/-- The places of several objects, given as kind, number and size. -/
def heapPlaces (n : Nat) : List (HeapKind × Nat × Nat) → Dev → Nat → Alloc
  | [], d, a => .ok d a
  | (kind, id, size) :: l, d, _ =>
    match heapPlace d n kind id size with
    | none => .lacks (ceilDiv size pageSize)
    | some (d1, a) => heapPlaces n l d1 a

/-- `n` pages from device page `pg` cleared to zero; the whole-line writes clear their errors (R333). -/
def clearRun (d : Dev) (pg n : Nat) : Dev :=
  { d with
    hbm := memZeroRange d.hbm (pg * pageSize) (n * pageSize)
    hbmBad := d.hbmBad.filter (fun l => !(decide (pg * pageSize ≤ l) && decide (l < (pg + n) * pageSize))) }

/-- Releases the object `id` of a partition's heap, or of what it has in host memory; a page whose last object goes is cleared and
leaves the charge (R316). -/
def heapFree (d : Dev) (n id : Nat) : Dev :=
  let x := getPart d n
  let cut (l : List HeapPage) : List HeapPage := l.map (fun h => { h with objs := h.objs.filter (fun o => o.id != id) })
  let heap := cut x.heap
  let gone := heap.filter (fun h => h.objs.isEmpty)
  setPart (gone.foldl (fun d h => clearRun d h.page h.run) d) n { x with
    heap := heap.filter (fun h => !h.objs.isEmpty), spill := (cut x.spill).filter (fun h => !h.objs.isEmpty) }

/-- The device offset of heap object `id` of a partition. -/
def heapAddr (x : PartSt) (id : Nat) : Option Nat :=
  x.heap.findSome? (fun h => (h.objs.find? (fun o => o.id == id)).map (fun o => h.page * pageSize + o.off))

/-- A fresh object number. -/
def freshObj (d : Dev) : Nat × Dev := (d.objNo, { d with objNo := d.objNo + 1 })

/-! ## Objects in host memory (R303, R318, R321) -/

/-- The host pages that moved objects take, as first page and length. -/
def spillRuns (d : Dev) : List (Nat × Nat) := d.parts.flatMap (fun e => e.2.spill.map (fun h => (h.page, h.run)))

/-- The lowest run of `n` pages of the available intervals that no moved object takes. -/
def hostRun (d : Dev) (avail : List (Nat × Nat)) (n : Nat) : Option Nat :=
  let runs := spillRuns d
  let inside (pg : Nat) : Bool := avail.any (fun a => decide (a.1 ≤ pg) && decide (pg < a.1 + a.2))
  let good := (avail.map (·.1) ++ runs.map (fun r => r.1 + r.2)).filter
    (fun s => (List.range n).all (fun i => inside (s + i)) && runClear runs s n)
  good.foldl (fun best s => match best with | none => some s | some b => some (min b s)) none

/-- An object placed in host memory as it would be in T1: its host address. -/
def spillPlace (avail : List (Nat × Nat)) (d : Dev) (n : Nat) (kind : HeapKind) (id size : Nat) : Option (Dev × Nat) :=
  let x := getPart d n
  let k := if size ≤ pageSize then 1 else ceilDiv size pageSize
  match if size ≤ pageSize then findGap kind size (x.spill.filter (fun h => avail.any (fun a => decide (a.1 ≤ h.page) && decide (h.page < a.1 + a.2)))) else none with
  | some (pg, o) =>
    let sp := x.spill.map (fun h => if h.page = pg then { h with objs := h.objs ++ [⟨id, o, size⟩] } else h)
    some (setPart d n { x with spill := sp }, pg * pageSize + o)
  | none =>
    (hostRun d avail k).map (fun pg =>
      (setPart d n { x with spill := x.spill ++ [⟨pg, k, kind, [⟨id, 0, size⟩]⟩] }, pg * pageSize))

/-- The kind and the size of an object in a list of pages. -/
def objIn (l : List HeapPage) (id : Nat) : Option (HeapKind × Nat) :=
  l.findSome? (fun h => (h.objs.find? (fun o => o.id == id)).map (fun o => (h.kind, o.size)))

/-- A copy of a heap object of a partition in host memory, under a new number. -/
def copyOut (avail : List (Nat × Nat)) (n : Nat) (d : Dev) (id : Nat) : Option (Dev × Nat) :=
  let x := getPart d n
  match objIn x.heap id, heapAddr x id with
  | some (kind, size), some a =>
    let (nid, d1) := freshObj d
    (spillPlace avail d1 n kind nid size).map (fun r => ({ r.1 with host := memWrite r.1.host r.2 (memRead d.hbm a size) }, nid))
  | _, _ => none

/-- Copies of several objects, all or none: the pairs of old and new number. -/
def copiesOut (avail : List (Nat × Nat)) (n : Nat) : List Nat → Dev → Option (Dev × List (Nat × Nat))
  | [], d => some (d, [])
  | id :: l, d =>
    match copyOut avail n d id with
    | none => none
    | some (d1, nid) => (copiesOut avail n l d1).map (fun r => (r.1, (id, nid) :: r.2))

/-- The number that has taken an object's place. -/
def renamed (m : List (Nat × Nat)) (id : Nat) : Nat := ((m.find? (fun e => e.1 == id)).map (·.2)).getD id

/-- The frames, digests and basin of a table that lie in T1 of this device. -/
def tableObjs (t : TableSt) : List Nat :=
  t.basin :: t.entries.flatMap (fun e => (if !e.2.dropped && e.2.dev == t.dev && e.2.part == t.hold then [e.2.frame] else []) ++ e.2.dig.toList)

/-- Whether another table or an older root still needs an object. -/
def objShared (d : Dev) (k id : Nat) : Bool :=
  d.tables.any (fun e => (e.1 != k && e.2.live && (tableObjs e.2).contains id) || e.2.retired.any (fun r => r.obj == id))

/-- A table's frames, digests and basin moved to host memory (R303): copies are made, then the old objects retire, or go at once
when nothing walks the table. None when the pages cannot take them. -/
def tableToHost (avail : List (Nat × Nat)) (d : Dev) (k : Nat) (t : TableSt) : Option Dev :=
  let objs := tableObjs t
  (copiesOut avail t.hold objs d).map (fun r =>
    let ren := renamed r.2
    let old := objs.filter (fun o => !objShared d k o)
    let ret := if t.buckets.isEmpty then [] else old.map (fun o => (⟨t.epoch + 1, t.hold, o, false⟩ : RetObj))
    let d1 := if t.buckets.isEmpty then old.foldl (fun d o => heapFree d t.hold o) r.1 else r.1
    { d1 with tables := tset d1.tables k { t with
        epoch := t.epoch + 1, atHost := true, basin := ren t.basin, retired := t.retired ++ ret
        entries := t.entries.map (fun e => (e.1, { e.2 with frame := ren e.2.frame, dig := e.2.dig.map ren })) } })

/-- The next victim of pool mode (R321): the MOORED barge of this device moored earliest whose table holds T1 frames; the barge's
key, its table's key and the table. -/
def poolVictim (d : Dev) : Option (Nat × Nat × TableSt) :=
  let cands := d.barges.filterMap (fun b =>
    if b.2.state = .moored then
      (d.tables.find? (fun e => e.2.live && !e.2.atHost && e.2.request == b.2.hdr.request && e.2.request != 0 &&
        e.2.entries.any (fun x => !x.2.dropped && x.2.dev == e.2.dev))).map (fun e => (b.2.mooredNo, b.1, e.1, e.2))
    else none)
  (cands.foldl (fun (best : Option (Nat × Nat × Nat × TableSt)) c => match best with
    | none => some c
    | some b => if c.1 < b.1 then some c else some b) none).map (·.2)

/-- One eviction of pool mode; none when no victim remains or the spill area cannot take it. -/
def evictOne (d : Dev) : Option Dev :=
  match d.pool, poolVictim d with
  | some area, some (b, k, t) =>
    (tableToHost [area] d k t).map (fun d1 => { d1 with barges := tmod d1.barges b (fun x => { x with hdr := { x.hdr with moorTier := 2 } }) })
  | _, _ => none

/-- Places several objects; in POOL with evictions by age until they fit (R321). -/
def placeEvict (n : Nat) (l : List (HeapKind × Nat × Nat)) : Nat → Dev → Alloc
  | 0, d => heapPlaces n l d 0
  | k + 1, d =>
    match heapPlaces n l d 0 with
    | .ok d1 a => .ok d1 a
    | .lacks m => match evictOne d with
      | none => .lacks m
      | some d1 => placeEvict n l k d1

/-- Places several objects in a partition's heap, all or none (R316, R317). In POOL no quota limits them (R320). -/
def heapAllocs (d : Dev) (n : Nat) (l : List (HeapKind × Nat × Nat)) : Alloc :=
  match placeEvict n l d.barges.length d with
  | .lacks k => .lacks k
  | .ok d1 a =>
    let x := getPart d1 n
    if d.pool.isNone && decide (t1QuotaOf x < t1Charge x) && decide (t1Charge (getPart d n) < t1Charge x) then
      .lacks (t1Charge x - t1QuotaOf x)
    else .ok d1 a

/-- Places an object numbered `id` of `size` bytes and a kind in a partition's heap. -/
def heapAlloc (d : Dev) (n : Nat) (kind : HeapKind) (id size : Nat) : Alloc := heapAllocs d n [(kind, id, size)]

end Sys2Proof.Machine
end

