-- ==== Sys2Proof/Machine/Num.lean ====
section
/-! DEFINITION. The numbers of the Trelend (02_numbers.md): exact values, the element formats of Table 2.1, roundTiesToAway,
conversions with their saturation and flushing, binary32 arithmetic, MX blocks, the reduction order of R68, and Philox. -/
namespace Sys2Proof.Machine

/-! ## Exact values -/

/-- An exact value: a NaN or an infinity with its sign, or (−1)^neg × m × 2^e. -/
inductive Val where
  | nan (neg : Bool)
  | inf (neg : Bool)
  | fin (neg : Bool) (m : Nat) (e : Int)
deriving DecidableEq, Repr

/-- The bits of NUMFLAGS (Table 2.7). -/
abbrev NumFlags := BitVec 7

def fSAT : NumFlags := 1
def fNONFINITE : NumFlags := 2
def fFLUSH : NumFlags := 4
def fNAN : NumFlags := 8
def fOVF : NumFlags := 16
def fISAT : NumFlags := 32
def fSCALE : NumFlags := 64

/-- A value with the flags that computing it has raised (R65). -/
structure Num where
  v  : Val
  fl : NumFlags
deriving DecidableEq, Repr

/-- A value that has raised no flag. -/
def num (v : Val) : Num := ⟨v, 0⟩

def vZero : Val := .fin false 0 0
def vOne : Val := .fin false 1 0

/-- The number of bits of `m`: 0 for 0. -/
def bitLen (m : Nat) : Nat := if m = 0 then 0 else Nat.log2 m + 1

/-- `m × 2^e` as an integer when e ≥ 0, and scaled down by truncation otherwise. -/
def shiftBy (m : Nat) (e : Int) : Nat := if e ≥ 0 then m * 2 ^ e.toNat else m / 2 ^ (-e).toNat

/-- `m × 2^e` rounded to the nearest integer, ties away from zero (R56). -/
def roundShift (m : Nat) (e : Int) : Nat := if e ≥ 0 then m * 2 ^ e.toNat else (m / 2 ^ ((-e).toNat - 1) + 1) / 2

/-- The magnitude encoding of `m × 2^e` in a format of `M` mantissa bits whose smallest normal is 2^emin, rounded to nearest
with ties away (R56), overflow not yet judged. -/
def roundMag (M : Nat) (emin : Int) (m : Nat) (e : Int) : Nat :=
  if m = 0 then 0
  else
    let E : Int := (Nat.log2 m : Int) + e
    let Eq := max E emin
    roundShift m (e - (Eq - M)) + (Eq - emin).toNat * 2 ^ M

/-- The exact value of a magnitude encoding. -/
def magVal (neg : Bool) (M : Nat) (emin : Int) (x : Nat) : Val :=
  let ex := x / 2 ^ M
  let f := x % 2 ^ M
  if ex = 0 then .fin neg f (emin - M) else .fin neg (f + 2 ^ M) (emin - M + (ex - 1 : Nat))

/-! ## binary32 arithmetic (R60, R63) -/

/-- The canonical NaN, with the NAN flag (R48, R63). -/
def nanNum (fl : NumFlags) : Num := ⟨.nan false, fl ||| fNAN⟩

/-- Rounding to binary32 (R56, R63): overflow gives an infinity and OVF; a NaN is the canonical one and sets NAN. -/
def round32 (x : Num) : Num :=
  match x.v with
  | .nan _ => nanNum x.fl
  | .inf _ => x
  | .fin neg m e =>
    let r := roundMag 23 (-126) m e
    if 0x7F800000 ≤ r then ⟨.inf neg, x.fl ||| fOVF⟩ else ⟨magVal neg 23 (-126) r, x.fl⟩

/-- The signed integer of a finite value at the scale 2^e0, which is at most its own. -/
def sInt (neg : Bool) (m : Nat) (e e0 : Int) : Int :=
  let v : Int := (m * 2 ^ (e - e0).toNat : Nat)
  if neg then -v else v

/-- The exact sum of two finite values; (+0) + (−0) and x − x give +0 (Table 2.5). -/
def exactAdd (n1 : Bool) (m1 : Nat) (e1 : Int) (n2 : Bool) (m2 : Nat) (e2 : Int) : Val :=
  let e0 := min e1 e2
  let s := sInt n1 m1 e1 e0 + sInt n2 m2 e2 e0
  if s = 0 then .fin (n1 && n2 && m1 == 0 && m2 == 0) 0 0 else .fin (decide (s < 0)) s.natAbs e0

/-- Addition rounded to binary32. -/
def nadd (a b : Num) : Num :=
  let fl := a.fl ||| b.fl
  match a.v, b.v with
  | .nan _, _ => nanNum fl
  | _, .nan _ => nanNum fl
  | .inf s, .inf t => if s = t then ⟨.inf s, fl⟩ else nanNum fl
  | .inf s, .fin .. => ⟨.inf s, fl⟩
  | .fin .., .inf t => ⟨.inf t, fl⟩
  | .fin n1 m1 e1, .fin n2 m2 e2 => round32 ⟨exactAdd n1 m1 e1 n2 m2 e2, fl⟩

/-- The negated value. -/
def nneg (a : Num) : Num :=
  match a.v with
  | .nan _ => a
  | .inf s => ⟨.inf (!s), a.fl⟩
  | .fin s m e => ⟨.fin (!s) m e, a.fl⟩

/-- Subtraction rounded to binary32. -/
def nsub (a b : Num) : Num := nadd a (nneg b)

/-- Multiplication rounded to binary32. -/
def nmul (a b : Num) : Num :=
  let fl := a.fl ||| b.fl
  match a.v, b.v with
  | .nan _, _ => nanNum fl
  | _, .nan _ => nanNum fl
  | .inf s, .inf t => ⟨.inf (s != t), fl⟩
  | .inf s, .fin t m _ => if m = 0 then nanNum fl else ⟨.inf (s != t), fl⟩
  | .fin s m _, .inf t => if m = 0 then nanNum fl else ⟨.inf (s != t), fl⟩
  | .fin n1 m1 e1, .fin n2 m2 e2 => round32 ⟨.fin (n1 != n2) (m1 * m2) (e1 + e2), fl⟩

/-- Division rounded to binary32 (R63). The truncated quotient keeps more bits than binary32 has, and with ties away the first
dropped bit alone decides. -/
def ndiv (a b : Num) : Num :=
  let fl := a.fl ||| b.fl
  match a.v, b.v with
  | .nan _, _ => nanNum fl
  | _, .nan _ => nanNum fl
  | .inf _, .inf _ => nanNum fl
  | .inf s, .fin t _ _ => ⟨.inf (s != t), fl⟩
  | .fin s _ _, .inf t => ⟨.fin (s != t) 0 0, fl⟩
  | .fin n1 m1 e1, .fin n2 m2 e2 =>
    if m2 = 0 then (if m1 = 0 then nanNum fl else ⟨.inf (n1 != n2), fl ||| fOVF⟩)
    else
      let k := 32 + bitLen m2
      round32 ⟨.fin (n1 != n2) (m1 * 2 ^ k / m2) (e1 - e2 - k), fl⟩

/-- The integer square root of `x` below 2^n, bit by bit. -/
def isqrtGo (x : Nat) : Nat → Nat → Nat
  | 0, r => r
  | i + 1, r =>
    let t := r + 2 ^ i
    isqrtGo x i (if t * t ≤ x then t else r)

/-- ⌊√x⌋. -/
def isqrt (x : Nat) : Nat := isqrtGo x (bitLen x / 2 + 1) 0

/-- Square root rounded to binary32; of a negative value it is invalid. √(−0) = −0. -/
def nsqrt (a : Num) : Num :=
  match a.v with
  | .nan _ => nanNum a.fl
  | .inf s => if s then nanNum a.fl else a
  | .fin s m e =>
    if m = 0 then a
    else if s then nanNum a.fl
    else
      let odd := e % 2 != 0
      let m' := (if odd then 2 * m else m) * 2 ^ 80
      let e' := (if odd then e - 1 else e) - 80
      round32 ⟨.fin false (isqrt m') (e' / 2), a.fl⟩

/-- Whether a value is a NaN. -/
def isNan : Val → Bool
  | .nan _ => true
  | _ => false

/-- Whether a value is finite. -/
def isFin : Val → Bool
  | .fin .. => true
  | _ => false

/-- Whether a value is zero of either sign. -/
def isZero : Val → Bool
  | .fin _ m _ => m == 0
  | _ => false

/-- The sign of a value. -/
def signOf : Val → Bool
  | .nan s => s
  | .inf s => s
  | .fin s _ _ => s

/-- Less-than of two values that are no NaN; zeros of either sign are equal. -/
def vlt (a b : Val) : Bool :=
  match a, b with
  | .nan _, _ => false
  | _, .nan _ => false
  | .inf s, .inf t => s && !t
  | .inf s, .fin .. => s
  | .fin .., .inf t => !t
  | .fin n1 m1 e1, .fin n2 m2 e2 =>
    let e0 := min e1 e2
    decide (sInt n1 m1 e1 e0 < sInt n2 m2 e2 e0)

/-- Less-than with +0 above −0 (R71). -/
def vltZ (a b : Val) : Bool := vlt a b || (isZero a && isZero b && signOf a && !signOf b)

/-- Maximum and minimum (R71): NaN wins, +0 ranks above −0; the result is one of the operands. -/
def nmax (a b : Num) : Num :=
  let fl := a.fl ||| b.fl
  if isNan a.v || isNan b.v then nanNum fl else if vltZ a.v b.v then ⟨b.v, fl⟩ else ⟨a.v, fl⟩

def nmin (a b : Num) : Num :=
  let fl := a.fl ||| b.fl
  if isNan a.v || isNan b.v then nanNum fl else if vltZ b.v a.v then ⟨b.v, fl⟩ else ⟨a.v, fl⟩

/-! ## Formats (Tables 2.1 to 2.3) -/

/-- Whether a code is one of Table 2.1 (R43). -/
def fmtOk (f : Nat) : Bool := decide (1 ≤ f) && decide (f ≤ 0x11)

/-- The element width in bits. -/
def fmtBits : Nat → Nat
  | 0x01 => 32 | 0x02 => 16 | 0x03 => 16 | 0x04 => 8 | 0x05 => 8 | 0x06 => 6 | 0x07 => 6 | 0x08 => 4 | 0x09 => 8 | 0x0A => 4
  | 0x0B => 32 | 0x0C => 8 | 0x0D => 8 | 0x0E => 6 | 0x0F => 6 | 0x10 => 4 | 0x11 => 8 | _ => 8

/-- Whether a format has MX shared scales. -/
def fmtMx (f : Nat) : Bool := decide (0x0C ≤ f) && decide (f ≤ 0x11)

/-- Whether a format is an integer one for R67; MXINT8 is not. -/
def fmtInt (f : Nat) : Bool := f == 0x09 || f == 0x0A

/-- Whether a format may enter matrix or vector arithmetic (R44). -/
def fmtArith (f : Nat) : Bool := fmtOk f && f != 0x0B

/-- Whether a format is a float one: every arithmetic format but INT8 and INT4. -/
def fmtFloat (f : Nat) : Bool := fmtArith f && !fmtInt f

/-- The element format of an MX form. -/
def fmtElem : Nat → Nat
  | 0x0C => 0x04 | 0x0D => 0x05 | 0x0E => 0x06 | 0x0F => 0x07 | 0x10 => 0x08 | f => f

/-- A float format: its mantissa bits, the exponent of its smallest normal, the encoding of its largest finite magnitude,
its sign bit, whether it has infinities, and its canonical NaN if it has one. -/
structure FltFmt where
  M    : Nat
  emin : Int
  maxE : Nat
  sbit : Nat
  hasInf : Bool
  nanE : Option Nat

/-- The float formats of Table 2.2. -/
def fltFmt : Nat → Option FltFmt
  | 0x01 => some ⟨23, -126, 0x7F7FFFFF, 31, true, some 0x7FC00000⟩
  | 0x02 => some ⟨10, -14, 0x7BFF, 15, true, some 0x7E00⟩
  | 0x03 => some ⟨7, -126, 0x7F7F, 15, true, some 0x7FC0⟩
  | 0x04 => some ⟨3, -6, 0x7E, 7, false, some 0x7F⟩
  | 0x05 => some ⟨2, -14, 0x7B, 7, true, some 0x7E⟩
  | 0x06 => some ⟨2, -2, 0x1F, 5, false, none⟩
  | 0x07 => some ⟨3, 0, 0x1F, 5, false, none⟩
  | 0x08 => some ⟨1, 0, 0x7, 3, false, none⟩
  | _ => none

/-- A two's complement value of `w` bits. -/
def sVal (w x : Nat) (e : Int) : Val :=
  if x < 2 ^ (w - 1) then .fin false x e else .fin true (2 ^ w - x) e

/-- The value of an element encoding (R45 to R49), MX scales not applied. -/
def decodeElem (f x : Nat) : Val :=
  match fltFmt (fmtElem f) with
  | some F =>
    let neg := x.testBit F.sbit
    let mag := x % 2 ^ F.sbit
    if mag ≤ F.maxE then magVal neg F.M F.emin mag
    else if F.hasInf && mag == F.maxE + 1 then .inf neg else .nan neg
  | none =>
    match f with
    | 0x09 => sVal 8 x 0
    | 0x0A => sVal 4 x 0
    | 0x0B => sVal 32 x 0
    | 0x11 => sVal 8 x (-6)
    | _ => vZero

/-- The binary32 encoding of a binary32 value (R48). -/
def enc32 (v : Val) : Nat :=
  match v with
  | .nan _ => 0x7FC00000
  | .inf s => 0x7F800000 + b2n s * 2 ^ 31
  | .fin s m e => roundMag 23 (-126) m e + b2n s * 2 ^ 31

/-- The value of a binary32 encoding. -/
def dec32 (x : Nat) : Val := decodeElem 0x01 (x % 2 ^ 32)

/-- Whether elements of the format flush subnormals (R57). -/
def fmtFlushes (f : Nat) : Bool := decide (4 ≤ f) && decide (f ≤ 8)

/-- The conversion of a finite magnitude to a float format: the encoding without sign, and the flags (R56, R57, R61). -/
def convMag (f : Nat) (F : FltFmt) (m : Nat) (e : Int) : Nat × NumFlags :=
  let r := roundMag F.M F.emin m e
  let r' := if fmtFlushes f && decide (r < 2 ^ F.M) then
      (if decide (roundShift m (e - F.emin) = 0) then 0 else 2 ^ F.M)
    else r
  if F.maxE < r' then (F.maxE, fSAT)
  else if fmtFlushes f && r' == 0 && m != 0 then (0, fFLUSH) else (r', 0)

/-- The conversion to an integer of `w` bits with the symmetric range (R58, R62). -/
def convInt (w : Nat) (v : Val) (scale : Int) : Nat × NumFlags :=
  let top := 2 ^ (w - 1) - 1
  let put (s : Bool) (k : Nat) : Nat := if s && k != 0 then 2 ^ w - k else k
  match v with
  | .nan _ => (0, fNONFINITE)
  | .inf s => (put s top, fNONFINITE)
  | .fin s m e =>
    let k := roundShift m (e + scale)
    if top < k then (put s top, fSAT) else (put s k, 0)

/-- The final conversion of a value to a format that is no MX form: the encoding and the flags (R57 to R62). -/
def convElem (f : Nat) (v : Val) : Nat × NumFlags :=
  match fltFmt f with
  | some F =>
    let sgn (s : Bool) : Nat := b2n s * 2 ^ F.sbit
    match v with
    | .nan s => (match F.nanE with | some x => (x, 0) | none => (F.maxE + sgn s, fNONFINITE))
    | .inf s => if F.hasInf then (F.maxE + 1 + sgn s, 0) else (F.maxE + sgn s, fNONFINITE)
    | .fin s m e => let (x, fl) := convMag f F m e; (x + sgn s, fl)
  | none =>
    match f with
    | 0x09 => convInt 8 v 0
    | 0x0A => convInt 4 v 0
    | 0x0B => convInt 32 v 0
    | _ => (0, 0)

/-! ## MX blocks (R50 to R55) -/

/-- emax of R54. -/
def mxEmax : Nat → Int
  | 0x0C => 8 | 0x0D => 15 | 0x0E => 4 | 0x0F => 2 | 0x10 => 2 | _ => 0

/-- ⌊log2⌋ of a positive finite value. -/
def vLog2 (m : Nat) (e : Int) : Int := (Nat.log2 m : Int) + e

/-- ⌊log2⌋ of the largest finite magnitude of a block, none when every finite one is 0 or there is none. -/
def amaxLog (vs : List Val) : Option Int :=
  vs.foldl (fun acc v => match v with
    | .fin _ m e => if m = 0 then acc else
        match acc with
        | none => some (vLog2 m e)
        | some l => some (max l (vLog2 m e))
    | _ => acc) none

/-- The scale byte of a block and whether it was clamped (R54). -/
def mxScale (f : Nat) (vs : List Val) : Nat × NumFlags :=
  match amaxLog vs with
  | none => (0, 0)
  | some l =>
    let x := l - mxEmax f + 127
    if x < 0 then (0, fSCALE) else if 254 < x then (254, fSCALE) else (x.toNat, 0)

/-- A value times 2^k. -/
def vScale (v : Val) (k : Int) : Val :=
  match v with
  | .fin s m e => .fin s m (e + k)
  | x => x

/-- One element of an MX block with scale byte `x` (R54, R55). -/
def mxElem (f x : Nat) (v : Val) : Nat × NumFlags :=
  let q := vScale v (127 - (x : Int))
  if f = 0x11 then
    match q with
    | .nan s => ((if s then 256 - 127 else 127), fNONFINITE)
    | .inf s => ((if s then 256 - 127 else 127), fNONFINITE)
    | .fin .. => convInt 8 q 6
  else
    match fltFmt (fmtElem f) with
    | none => (0, 0)
    | some F =>
      let sgn (s : Bool) : Nat := b2n s * 2 ^ F.sbit
      match q with
      | .nan s => if f = 0x0C then (0x7F, 0) else (F.maxE + sgn s, fNONFINITE)
      | .inf s => (F.maxE + sgn s, fNONFINITE)
      | .fin s m e => let (y, fl) := convMag (fmtElem f) F m e; (y + sgn s, fl)

/-- The value of an element under a scale byte (R50). -/
def mxDecode (f scale x : Nat) : Val :=
  if scale = 0xFF then .nan false else vScale (decodeElem f x) ((scale : Int) - 127)

/-! ## The reduction order (R68, R70) -/

/-- One level of the pairwise tree. -/
def treeLevel (add : Num → Num → Num) : List Num → List Num
  | a :: b :: rest => add a b :: treeLevel add rest
  | l => l

/-- `n` levels of the tree. -/
def treeSum (add : Num → Num → Num) : Nat → List Num → Num
  | 0, l => l.headD (num vZero)
  | n + 1, l => treeSum add n (treeLevel add l)

/-- A chunk's 256 leaves: the products given, then +0. -/
def padChunk (l : List Num) : List Num := l ++ List.replicate (256 - l.length) (num vZero)

/-- The sum of one chunk: the tree of 8 levels, then the outlier products one at a time. -/
def chunkSum (l outl : List Num) : Num := outl.foldl nadd (treeSum nadd 8 (padChunk l))

/-- The chunks of a list of terms. -/
def chunksOf (l : List Num) : Nat → List (List Num)
  | 0 => []
  | n + 1 => l.take 256 :: chunksOf (l.drop 256) n

/-- The chunk totals added in ascending order; the first is the starting value. -/
def chainSum : List Num → Num
  | [] => num vZero
  | t :: ts => ts.foldl nadd t

/-- A sum under R68 without outliers, which is also the reduction of R70. -/
def reduceSum (l : List Num) : Num :=
  chainSum ((chunksOf l (ceilDiv l.length 256)).map (fun c => chunkSum c []))

/-- A sum under R68 whose chunk `c` has the outlier products `outl c`. -/
def reduceOutl (l : List Num) (outl : Nat → List Num) : Num :=
  let cs := chunksOf l (ceilDiv l.length 256)
  chainSum ((cs.zipIdx).map (fun c => chunkSum c.1 (outl c.2)))

/-- The saturating INT32 addition of R64. -/
def satAdd (a b : Int × NumFlags) : Int × NumFlags :=
  let s := a.1 + b.1
  let fl := a.2 ||| b.2
  if 2147483647 < s then (2147483647, fl ||| fISAT) else if s < -2147483647 then (-2147483647, fl ||| fISAT) else (s, fl)

/-- The totals of the chunks of a list of exact products. -/
def intTotals (l : List Int) : Nat → List (Int × NumFlags)
  | 0 => []
  | n + 1 => ((l.take 256).foldl (· + ·) 0, 0) :: intTotals (l.drop 256) n

/-- An integer sum under R68: exact within a chunk, saturating along the chain. -/
def reduceInt (l : List Int) : Int × NumFlags :=
  match intTotals l (ceilDiv l.length 256) with
  | [] => (0, 0)
  | t :: ts => ts.foldl satAdd t

/-- The maximum or minimum of a list. -/
def reduceMax : List Num → Num
  | [] => num vZero
  | a :: l => l.foldl nmax (nmax a a)

def reduceMin : List Num → Num
  | [] => num vZero
  | a :: l => l.foldl nmin (nmin a a)

/-- An integer as an exact value. -/
def intVal (i : Int) : Val := .fin (decide (i < 0)) i.natAbs 0

/-! ## Philox-4×32-10 (R76, R77); the constants are PRESUMED from the published algorithm (log 17) -/

/-- One round of Philox-4×32. -/
def philoxRound (c : W32 × W32 × W32 × W32) (k0 k1 : W32) : W32 × W32 × W32 × W32 :=
  let p0 : BitVec 64 := 0xD2511F53 * c.1.setWidth 64
  let p1 : BitVec 64 := 0xCD9E8D57 * c.2.2.1.setWidth 64
  (p1.extractLsb' 32 32 ^^^ c.2.1 ^^^ k0, p1.setWidth 32, p0.extractLsb' 32 32 ^^^ c.2.2.2 ^^^ k1, p0.setWidth 32)

/-- `n` rounds, the key words raised by their increments after each. -/
def philoxGo (c : W32 × W32 × W32 × W32) (k0 k1 : W32) : Nat → W32 × W32 × W32 × W32
  | 0 => c
  | n + 1 => philoxGo (philoxRound c k0 k1) (k0 + 0x9E3779B9) (k1 + 0xBB67AE85) n

/-- Draw `d` of a purpose at a position under a seed, as the uniform value of R77. -/
def draw (seed : W64) (position : W32) (purpose d : Nat) : Num :=
  let o := philoxGo (position, BitVec.ofNat 32 (d / 4), BitVec.ofNat 32 purpose, 0) (seed.setWidth 32)
    (seed.extractLsb' 32 32) 10
  let w := match d % 4 with
    | 0 => o.1
    | 1 => o.2.1
    | 2 => o.2.2.1
    | _ => o.2.2.2
  num (.fin false (w.toNat / 256) (-24))

end Sys2Proof.Machine
end

