-- ==== Sys2Proof/Machine/Operands.lean ====
section
/-! DEFINITION. Addresses and operands: the four tiers and their translation (09_memory.md R323 to R326, 03_lowrank.md R107,
R111), uncorrectable lines, the operand descriptors of a task (04_tasks.md Table 4.2) and the elements they name. -/
namespace Sys2Proof.Machine

/-! ## Pages and keys -/

/-- Key slot `n`. -/
def getKey (d : Dev) (n : Nat) : KeySlot := tgetD d.keys n KeySlot.reset

/-- Whether a key mode may be used now: NONE always, else its slot has ENABLE 1 and LOADED 1 (R108). -/
def keyUsable (d : Dev) (k : KeyMode) : Bool :=
  match k with
  | .none => true
  | .block s => voteBool (getKey d s).enable && (getKey d s).loaded
  | .line s => voteBool (getKey d s).enable && (getKey d s).loaded

def isBlockPage : KeyMode → Bool
  | .block _ => true
  | _ => false

/-- The mapping of the page of a partition address (R323). -/
def pageOf (x : PartSt) (addr : Nat) : Option PageMap := if addr < 2 ^ 40 then tget x.maps (addr / pageSize) else none

/-- The device memory offset of a partition address. -/
def t1Offset (x : PartSt) (addr : Nat) : Option Nat := (pageOf x addr).map (fun m => m.page * pageSize + addr % pageSize)

/-- The numbers of the 2 MiB pages that the `n` bytes from `a` reach. -/
def pagesIn (a n : Nat) : List Nat :=
  if n = 0 then [] else (List.range ((a + n - 1) / pageSize + 1 - a / pageSize)).map (fun i => a / pageSize + i)

/-- The page a partition's access to a page of a tier meets: its key mode and whether stores are allowed. Tile store has
neither. -/
def pageAccess (x : PartSt) (tier pg : Nat) : Option (KeyMode × Bool) :=
  match tier with
  | 0 => if decide (pg / 32 < 64) && (tilesOf x).testBit (pg / 32) then some (.none, true) else none
  | 1 => if pg < 2 ^ 19 then (tget x.maps pg).map (fun m => (m.key, m.write)) else none
  | 2 => if x.t2En then (tget x.grants2 pg).map (fun g => (.none, g.write)) else none
  | 3 => if x.t3En then (tget x.grants3 pg).map (fun g => (g.key, g.write)) else none
  | _ => none

/-- Whether a partition may reach the `n` bytes from `a` in a tier: every page is there, a store finds WRITE set, each key is
usable, and a dense access meets no BLOCK page (R111, R125, R325). -/
def rangeOk (d : Dev) (x : PartSt) (tier a n : Nat) (store dense : Bool) : Bool :=
  (pagesIn a n).all (fun pg => match pageAccess x tier pg with
    | none => false
    | some (k, w) => (w || !store) && keyUsable d k && !(dense && isBlockPage k))

/-- Whether all pages of a block that has a line on a BLOCK page share one key mode and slot (R111). -/
def blockKeysOk (x : PartSt) (tier a n : Nat) : Bool :=
  let ks := (pagesIn a n).filterMap (fun pg => (pageAccess x tier pg).map (·.1))
  !(ks.any isBlockPage) || ks.all (fun k => some k == ks.head?)

/-! ## Reading and writing bytes of a tier -/

/-- The byte at address `a` of a tier as a partition reads it; `buf` holds what has been read of pod memory. -/
def tierByte (d : Dev) (x : PartSt) (buf : Mem) (tier a : Nat) : Byte :=
  match tier with
  | 0 => memGet d.ts a
  | 1 => match t1Offset x a with | some o => memGet d.hbm o | none => 0
  | 2 => memGet buf a
  | 3 => memGet d.host a
  | _ => memGet d.staging a

/-- The `n` bytes from `a` of a tier. -/
def tierBytes (d : Dev) (x : PartSt) (buf : Mem) (tier a : Nat) : Nat → List Byte
  | 0 => []
  | n + 1 => tierByte d x buf tier a :: tierBytes d x buf tier (a + 1) n

/-- Where a store of one byte to a tier goes: tile store, HBM at a device offset, host memory, or pod memory. -/
def tierPut (d : Dev) (x : PartSt) (tier a : Nat) (b : Byte) : Dev :=
  match tier with
  | 0 => { d with ts := memPut d.ts a b }
  | 1 => match t1Offset x a with | some o => { d with hbm := memPut d.hbm o b } | none => d
  | 2 => d
  | 3 => { d with host := memPut d.host a b }
  | _ => { d with staging := memPut d.staging a b }

/-- Stores of bytes from address `a` on. -/
def tierWrite (d : Dev) (x : PartSt) (tier a : Nat) : List Byte → Dev
  | [] => d
  | b :: bs => tierWrite (tierPut d x tier a b) x tier (a + 1) bs

/-- The address of a line in DETAIL (Table 3.5): `a` is a tile-store address, a device memory offset or a host address. -/
def lineDetail (tier dev a : Nat) : Nat := tier * 2 ^ 62 + dev * 2 ^ 56 + a / 64

/-- The address that Table 3.5 names for an address of a tier: the device memory offset in T1 and T2. -/
def detailOf (x : PartSt) (tier a : Nat) : Nat :=
  match tier with
  | 1 => lineDetail 1 0 ((t1Offset x a).getD (Config.goneLine a))
  | 2 => lineDetail 2 (a / 2 ^ 40 % 64) (a % 2 ^ 40)
  | t => lineDetail t 0 a

/-- The bytes of a unit that an error spoils: a word of tile store, a line elsewhere (R331, R334). -/
def badUnit (tier : Nat) : Nat := if tier = 0 then 8 else 64

/-- The uncorrectable lines and words of a tier where a partition sees them: the address there, and the one in the device's
own list. -/
def badSeen (d : Dev) (x : PartSt) (tier : Nat) : List (Nat × Nat) :=
  match tier with
  | 0 => d.tsBad.map (fun w => (w, w))
  | 1 => d.hbmBad.flatMap (fun l => x.maps.filterMap (fun m =>
      if m.2.page = l / pageSize then some (m.1 * pageSize + l % pageSize, l) else none))
  | 3 => d.hostBad.map (fun l => (l, l))
  | _ => []

/-- The DETAIL addresses of the uncorrectable lines and words that the `n` bytes from `a` of a tier meet (R118, R334, R341). -/
def badIn (d : Dev) (x : PartSt) (tier a n : Nat) : List Nat :=
  ((badSeen d x tier).filter (fun e => decide (a < e.1 + badUnit tier) && decide (e.1 < a + n))).map
    (fun e => lineDetail tier 0 e.2)

/-- A whole-line or whole-word write clears its error (R333, R334): the bad lines left after a store of `n` bytes at the
address `a` of its memory. -/
def clearBad (bad : List Nat) (size a n : Nat) : List Nat :=
  bad.filter (fun l => !(decide (a ≤ l) && decide (l + size ≤ a + n)))

/-! ## Operand descriptors (Table 4.2) -/

/-- The operand descriptor at index `i` of an argument block. -/
def opdAt (arg : List Byte) (i : Nat) : Opd :=
  let b := slice arg (32 * i) 32
  let lay := leAt b 3 1
  { ix := i, role := leAt b 0 1, fmt := leAt b 1 1, tier := leAt b 2 1, trans := lay.testBit 0, lowrank := lay.testBit 1,
    outl := lay.testBit 2, bcast := lay.testBit 3, resv := decide (15 < lay) || leAt b 28 4 != 0, ld := leAt b 4 4,
    addr := leAt b 8 8, aux := leAt b 16 8, extent := leAt b 24 4, sel := [] }

/-- The operand descriptors of a task. -/
def opdsOf (p : Post) : List Opd := (List.range (dNat p 40 2)).map (opdAt p.arg)

/-- The operand of a role. -/
def opd? (os : List Opd) (role : Nat) : Option Opd := os.find? (fun o => o.role == role)

/-- An operand that stands for an absent one; no meaning reads it. -/
def noOpd : Opd :=
  { ix := 0, role := 0, fmt := 1, tier := 0, trans := false, lowrank := false, outl := false, bcast := false, resv := false,
    ld := 0, addr := 0, aux := 0, extent := 0, sel := [] }

def opd (os : List Opd) (role : Nat) : Opd := (opd? os role).getD noOpd

/-- A matrix operand as stored: its stored rows and columns, transposed when TRANS is set (R51). -/
def storedRows (o : Opd) (r c : Nat) : Nat := if o.trans then c else r
def storedCols (o : Opd) (r c : Nat) : Nat := if o.trans then r else c

/-- The distance between stored rows in elements; 0 means packed. -/
def ldOf (o : Opd) (r c : Nat) : Nat := if o.ld = 0 then storedCols o r c else o.ld

/-- The index of element (i, j) of an r × c operand in its element array. -/
def elemIx (o : Opd) (r c i j : Nat) : Nat := if o.trans then j * ldOf o r c + i else o.sel.getD i i * ldOf o r c + j

/-- The elements from the first to the last of an r × c operand's array. -/
def spanElems (o : Opd) (r c : Nat) : Nat :=
  if r = 0 ∨ c = 0 then 0 else (storedRows o r c - 1) * ldOf o r c + storedCols o r c

/-- The bytes that a number of elements of a format take, packed as one bit string (R52, R83). -/
def fmtBytes (f n : Nat) : Nat := ceilDiv (n * fmtBits f) 8

/-- The number of blocks of a LOWRANK operand is known only from its first header; at acceptance one block is tested (R124).
The byte ranges of a dense r × c operand: its elements, and its scales when the format is an MX one. -/
def opdRanges (o : Opd) (r c : Nat) : List (Nat × Nat) :=
  let n := spanElems o r c
  (o.addr, fmtBytes o.fmt n) :: (if fmtMx o.fmt then [(o.aux, ceilDiv n 32)] else [])

/-- Whether two byte ranges meet. -/
def meets (a b : Nat × Nat) : Bool := a.2 != 0 && b.2 != 0 && decide (a.1 < b.1 + b.2) && decide (b.1 < a.1 + a.2)

/-- The encoding of element `n` of an element array of a format that starts at `base` of a tier. -/
def elemBits (d : Dev) (x : PartSt) (buf : Mem) (tier f base n : Nat) : Nat :=
  let w := fmtBits f
  let bit := n * w
  bits (leNat (tierBytes d x buf tier (base + bit / 8) (ceilDiv (bit % 8 + w) 8))) (bit % 8) w

/-- The value of element `n` of an operand's element array, scales applied. -/
def opdElem (d : Dev) (x : PartSt) (buf : Mem) (o : Opd) (n : Nat) : Val :=
  let e := elemBits d x buf o.tier o.fmt o.addr n
  if fmtMx o.fmt then mxDecode o.fmt (tierByte d x buf o.tier (o.aux + n / 32)).toNat e else decodeElem o.fmt e

/-- The value of element (i, j) of a dense r × c operand. -/
def opdVal (d : Dev) (x : PartSt) (buf : Mem) (o : Opd) (r c i j : Nat) : Val :=
  opdElem d x buf o (elemIx o r c i j)

/-- One stored element written into the bytes of an array: bits `bit` to `bit + w − 1` from address `base`. -/
def putBits (d : Dev) (x : PartSt) (tier base bit w v : Nat) : Dev :=
  let a := base + bit / 8
  let n := ceilDiv (bit % 8 + w) 8
  let old := leNat (tierBytes d x [] tier a n)
  let lo := old % 2 ^ (bit % 8)
  let hi := old / 2 ^ (bit % 8 + w)
  tierWrite d x tier a (leBytes (lo + v * 2 ^ (bit % 8) + hi * 2 ^ (bit % 8 + w)) n)

end Sys2Proof.Machine
end

