-- ==== Sys2Proof/Machine/LowRank.lean ====
section
/-! DEFINITION. Low-rank blocks (03_lowrank.md R81 to R103): the header, the checks of Table 3.4, the operand-port expander, the
pins of a task, and the forming of a block by COMPRESS. -/
namespace Sys2Proof.Machine

/-- A block header (Table 3.1). -/
structure BlockHdr where
  kind  : Nat
  rank  : Nat
  ufmt  : Nat
  hver  : Nat
  rows  : Nat
  cols  : Nat
  id    : Nat
  gen   : Nat
  plen  : Nat
  scale : Nat
  resv  : Bool
deriving DecidableEq, Repr

/-- The header in the first 32 bytes of a block. -/
def blockHdr (bs : List Byte) : BlockHdr :=
  { kind := leAt bs 0 1, rank := leAt bs 1 1, ufmt := leAt bs 2 1, hver := leAt bs 3 1, rows := leAt bs 4 2,
    cols := leAt bs 6 2, id := leAt bs 8 2, gen := leAt bs 12 4, plen := leAt bs 16 4, scale := leAt bs 20 4,
    resv := leAt bs 10 2 != 0 || leAt bs 24 8 != 0 }

/-- P of R84. -/
def payloadLen (ufmt rows rank : Nat) : Nat :=
  rows * rank * fmtBits ufmt / 8 + (if fmtMx ufmt then rows * rank / 32 else 0)

/-- L of R84, in bytes. -/
def blockLen (ufmt rows rank : Nat) : Nat := 64 * ceilDiv (32 + payloadLen ufmt rows rank) 64

/-- The ranks a block may have (Table 3.1). -/
def rankOk (r : Nat) : Bool := r == 8 || r == 16 || r == 32 || r == 64

/-- The formats of U (R82). -/
def ufmtOk (f : Nat) : Bool := (decide (1 ≤ f) && decide (f ≤ 8)) || fmtMx f

/-- Check 1 of Table 3.4. -/
def blockSizes (h : BlockHdr) : Bool :=
  h.rank != 0 && h.rows != 0 && h.cols != 0 && !(fmtMx h.ufmt && (h.rank == 8 || h.rank == 16)) &&
    !(fmtMx h.ufmt && h.cols % 32 != 0)

/-- Check 2 of Table 3.4: the fields' values, the partition's basis range, a finite SCALE, and the kind an operation fixes. -/
def blockFields (x : PartSt) (h : BlockHdr) (kind : Option Nat) : Bool :=
  decide (1 ≤ h.kind) && decide (h.kind ≤ 4) && rankOk h.rank && ufmtOk h.ufmt && h.hver == 1 &&
    decide (h.rows ≤ 16384) && decide (h.cols ≤ 16384) && h.gen != 0 && !h.resv && decide (basisBaseOf x ≤ h.id) &&
    decide (h.id < basisBaseOf x + basisCountOf x) && isFin (dec32 h.scale) &&
    (match kind with | none => true | some k => h.kind == k)

/-- Check 5 of Table 3.4: PAYLOAD_LEN, the extent and zero padding. `bs` is the whole block. -/
def blockExtent (h : BlockHdr) (extent : Nat) (bs : List Byte) : Bool :=
  let P := payloadLen h.ufmt h.rows h.rank
  h.plen == P && extent * 64 == blockLen h.ufmt h.rows h.rank && (bs.drop (32 + P)).all (· == 0)

/-- A basis ID's record. -/
def BasisSlot.reset : BasisSlot := { state := .empty, gen := 0, rank := 0, columns := 0, v := [], pins := 0, obj := 0 }
def BasisSt.reset : BasisSt := { s0 := BasisSlot.reset, s1 := BasisSlot.reset, waiting := none }
def getBasis (d : Dev) (id : Nat) : BasisSt := tgetD d.bases id BasisSt.reset

/-- A slot of a basis ID: slot 1 when `second`. -/
def slotOf (b : BasisSt) (second : Bool) : BasisSlot := if second then b.s1 else b.s0
def setSlot (b : BasisSt) (second : Bool) (s : BasisSlot) : BasisSt := if second then { b with s1 := s } else { b with s0 := s }

/-- The slot among those pinned that holds a generation of a basis ID (R94). -/
def pinnedSlot (d : Dev) (pins : List (Nat × Bool)) (id gen : Nat) : Option BasisSlot :=
  (pins.find? (fun p => p.1 == id && (slotOf (getBasis d id) p.2).gen == gen)).map (fun p => slotOf (getBasis d id) p.2)

/-- The checks of Table 3.4 in order, without 3 and 4 for an operation that reads no basis (R151). -/
def blockCheck (d : Dev) (x : PartSt) (pins : List (Nat × Bool)) (kind : Option Nat) (basis : Bool) (extent : Nat)
    (bs : List Byte) : Option Status :=
  let h := blockHdr bs
  if !blockSizes h then some .badLength
  else if !blockFields x h kind then some .badDescriptor
  else
    let slot := pinnedSlot d pins h.id h.gen
    let miss := match slot with | none => true | some _ => false
    let shape := match slot with | none => false | some s => s.rank != h.rank || s.columns != h.cols
    if basis && miss then some .basisAbsent
    else if basis && shape then some .badDescriptor
    else if !blockExtent h extent bs then some .blockSize
    else none

/-! ## The expander (R86, R87) -/

/-- Element (i, r) of a block's U, MX scales applied (R83). -/
def uVal (h : BlockHdr) (bs : List Byte) (i r : Nat) : Val :=
  let w := fmtBits h.ufmt
  let n := i * h.rank + r
  let bit := n * w
  let e := bits (leAt bs (32 + bit / 8) (ceilDiv (bit % 8 + w) 8)) (bit % 8) w
  if fmtMx h.ufmt then
    mxDecode h.ufmt (leAt bs (32 + h.rows * h.rank * w / 8 + i * (h.rank / 32) + r / 32) 1) e
  else decodeElem h.ufmt e

/-- Element (r, j) of a slot's V, bfloat16. -/
def vVal (s : BasisSlot) (r j : Nat) : Val := decodeElem 0x03 (s.v.getD (r * s.columns + j) 0).toNat

/-- Steps 1 to 3 of R86: the scaled sum before conversion. -/
def expandSum (h : BlockHdr) (bs : List Byte) (s : BasisSlot) (i j : Nat) : Num :=
  let prods := (List.range h.rank).map (fun r => nmul (num (uVal h bs i r)) (num (vVal s r j)))
  nmul (chunkSum prods []) (num (dec32 h.scale))

/-- Row `i` of the expanded block: each value converted to the expanded format and read back (R86 step 4, R87). -/
def expandRow (h : BlockHdr) (bs : List Byte) (s : BasisSlot) (i : Nat) : List Num :=
  let sums := (List.range h.cols).map (expandSum h bs s i)
  if fmtMx h.ufmt then
    (List.range (h.cols / 32)).flatMap (fun b =>
      let run := (sums.drop (32 * b)).take 32
      let (sc, sfl) := mxScale h.ufmt (run.map (·.v))
      run.map (fun q =>
        let (e, fl) := mxElem h.ufmt sc q.v
        ⟨mxDecode h.ufmt sc e, q.fl ||| fl ||| sfl⟩))
  else
    sums.map (fun q =>
      let (e, fl) := convElem h.ufmt q.v
      ⟨decodeElem h.ufmt e, q.fl ||| fl⟩)

/-! ## LOWRANK operands (R124) -/

/-- The bytes of block `b` of a LOWRANK operand. -/
def lrBlock (d : Dev) (x : PartSt) (buf : Mem) (o : Opd) (b : Nat) : List Byte :=
  tierBytes d x buf o.tier (o.addr + b * o.extent * 64) (o.extent * 64)

/-- The number of blocks of an operand of `r` rows, from its first block's ROWS. -/
def lrCount (d : Dev) (x : PartSt) (buf : Mem) (o : Opd) (r : Nat) : Nat :=
  let h := blockHdr (lrBlock d x buf o 0)
  if h.rows = 0 then 1 else ceilDiv r h.rows

/-- Why block `b` of an r × c LOWRANK operand cannot be used, with its DETAIL: a later block out of range (R124), a bad line
(R102), a check of Table 3.4, or a shape that does not tile the operand. -/
def lrFail (d : Dev) (x : PartSt) (buf : Mem) (pins : List (Nat × Bool)) (o : Opd) (r c b : Nat) : Option (Status × Nat) :=
  let a := o.addr + b * o.extent * 64
  let n := o.extent * 64
  if !rangeOk d x o.tier a n false false || !blockKeysOk x o.tier a n then some (.badDescriptor, detailOf x o.tier a)
  else
    match badIn d x o.tier a n with
    | l :: _ => some (.memUncorrectable, l)
    | [] =>
      let bs := lrBlock d x buf o b
      match blockCheck d x pins none true o.extent bs with
      | some st => some (st, detailOf x o.tier a)
      | none =>
        let h := blockHdr bs
        let h0 := blockHdr (lrBlock d x buf o 0)
        let want := min h0.rows (r - b * h0.rows)
        if h.rows != want || h.cols != c || h.id != h0.id then some (.badDescriptor, detailOf x o.tier a) else none

/-- The failures of a LOWRANK operand's blocks. -/
def lrFails (d : Dev) (x : PartSt) (buf : Mem) (pins : List (Nat × Bool)) (o : Opd) (r c : Nat) : List (Status × Nat) :=
  (List.range (lrCount d x buf o r)).filterMap (lrFail d x buf pins o r c)

/-- The expanded rows of a LOWRANK operand. -/
def lrRows (d : Dev) (x : PartSt) (buf : Mem) (pins : List (Nat × Bool)) (o : Opd) (r : Nat) : List (List Num) :=
  (List.range (lrCount d x buf o r)).flatMap (fun b =>
    let bs := lrBlock d x buf o b
    let h := blockHdr bs
    match pinnedSlot d pins h.id h.gen with
    | none => []
    | some s => (List.range h.rows).map (expandRow h bs s))

/-- The basis ID that a LOWRANK operand names: its first block's. -/
def lrBasis (d : Dev) (x : PartSt) (buf : Mem) (o : Opd) : Nat := (blockHdr (lrBlock d x buf o 0)).id

/-! ## Pins (R93) -/

/-- The slots that a work item pins of a basis ID: the CURRENT one, then the PREVIOUS one. -/
def pinsOf (d : Dev) (id : Nat) : List (Nat × Bool) :=
  let b := getBasis d id
  let of (st : SlotSt) : List (Nat × Bool) :=
    (if b.s0.state = st then [(id, false)] else []) ++ (if b.s1.state = st then [(id, true)] else [])
  of .current ++ of .previous

/-- The device with a slot's pin count changed. -/
def modPins (d : Dev) (p : Nat × Bool) (f : Nat → Nat) : Dev :=
  let b := getBasis d p.1
  let s := slotOf b p.2
  { d with bases := tset d.bases p.1 (setSlot b p.2 { s with pins := f s.pins }) }

/-- Every pin of a list taken `n` times, or released once. -/
def addPins (d : Dev) (ps : List (Nat × Bool)) (n : Nat) : Dev := ps.foldl (fun d p => modPins d p (· + n)) d
def dropPins (d : Dev) (ps : List (Nat × Bool)) : Dev := ps.foldl (fun d p => modPins d p (· - 1)) d

/-- The CURRENT slot of a basis ID. -/
def currentSlot (d : Dev) (id : Nat) : Option BasisSlot :=
  let b := getBasis d id
  if b.s0.state = .current then some b.s0 else if b.s1.state = .current then some b.s1 else none

/-! ## Forming a block (R152, R153) -/

/-- The U values of a dense matrix against V: the sum of R68 divided by SCALE, each rounded (R153). -/
def compressU (s : BasisSlot) (scale : Num) (row : List Num) : List Num :=
  (List.range s.rank).map (fun r =>
    let prods := (row.zipIdx).map (fun a => nmul a.1 (num (vVal s r a.2)))
    ndiv (reduceSum prods) scale)

/-- U's rows encoded in U_FMT: the element encodings row by row, the scale bytes, the flags. An MX form is blocked along the
rank (R82). -/
def encodeU (ufmt : Nat) (rows : List (List Num)) : List Nat × List Nat × NumFlags :=
  if fmtMx ufmt then
    let blocks : List (List Num) :=
      rows.flatMap (fun row => (List.range (row.length / 32)).map (fun b => (row.drop (32 * b)).take 32))
    let coded : List (List Nat × Nat × NumFlags) := blocks.map (fun run =>
      let (sc, sfl) := mxScale ufmt (run.map (fun q : Num => q.v))
      let es := run.map (fun q : Num => mxElem ufmt sc q.v)
      (es.map (fun e : Nat × NumFlags => e.1), sc, es.foldl (fun a (e : Nat × NumFlags) => a ||| e.2) sfl))
    (coded.flatMap (fun c => c.1), coded.map (fun c => c.2.1), coded.foldl (fun a c => a ||| c.2.2) 0)
  else
    let es := rows.flatten.map (fun q : Num => convElem ufmt q.v)
    (es.map (fun e => e.1), [], es.foldl (fun a e => a ||| e.2) 0)

/-- Element encodings of `w` bits packed as one little-endian bit string (R83). -/
def packBits (w : Nat) (es : List Nat) : Nat := es.foldr (fun e acc => e + 2 ^ w * acc) 0

/-- The bytes of a block: header, payload and zero padding (R81, R153). -/
def formBlock (kind ufmt id gen scale : Nat) (s : BasisSlot) (rows : List (List Num)) : List Byte × NumFlags :=
  let m := rows.length
  let P := payloadLen ufmt m s.rank
  let (es, scs, fl) := encodeU ufmt rows
  let w := fmtBits ufmt
  let hdr := leBytes kind 1 ++ leBytes s.rank 1 ++ leBytes ufmt 1 ++ leBytes 1 1 ++ leBytes m 2 ++ leBytes s.columns 2 ++
    leBytes id 2 ++ leBytes 0 2 ++ leBytes gen 4 ++ leBytes P 4 ++ leBytes scale 4 ++ leBytes 0 8
  let body := leBytes (packBits w es) (es.length * w / 8) ++ scs.map (fun x => BitVec.ofNat 8 x)
  let bs := hdr ++ body
  (bs ++ List.replicate (blockLen ufmt m s.rank - bs.length) 0, fl ||| rows.flatten.foldl (fun a q => a ||| q.fl) 0)

end Sys2Proof.Machine
end

