-- ==== Sys2Proof/Machine/Trans.lean ====
section
/-! DEFINITION. The transcendental functions (04_tasks.md R141, R573; 06_attention.md R216): each primitive is the binary32
value nearest to the exact result, ties away from zero. The exact result is computed as a fixed-point number with 600 bits
below the point, which DEDUCED (log 18) is more than deciding a binary32 rounding takes; the composed functions are the
steps of R573. -/
namespace Sys2Proof.Machine

/-- The bits below the point. -/
def fxP : Nat := 600

/-- A finite value as a fixed-point integer, truncated toward −∞. -/
def toFx (neg : Bool) (m : Nat) (e : Int) : Int :=
  let k := e + fxP
  if k ≥ 0 then (let v : Int := (m * 2 ^ k.toNat : Nat); if neg then -v else v)
  else
    let q := m / 2 ^ (-k).toNat
    if neg then -((ceilDiv m (2 ^ (-k).toNat) : Nat) : Int) else (q : Int)

/-- A fixed-point integer as a value rounded to binary32; a zero result takes the sign given. -/
def ofFx (x : Int) (zneg : Bool) (fl : NumFlags) : Num :=
  if x = 0 then ⟨.fin zneg 0 0, fl⟩ else round32 ⟨.fin (decide (x < 0)) x.natAbs (-(fxP : Int)), fl⟩

/-- 2 × Σ y^(2k+1) ÷ (2k+1) in fixed point: 2 × artanh y. -/
def atanhGo (y2 : Nat) : Nat → Nat → Nat → Nat
  | 0, _, _ => 0
  | n + 1, t, k => t / k + atanhGo y2 n (t * y2 / 2 ^ fxP) (k + 2)

def fxAtanh2 (y : Nat) : Nat := 2 * atanhGo (y * y / 2 ^ fxP) 200 y 1

/-- ln 2. -/
def fxLn2 : Nat := fxAtanh2 (2 ^ fxP / 3)

/-- Σ r^k ÷ k! for 0 ≤ r < 1. -/
def expGo (r : Nat) : Nat → Nat → Nat → Nat
  | 0, _, _ => 0
  | n + 1, t, k => t + expGo r n (t * r / 2 ^ fxP / k) (k + 1)

/-- e^x for a fixed-point x, as a fixed-point mantissa and a power of two: x = k ln 2 + r with 0 ≤ r < ln 2. -/
def fxExp (x : Int) : Nat × Int :=
  let k := x / (fxLn2 : Int)
  let r := (x - k * (fxLn2 : Int)).toNat
  (expGo r 130 (2 ^ fxP) 1, k)

/-- exp (R141). Above 89 the result overflows; below −104 it rounds to +0. -/
def nexp (a : Num) : Num :=
  match a.v with
  | .nan _ => nanNum a.fl
  | .inf s => if s then ⟨vZero, a.fl⟩ else a
  | .fin s m e =>
    if m = 0 then ⟨vOne, a.fl⟩
    else if vLog2 m e ≥ 7 then (if s then ⟨vZero, a.fl⟩ else ⟨.inf false, a.fl ||| fOVF⟩)
    else
      let (t, k) := fxExp (toFx s m e)
      round32 ⟨.fin false t (k - fxP), a.fl⟩

/-- ln of m × 2^e in fixed point. -/
def fxLog (m : Nat) (e : Int) : Int :=
  let L := Nat.log2 m
  let one := 2 ^ fxP
  let u := m * 2 ^ fxP / 2 ^ L
  let y := (u - one) * one / (u + one)
  (fxAtanh2 y : Int) + (e + L) * (fxLn2 : Int)

/-- log (R141). -/
def nlog (a : Num) : Num :=
  match a.v with
  | .nan _ => nanNum a.fl
  | .inf s => if s then nanNum a.fl else a
  | .fin s m e =>
    if m = 0 then ⟨.inf true, a.fl⟩
    else if s then nanNum a.fl
    else ofFx (fxLog m e) false a.fl

/-- rsqrt (R141), from the truncated integer square root of 2^n ÷ x. -/
def nrsqrt (a : Num) : Num :=
  match a.v with
  | .nan _ => nanNum a.fl
  | .inf s => if s then nanNum a.fl else ⟨vZero, a.fl⟩
  | .fin s m e =>
    if m = 0 then ⟨.inf false, a.fl ||| fOVF⟩
    else if s then nanNum a.fl
    else
      let e' := if e % 2 = 0 then e else e - 1
      let m' := if e % 2 = 0 then m else 2 * m
      let k := 2 * (bitLen m' + 40)
      round32 ⟨.fin false (isqrt (2 ^ k / m')) (-e' / 2 - (k / 2 : Nat)), a.fl⟩

/-- e^(−y) ÷ 1 in fixed point for y ≥ 0. -/
def fxExpNeg (y : Int) : Nat :=
  let (t, k) := fxExp (-y)
  shiftBy t k

/-- sigmoid (R141). -/
def nsigmoid (a : Num) : Num :=
  match a.v with
  | .nan _ => nanNum a.fl
  | .inf s => ⟨if s then vZero else vOne, a.fl⟩
  | .fin s m e =>
    if vLog2 (max m 1) e ≥ 8 then ⟨if s then vZero else vOne, a.fl⟩
    else
      let one := 2 ^ fxP
      let q := fxExpNeg (toFx false m e)
      let pos := one * one / (one + q)
      ofFx (if s && m != 0 then ((q * one / (one + q) : Nat) : Int) else (pos : Int)) false a.fl

/-- tanh (R141); tanh(±0) = ±0. -/
def ntanh (a : Num) : Num :=
  match a.v with
  | .nan _ => nanNum a.fl
  | .inf s => ⟨.fin s 1 0, a.fl⟩
  | .fin s m e =>
    if m = 0 then a
    else if vLog2 m e ≥ 6 then ⟨.fin s 1 0, a.fl⟩
    else
      let one := 2 ^ fxP
      let q := fxExpNeg (2 * toFx false m e)
      let t : Int := ((one - q) * one / (one + q) : Nat)
      ofFx (if s then -t else t) s a.fl

/-- arctan of 1 ÷ n in fixed point. -/
def atanGo (n2 : Nat) : Nat → Nat → Nat → Int
  | 0, _, _ => 0
  | i + 1, t, k => ((t / k : Nat) : Int) - atanGo n2 i (t / n2) (k + 2)

/-- π with 64 bits more than the point has, by Machin's formula. -/
def fxPi : Int :=
  let one := 2 ^ (fxP + 64)
  16 * atanGo 25 150 (one / 5) 1 - 4 * atanGo 57121 60 (one / 239) 1

/-- Σ of the alternating series of cosine (k = 1) or sine (k = 2) at r, in fixed point. -/
def trigGo (r2 : Nat) : Nat → Nat → Nat → Int
  | 0, _, _ => 0
  | n + 1, t, k => (t : Int) - trigGo r2 n (t * r2 / 2 ^ fxP / (k * (k + 1))) (k + 2)

/-- cos and sin of a fixed-point angle of at most 64 bits above the point: the angle is reduced by quarter turns. -/
def fxCosSin (x : Int) : Int × Int :=
  let half := fxPi / 2
  let x' := x * 2 ^ 64
  let k := x' / half
  let r := ((x' - k * half) / 2 ^ 64).toNat
  let r2 := r * r / 2 ^ fxP
  let c := trigGo r2 100 (2 ^ fxP) 1
  let s := trigGo r2 100 r 2
  match (k % 4).toNat with
  | 0 => (c, s)
  | 1 => (-s, c)
  | 2 => (-c, -s)
  | _ => (s, -c)

/-- cos and sin, correctly rounded (R216); of an infinity they are invalid. -/
def ncos (a : Num) : Num :=
  match a.v with
  | .nan _ => nanNum a.fl
  | .inf _ => nanNum a.fl
  | .fin s m e => if m = 0 then ⟨vOne, a.fl⟩ else ofFx (fxCosSin (toFx s m e)).1 false a.fl

def nsin (a : Num) : Num :=
  match a.v with
  | .nan _ => nanNum a.fl
  | .inf _ => nanNum a.fl
  | .fin s m e => if m = 0 then a else ofFx (fxCosSin (toFx s m e)).2 s a.fl

/-! ## Activations and their derivatives (Table 4.8, R573) -/

/-- c = 0.7978845608 and a = 0.044715 as binary32 values. -/
def cGelu : Num := num (dec32 0x3F4C422A)
def aGelu : Num := num (dec32 0x3D372713)
def nOne : Num := num vOne
def nHalf : Num := num (.fin false 1 (-1))
def nThree : Num := num (.fin false 3 0)
def nZero : Num := num vZero

/-- t of R573: tanh(c × (x + (a × x3))). -/
def geluT (x : Num) : Num :=
  let x3 := nmul (nmul x x) x
  ntanh (nmul cGelu (nadd x (nmul aGelu x3)))

/-- An activation (Table 4.8). -/
def act (code : Nat) (x : Num) : Num :=
  match code with
  | 1 => nmax x nZero
  | 2 => nmul (nmul nHalf x) (nadd nOne (geluT x))
  | 3 => nmul x (nsigmoid x)
  | 4 => nsigmoid x
  | 5 => ntanh x
  | _ => x

/-- The derivative of an activation (R573). -/
def actDer (code : Nat) (x : Num) : Num :=
  if isNan x.v then nanNum x.fl
  else
    match code with
    | 1 => if vlt vZero x.v then ⟨vOne, x.fl⟩ else ⟨vZero, x.fl⟩
    | 2 =>
      let t := geluT x
      let k := nmul cGelu (nadd nOne (nmul (nmul nThree aGelu) (nmul x x)))
      nadd (nmul nHalf (nadd nOne t)) (nmul (nmul (nmul nHalf x) (nsub nOne (nmul t t))) k)
    | 3 =>
      let s := nsigmoid x
      nmul s (nadd nOne (nmul x (nsub nOne s)))
    | 4 =>
      let s := nsigmoid x
      nmul s (nsub nOne s)
    | 5 =>
      let t := ntanh x
      nsub nOne (nmul t t)
    | _ => ⟨vOne, x.fl⟩

end Sys2Proof.Machine
end

