-- ==== Sys2Proof/Machine/Matrix.lean ====
section
/-! DEFINITION. The arithmetic of a task (02_numbers.md R65 to R75, 04_tasks.md R138 to R159): its operands as rows of values,
outlier records, the products of the matrix kinds, the steps of the vector kinds, and the writes that an output makes. -/
namespace Sys2Proof.Machine

/-- What a task's computation reads: the device, its partition, what it has read of pod memory, the basis slots it pins. -/
structure Ctx where
  d    : Dev
  x    : PartSt
  buf  : Mem
  pins : List (Nat × Bool)

/-! ## Operands as rows -/

/-- The rows of an r × k operand: expanded blocks, or elements read where they lie. -/
def matRows (c : Ctx) (o : Opd) (r k : Nat) : List (List Num) :=
  if o.lowrank then lrRows c.d c.x c.buf c.pins o r
  else (List.range r).map (fun i => (List.range k).map (fun j => num (opdVal c.d c.x c.buf o r k i j)))

/-- The columns of rows of `n` values. -/
def colsOf (rows : List (List Num)) (n : Nat) : List (List Num) :=
  (List.range n).map (fun j => rows.map (fun row => row.getD j (num vZero)))

/-- Element `j` of a row, +0 where it is absent. -/
def at' (row : List Num) (j : Nat) : Num := row.getD j (num vZero)

/-- Row `i` of rows. -/
def rowAt (rows : List (List Num)) (i : Nat) : List Num := rows.getD i []

/-- The flags of a list of values together. -/
def flagsOf (l : List Num) : NumFlags := l.foldl (fun a q => a ||| q.fl) 0

/-! ## Outlier records (R73 to R75) -/

/-- The bytes of the outlier record of chunk `ch` of an operand of `R` rows (columns for B); records follow each other,
DEDUCED (log 22). -/
def outlRec (c : Ctx) (o : Opd) (R ch : Nat) : List Byte :=
  tierBytes c.d c.x c.buf o.tier (o.aux + ch * (8 + 16 * R)) (8 + 16 * R)

/-- The channels a record nominates, slot by slot. -/
def outlChans (bs : List Byte) : List Nat := ((slice bs 0 8).map (·.toNat)).takeWhile (· != 0xFF)

/-- Whether a list strictly rises. -/
def rising : List Nat → Bool
  | a :: b :: l => decide (a < b) && rising (b :: l)
  | _ => true

/-- Whether a record breaks R74: indices out of order or repeated, or a used slot after 0xFF. -/
def outlBad (bs : List Byte) : Bool :=
  let ix := (slice bs 0 8).map (·.toNat)
  let used := outlChans bs
  !rising used || (ix.drop used.length).any (· != 0xFF)

/-- Slot `s` of row `i` of a record. -/
def outlVal (bs : List Byte) (i s : Nat) : Num := num (decodeElem 0x03 (leAt bs (8 + 16 * i + 2 * s) 2))

/-- A sum over an inner dimension of two rows of `k` values, one of which carries outlier records: row `i` of the records
`recs`, one a chunk (R68, R75). A channel at or beyond `k` contributes +0 (R68 step 1). -/
def dotOutl (k : Nat) (a b other : List Num) (recs : List (List Byte)) (i : Nat) : Num :=
  let chans (ch : Nat) : List Nat := outlChans (recs.getD ch [])
  let prods := (List.range k).map (fun n =>
    if (chans (n / 256)).contains (n % 256) then num vZero else nmul (at' a n) (at' b n))
  reduceOutl prods (fun ch => ((chans ch).zipIdx).map (fun s =>
    let n := 256 * ch + s.1
    if k ≤ n then num vZero else nmul (outlVal (recs.getD ch []) i s.2) (at' other n)))

/-- A sum of products under R68. -/
def dot (a b : List Num) : Num := reduceSum (List.zipWith nmul a b)

/-- An integer element's value. -/
def intOf (q : Num) : Int :=
  match q.v with
  | .fin s m e => if s then -((shiftBy m e : Nat) : Int) else (shiftBy m e : Nat)
  | _ => 0

/-- An integer sum of products: the accumulator's value and flags (R64, R68). -/
def dotInt (a b : List Num) : Num :=
  let (v, fl) := reduceInt (List.zipWith (fun p q => intOf p * intOf q) a b)
  ⟨intVal v, fl⟩

/-! ## Matrix products -/

/-- The raw accumulators of A (m × k) times B (k × n), whose columns are `bcols`. -/
def accRow (c : Ctx) (oa ob : Opd) (m n k : Nat) (ints : Bool) (i : Nat) (a : List Num) (bcols : List (List Num)) : List Num :=
  let chunks := ceilDiv k 256
  (bcols.zipIdx).map (fun bj =>
    if ints then dotInt a bj.1
    else if oa.outl then dotOutl k a bj.1 bj.1 ((List.range chunks).map (outlRec c oa m)) i
    else if ob.outl then dotOutl k a bj.1 a ((List.range chunks).map (outlRec c ob n)) bj.2
    else dot a bj.1)

/-- Steps 1 to 4 of Table 4.7 on one accumulator. -/
def epilogue (alpha : Num) (bias : Option Num) (code : Nat) (resid : Option Num) (acc : Num) : Num :=
  let x1 := nmul (round32 acc) alpha
  let x2 := match bias with | some b => nadd x1 b | none => x1
  let x3 := act code x2
  match resid with | some r => nadd x3 r | none => x3

/-- Rows `rows` of MATMUL (R138 to R140): with `raw` the epilogue is skipped. -/
def matmulRows (c : Ctx) (os : List Opd) (m n k : Nat) (sub alpha : Nat) (raw ints : Bool) : List (List Num) :=
  let oa := opd os 1
  let ob := opd os 2
  let a := matRows c oa m k
  let bcols := colsOf (matRows c ob k n) n
  let bias := if sub.testBit 0 then rowAt (matRows c (opd os 3) 1 n) 0 else []
  let resid := if sub.testBit 1 then matRows c (opd os 4) m n else []
  (a.zipIdx).map (fun ai =>
    let accs := accRow c oa ob m n k ints ai.2 ai.1 bcols
    if raw then accs
    else (accs.zipIdx).map (fun q =>
      epilogue (num (dec32 alpha)) (if sub.testBit 0 then some (at' bias q.2) else none) (bits sub 2 3)
        (if sub.testBit 1 then some (at' (rowAt resid ai.2) q.2) else none) q.1))

/-- The routing slots of row `i` of a ROUTING operand: expert index and weight (R142, R144). -/
def routeSlots (c : Ctx) (o : Opd) (topk i : Nat) : List (Nat × Num) :=
  (List.range topk).map (fun s =>
    let e := leNat (tierBytes c.d c.x c.buf o.tier (o.addr + 8 * (i * topk + s)) 8)
    (bits e 0 16, num (dec32 (bits e 32 32))))

/-- Whether the slots of a row name an expert of `g` or above, or one twice (R144). -/
def routeBad (g : Nat) (l : List (Nat × Num)) : Bool :=
  l.any (fun s => decide (g ≤ s.1)) || (dedup (l.map (·.1))).length != l.length

/-- The slots in ascending expert index. -/
def sortSlots : List (Nat × Num) → List (Nat × Num)
  | [] => []
  | s :: l =>
    let rec ins (l : List (Nat × Num)) : List (Nat × Num) :=
      match l with
      | [] => [s]
      | t :: r => if s.1 < t.1 then s :: t :: r else t :: ins r
    ins (sortSlots l)

/-- Expert `g`'s matrix: B moved by g × PARAM1 × 64 bytes (R144). The scales of an MX operand are one array, one byte for
every 32 elements from ADDR on (R51). -/
def expertOf (ob : Opd) (stride g : Nat) : Opd :=
  { ob with
    addr := ob.addr + g * stride * 64
    aux := if fmtMx ob.fmt then ob.aux + g * stride * 64 * 8 / fmtBits ob.fmt / 32 else ob.aux }

/-- Row `i` of GROUPED_MATMUL (R144), from the row `a` of A and the row of RESID. -/
def groupedRow (c : Ctx) (os : List Opd) (m n k sub alpha stride : Nat) (ints : Bool) (i : Nat) (a resid : List Num) :
    List Num :=
  let oa := opd os 1
  let slots := sortSlots (routeSlots c (opd os 0x0B) (bits sub 8 4) i)
  let perSlot := slots.map (fun s =>
    let ob := expertOf (opd os 2) stride s.1
    let accs := accRow c oa ob m n k ints i a (colsOf (matRows c ob k n) n)
    let bo := opd os 3
    (accs.zipIdx).map (fun q =>
      let x1 := nmul (round32 q.1) (num (dec32 alpha))
      let x2 := if sub.testBit 0 then nadd x1 (num (opdElem c.d c.x c.buf bo (s.1 * n + q.2))) else x1
      nmul s.2 (act (bits sub 2 3) x2)))
  (List.range n).map (fun j =>
    let y := match perSlot.map (fun r => at' r j) with
      | [] => num vZero
      | t :: ts => ts.foldl nadd t
    if sub.testBit 1 then nadd y (at' resid j) else y)

/-! ## ROUTE (R142) -/

/-- The softmax of a row (R146 steps 2 to 5, and its two cases). -/
def softmaxRow (xs : List Num) : List Num :=
  if xs.any (fun q => isNan q.v) then xs.map (fun _ => nanNum (flagsOf xs))
  else if xs.all (fun q => q.v == .inf true) then xs.map (fun _ => num vZero)
  else
    let m := reduceMax xs
    let es := xs.map (fun q => nexp (nsub q m))
    let s := reduceSum es
    es.map (fun e => ndiv e s)

/-- Whether score `a` at index `i` ranks before score `b` at index `j` in descending order, the lower index first among
equals, NaN above every number (R71). -/
def ranksBefore (a : Val) (i : Nat) (b : Val) (j : Nat) : Bool :=
  if isNan a && isNan b then decide (i < j)
  else if isNan a then true
  else if isNan b then false
  else vltZ b a || (!vltZ a b && decide (i < j))

/-- Inserts a scored index into a list in descending rank. -/
def insRank (s : Num × Nat) : List (Num × Nat) → List (Num × Nat)
  | [] => [s]
  | t :: r => if ranksBefore s.1.v s.2 t.1.v t.2 then s :: t :: r else t :: insRank s r

/-- The `k` highest-ranked values of a row with their indices, in descending order. -/
def topOf (k : Nat) (l : List Num) : List (Num × Nat) := ((l.zipIdx).foldl (fun acc s => insRank s acc) []).take k

/-- The experts and weights of one row of gate logits. -/
def routeRow (sub : Nat) (xs : List Num) : List (Nat × Num) :=
  let k := bits sub 0 4
  let sel := match bits sub 4 2 with
    | 0 => (topOf k (softmaxRow xs)).map (fun s => (s.2, s.1))
    | 1 =>
      let t := topOf k xs
      let w := softmaxRow (t.map (·.1))
      (t.zipIdx).map (fun s => (s.1.2, at' w s.2))
    | _ => (topOf k (xs.map nsigmoid)).map (fun s => (s.2, s.1))
  if sub.testBit 6 then
    let s := reduceSum (sel.map (·.2))
    sel.map (fun e => (e.1, ndiv e.2 s))
  else sel

/-! ## NORM, ELEMENTWISE, REDUCE -/

/-- A count as a binary32 value. -/
def nCount (n : Nat) : Num := round32 (num (.fin false n 0))

/-- r of the RMS form (R145). -/
def rmsR (eps : Num) (xs : List Num) : Num :=
  let s := reduceSum (xs.map (fun q => nmul q q))
  nrsqrt (nadd (ndiv s (nCount xs.length)) eps)

/-- A row of NORM: RMS form, or the layer form with `layer`. -/
def normRow (layer : Bool) (eps : Num) (gamma : List Num) (beta : Option (List Num)) (xs : List Num) : List Num :=
  if layer then
    let mu := ndiv (reduceSum xs) (nCount xs.length)
    let ds := xs.map (fun q => nsub q mu)
    let q := ndiv (reduceSum (ds.map (fun e => nmul e e))) (nCount xs.length)
    let r := nrsqrt (nadd q eps)
    (ds.zipIdx).map (fun e =>
      let y := nmul (nmul e.1 r) (at' gamma e.2)
      match beta with | some b => nadd y (at' b e.2) | none => y)
  else
    let r := rmsR eps xs
    (xs.zipIdx).map (fun e => nmul (nmul e.1 r) (at' gamma e.2))

/-- One element of ELEMENTWISE (Table 4.10); `u` is the dropout draw of the element. -/
def elemOp (sub p0 p1 : Nat) (u a b : Num) : Num :=
  match sub with
  | 0 => nadd a b
  | 1 => nsub a b
  | 2 => nmul a b
  | 3 => nmax a b
  | 4 => nmin a b
  | 5 => nmul a (num (dec32 p0))
  | 6 => act (bits p1 0 3) a
  | 7 => nmul (act (bits p1 0 3) a) b
  | _ =>
    if vlt u.v (dec32 p0) then nmul a (ndiv nOne (num (dec32 p0))) else num vZero

/-- One output of REDUCE over `l` (R148). -/
def reduceOp (op : Nat) (l : List Num) : Num :=
  match op with
  | 0 => reduceSum l
  | 1 => reduceMax l
  | 2 => reduceMin l
  | _ => ndiv (reduceSum l) (nCount l.length)

/-! ## SAMPLE (R154, R155) -/

/-- A sampling record as checked in the order of R154: the status it ends the task with. -/
def samplingCheck (bs : List Byte) : Option Status :=
  let fl := leAt bs 6 1
  let temp := dec32 (leAt bs 0 4)
  let topp := dec32 (leAt bs 8 4)
  let topk := leAt bs 4 2
  if decide (3 < fl) || leAt bs 7 1 != 0 || leAt bs 12 4 != 0 || leAt bs 28 4 != 0 then some .badDescriptor
  else if fl.testBit 0 && topk == 0 then some .badLength
  else if !isFin temp || (signOf temp && !isZero temp) || (fl.testBit 0 && decide (1024 < topk)) ||
      (!fl.testBit 0 && topk != 0) || !isFin topp || !vlt vZero topp || vlt vOne topp then some .badDescriptor
  else none

/-- The inclusive scan of a list in order. -/
def scan (acc : Num) : List Num → List Num
  | [] => []
  | e :: l => let s := nadd acc e; s :: scan s l

/-- The cumulative sums of R155: the first entry is its own sum. -/
def cumOf : List Num → List Num
  | [] => []
  | e :: l => e :: scan e l

/-- The token, the log-probability and the flags of one row (R155); `bs` is its sampling record. -/
def sampleRow (bs : List Byte) (logits : List Num) : Nat × Num :=
  let nanFl := if logits.any (fun q => isNan q.v) then fNAN else 0
  let ls := logits.map (fun q => if isNan q.v then (⟨.inf true, q.fl⟩ : Num) else q)
  let lost : Nat × Num := (0xFFFFFFFF, ⟨vZero, nanFl⟩)
  if ls.all (fun q => q.v == .inf true) then lost
  else
    let temp := num (dec32 (leAt bs 0 4))
    if isZero temp.v then
      match topOf 1 ls with
      | t :: _ => (t.2, ⟨vZero, nanFl⟩)
      | [] => lost
    else
      let z := ls.map (fun q => ndiv q temp)
      let cmax := min (min 1024 z.length) (if (leAt bs 6 1).testBit 0 then leAt bs 4 2 else z.length)
      let cand := topOf cmax z
      let m := (cand.headD (num vZero, 0)).1
      let cum := cumOf (cand.map (fun q => nexp (nsub q.1 m)))
      let total := cum.getLastD (num vZero)
      if isNan total.v then (0xFFFFFFFF, ⟨vZero, nanFl ||| flagsOf z ||| total.fl ||| fNAN⟩)
      else
        let lim := nmul (num (dec32 (leAt bs 8 4))) total
        let below := (cum.takeWhile (fun q => vlt q.v lim.v)).length
        let keep := min (below + 1) cum.length
        let top := cum.getD (keep - 1) (num vZero)
        let u := draw (BitVec.ofNat 64 (leAt bs 16 8)) (BitVec.ofNat 32 (leAt bs 24 4)) 0 0
        let t := nmul u top
        let j := min ((cum.takeWhile (fun q => !vlt t.v q.v)).length) (keep - 1)
        let pick := cand.getD j (num vZero, 0)
        let logp := nsub (nsub pick.1 m) (nlog top)
        (pick.2, ⟨logp.v, nanFl ||| flagsOf z ||| logp.fl ||| lim.fl ||| t.fl⟩)

/-! ## Backward kinds -/

/-- A row of NORM_BWD (R158). -/
def normBwdRow (eps : Num) (gamma grad xs : List Num) : List Num :=
  let r := rmsR eps xs
  let r3 := nmul (nmul r r) r
  let gg := (grad.zipIdx).map (fun e => nmul e.1 (at' gamma e.2))
  let s := reduceSum (List.zipWith nmul gg xs)
  (xs.zipIdx).map (fun e =>
    nsub (nmul r (at' gg e.2)) (ndiv (nmul (nmul e.1 r3) s) (nCount xs.length)))

/-- One element of OPTIM_ADAMW (R159): the new weight and moments. `h` reads a value of the PARAMS record. -/
def adamStep (h : Nat → Num) (w g m v : Num) : Num × Num × Num :=
  let m' := nadd (nmul (h 1) m) (nmul (h 2) g)
  let v' := nadd (nmul (h 3) v) (nmul (h 4) (nmul g g))
  let den := nadd (nsqrt (nmul v' (h 8))) (h 5)
  let w' := nsub w (nmul (h 0) (nadd (ndiv (nmul m' (h 7)) den) (nmul (h 6) w)))
  (w', m', v')

/-! ## Writes of an output -/

/-- One write of an output: the row of the task it belongs to, the tier, the base of the array, the bit it starts at, how
many bits, and the value. -/
structure OutW where
  row  : Nat
  tier : Nat
  base : Nat
  bit  : Nat
  w    : Nat
  v    : Nat

/-- Performs a write. -/
def putOut (d : Dev) (x : PartSt) (o : OutW) : Dev := putBits d x o.tier o.base o.bit o.w o.v

/-- The writes and the flags by row of an r × k dense output, converted element by element (R57 to R62). -/
def denseOut (o : Opd) (r k : Nat) (rows : List (List Num)) : List OutW × List (Nat × NumFlags) :=
  let w := fmtBits o.fmt
  let es := (rows.zipIdx).flatMap (fun (ri : List Num × Nat) => (ri.1.zipIdx).map (fun q =>
    let (e, fl) := convElem o.fmt q.1.v
    ((⟨ri.2, o.tier, o.addr, elemIx o r k ri.2 q.2 * w, w, e⟩ : OutW), (ri.2, q.1.fl ||| fl))))
  (es.map (·.1), es.map (·.2))

/-- The writes and the flags of one MX block of an output: its values with their task rows, the first element's index. -/
def mxBlockOut (o : Opd) (n0 : Nat) (run : List (Num × Nat)) : List (OutW × (Nat × NumFlags)) :=
  let w := fmtBits o.fmt
  let (sc, sfl) := mxScale o.fmt (run.map (fun q => q.1.v))
  (run.zipIdx).flatMap (fun (q : (Num × Nat) × Nat) =>
    let (e, fl) := mxElem o.fmt sc q.1.1.v
    [((⟨q.1.2, o.tier, o.addr, (n0 + q.2) * w, w, e⟩ : OutW), (q.1.2, q.1.1.fl ||| fl ||| sfl)),
     ((⟨q.1.2, o.tier, o.aux, n0 / 32 * 8, 8, sc⟩ : OutW), (q.1.2, sfl))])

/-- The writes and flags of an r × k MX output, blocked along its stored rows (R51, R54). A block that runs down the task's
rows takes its scale from all of them, squashed or not. -/
def mxOut (o : Opd) (r k : Nat) (rows : List (List Num)) : List OutW × List (Nat × NumFlags) :=
  let lines : List (List (Num × Nat)) :=
    if o.trans then (List.range k).map (fun j => (List.range r).map (fun i => (at' (rowAt rows i) j, i)))
    else (rows.zipIdx).map (fun (ri : List Num × Nat) => ri.1.map (fun q => (q, ri.2)))
  let es := (lines.zipIdx).flatMap (fun (li : List (Num × Nat) × Nat) =>
    (List.range (li.1.length / 32)).flatMap (fun b =>
      mxBlockOut o (li.2 * ldOf o r k + 32 * b) ((li.1.drop (32 * b)).take 32)))
  (es.map (·.1), es.map (·.2))

/-- The writes and the flags by row of an r × k output. -/
def outOf (o : Opd) (r k : Nat) (rows : List (List Num)) : List OutW × List (Nat × NumFlags) :=
  if fmtMx o.fmt then mxOut o r k rows else denseOut o r k rows

end Sys2Proof.Machine
end

