-- ==== Sys2Proof/Machine/Accept.lean ====
section
/-! DEFINITION. What each task kind asks of its descriptor and operands, and the acceptance checks of Table 4.4 in order
(04_tasks.md R119 to R127, R134 to R159). -/
namespace Sys2Proof.Machine

/-- What a kind says of the operand of a role: its rows and columns, each with the descriptor field that gives it; the
formats and LAYOUT bits it accepts; its bytes when it is a record operand; whether the task writes it. -/
structure Shape where
  role    : Nat
  r       : Nat
  rOff    : Nat
  c       : Nat
  cOff    : Nat
  fmts    : Nat → Bool
  trans   : Bool
  lowrank : Bool
  outl    : Bool
  raw     : Option Nat
  tiers   : List Nat
  store   : Bool

/-- A failed check: its status and DETAIL. -/
abbrev Bad := Option (Status × Nat)

/-- A task kind with the values of one descriptor: required and optional roles, whether it mixes rows (R134), the offsets of
its reserved fields that are not 0, the structure-sizing fields that are 0, its shape rules, its own rules of check 4 before
and after those of formats, whether check 5 ends it. -/
structure Kind where
  req    : List Nat
  opt    : List Nat
  mixes  : Bool
  resv   : List Nat
  sizing : List Nat
  limits : List Bad
  roles4 : List Bad
  shapes : List Shape
  late4  : List Bad
  zero   : Bool

/-- A failure at a descriptor field, and one at a field of the operand descriptor with an index (R126). -/
def atField (st : Status) (off : Nat) (bad : Bool) : Bad := if bad then some (st, off) else none
def atOpd (st : Status) (o : Opd) (off : Nat) (bad : Bool) : Bad := if bad then some (st, off + 2 ^ 16 + o.ix * 2 ^ 17) else none

/-- The first failure of a list. -/
def firstBad (l : List Bad) : Bad := l.findSome? id

/-- The offsets of the listed fields that are not 0. -/
def nonZero (p : Post) (fs : List (Nat × Nat)) : List Nat := (fs.filter (fun f => !dZero p f.1 f.2)).map (·.1)

/-- SUBOP, the dimensions and the parameters of a task descriptor. -/
def tSub (p : Post) : Nat := dNat p 18 2
def tM (p : Post) : Nat := dNat p 20 4
def tN (p : Post) : Nat := dNat p 24 4
def tK (p : Post) : Nat := dNat p 28 4
def tBatch (p : Post) : Nat := dNat p 44 4
def tP0 (p : Post) : Nat := dNat p 56 4
def tP1 (p : Post) : Nat := dNat p 60 4

/-- A dimension against its limit of Table 4.1 (check 3). -/
def limM (p : Post) : Bad := atField .badLength 20 (decide (16777216 < tM p))
def limN (p : Post) : Bad := atField .badLength 24 (decide (1048576 < tN p))
def limK (p : Post) : Bad := atField .badLength 28 (decide (1048576 < tK p))

/-- Whether SUBOP sets a bit outside `mask`. -/
def subOutside (p : Post) (mask : Nat) : List Nat := if tSub p &&& (0xFFFF - mask) != 0 then [18] else []

/-- A dense matrix operand of tile store or local HBM. -/
def mat (role r rOff c cOff : Nat) (fmts : Nat → Bool) : Shape :=
  { role := role, r := r, rOff := rOff, c := c, cOff := cOff, fmts := fmts, trans := true, lowrank := false, outl := false,
    raw := none, tiers := [0, 1], store := role == 5 }

/-- A record operand of `n` bytes (R44). -/
def recd (role n : Nat) : Shape :=
  { mat role 1 0 1 0 (· == 0x0B) with trans := false, raw := some n }

/-- Table 4.7 and R144: BIAS and RESID against their bits of SUBOP. -/
def enables (os : List Opd) (sub : Nat) : List Bad :=
  let one (b role : Nat) : List Bad :=
    let o := opd? os role
    [match o with
      | some x => atOpd .badDescriptor x 0 (!sub.testBit b)
      | none => atField .badDescriptor 40 (sub.testBit b)]
  one 0 3 ++ one 1 4

/-- Whether an operand counts as an integer one for R67; a LOWRANK operand never does (R82). -/
def opdInt (o : Opd) : Bool := fmtInt o.fmt && !o.lowrank

/-- R67 and R74 on the operands A and B of a matrix kind. -/
def pairing (os : List Opd) : List Bad :=
  let a := opd os 1
  let b := opd os 2
  [atOpd .badDescriptor b 1 (opdInt a != opdInt b), atOpd .badDescriptor b 3 (a.outl && b.outl),
   atOpd .badDescriptor a 3 (a.outl && (opdInt a || fmtMx a.fmt)), atOpd .badDescriptor b 3 (b.outl && (opdInt b || fmtMx b.fmt))]

/-- The rules of R140 and Table 4.7 on ALPHA, the activation code and an INT32 output; `bare` allows INT32. -/
def alphaRules (p : Post) (os : List Opd) (bare : Bool) : List Bad :=
  let ints := opdInt (opd os 1) && opdInt (opd os 2)
  let o := opd os 5
  [atField .badDescriptor 18 (decide (5 < bits (tSub p) 2 3)), atField .badDescriptor 56 (!isFin (dec32 (tP0 p))),
   atOpd .badDescriptor o 1 (o.fmt == 0x0B && !(bare && ints && tSub p == 0 && tP0 p == 0x3F800000))]

/-- MATMUL (R138 to R140). -/
def kMatmul (p : Post) (os : List Opd) : Kind :=
  let m := tM p
  let n := tN p
  let k := tK p
  { req := [1, 2, 5], opt := [3, 4], mixes := false, resv := nonZero p [(44, 4), (60, 4)] ++ subOutside p 0x1F
    sizing := [], limits := [limM p, limN p, limK p], roles4 := enables os (tSub p)
    shapes := [{ mat 1 m 20 k 28 fmtArith with lowrank := true, outl := true },
      { mat 2 k 28 n 24 fmtArith with lowrank := true, outl := true }, mat 3 1 0 n 24 fmtFloat,
      { mat 4 m 20 n 24 fmtFloat with lowrank := true }, mat 5 m 20 n 24 fmtOk]
    late4 := pairing os ++ alphaRules p os true
    zero := m == 0 || n == 0 || k == 0 }

/-- GROUPED_MATMUL (R144). -/
def kGrouped (p : Post) (os : List Opd) : Kind :=
  let m := tM p
  let n := tN p
  let k := tK p
  let topk := bits (tSub p) 8 4
  { req := [1, 2, 0x0B, 5], opt := [3, 4], mixes := false, resv := subOutside p 0xF1F
    sizing := (if topk = 0 then [18] else []) ++ (if tBatch p = 0 then [44] else [])
    limits := [limM p, limN p, limK p, atField .badLength 44 (decide (256 < tBatch p))]
    roles4 := enables os (tSub p) ++ [atField .badDescriptor 18 (decide (8 < topk))]
    shapes := [{ mat 1 m 20 k 28 fmtArith with lowrank := true, outl := true },
      { mat 2 k 28 n 24 fmtArith with lowrank := true }, mat 3 (tBatch p) 44 n 24 fmtFloat,
      { mat 4 m 20 n 24 fmtFloat with lowrank := true }, recd 0x0B (8 * m * topk), mat 5 m 20 n 24 fmtArith]
    late4 := pairing os ++ alphaRules p os false
    zero := m == 0 || n == 0 || k == 0 }

/-- ROUTE (R142). -/
def kRoute (p : Post) : Kind :=
  let topk := bits (tSub p) 0 4
  { req := [1, 5], opt := [], mixes := false, resv := nonZero p [(28, 4), (44, 4), (56, 4), (60, 4)] ++ subOutside p 0x7F
    sizing := if topk = 0 then [18] else []
    limits := [limM p, atField .badLength 24 (decide (256 < tN p))]
    roles4 := [atField .badDescriptor 18 (decide (8 < topk) || decide (tN p < topk) && tN p != 0 || bits (tSub p) 4 2 == 3)]
    shapes := [mat 1 (tM p) 20 (tN p) 24 fmtArith, { recd 5 (8 * tM p * topk) with store := true }]
    late4 := [], zero := tM p == 0 || tN p == 0 }

/-- NORM (R145). -/
def kNorm (p : Post) (os : List Opd) : Kind :=
  let eps := dec32 (tP0 p)
  { req := [1, 9, 5], opt := [0x0A], mixes := false, resv := nonZero p [(28, 4), (44, 4), (60, 4)]
    sizing := [], limits := [limM p, limN p]
    roles4 := [atField .badDescriptor 18 (decide (1 < tSub p)),
      match opd? os 0x0A with | some b => atOpd .badDescriptor b 0 (tSub p == 0) | none => none]
    shapes := [mat 1 (tM p) 20 (tN p) 24 fmtArith, mat 9 1 0 (tN p) 24 fmtArith, mat 0x0A 1 0 (tN p) 24 fmtArith,
      mat 5 (tM p) 20 (tN p) 24 fmtArith]
    late4 := [atField .badDescriptor 56 (!isFin eps || (signOf eps && !isZero eps))]
    zero := tM p == 0 || tN p == 0 }

/-- Whether Table 4.10 requires B. -/
def elemNeedsB (sub : Nat) : Bool := decide (sub ≤ 4) || sub == 7

/-- ELEMENTWISE (R147). -/
def kElementwise (p : Post) (os : List Opd) : Kind :=
  let sub := tSub p
  let bc := match opd? os 2 with | some b => b.bcast | none => false
  let keep := dec32 (tP0 p)
  { req := [1, 5], opt := [2], mixes := false
    resv := nonZero p ([(28, 4), (44, 4)] ++ (if sub = 5 ∨ sub = 8 then [] else [(56, 4)]) ++
        (if sub = 6 ∨ sub = 7 ∨ sub = 8 then [] else [(60, 4)])) ++
      (if (sub == 6 || sub == 7) && decide (7 < tP1 p) then [60] else [])
    sizing := []
    limits := [limM p, limN p, match opd? os 2 with | some b => atOpd .badLength b 4 (b.bcast && b.ld != 0) | none => none]
    roles4 := [atField .badDescriptor 18 (decide (8 < sub)),
      match opd? os 2 with
        | some b => atOpd .badDescriptor b 0 (!elemNeedsB sub)
        | none => atField .badDescriptor 40 (elemNeedsB sub)]
    shapes := [mat 1 (tM p) 20 (tN p) 24 fmtArith, mat 2 (if bc then 1 else tM p) 20 (tN p) 24 fmtArith,
      mat 5 (tM p) 20 (tN p) 24 fmtArith]
    late4 := [atField .badDescriptor 60 ((sub == 6 || sub == 7) && decide (5 < bits (tP1 p) 0 3)),
      atField .badDescriptor 56 (sub == 8 && (!isFin keep || !vlt vZero keep || vlt vOne keep))]
    zero := tM p == 0 || tN p == 0 }

/-- SOFTMAX (R146). -/
def kSoftmax (p : Post) : Kind :=
  { req := [1, 5], opt := [], mixes := false, resv := nonZero p [(28, 4), (44, 4), (60, 4)] ++ subOutside p 0
    sizing := [], limits := [limM p, limN p], roles4 := []
    shapes := [mat 1 (tM p) 20 (tN p) 24 fmtArith, mat 5 (tM p) 20 (tN p) 24 fmtArith]
    late4 := [atField .badDescriptor 56 (!isFin (dec32 (tP0 p)))], zero := tM p == 0 || tN p == 0 }

/-- GATHER (R149). -/
def kGather (p : Post) (os : List Opd) : Kind :=
  { req := [6, 7, 5], opt := [], mixes := false, resv := nonZero p [(28, 4), (56, 4), (60, 4)] ++ subOutside p 0
    sizing := if tBatch p = 0 then [44] else []
    limits := [limM p, limN p], roles4 := []
    shapes := [{ mat 6 (tBatch p) 44 (tN p) 24 fmtOk with trans := false, tiers := [0, 1, 2] }, recd 7 (4 * tM p),
      { mat 5 (tM p) 20 (tN p) 24 fmtOk with trans := false }]
    late4 := [atOpd .badDescriptor (opd os 5) 1 ((opd os 5).fmt != (opd os 6).fmt)], zero := tM p == 0 || tN p == 0 }

/-- The formats of SAMPLE's logits and of the moments (R154, R159). -/
def fmt32or16 (f : Nat) : Bool := f == 0x01 || f == 0x03

/-- SAMPLE (R154). -/
def kSample (p : Post) : Kind :=
  { req := [1, 8, 5], opt := [], mixes := false, resv := nonZero p [(28, 4), (44, 4), (56, 4), (60, 4)] ++ subOutside p 0
    sizing := [], limits := [limM p, limN p], roles4 := []
    shapes := [mat 1 (tM p) 20 (tN p) 24 fmt32or16, { recd 8 (32 * tM p) with fmts := fmtOk },
      { recd 5 (8 * tM p) with store := true }]
    late4 := [], zero := tM p == 0 || tN p == 0 }

/-- CONVERT (R150). -/
def kConvert (p : Post) : Kind :=
  { req := [1, 5], opt := [], mixes := false, resv := nonZero p [(28, 4), (44, 4), (60, 4)] ++ subOutside p 0
    sizing := [], limits := [limM p, limN p], roles4 := []
    shapes := [{ mat 1 (tM p) 20 (tN p) 24 fmtArith with lowrank := true }, mat 5 (tM p) 20 (tN p) 24 fmtOk]
    late4 := [atField .badDescriptor 56 (!isFin (dec32 (tP0 p)))], zero := tM p == 0 || tN p == 0 }

/-- COMPRESS (R152). -/
def kCompress (p : Post) (os : List Opd) (x : PartSt) : Kind :=
  let id := bits (tP1 p) 0 14
  let kd := bits (tSub p) 0 3
  let sc := dec32 (tP0 p)
  { req := [1, 5], opt := [], mixes := true
    resv := nonZero p [(28, 4), (44, 4)] ++ (if 16383 < tP1 p then [60] else []) ++ subOutside p 7
    sizing := [], limits := [atField .badLength 20 (decide (16384 < tM p)), limN p]
    roles4 := [atField .badDescriptor 18 (kd == 0 || decide (4 < kd))]
    shapes := [mat 1 (tM p) 20 (tN p) 24 fmtFloat,
      { mat 5 (tM p) 20 (tN p) 24 ufmtOk with lowrank := true, trans := false }]
    late4 := [atOpd .badDescriptor (opd os 5) 3 (!(opd os 5).lowrank), atField .badDescriptor 56 (!isFin sc || isZero sc),
      atField .badDescriptor 60 (decide (id < basisBaseOf x) || decide (basisBaseOf x + basisCountOf x ≤ id))]
    zero := tM p == 0 || tN p == 0 }

/-- REDUCE (R148). Axis 1 writes a vector of M elements, axis 0 one of N. -/
def kReduce (p : Post) : Kind :=
  let axis1 := (tSub p).testBit 2
  { req := [1, 5], opt := [], mixes := !axis1, resv := nonZero p [(28, 4), (44, 4), (56, 4), (60, 4)] ++ subOutside p 7
    sizing := [], limits := [limM p, limN p], roles4 := []
    shapes := [mat 1 (tM p) 20 (tN p) 24 fmtArith,
      if axis1 then mat 5 1 0 (tM p) 20 fmtArith else mat 5 1 0 (tN p) 24 fmtArith]
    late4 := [], zero := tM p == 0 || tN p == 0 }

/-- COPY's LENGTH (Table 4.1). -/
def copyLen (p : Post) : Nat := dNat p 20 8

/-- COPY (R151): bytes, or blocks of A's extent. -/
def kCopy (p : Post) (os : List Opd) : Kind :=
  let a := opd os 1
  let o := opd os 5
  let blocks := (tSub p).testBit 0
  let sh (role ext : Nat) : Shape :=
    { mat role 1 0 1 0 fmtOk with
      trans := false, lowrank := true, tiers := [0, 1, 2, 3]
      raw := some (if blocks then copyLen p * ext * 64 else copyLen p) }
  { req := [1, 5], opt := [], mixes := true, resv := nonZero p [(28, 4), (44, 4), (56, 4), (60, 4)] ++ subOutside p 1
    sizing := [], limits := [], roles4 := []
    shapes := [sh 1 a.extent, sh 5 o.extent]
    late4 := [atOpd .badDescriptor a 3 (a.lowrank != blocks), atOpd .badDescriptor o 3 (o.lowrank != blocks),
      atOpd .badDescriptor o 24 (blocks && a.extent != o.extent)]
    zero := copyLen p == 0 }

/-- GRAD_WEIGHT (R156). -/
def kGradWeight (p : Post) (os : List Opd) : Kind :=
  { req := [1, 2, 5], opt := [], mixes := true, resv := nonZero p [(44, 4), (56, 4), (60, 4)] ++ subOutside p 1
    sizing := [], limits := [limM p, limN p, limK p], roles4 := []
    shapes := [{ mat 1 (tM p) 20 (tK p) 28 fmtArith with outl := true },
      { mat 2 (tM p) 20 (tN p) 24 fmtArith with outl := true }, mat 5 (tK p) 28 (tN p) 24 fmt32or16]
    late4 := pairing os, zero := tM p == 0 || tN p == 0 || tK p == 0 }

/-- ACT_BWD (R157). -/
def kActBwd (p : Post) : Kind :=
  { req := [1, 0x0E, 5], opt := [], mixes := false, resv := nonZero p [(28, 4), (44, 4), (56, 4), (60, 4)] ++ subOutside p 7
    sizing := [], limits := [limM p, limN p], roles4 := [atField .badDescriptor 18 (decide (5 < bits (tSub p) 0 3))]
    shapes := [mat 1 (tM p) 20 (tN p) 24 fmtArith, mat 0x0E (tM p) 20 (tN p) 24 fmtArith,
      mat 5 (tM p) 20 (tN p) 24 fmtArith]
    late4 := [], zero := tM p == 0 || tN p == 0 }

/-- NORM_BWD (R158). -/
def kNormBwd (p : Post) : Kind :=
  let eps := dec32 (tP0 p)
  { req := [1, 9, 0x0E, 5], opt := [], mixes := false, resv := nonZero p [(28, 4), (44, 4), (60, 4)] ++ subOutside p 0
    sizing := [], limits := [limM p, limN p], roles4 := []
    shapes := [mat 1 (tM p) 20 (tN p) 24 fmtArith, mat 9 1 0 (tN p) 24 fmtArith,
      mat 0x0E (tM p) 20 (tN p) 24 fmtArith, mat 5 (tM p) 20 (tN p) 24 fmtArith]
    late4 := [atField .badDescriptor 56 (!isFin eps || (signOf eps && !isZero eps))]
    zero := tM p == 0 || tN p == 0 }

/-- OPTIM_ADAMW (R159): A and the moments are written in place. -/
def kOptim (p : Post) : Kind :=
  { req := [1, 0x0E, 0x0C, 0x0D, 8], opt := [], mixes := true
    resv := nonZero p [(28, 4), (44, 4), (56, 4), (60, 4)] ++ subOutside p 0
    sizing := [], limits := [limM p, limN p], roles4 := []
    shapes := [{ mat 1 (tM p) 20 (tN p) 24 (· == 0x01) with store := true }, mat 0x0E (tM p) 20 (tN p) 24 fmtArith,
      { mat 0x0C (tM p) 20 (tN p) 24 fmt32or16 with store := true },
      { mat 0x0D (tM p) 20 (tN p) 24 fmt32or16 with store := true }, { recd 8 64 with fmts := fmtOk }]
    late4 := [], zero := tM p == 0 || tN p == 0 }

/-- The kind of an opcode of Table 4.6 with the values of a descriptor. -/
def kindOf (op : Nat) (p : Post) (os : List Opd) (x : PartSt) : Kind :=
  match op with
  | 0x0101 => kMatmul p os | 0x0102 => kGrouped p os | 0x0103 => kRoute p | 0x0104 => kNorm p os
  | 0x0105 => kElementwise p os | 0x0106 => kSoftmax p | 0x0107 => kGather p os | 0x0108 => kSample p
  | 0x0109 => kConvert p | 0x010A => kCompress p os x | 0x010B => kReduce p | 0x010C => kCopy p os
  | 0x0110 => kGradWeight p os | 0x0111 => kActBwd p | 0x0112 => kNormBwd p | _ => kOptim p

/-! ## Operands that the lock-keeper stages (R285) -/

/-- The tier number of this model for an operand staged in the lock-keeper's region. -/
def stagedTier : Nat := 4

/-- Where the staged operand of a role lies in the staging area of a step's task. -/
def stagedAddr (p : Post) (role : Nat) : Nat :=
  match p.src with
  | .ring .. => 0
  | .step part k => part.val * 2 ^ 56 + k * 2 ^ 40 + role * 2 ^ 34

/-- Where the decode-state array of a partition's step lies. -/
def dstateAddr (part : Nat) : Nat := part * 2 ^ 56 + 65535 * 2 ^ 40

/-- Two markers among the staged operands: the role whose operand is the decode-state array, and the rows that a task split by
page holder takes (R287). -/
def dstateMark : Nat := 0xFE
def rowsMark : Nat := 0xFF

def stagedOf (p : Post) (role : Nat) : Option (List Byte) := (p.staged.find? (fun s => s.role.toNat == role)).map (·.bytes)

/-- The rows that a task takes: none named for all. -/
def selRows (p : Post) : List Nat :=
  match stagedOf p rowsMark with
  | some bs => (List.range (bs.length / 4)).map (fun i => leAt bs (4 * i) 4)
  | none => []

/-- The operand descriptors of a task, staged roles placed in the staging area, packed. -/
def taskOpds (p : Post) : List Opd :=
  let sel := selRows p
  (opdsOf p).map (fun o =>
    if (stagedOf p o.role).isSome then { o with tier := stagedTier, addr := stagedAddr p o.role, ld := 0 }
    else if (stagedOf p dstateMark).any (fun bs => leAt bs 0 1 == o.role) then
      { o with tier := stagedTier, addr := dstateAddr (dNat p 17 1), ld := 0 }
    else if [1, 5, 0x0F, 0x10].contains o.role then { o with sel := sel } else o)

/-! ## The checks of Table 4.4 -/

/-- The least of a list of offsets. -/
def leastOff (l : List Nat) : Option Nat :=
  l.foldl (fun b x => match b with | none => some x | some y => some (min x y)) none

/-- Check 1: the lowest offending field of the descriptor, else the first reserved field of the argument block. -/
def check1 (d : Dev) (p : Post) (os : List Opd) (k : Kind) : Bad :=
  let owned := mayName d (poster d p) (dNat p 17 1)
  let req := dNat p 8 8
  let map := dNat p 48 8
  let offs := k.resv ++ nonZero p [(42, 2)] ++ (if dNat p 16 1 == 1 then [] else [16]) ++ (if owned then [] else [17]) ++
    (if req != 0 && (map != 0 || k.mixes) then [8] else []) ++ (if map != 0 && (k.mixes || map % 8 != 0) then [48] else []) ++
    (if dNat p 32 8 % 64 != 0 then [32] else [])
  match leastOff offs with
  | some o => some (.badDescriptor, o)
  | none => firstBad (os.map (fun o => firstBad [
      atOpd .badDescriptor o 3 (o.resv && leAt p.arg (32 * o.ix + 28) 4 == 0),
      atOpd .badDescriptor o 24 (!o.lowrank && o.extent != 0), atOpd .badDescriptor o 28 o.resv]))

/-- Check 2: the structure-sizing fields that are 0. -/
def check2 (p : Post) (os : List Opd) (k : Kind) : Bad :=
  firstBad ([atField .badLength 40 (dNat p 40 2 == 0)] ++ k.sizing.map (fun o => some (.badLength, o)) ++
    os.map (fun o => atOpd .badLength o 24 (o.lowrank && o.extent == 0)))

/-- R53 on a dense MX operand: its stored row and its LD. -/
def mxShape (s : Shape) (o : Opd) : Bad :=
  let n := storedCols o s.r s.c
  if fmtMx o.fmt && !o.lowrank && s.raw.isNone then
    firstBad [atField .badLength (if o.trans then s.rOff else s.cOff) (n % 32 != 0), atOpd .badLength o 4 (n != 0 && o.ld % 32 != 0)]
  else none

/-- Each shape of a kind with the operand that has its role. -/
def shaped (k : Kind) (os : List Opd) : List (Shape × Opd) :=
  k.shapes.filterMap (fun s => (opd? os s.role).map (fun o => (s, o)))

/-- Check 3. -/
def check3 (os : List Opd) (k : Kind) : Bad :=
  firstBad (k.limits ++ (shaped k os).map (fun so => mxShape so.1 so.2))

/-- The roles: one that the kind has no use for or that stands twice, and one that is missing (R123, R126). -/
def roleRules (os : List Opd) (k : Kind) : Bad :=
  firstBad (os.map (fun o => atOpd .badDescriptor o 0 (!(k.req ++ k.opt).contains o.role ||
      os.any (fun q => decide (q.ix < o.ix) && q.role == o.role))) ++
    k.req.map (fun r => atField .badDescriptor 40 (opd? os r).isNone))

/-- Format, LAYOUT bits and tier of an operand. -/
def formRules (op : Nat) (s : Shape) (o : Opd) : Bad :=
  firstBad [atOpd .badDescriptor o 1 (!fmtOk o.fmt || !s.fmts o.fmt),
    atOpd .badDescriptor o 3 ((o.trans && (!s.trans || o.lowrank)) || (o.lowrank && !s.lowrank) || (o.outl && !s.outl) ||
      (o.bcast && !(op == 0x0105 && o.role == 2))),
    atOpd .badDescriptor o 2 (!(o.tier == stagedTier || s.tiers.contains o.tier))]

/-- The byte ranges of an operand: of a record operand, of a LOWRANK operand's first block, of a dense one with its scales or
outlier records. -/
def rangesOf (s : Shape) (o : Opd) : List (Nat × Nat) :=
  match s.raw with
  | some n => [(o.addr, n)]
  | none => if o.lowrank then [(o.addr, o.extent * 64)] else opdRanges o s.r s.c

/-- The outlier records of an operand of `r` rows and inner dimension `k` (R74). -/
def outlRange (o : Opd) (r k : Nat) : List (Nat × Nat) :=
  if o.outl then [(o.aux, ceilDiv k 256 * (8 + 16 * r))] else []

/-- The ranges of an operand of a task: the experts of GROUPED_MATMUL's B each their own (R144). -/
def taskRanges (op : Nat) (p : Post) (s : Shape) (o : Opd) : List (Nat × Nat) :=
  let extra := match op with
    | 0x0110 => outlRange o s.c (tM p)
    | _ => outlRange o (if o.role = 2 then s.c else s.r) (tK p)
  if op == 0x0102 && o.role == 2 then
    (List.range (tBatch p)).flatMap (fun g => rangesOf s (expertOf o (tP1 p) g))
  else rangesOf s o ++ extra

/-- Ranges outside the partition, a dense operand on a BLOCK page, a block that is not 64-byte aligned (R81, R111, R125). -/
def placeRules (d : Dev) (x : PartSt) (op : Nat) (p : Post) (s : Shape) (o : Opd) : Bad :=
  if o.tier == stagedTier then none
  else
    let rs := taskRanges op p s o
    firstBad [atOpd .badDescriptor o 8 (!rs.all (fun r => rangeOk d x o.tier r.1 r.2 s.store (!o.lowrank))),
      atOpd .badDescriptor o 8 (o.lowrank && (o.addr % 64 != 0 || !rs.all (fun r => blockKeysOk x o.tier r.1 r.2)))]

/-- Whether R127 allows OUT to share A's range. -/
def mayShare (op : Nat) (a b : Opd) : Bool :=
  (op == 0x0104 || op == 0x0105 || op == 0x0106 || op == 0x0109) &&
    ((a.role == 1 && b.role == 5) || (a.role == 5 && b.role == 1)) && a.addr == b.addr && fmtBits a.fmt == fmtBits b.fmt &&
    a.ld == b.ld && !a.lowrank && !b.lowrank

/-- A forbidden overlap (R127): the ADDR field of the operand descriptor that lies later. -/
def overlapRule (op : Nat) (p : Post) (so : List (Shape × Opd)) : Bad :=
  firstBad (so.map (fun b => atOpd .badDescriptor b.2 8 (so.any (fun a =>
    decide (a.2.ix < b.2.ix) && a.2.tier == b.2.tier && !mayShare op a.2 b.2 &&
      (taskRanges op p a.1 a.2).any (fun r => (taskRanges op p b.1 b.2).any (meets r))))))

/-- Check 4. -/
def check4 (d : Dev) (x : PartSt) (op : Nat) (p : Post) (os : List Opd) (k : Kind) : Bad :=
  let so := shaped k os
  firstBad ([roleRules os k] ++ k.roles4 ++ so.map (fun e => formRules op e.1 e.2) ++ k.late4 ++
    so.map (fun e => placeRules d x op p e.1 e.2) ++ [overlapRule op p so])

/-- The basis IDs that a task's operands name: those of its LOWRANK inputs, and COMPRESS's own. A block copy reads none
(R151). -/
def basisIds (d : Dev) (x : PartSt) (op : Nat) (p : Post) (os : List Opd) : List Nat :=
  if op == 0x010C then []
  else dedup ((os.filter (fun o => o.lowrank && o.role != 5)).map (lrBasis d x []) ++
    (if op == 0x010A then [bits (tP1 p) 0 14] else []))

/-- Check 6: whether the tile-store operands and the V of the generations that the task pins fit in the partition's tile
store (R89); the spec does not size a working set, DEDUCED (log 23). -/
def workingSetFits (d : Dev) (x : PartSt) (op : Nat) (p : Post) (so : List (Shape × Opd)) (pins : List (Nat × Bool)) : Bool :=
  let t0 := ((so.filter (fun e => e.2.tier == 0)).flatMap (fun e => taskRanges op p e.1 e.2)).foldl (fun n r => n + r.2) 0
  let vs := pins.foldl (fun n q => n + 2 * (slotOf (getBasis d q.1) q.2).v.length) 0
  decide (t0 + vs ≤ tileCount x * 2 ^ 26)

/-- What acceptance answers: the task ends at once with a status, or it may start. -/
inductive Accepted where
  | stop (st : Status) (detail : Nat)
  | go
deriving DecidableEq, Repr

/-- The checks of Table 4.4 in order for the kind `k` of opcode `op`. -/
def acceptTask (d : Dev) (op : Nat) (p : Post) (os : List Opd) (k : Kind) : Accepted :=
  let x := getPart d (dNat p 17 1)
  match firstBad [check1 d p os k, check2 p os k, check3 os k, check4 d x op p os k] with
  | some (st, detail) => .stop st detail
  | none =>
    if k.zero then .stop .ok 0
    else if workingSetFits d x op p (shaped k os) ((basisIds d x op p os).flatMap (pinsOf d)) then .go
    else .stop .quotaExceeded 0

end Sys2Proof.Machine
end

