-- ==== Sys2Proof/Machine/Compute.lean ====
section
/-! DEFINITION. What each task kind of Table 4.6 computes from its operands, the failures its data can raise, and the commit of
its output (04_tasks.md R132, R136, R138 to R159). -/
namespace Sys2Proof.Machine

/-- The result of a task's computation: the writes of its output, the flags by row, the failures met. -/
structure TaskOut where
  writes : List OutW
  flags  : List (Nat × NumFlags)
  fails  : List (Status × Nat)

/-- The byte ranges of an operand's stored rows with their scales: what a work item reads of it. -/
def readRanges (s : Shape) (o : Opd) : List (Nat × Nat) :=
  match s.raw with
  | some n => [(o.addr, n)]
  | none =>
    let w := fmtBits o.fmt
    let C := storedCols o s.r s.c
    (List.range (storedRows o s.r s.c)).flatMap (fun i =>
      let n0 := i * ldOf o s.r s.c
      (o.addr + n0 * w / 8, ceilDiv (n0 * w % 8 + C * w) 8) ::
        (if fmtMx o.fmt then [(o.aux + n0 / 32, ceilDiv C 32)] else []))

/-- The failures that reading an operand meets: uncorrectable lines, or the failures of its blocks (R101 to R103). -/
def inputFails (c : Ctx) (op : Nat) (p : Post) (s : Shape) (o : Opd) : List (Status × Nat) :=
  if o.lowrank && s.raw.isNone then
    if op == 0x0102 && o.role == 2 then
      (List.range (tBatch p)).flatMap (fun g => lrFails c.d c.x c.buf c.pins (expertOf o (tP1 p) g) s.r s.c)
    else lrFails c.d c.x c.buf c.pins o s.r s.c
  else
    let rs := if op == 0x0102 && o.role == 2 then
        (List.range (tBatch p)).flatMap (fun g => readRanges s (expertOf o (tP1 p) g))
      else readRanges s o
    let recs := if o.outl then
        (if op == 0x0110 then outlRange o s.c (tM p) else outlRange o (if o.role = 2 then s.c else s.r) (tK p))
      else []
    (rs ++ recs).flatMap (fun r => (badIn c.d c.x o.tier r.1 r.2).map (fun l => (Status.memUncorrectable, l)))

/-- A broken outlier record of an operand (R74). -/
def outlFails (c : Ctx) (o : Opd) (R k : Nat) : List (Status × Nat) :=
  if o.outl && (List.range (ceilDiv k 256)).any (fun ch => outlBad (outlRec c o R ch)) then [(.badDescriptor, 0)] else []

/-- One write of `n` bytes for each 64-byte line that a byte string from `a` touches. -/
def lineWrites (row tier a : Nat) (bs : List Byte) : List OutW :=
  if bs.isEmpty then []
  else (List.range ((a + bs.length - 1) / 64 + 1 - a / 64)).map (fun i =>
    let lo := if i = 0 then a else (a / 64 + i) * 64
    let hi := min (a + bs.length) ((a / 64 + i + 1) * 64)
    ⟨row, tier, lo, 0, 8 * (hi - lo), leNat (slice bs (lo - a) (hi - lo))⟩)

/-- One 8-byte record of an output. -/
def recWrite (o : Opd) (row n v : Nat) : OutW := ⟨row, o.tier, o.addr + 8 * n, 0, 64, v⟩

/-- An output of values. -/
def valuesOut (o : Opd) (r k : Nat) (rows : List (List Num)) : TaskOut :=
  let (ws, fs) := outOf o r k rows
  ⟨ws, fs, []⟩

/-- MATMUL and GROUPED_MATMUL. -/
def outMatmul (c : Ctx) (p : Post) (os : List Opd) : TaskOut :=
  let m := tM p
  let n := tN p
  let k := tK p
  let ints := opdInt (opd os 1) && opdInt (opd os 2)
  let o := opd os 5
  let t := valuesOut o m n (matmulRows c os m n k (tSub p) (tP0 p) (o.fmt == 0x0B) ints)
  { t with fails := outlFails c (opd os 1) m k ++ outlFails c (opd os 2) n k }

def outGrouped (c : Ctx) (p : Post) (os : List Opd) : TaskOut :=
  let m := tM p
  let n := tN p
  let k := tK p
  let ints := opdInt (opd os 1) && opdInt (opd os 2)
  let slots (i : Nat) : List (Nat × Num) := routeSlots c (opd os 0x0B) (bits (tSub p) 8 4) i
  let bad := (List.range m).filter (fun i => routeBad (tBatch p) (slots i))
  let resid := if (tSub p).testBit 1 then matRows c (opd os 4) m n else []
  let rows := ((matRows c (opd os 1) m k).zipIdx).map (fun ai =>
    if bad.contains ai.2 then [] else groupedRow c os m n k (tSub p) (tP0 p) (tP1 p) ints ai.2 ai.1 (rowAt resid ai.2))
  { valuesOut (opd os 5) m n rows with
    fails := outlFails c (opd os 1) m k ++ bad.map (fun i => (Status.badDescriptor, i)) }

/-- ROUTE (R142). -/
def outRoute (c : Ctx) (p : Post) (os : List Opd) : TaskOut :=
  let o := opd os 5
  let k := bits (tSub p) 0 4
  let es := ((matRows c (opd os 1) (tM p) (tN p)).zipIdx).flatMap (fun (a : List Num × Nat) =>
    ((routeRow (tSub p) a.1).zipIdx).map (fun q =>
      (recWrite o a.2 (a.2 * k + q.2) (q.1.1 + enc32 q.1.2.v * 2 ^ 32), (a.2, q.1.2.fl))))
  ⟨es.map (·.1), es.map (·.2), []⟩

/-- NORM (R145). -/
def outNorm (c : Ctx) (p : Post) (os : List Opd) : TaskOut :=
  let n := tN p
  let gamma := rowAt (matRows c (opd os 9) 1 n) 0
  let beta := (opd? os 0x0A).map (fun b => rowAt (matRows c b 1 n) 0)
  valuesOut (opd os 5) (tM p) n
    ((matRows c (opd os 1) (tM p) n).map (normRow (tSub p == 1) (num (dec32 (tP0 p))) gamma beta))

/-- ELEMENTWISE (R147). -/
def outElementwise (c : Ctx) (p : Post) (os : List Opd) (seeds : List W64) : TaskOut :=
  let m := tM p
  let n := tN p
  let sub := tSub p
  let b := opd os 2
  let brows := if elemNeedsB sub then (if b.bcast then matRows c b 1 n else matRows c b m n) else []
  let rows := ((matRows c (opd os 1) m n).zipIdx).map (fun (a : List Num × Nat) =>
    let br := if b.bcast then rowAt brows 0 else rowAt brows a.2
    (a.1.zipIdx).map (fun q =>
      let u := if sub = 8 then draw (seeds.getD a.2 0) (BitVec.ofNat 32 (tP1 p + a.2)) 2 q.2 else num vZero
      elemOp sub (tP0 p) (tP1 p) u q.1 (at' br q.2)))
  valuesOut (opd os 5) m n rows

/-- SOFTMAX (R146). -/
def outSoftmax (c : Ctx) (p : Post) (os : List Opd) : TaskOut :=
  let f := num (dec32 (tP0 p))
  valuesOut (opd os 5) (tM p) (tN p)
    ((matRows c (opd os 1) (tM p) (tN p)).map (fun row => softmaxRow (row.map (fun q => nmul q f))))

/-- GATHER (R149): encodings move as they are, with their scales. -/
def outGather (c : Ctx) (p : Post) (os : List Opd) : TaskOut :=
  let o := opd os 5
  let t := opd os 6
  let ix := opd os 7
  let n := tN p
  let w := fmtBits t.fmt
  let idx (i : Nat) : Nat := leNat (tierBytes c.d c.x c.buf ix.tier (ix.addr + 4 * i) 4)
  let rows := List.range (tM p)
  let bad := rows.filter (fun i => decide (tBatch p ≤ idx i))
  let ws := (rows.filter (fun i => !bad.contains i)).flatMap (fun i =>
    (List.range n).map (fun j => (⟨i, o.tier, o.addr, elemIx o (tM p) n i j * w, w,
      elemBits c.d c.x c.buf t.tier t.fmt t.addr (elemIx t (tBatch p) n (idx i) j)⟩ : OutW)) ++
    (if fmtMx t.fmt then (List.range (n / 32)).map (fun b =>
      (⟨i, o.tier, o.aux + elemIx o (tM p) n i (32 * b) / 32, 0, 8,
        (tierByte c.d c.x c.buf t.tier (t.aux + elemIx t (tBatch p) n (idx i) (32 * b) / 32)).toNat⟩ : OutW)) else []))
  ⟨ws, [], bad.map (fun i => (.badDescriptor, i))⟩

/-- The sampling record of row `i`. -/
def samplingRec (c : Ctx) (ps : Opd) (i : Nat) : List Byte := tierBytes c.d c.x c.buf ps.tier (ps.addr + 32 * i) 32

/-- SAMPLE (R154, R155). -/
def outSample (c : Ctx) (p : Post) (os : List Opd) : TaskOut :=
  let o := opd os 5
  let ps := opd os 8
  let chk (i : Nat) : Option Status := samplingCheck (samplingRec c ps i)
  let es := ((matRows c (opd os 1) (tM p) (tN p)).zipIdx).map (fun (a : List Num × Nat) =>
    let r := samplingRec c ps a.2
    let s := sampleRow r a.1
    let lp := if (leAt r 6 1).testBit 1 then enc32 s.2.v else 0
    (recWrite o a.2 a.2 (s.1 + lp * 2 ^ 32), (a.2, s.2.fl)))
  ⟨es.map (·.1), es.map (·.2), (List.range (tM p)).filterMap (fun i => (chk i).map (fun st => (st, i)))⟩

/-- CONVERT (R150). -/
def outConvert (c : Ctx) (p : Post) (os : List Opd) : TaskOut :=
  let f := num (dec32 (tP0 p))
  valuesOut (opd os 5) (tM p) (tN p)
    ((matRows c (opd os 1) (tM p) (tN p)).map (fun row => row.map (fun q => nmul q f)))

/-- COMPRESS (R152, R153): the slot is the one that was CURRENT when its work item was enqueued. -/
def outCompress (c : Ctx) (p : Post) (os : List Opd) : TaskOut :=
  let o := opd os 5
  let id := bits (tP1 p) 0 14
  let fail (st : Status) : TaskOut := ⟨[], [], [(st, detailOf c.x o.tier o.addr)]⟩
  match c.pins with
  | [] => fail .basisAbsent
  | q :: _ =>
    let s := slotOf (getBasis c.d q.1) q.2
    if fmtMx o.fmt && (s.rank == 8 || s.rank == 16 || s.columns % 32 != 0) then fail .badLength
    else if tN p != s.columns then fail .badDescriptor
    else if o.extent * 64 != blockLen o.fmt (tM p) s.rank then fail .blockSize
    else
      let us := (matRows c (opd os 1) (tM p) (tN p)).map (compressU s (num (dec32 (tP0 p))))
      let (bs, fl) := formBlock (bits (tSub p) 0 3) o.fmt id s.gen (tP0 p) s us
      ⟨lineWrites 0 o.tier o.addr bs, [(0, fl)], []⟩

/-- REDUCE (R148). -/
def outReduce (c : Ctx) (p : Post) (os : List Opd) : TaskOut :=
  let o := opd os 5
  let rows := matRows c (opd os 1) (tM p) (tN p)
  let op := bits (tSub p) 0 2
  if (tSub p).testBit 2 then
    let vals := rows.map (reduceOp op)
    let (ws, fs) := outOf { o with trans := !o.trans } (tM p) 1 (vals.map (fun q => [q]))
    ⟨ws, fs, []⟩
  else valuesOut o 1 (tN p) [(colsOf rows (tN p)).map (reduceOp op)]

/-- COPY (R151): bytes, or whole blocks under checks 1, 2 and 5 of Table 3.4. -/
def outCopy (c : Ctx) (p : Post) (os : List Opd) : TaskOut :=
  let a := opd os 1
  let o := opd os 5
  if (tSub p).testBit 0 then
    let n := a.extent * 64
    let blk (b : Nat) : List Byte := tierBytes c.d c.x c.buf a.tier (a.addr + b * n) n
    let fails := (List.range (copyLen p)).filterMap (fun b =>
      if !blockKeysOk c.x a.tier (a.addr + b * n) n || !blockKeysOk c.x o.tier (o.addr + b * n) n then
        some (Status.badDescriptor, detailOf c.x a.tier (a.addr + b * n))
      else (blockCheck c.d c.x [] none false a.extent (blk b)).map (fun st => (st, detailOf c.x a.tier (a.addr + b * n))))
    ⟨lineWrites 0 o.tier o.addr (tierBytes c.d c.x c.buf a.tier a.addr (copyLen p * n)), [], fails⟩
  else ⟨lineWrites 0 o.tier o.addr (tierBytes c.d c.x c.buf a.tier a.addr (copyLen p)), [], []⟩

/-- GRAD_WEIGHT (R156): the inner dimension is M. -/
def outGradWeight (c : Ctx) (p : Post) (os : List Opd) : TaskOut :=
  let m := tM p
  let n := tN p
  let k := tK p
  let oa := opd os 1
  let ob := opd os 2
  let o := opd os 5
  let ints := opdInt oa && opdInt ob
  let xcols := colsOf (matRows c oa m k) k
  let ycols := colsOf (matRows c ob m n) n
  let old := if (tSub p).testBit 0 then matRows c o k n else []
  let rows := (xcols.zipIdx).map (fun (a : List Num × Nat) =>
    ((accRow c oa ob k n m ints a.2 a.1 ycols).zipIdx).map (fun q =>
      let s := round32 q.1
      if (tSub p).testBit 0 then nadd (at' (rowAt old a.2) q.2) s else s))
  { valuesOut o k n rows with fails := outlFails c oa k m ++ outlFails c ob n m }

/-- ACT_BWD (R157). -/
def outActBwd (c : Ctx) (p : Post) (os : List Opd) : TaskOut :=
  let g := matRows c (opd os 0x0E) (tM p) (tN p)
  let rows := ((matRows c (opd os 1) (tM p) (tN p)).zipIdx).map (fun (a : List Num × Nat) =>
    (a.1.zipIdx).map (fun q => nmul (at' (rowAt g a.2) q.2) (actDer (bits (tSub p) 0 3) q.1)))
  valuesOut (opd os 5) (tM p) (tN p) rows

/-- NORM_BWD (R158). -/
def outNormBwd (c : Ctx) (p : Post) (os : List Opd) : TaskOut :=
  let n := tN p
  let gamma := rowAt (matRows c (opd os 9) 1 n) 0
  let g := matRows c (opd os 0x0E) (tM p) n
  let rows := ((matRows c (opd os 1) (tM p) n).zipIdx).map (fun (a : List Num × Nat) =>
    normBwdRow (num (dec32 (tP0 p))) gamma (rowAt g a.2) a.1)
  valuesOut (opd os 5) (tM p) n rows

/-- OPTIM_ADAMW (R159): the weights and the moments in place. -/
def outOptim (c : Ctx) (p : Post) (os : List Opd) : TaskOut :=
  let m := tM p
  let n := tN p
  let ps := opd os 8
  let h (i : Nat) : Num := num (dec32 (leNat (tierBytes c.d c.x c.buf ps.tier (ps.addr + 4 * i) 4)))
  let w := matRows c (opd os 1) m n
  let g := matRows c (opd os 0x0E) m n
  let m1 := matRows c (opd os 0x0C) m n
  let m2 := matRows c (opd os 0x0D) m n
  let new := (List.range m).map (fun i => (List.range n).map (fun j =>
    adamStep h (at' (rowAt w i) j) (at' (rowAt g i) j) (at' (rowAt m1 i) j) (at' (rowAt m2 i) j)))
  let a := valuesOut (opd os 1) m n (new.map (fun r => r.map (fun q => q.1)))
  let b := valuesOut (opd os 0x0C) m n (new.map (fun r => r.map (fun q => q.2.1)))
  let e := valuesOut (opd os 0x0D) m n (new.map (fun r => r.map (fun q => q.2.2)))
  ⟨a.writes ++ b.writes ++ e.writes, a.flags ++ b.flags ++ e.flags, []⟩

/-- The computation of an opcode of Table 4.6. -/
def computeKind (c : Ctx) (op : Nat) (p : Post) (os : List Opd) (seeds : List W64) : TaskOut :=
  match op with
  | 0x0101 => outMatmul c p os | 0x0102 => outGrouped c p os | 0x0103 => outRoute c p os | 0x0104 => outNorm c p os
  | 0x0105 => outElementwise c p os seeds | 0x0106 => outSoftmax c p os | 0x0107 => outGather c p os
  | 0x0108 => outSample c p os | 0x0109 => outConvert c p os | 0x010A => outCompress c p os | 0x010B => outReduce c p os
  | 0x010C => outCopy c p os | 0x0110 => outGradWeight c p os | 0x0111 => outActBwd c p os | 0x0112 => outNormBwd c p os
  | _ => outOptim c p os

/-- The operands that a task reads: all but OUT, and OUT too where GRAD_WEIGHT accumulates into it. -/
def readsOpd (op : Nat) (p : Post) (o : Opd) : Bool := o.role != 5 || (op == 0x0110 && (tSub p).testBit 0)

/-- The computation of a task with every failure it meets; the data of squashed rows fail nothing (R132). -/
def computeTask (c : Ctx) (op : Nat) (p : Post) (os : List Opd) (seeds : List W64) (squashed : List Nat) : TaskOut :=
  let k := kindOf op p os c.x
  let reads := ((shaped k os).filter (fun e => readsOpd op p e.2)).flatMap (fun e => inputFails c op p e.1 e.2)
  let t := computeKind c op p os seeds
  let byRow := op == 0x0102 || op == 0x0107 || op == 0x0108
  { t with fails := reads ++ t.fails.filter (fun f => !(byRow && (f.1 == .badDescriptor || f.1 == .badLength) && squashed.contains f.2)) }

/-! ## The commit -/

/-- How many bits of the unit at `u` of `n` bytes a write covers. -/
def coverBits (u n : Nat) (o : OutW) : Nat :=
  let lo := max (8 * u) (8 * o.base + o.bit)
  let hi := min (8 * (u + n)) (8 * o.base + o.bit + o.w)
  hi - lo

/-- The writes of rows that are not squashed. -/
def liveWrites (ws : List OutW) (squashed : List Nat) : List OutW := ws.filter (fun o => !squashed.contains o.row)

/-- The bad lines that writes touch, with how many of their bits are written, by tier. -/
def touched (d : Dev) (x : PartSt) (tier : Nat) (ws : List OutW) : List (Nat × Nat) :=
  ((badSeen d x tier).map (fun e =>
    (e.2, (ws.filter (fun o => o.tier == tier)).foldl (fun n o => n + coverBits e.1 (badUnit tier) o) 0))).filter
      (fun e => e.2 != 0)

/-- The failures that writes meet: a write of part of an uncorrectable line or word (R333, R334). -/
def writeFails (d : Dev) (x : PartSt) (ws : List OutW) : List (Status × Nat) :=
  [0, 1, 3].flatMap (fun t => ((touched d x t ws).filter (fun e => e.2 != 8 * badUnit t)).map
    (fun e => (Status.memUncorrectable, lineDetail t 0 e.1)))

/-- The device with the writes performed; the lines and words they write whole are good again. -/
def commitWrites (d : Dev) (x : PartSt) (ws : List OutW) : Dev :=
  let good (t : Nat) (bad : List Nat) : List Nat :=
    let done := ((touched d x t ws).filter (fun e => e.2 == 8 * badUnit t)).map (·.1)
    bad.filter (fun l => !done.contains l)
  let d1 := { d with tsBad := good 0 d.tsBad, hbmBad := good 1 d.hbmBad, hostBad := good 3 d.hostBad }
  ws.foldl (fun d o => putOut d x o) d1

/-- What a failed task leaves in its output: each line holds its former contents or a value the task wrote, which is left
free (R136). -/
def mixWrites (n : Nat) (ws : List OutW) : List OutW :=
  (ws.filter (fun o => Config.freeMix n ((o.base + o.bit / 8) / 64))).map (fun o =>
    { o with v := Config.freeByteOf n (8 * o.base + o.bit) % 2 ^ o.w })

end Sys2Proof.Machine
end

