-- ==== Sys2Proof/Machine/Score.lean ====
section
/-! DEFINITION. The health score and the fences that the rest of the device raises (14_reliability.md R480 to R483, R492 to R498;
01_organisation.md R22 to R25): part numbers, charges, the fence of a part, the substitution of a tile. -/
namespace Sys2Proof.Machine

/-! ## Part numbers of HLT_SCORE_i -/

def partOfTile (phys : Nat) : Nat := phys
def partOfPort (n : Nat) : Nat := 72 + n
def partOfLane (l : Nat) : Nat := 88 + l
def partOfStack (s : Nat) : Nat := 168 + s
def partDevice : Nat := 180

/-- SOURCE of an event about part `i` (Table 14.14). -/
def unitOfPart (i : Nat) : W32 :=
  if i < 72 then unitOf 1 i else if i < 88 then unitOf 2 (i - 72) else if i < 168 then unitOf 3 (i - 88)
  else if i < 180 then unitOf 4 (i - 168) else unitOf 5 0

/-- A part's record. -/
def getHealth (d : Dev) (i : Nat) : HealthPart :=
  tgetD d.health.parts i { score := 0, state := .ok, run := 0, capped := false, granted := false }

def setHealth (d : Dev) (i : Nat) (h : HealthPart) : Dev :=
  { d with health := { d.health with parts := tset d.health.parts i h } }

/-- The device with `k` times weight `w` of HLT_WEIGHT charged to part `i` (R492); counts saturate. -/
def charge (d : Dev) (i w k : Nat) : Dev :=
  if !healthEn d || k == 0 then d
  else
    let n := min 0xFFFFFFFF (tgetD d.health.counts i 0 + weightOf d w * k)
    { d with health := { d.health with counts := tset d.health.counts i n } }

/-- Weight indices of HLT_WEIGHT. -/
def wHbmSym : Nat := 0
def wTsBit : Nat := 1
def wReplay : Nat := 2
def wFec : Nat := 3
def wRetrain : Nat := 4
def wAqRetry : Nat := 5
def wVote : Nat := 6

/-- The device with part `i` FENCED: a fence sets ALERT and asserts ALERT_N (R482, Table 14.8). -/
def fencePart (d : Dev) (i : Nat) : Dev :=
  assertAlert (setHealth d i { getHealth d i with state := .fenced })

/-- A part back in OK: RUN 0, CAPPED cleared (Table 14.8). Its grant is returned where the caller says to whom. -/
def clearPart (d : Dev) (i : Nat) : Dev := setHealth d i 
  { getHealth d i with state := .ok, run := 0, capped := false, granted := false }

/-! ## Tiles -/

/-- TILE_MAP of logical tile `t`; before any substitution it is the physical tile of the same number in its half. -/
def getTile (d : Dev) (t : Nat) : TileMap := tgetD d.tileMap t { phys := t % 32, fenced := false, spared := false }

def setTile (d : Dev) (t : Nat) (m : TileMap) : Dev := { d with tileMap := tset d.tileMap t m }

/-- The physical tile 0 to 71 of a logical tile. -/
def physOf (d : Dev) (t : Nat) : Nat := (t / 32) * 36 + (getTile d t).phys

/-- Whether a logical tile is fenced. -/
def tileFenced (d : Dev) (t : Nat) : Bool := (getTile d t).fenced

/-- The free spares of a half, 0 W and 1 E: unused and not fenced (TILE_FREE, Table 16.6). -/
def freeSpares (d : Dev) (h : Nat) : List Nat :=
  (maskList 36 (if h = 0 then d.tileFreeW.toNat else d.tileFreeE.toNat)).filter
    (fun s => !d.health.spareFence.contains (h * 36 + s))

/-- The device with a spare taken from its half's free set. -/
def takeSpare (d : Dev) (h s : Nat) : Dev :=
  if h = 0 then { d with tileFreeW := d.tileFreeW &&& ~~~(BitVec.ofNat 36 (2 ^ s)) }
  else { d with tileFreeE := d.tileFreeE &&& ~~~(BitVec.ofNat 36 (2 ^ s)) }

/-- A slice cleared to zero: its bytes and its uncorrectable words. -/
def clearSlice (d : Dev) (t : Nat) : Dev :=
  { d with
    ts := memZeroRange d.ts (t * 2 ^ 26) (2 ^ 26)
    tsBad := d.tsBad.filter (fun w => w / 2 ^ 26 != t) }

/-- The substitution of logical tile `t` by the lowest free spare of its half (R24, R497): the device and the spare's
physical number. -/
def substTile (d : Dev) (t : Nat) : Option (Dev × Nat) :=
  let h := t / 32
  match freeSpares d h with
  | [] => none
  | s :: _ =>
    let old := physOf d t
    let d1 := clearPart (takeSpare d h s) old
    some (setTile (clearSlice d1 t) t { phys := s, fenced := false, spared := true }, h * 36 + s)

/-- HLT_SPARED (Table 14.13). -/
def postSpared (d : Dev) (src : W32) (spare : Nat) : Dev := raise d 0x030D src spare

/-- The fence of logical tile `t`, and its substitution when TILE_AUTO is set and a spare remains (R24, R498). -/
def fenceTile (d : Dev) (t : Nat) : Dev :=
  let d1 := setTile (fencePart d (physOf d t)) t { getTile d t with fenced := true }
  if tileAuto d then
    match substTile d1 t with
    | some (d2, s) => postSpared d2 (unitOf 1 (physOf d t)) s
    | none => d1
  else d1

/-- The HLT_UNCORRECTABLE event of an error that an operation reports, DETAIL in the form of Table 3.5 (R339, Table 9.12). Host
memory posts none, and an error of pod memory is posted by the device that holds the line. -/
def postUncorrectable (d : Dev) (detail : Nat) : Dev :=
  match detail / 2 ^ 62 with
  | 0 => raise d 0x0302 (unitOf 0x0C (physOf d (detail % 2 ^ 56 * 64 / 2 ^ 26))) detail
  | 1 => raise d 0x0302 (unitOf 4 (stackOf (detail % 2 ^ 56 * 64))) detail
  | _ => d

end Sys2Proof.Machine
end

