-- ==== Sys2Proof/Machine/Egress.lean ====
section
/-! DEFINITION. Ports: what waits at a port and the order in which it leaves (12_sluice.md R447 to R449, 10_pod_fabric.md R351 to
R353, R358): queues, start-time fair queueing, credits, sequence numbers and the replay buffer. -/
namespace Sys2Proof.Machine

/-- Port `n`. -/
def getPort (d : Dev) (n : Nat) : PortSt := tgetD d.ports n PortSt.reset
def setPort (d : Dev) (n : Nat) (x : PortSt) : Dev := { d with ports := tset d.ports n x }

/-- MODE of port `n`: 0 off, 1 pod, 2 Ethernet. -/
def portMode (d : Dev) (n : Nat) : Nat := cfgField d (.portCtl n) 0 2

/-- Whether a port is fenced (Table 14.3). -/
def portFenced (d : Dev) (n : Nat) : Bool := d.health.portFence.getLsbD n

/-- One cell discarded and counted in the port's record (R348, R358). -/
def countDiscard (d : Dev) (n : Nat) : Dev := setPort d n { getPort d n with discards := (getPort d n).discards + 1 }

/-- The FAB_ROUTE entry toward a device: its ports, none when VALID is 0 (R358, R359). -/
def routePorts (d : Dev) (dst : Nat) : List Nat :=
  if cfgField d (.route dst) 16 1 = 1 then maskList 16 (cfgField d (.route dst) 0 16) else []

/-- The port that a route picks by the hash of what R358 names. -/
def pickPort (d : Dev) (dst src engine tc key : Nat) : Option Nat :=
  match routePorts d dst with
  | [] => none
  | l => l[Config.routeHash src engine tc key % l.length]?

/-- The virtual channel of a request of a traffic class (R349, Table 10.3). -/
def requestVc (d : Dev) (tc : Nat) : Nat := if (cfgField d .tcMap 0 8).testBit tc then 3 else 1

/-! ## Start-time fair queueing (R449) -/

/-- Whether tag `a` comes before tag `b`, modulo 2^32. -/
def tagBefore (a b : W32) : Bool := a != b && (a - b).msb

/-- A queue's tag when it has never held anything. -/
def SchedTag.reset : SchedTag := { s := 0, f := 0, busy := false }

/-- An entity that gets something to send: after holding nothing it takes S = V. -/
def tagJoin (v : W32) (t : SchedTag) : SchedTag := if t.busy then t else { t with s := v, busy := true }

/-- An entity that has been served: F = S + INC, and S = F while it stays backlogged. -/
def tagServe (inc : Nat) (more : Bool) (t : SchedTag) : SchedTag :=
  let f := t.s + BitVec.ofNat 32 inc
  { s := if more then f else t.s, f := f, busy := more }

/-- The key of a tenant queue. -/
def tenKey (cls tenant : Nat) : Nat := cls * 128 + tenant

/-- The scheduler after an item joins a class and a tenant queue. -/
def schedJoin (x : Sched) (cls tenant : Nat) : Sched :=
  { x with
    cls := if cls = 0 then x.cls else tset x.cls cls (tagJoin x.clsV (tgetD x.cls cls SchedTag.reset))
    ten := tset x.ten (tenKey cls tenant) (tagJoin (tgetD x.tenV cls 0) (tgetD x.ten (tenKey cls tenant) SchedTag.reset)) }

/-- The entity with the smallest S among keyed tags, the lower key on a tie. -/
def minTag : List (Nat × W32) → Option Nat
  | [] => none
  | (k, s) :: l =>
    match minTag l with
    | none => some k
    | some j => match l.find? (fun e => e.1 == j) with
      | some e => if tagBefore e.2 s then some j else some k
      | none => some k

/-- INC of a weight. -/
def incOf (w : Nat) : Nat := 2 ^ 24 / w

/-- The device with an item waiting at a port. -/
def egPush (d : Dev) (n cls tenant : Nat) (i : EgItem) : Dev :=
  let P := getPort d n
  setPort d n { P with queue := P.queue ++ [⟨cls, tenant, i⟩], sched := schedJoin P.sched cls tenant }

/-- Whether a waiting item may leave now: a cell needs its link UP, a credit of its VC and room in the replay buffer; a frame
an Ethernet link that is UP (R351, R353, R447). -/
def mayLeave (P : PortSt) (q : QItem) : Bool :=
  match q.item with
  | .cell c => P.link == .up && decide (0 < P.credits.getD c.vc.toNat 0) && decide (P.replay.length < 512)
  | .frame _ => P.link == .up

/-- The heads of the tenant queues of a port that may leave. -/
def eligible (P : PortSt) : List QItem :=
  ((P.queue.foldl (fun (acc : List QItem) q => if acc.any (fun e => e.cls == q.cls && e.tenant == q.tenant) then acc
    else acc ++ [q]) [])).filter (mayLeave P)

/-- The class that the root serves (R448). -/
def pickClass (x : Sched) (el : List QItem) : Option Nat :=
  let others := (List.range 7).filterMap (fun i =>
    if el.any (fun q => q.cls == i + 1) then some (i + 1, (tgetD x.cls (i + 1) SchedTag.reset).s) else none)
  if el.any (fun q => q.cls == 0) && (decide (x.run0 < 4) || others.isEmpty) then some 0 else minTag others

/-- The tenant queue that a class serves. -/
def pickTenant (x : Sched) (el : List QItem) (cls : Nat) : Option Nat :=
  minTag ((List.range 65).filterMap (fun f =>
    if el.any (fun q => q.cls == cls && q.tenant == f) then some (f, (tgetD x.ten (tenKey cls f) SchedTag.reset).s)
    else none))

/-- The scheduler of port `n` after serving a class and a tenant (R448, R449). -/
def schedServe (d : Dev) (n : Nat) (x : Sched) (cls tenant : Nat) (clsMore tenMore : Bool) : Sched :=
  let ct := tgetD x.cls cls SchedTag.reset
  let tt := tgetD x.ten (tenKey cls tenant) SchedTag.reset
  { x with
    run0 := if cls = 0 then x.run0 + 1 else 0
    clsV := if cls = 0 then x.clsV else ct.s
    cls := if cls = 0 then x.cls else tset x.cls cls (tagServe (incOf (cfgField d (.clsW n) (8 * cls) 8)) clsMore ct)
    tenV := tset x.tenV cls tt.s
    ten := tset x.ten (tenKey cls tenant) (tagServe (incOf (cfgField d (.tenW tenant) (8 * cls) 8)) tenMore tt) }

/-- Element `i` of a list changed. -/
def listMod (l : List Nat) (i : Nat) (f : Nat → Nat) : List Nat := (l.zipIdx).map (fun e => if e.2 = i then f e.1 else e.1)

/-- The VC that the link word returns credits to, and how many (Table 10.4 CRED). -/
def credWord (P : PortSt) : Nat × Nat :=
  match (List.range 4).find? (fun v => decide (0 < P.owed.getD v 0)) with
  | some v => (v, min 63 (P.owed.getD v 0))
  | none => (0, 0)

/-- A cell with the link word that port `P` writes, and the port after. -/
def linkWord (P : PortSt) (c : Cell) : Cell × PortSt :=
  let (v, k) := credWord P
  ({ c with
      lseq := BitVec.ofNat 12 P.txSeq, lack := BitVec.ofNat 12 P.rxSeq, credVc := BitVec.ofNat 2 v, cred := BitVec.ofNat 6 k },
   { P with owed := listMod P.owed v (· - k) })

/-- A cell that leaves port `n`: it takes the next sequence number, spends a credit and stays in the replay buffer. -/
def cellOut (d : Dev) (n : Nat) (c : Cell) : Dev :=
  let (c1, P1) := linkWord (getPort d n) c
  let P2 := { P1 with
    txSeq := (P1.txSeq + 1) % 4096, credits := listMod P1.credits c.vc.toNat (· - 1), replay := P1.replay ++ [c1] }
  send (setPort d n P2) (.link n (.cell c1))

/-- An IDLE cell: link word only. It takes no sequence number and no credit, DEDUCED (log 25). -/
def idleCell : Cell :=
  { kind := 0, vc := 0, tc := 0, hops := 0, dst := 0, src := 0, engine := 0, txn := 0, addr := 0, length := 0, aop := 0,
    status := 0, resvOk := true, lseq := 0, lack := 0, credVc := 0, cred := 0, payload := [] }

/-- One turn of port `n`'s scheduler (R447 to R449); with nothing to carry a pod link that owes credits sends an IDLE
cell (R351). -/
def egressTurn (d : Dev) (n : Nat) : Dev :=
  let P := getPort d n
  let el := eligible P
  match pickClass P.sched el with
  | none =>
    if portMode d n == 1 && P.link == .up && P.owed.any (· != 0) then
      let (c, P1) := linkWord P idleCell
      send (setPort d n P1) (.link n (.cell c))
    else d
  | some cls =>
    match pickTenant P.sched el cls with
    | none => d
    | some t =>
      match el.find? (fun q => q.cls == cls && q.tenant == t) with
      | none => d
      | some q =>
        let rest := P.queue.erase q
        let clsMore := rest.any (fun e => e.cls == cls)
        let tenMore := rest.any (fun e => e.cls == cls && e.tenant == t)
        let d1 := setPort d n { P with queue := rest, sched := schedServe d n P.sched cls t clsMore tenMore }
        match q.item with
        | .cell c => cellOut d1 n c
        | .frame f => send d1 (.link n (.frame f))

/-- EGRESS_SERVE (R447 to R449). -/
def execEgressServe (n : PortNo) (s : State) : Host.Outcome State Fault Refusal := answer s (egressTurn s.dev n.val)

end Sys2Proof.Machine
end

