-- ==== Sys2Proof/Machine/Digest.lean ====
section
/-! DEFINITION. The configuration digest (14_reliability.md R505, R506, Table 14.12) and the HELLOs that carry it
(10_pod_fabric.md R355, Table 10.7). -/
namespace Sys2Proof.Machine

/-- The 12 bytes of replicated region `r` in the digest image. -/
def regionBytes (d : Dev) (r : Nat) : List Byte :=
  match tget d.repl r with
  | some g => leBytes g.offset 8 ++ leBytes g.count 4
  | none => leBytes 0 12

/-- The 288-byte image of Table 14.12. -/
def digestImage (d : Dev) : List Byte :=
  leBytes 0x7E48 2 ++ leBytes 0xA0 1 ++ leBytes 1 1 ++ leBytes d.boot.fwFamily.toNat 2 ++ leBytes (selfPod d) 1 ++ leBytes 0 1 ++
    leBytes (fabMembers d) 8 ++ (List.range 64).flatMap (fun n => leBytes (cfgField d (.homeMap n) 0 6) 1) ++
    leBytes (lockTimeout d) 4 ++ leBytes (cfgField d .tcMap 1 7) 1 ++ leBytes (cfgField d .xptCtl 0 16) 2 ++ leBytes 0 9 ++
    (List.range 16).flatMap (regionBytes d)

/-- The configuration digest: SHA-256 of the image. -/
def configDigest (d : Dev) : BitVec 256 := sha256 (digestImage d)

/-- A HELLO that the device sends on port `n` (Table 10.7). -/
def helloOf (d : Dev) (n : PortNo) : Hello :=
  { seen := (getPort d n.val).seen, port := n, dev := selfDev d, pod := BitVec.ofNat 8 (selfPod d)
    fwFamily := d.boot.fwFamily, members := BitVec.ofNat 64 (fabMembers d), digest := d.health.digest }

/-- A HELLO sent on port `n`. -/
def sendHello (d : Dev) (n : PortNo) : Dev := send d (.hello n.val (helloOf d n))

/-- The number as a port. -/
def portNo (i : Nat) : PortNo := ⟨i % 16, Nat.mod_lt _ (by decide)⟩

/-- Whether a pod-mode link exchanges HELLOs now (R355). -/
def helloOpen (d : Dev) (n : Nat) : Bool :=
  let l := (getPort d n).link
  portMode d n == 1 && (l == .hello || l == .quarantined || l == .up)

/-- The digest computed again; when it has changed a HELLO goes out on every pod-mode link and TOWPATH queue pair (R506). The
towpath queue pairs' HELLOs are those of Transport. -/
def refreshDigest (d : Dev) : Dev :=
  let g := configDigest d
  if g = d.health.digest then d
  else
    let d1 := { d with health := { d.health with digest := g } }
    ((List.range 16).filter (helloOpen d1)).foldl (fun d n => sendHello d (portNo n)) d1

end Sys2Proof.Machine
end

