-- ==== Sys2Proof/Machine/TaskEnd.lean ====
section
/-! DEFINITION. How a task that has started ends (04_tasks.md R133, R135, R136): its first failure, its completion. -/
namespace Sys2Proof.Machine

/-- The device with task `n` set. -/
def setTask (d : Dev) (n : Nat) (t : TaskSt) : Dev := { d with tasks := tset d.tasks n t }

/-- The first failure of a task decides its status (R136). -/
def failTask (d : Dev) (n : Nat) (st : Status) (detail : Nat) : Dev :=
  { d with tasks := tmod d.tasks n (fun t => if t.fail.isNone then { t with fail := some (st, detail) } else t) }

/-- Bytes 24 to 31 of a task's completion: NUMFLAGS and ROWS_SQUASHED (R135). -/
def taskExtra (t : TaskSt) : Nat := t.flags.toNat + min 0xFFFF t.squashed.length * 2 ^ 16

/-- The status and DETAIL of a task that has ended (R133, R136). -/
def taskStatus (t : TaskSt) : Status × Nat :=
  match t.fail with
  | some f => f
  | none => if decide (0 < t.rows) && t.squashed.length == t.rows then (.cancelled, 0) else (.ok, t.detail)

/-- The logical tile of a Table 3.5 address in tile store. -/
def detailTile (detail : Nat) : Nat := detail % 2 ^ 56 * 64 / 2 ^ 26

/-- The events and the fence that go with a task's failure: HLT_UNCORRECTABLE, and the fence of the tile whose word was
uncorrectable under a running work item (Tables 9.12 and 14.3). -/
def taskReport (d : Dev) (st : Status) (detail : Nat) : Dev :=
  if st == .memUncorrectable then
    let d1 := postUncorrectable d detail
    if detail / 2 ^ 62 == 0 then fenceTile d1 (detailTile detail) else d1
  else d

/-- The completion of task `n`. -/
def finishTask (d : Dev) (n : Nat) : Dev :=
  match tget d.tasks n with
  | none => d
  | some t =>
    let (st, detail) := taskStatus t
    complete { taskReport d st detail with tasks := tdel d.tasks n } t.post st detail (taskExtra t)

/-- Whether nothing of a task is outstanding. -/
def taskIdle (t : TaskSt) : Bool := t.tiles.isEmpty && t.podLeft == 0 && t.legsLeft == 0

/-- One pod operation of task `n` has ended with a status: the data of a load are kept; a task whose last store is
acknowledged completes (R365). -/
def taskPodDone (d : Dev) (n : Nat) (isLoad : Bool) (addr : Nat) (st : Status) (detail : Nat) (data : List Byte) : Dev :=
  match tget d.tasks n with
  | none => d
  | some t =>
    let t1 := { t with
      podLeft := t.podLeft - 1
      buf := if isLoad && statusGood st then memWrite t.buf addr data else t.buf
      fail := if statusGood st || t.fail.isSome then t.fail else some (st, detail) }
    let d1 := setTask d n t1
    if taskIdle t1 then finishTask d1 n else d1

end Sys2Proof.Machine
end

