-- ==== Sys2Proof/Machine/Fabric.lean ====
section
/-! DEFINITION. Pod loads, stores and atomics (10_pod_fabric.md R356 to R367): the checks and the splitting of an access at its
source, its cells, its performance at the home, its completion, and POD_ATOMIC and POD_FENCE. -/
namespace Sys2Proof.Machine

/-- Engine numbers of this model (Table 10.4 leaves them to the device; DESIGN CHOICE, log 26): a tile's port, a
function's transfer engine, the lock-keeper, a partition's lift. -/
def engTile (t : Nat) : Nat := t
def engXfer (f : Fn) : Nat := 128 + f.val
def engLift (p : Nat) : Nat := 256 + p

/-- Whether device `i` has been declared lost (R357). -/
def isLost (d : Dev) (i : Nat) : Bool := d.peerLost.getLsbD i

/-- The device index and the offset of a pod address (Table 10.9). -/
def podDev (a : Nat) : Nat := a / 2 ^ 40 % 64
def podOff (a : Nat) : Nat := a % 2 ^ 40

/-- The checks of R361 on `n` bytes from pod address `a`. -/
def podCheck (d : Dev) (x : PartSt) (a n : Nat) (store : Bool) : Option Status :=
  let dev := podDev a
  if decide (2 ^ 46 ≤ a) || !isMember d dev || dev == (selfDev d).val || decide (0x9000000000 ≤ podOff a) then
    some .badDescriptor
  else if !rangeOk d x 2 a n store false then some .badDescriptor
  else if isLost d dev || (routePorts d dev).isEmpty then some .targetLost
  else none

/-- The operations of an access of `n` bytes from `a`: 1 to 256 bytes each, none crossing a 256-byte boundary (R362). -/
def podPieces (a n : Nat) : List (Nat × Nat) :=
  if n = 0 then []
  else (List.range ((a + n - 1) / 256 + 1 - a / 256)).map (fun i =>
    let lo := if i = 0 then a else (a / 256 + i) * 256
    (lo, min (a + n) ((a / 256 + i + 1) * 256) - lo))

/-- The kinds of cells (Table 10.5). -/
def ckLoad : Nat := 1
def ckStore : Nat := 2
def ckAtomic : Nat := 3

/-- The number as a device index. -/
def devIx (i : Nat) : DevIx := ⟨i % 64, Nat.mod_lt _ (by decide)⟩

/-- One pod operation issued: its cell waits at the port of its route, its record waits for the response. -/
def podIssue (d : Dev) (fn : Fn) (engine tc kind a n aop : Nat) (payload : List Byte) (use : PodUse) : Dev :=
  let dst := podDev a
  let vc := if kind = ckAtomic then 1 else requestVc d tc
  let c : Cell := { idleCell with
    kind := BitVec.ofNat 8 kind, vc := BitVec.ofNat 2 vc, tc := BitVec.ofNat 3 tc, hops := 1, dst := devIx dst, src := selfDev d
    engine := BitVec.ofNat 16 engine, txn := BitVec.ofNat 16 d.podTxn, addr := BitVec.ofNat 64 a, length := BitVec.ofNat 16 n
    aop := BitVec.ofNat 4 aop, payload := payload }
  let op : PodOp := ⟨engine, d.podTxn, devIx dst, a, n, kind, fn, use⟩
  let d1 := { d with podTxn := (d.podTxn + 1) % 65536, podOps := d.podOps ++ [op] }
  match pickPort d dst (selfDev d).val engine tc (a % 2 ^ 46 / 64) with
  | none => d1
  | some port => egPush d1 port tc fn.val (.cell c)

/-- Loads of the bytes of a list of ranges of pod memory. -/
def podLoads (d : Dev) (fn : Fn) (engine tc : Nat) (rs : List (Nat × Nat)) (use : PodUse) : Dev :=
  (rs.flatMap (fun r => podPieces r.1 r.2)).foldl (fun d r => podIssue d fn engine tc ckLoad r.1 r.2 0 [] use) d

/-- Stores of bytes to pod memory. -/
def podStores (d : Dev) (fn : Fn) (engine tc a : Nat) (bs : List Byte) (use : PodUse) : Dev :=
  (podPieces a bs.length).foldl (fun d r =>
    podIssue d fn engine tc ckStore r.1 r.2 0 (slice bs (r.1 - a) r.2) use) d

/-- The traffic classes of a partition (R350). -/
def reqTc (d : Dev) (part : Nat) : Nat := cfgField d (.partTc part) 0 3
def bulkTc (d : Dev) (part : Nat) : Nat := cfgField d (.partTc part) 3 3

/-! ## At the home (R326, R363, R366) -/

/-- The mapping of a device page in the device page map: the owner and the page's record (R323, R326). -/
def pageOwner (d : Dev) (pg : Nat) : Option (Nat × PageMap) :=
  d.parts.findSome? (fun e => (e.2.maps.find? (fun m => m.2.page == pg)).map (fun m => (e.1, m.2)))

/-- Whether an access of kind `kind` from another device is let through on a mapped page (R111, R326). -/
def exportOk (d : Dev) (m : PageMap) (kind : Nat) : Bool :=
  m.xport && (kind == ckLoad || m.write) && keyUsable d m.key && !isBlockPage m.key &&
    (kind != ckAtomic || m.key == .none)

/-- Whether a heap page of kind FRAME or DIGEST is one that a weir-path table of the source device may read (R194, R326). -/
def weirPage (d : Dev) (pg : Nat) (_src : DevIx) : Bool :=
  d.parts.any (fun e => e.2.heap.any (fun h =>
    (h.kind == .frame || h.kind == .digest) && decide (h.page ≤ pg) && decide (pg < h.page + h.run)))

/-- The uncorrectable lines of HBM that `n` bytes from a device offset meet. -/
def hbmBadIn (d : Dev) (o n : Nat) : List Nat :=
  d.hbmBad.filter (fun l => decide (o < l + 64) && decide (l < o + n))

/-- The new value of an atomic (Table 10.11). -/
def atomicNew (aop : Nat) (old operand compare : W64) : W64 :=
  match aop with
  | 1 => old + operand
  | 2 => if old.slt operand then old else operand
  | 3 => if operand.slt old then old else operand
  | 4 => if old < operand then old else operand
  | 5 => if operand < old then old else operand
  | 6 => operand
  | _ => if old = compare then operand else old

/-- Whether AOP is one of Table 10.11. -/
def aopOk (aop : Nat) : Bool := decide (1 ≤ aop) && decide (aop ≤ 7)

/-- An 8-byte atomic on HBM at a device offset: the former value. -/
def atomicAt (d : Dev) (o aop : Nat) (operand compare : W64) : W64 × Dev :=
  let old := BitVec.ofNat 64 (leNat (memRead d.hbm o 8))
  (old, { d with hbm := memWrite d.hbm o (leBytes (atomicNew aop old operand compare).toNat 8) })

/-- Whether the byte at a device offset lies on a fenced stack, or HBM has lost its clock (Tables 14.3, 15.2): operations on it
complete with INTERNAL. -/
def hbmDown (d : Dev) (o : Nat) : Bool := d.boot.clkFenced.getLsbD 3 || d.health.stackFence.getLsbD (stackOf o)

/-- Whether a byte of `n` bytes from a device offset does: six successive units of 4 KiB meet every stack of a half (R30). -/
def spanDown (d : Dev) (o n : Nat) : Bool :=
  (List.range (min 6 ((o + n - 1) / 4096 + 1 - o / 4096))).any (fun j => hbmDown d (max o ((o / 4096 + j) * 4096)))

/-- The first partition address among `n` bytes from `a` whose HBM is down so. -/
def downAt (d : Dev) (x : PartSt) (a n : Nat) : Option Nat :=
  (pagesIn a n).findSome? (fun pg => match tget x.maps pg with
    | some m =>
      let b := max a (pg * pageSize)
      let e := min (a + n) ((pg + 1) * pageSize)
      ((List.range (min 6 ((e - 1) / 4096 + 1 - b / 4096))).map (fun j => max b ((b / 4096 + j) * 4096))).find? (fun u =>
        hbmDown d (m.page * pageSize + u % pageSize))
    | none => none)

/-- The performance of a request cell at its home: the status, the data of the response, the device after. -/
def homePerform (d : Dev) (kind : Nat) (c : Cell) : Status × List Byte × Dev :=
  let o := podOff c.addr.toNat
  let n := if kind = ckAtomic then 8 else c.length.toNat
  let bad := decide (n = 0) || decide (256 < n) || decide (o / 256 ≠ (o + n - 1) / 256) ||
    decide (0x9000000000 < o + n) || (kind == ckAtomic && (o % 8 != 0 || !aopOk c.aop.toNat))
  let let_ := match pageOwner d (o / pageSize) with
    | some (_, m) => exportOk d m kind
    | none => kind == ckLoad && weirPage d (o / pageSize) c.src
  if bad || !let_ then (.badDescriptor, [], d)
  else if hbmDown d o then (.internal, [], d)
  else
    let lines := hbmBadIn d o n
    let whole (l : Nat) : Bool := kind == ckStore && decide (o ≤ l) && decide (l + 64 ≤ o + n)
    match lines.filter (fun l => !whole l) with
    | l :: _ => (.memUncorrectable, [], postUncorrectable d (lineDetail 1 0 l))
    | [] =>
      if kind = ckLoad then (.ok, memRead d.hbm o n, d)
      else if kind = ckStore then
        (.ok, [], { d with hbm := memWrite d.hbm o (slice c.payload 0 n), hbmBad := clearBad d.hbmBad 64 o n })
      else
        let (old, d1) := atomicAt d o c.aop.toNat (BitVec.ofNat 64 (leAt c.payload 0 8)) (BitVec.ofNat 64 (leAt c.payload 8 8))
        (.ok, leBytes old.toNat 8, d1)

/-- The response to a request cell: it keeps the traffic class, hashes on SRC, ENGINE and TXN, and waits in the SYSTEM
queue (R349, R358, R447). -/
def respond (d : Dev) (kind : Nat) (c : Cell) (st : Status) (data : List Byte) : Dev :=
  let r : Cell := { idleCell with
    kind := BitVec.ofNat 8 (kind + 3), vc := 2, tc := c.tc, hops := 1, dst := c.src, src := selfDev d, engine := c.engine
    txn := c.txn, length := BitVec.ofNat 16 data.length, status := statusCode st, payload := data }
  match pickPort d c.src.val (selfDev d).val c.engine.toNat c.tc.toNat c.txn.toNat with
  | none => d
  | some port => egPush d port c.tc.toNat 64 (.cell r)

/-! ## Completion at the source -/

/-- The operation ends for the POD_FENCEs that wait for it; one that waits for nothing more completes with the first failure
(R365). -/
def fenceStep (d : Dev) (op : PodOp) (st : Status) : Dev :=
  let key := (op.engine, op.txn)
  let upd := d.fences.map (fun f => if f.left.contains key then
    { f with left := f.left.erase key, fail := if statusGood st || f.fail.isSome then f.fail else some (st, op.addr) } else f)
  (upd.filter (fun f => f.left.isEmpty)).foldl (fun d f =>
    match f.fail with
    | some (s, a) => complete d f.post s a 0
    | none => complete d f.post .ok 0 0) { d with fences := upd.filter (fun f => !f.left.isEmpty) }

/-- The status of a response cell's code (Table 0.4); a code of no status is INTERNAL. -/
def statusOf (w : W16) : Status :=
  (([.ok, .okLate, .cancelled, .badDescriptor, .badLength, .quotaExceeded, .budgetHeld, .blockSize, .basisAbsent, .basisBusy,
     .memUncorrectable, .targetLost, .remoteTimeout, .contextWait, .pageDropped, .ownershipUnresolved, .stateLost,
     .residueMismatch, .configMismatch, .functionReset, .windowLate] : List Status).find? (fun s => statusCode s == w)).getD .internal

/-- The end of an outstanding operation with a status and its data (R361, R365, R366). -/
def podDone (d : Dev) (op : PodOp) (st : Status) (data : List Byte) : Dev :=
  let d1 := { d with podOps := d.podOps.filter (fun o => !(o.engine == op.engine && o.txn == op.txn)) }
  let detail := if st == .memUncorrectable || st == .targetLost then lineDetail 2 op.dst.val (podOff op.addr) else 0
  let d2 := match op.use with
    | .taskLoad n => taskPodDone d1 n true op.addr st detail data
    | .taskStore n => taskPodDone d1 n false op.addr st detail []
    | .atomic p => complete d1 p st 0 (if statusGood st then leNat data else 0)
    | .lift part => if statusGood st then
        let x := getPart d1 part.val
        setPart d1 part.val { x with lift := { x.lift with buf := memWrite x.lift.buf op.addr data, podLeft := x.lift.podLeft - 1 } }
      else d1
  fenceStep d2 op st

/-- The outstanding operation of an engine and a tag. -/
def findOp (d : Dev) (engine txn : Nat) : Option PodOp := d.podOps.find? (fun o => o.engine == engine && o.txn == txn)

/-- POD_COMPLETION_TIMEOUT (R367): the operation ends with TARGET_LOST and LINK_TIMEOUT names the target. -/
def execPodCompletionTimeout (engine txn : W16) (s : State) : Host.Outcome State Fault Refusal :=
  match findOp s.dev engine.toNat txn.toNat with
  | none => answer s s.dev
  | some op => answer s (raise (podDone s.dev op .targetLost []) 0x0105 (unitOf 0x0B op.dst.val) op.addr)

/-! ## POD_ATOMIC and POD_FENCE -/

/-- The number of atomics of a function that are in flight. -/
def atomicsOf (d : Dev) (f : Fn) : Nat :=
  (d.podOps.filter (fun o => o.fn == f && (match o.use with | .atomic _ => true | _ => false))).length

/-- POD_ATOMIC's rules (R361, R366). -/
def podAtomicRule (p : Post) (d : Dev) : Res :=
  let part := dNat p 16 1
  let x := getPart d part
  let aop := dNat p 17 1
  let a := dNat p 24 8
  if !dZero p 8 8 || !dZero p 18 6 || !dZero p 48 16 || !mayName d (poster d p) part ||
      !aopOk aop || (aop != 7 && !dZero p 40 8) || a % 8 != 0 then .plain .badDescriptor d
  else
    match podCheck d x a 8 true with
    | some st => .plain st d
    | none =>
      .later (podIssue d (poster d p) (engXfer (poster d p)) (reqTc d part) ckAtomic a 16 aop
        (leBytes (dNat p 32 8) 8 ++ leBytes (dNat p 40 8) 8) (.atomic p))

/-- POD_ATOMIC (R366). -/
def execPodAtomic (p : Post) (s : State) : Host.Outcome State Fault Refusal :=
  answer s (perform 0x0600 p (podAtomicRule p) s.dev)

/-- POD_FENCE's rules (R365). -/
def podFenceRule (p : Post) (d : Dev) : Res :=
  if !dZero p 8 56 then .plain .badDescriptor d
  else
    let f := poster d p
    let ops := d.podOps.filter (fun o => o.fn == f && (o.kind == ckStore || o.kind == ckAtomic))
    if ops.isEmpty then .plain .ok d
    else .later { d with fences := d.fences ++ [⟨p, ops.map (fun o => (o.engine, o.txn)), none⟩] }

/-- POD_FENCE (R365). -/
def execPodFence (p : Post) (s : State) : Host.Outcome State Fault Refusal :=
  answer s (perform 0x0601 p (podFenceRule p) s.dev)

end Sys2Proof.Machine
end

