-- ==== Sys2Proof/Machine/Link.lean ====
section
/-! DEFINITION. Links and cells (10_pod_fabric.md R343 to R359, Table 10.8): training, HELLO, quarantine, lanes and their spare,
link-level retry, the arrival and the forwarding of cells, heartbeats; the aqueduct's retries (01_organisation.md R35). -/
namespace Sys2Proof.Machine

/-- The events of Table 14.13 about links. -/
def linkDown (d : Dev) (n cause : Nat) : Dev := raise d 0x0101 (unitOf 2 n) cause
def linkUp (d : Dev) (n pod dev : Nat) : Dev := raise d 0x0102 (unitOf 2 n) (dev + 64 * pod)
def linkQuarantined (d : Dev) (n check : Nat) : Dev := raise d 0x0103 (unitOf 2 n) check

/-- A port's waiting cells and its replay buffer discarded (Table 10.8). -/
def dropCells (P : PortSt) : PortSt :=
  { P with replay := [], tries := 0, queue := P.queue.filter (fun q => match q.item with | .cell _ => false | .frame _ => true) }

/-- A port down: its cells discarded, its sequence numbers and credits back at a link reset's. -/
def portDown (P : PortSt) : PortSt :=
  { dropCells P with
    link := .down, txSeq := 0, rxSeq := 0xFFF, skip := false, credits := [0, 0, 0, 0], owed := [0, 0, 0, 0], seen := false, peerSeen := false }

/-- The credits that a peer grants (Table 10.6). -/
def fullCredits : List Nat := [16, 160, 160, 224]

/-- Training started on port `n`: SPARE_PHYS takes effect (Table 10.1). In DORMANT the lanes are off (R536). -/
def startTraining (d : Dev) (n : Nat) : Dev :=
  if portFenced d n || portMode d n == 0 || d.boot.dormant then d
  else setPort d n { portDown (getPort d n) with link := .training, spare := cfgField d (.portCtl n) 3 3 }

/-- A write of MODE (Table 10.1, Table 10.8): ignored under LOCK_ROUTE and for 3; off ends the link, pod or Ethernet starts
training; a change clears LANE_BAD. -/
def writeMode (d : Dev) (n mode : Nat) : Dev :=
  if lockRoute d || mode == 3 || mode == portMode d n then d
  else
    let v := (cfgGet d (.portCtl n) &&& ~~~(3 : BitVec 128)) ||| BitVec.ofNat 128 mode
    let was := (getPort d n).link
    let d1 := cfgSet d (.portCtl n) v
    let d2 := setPort d1 n { portDown (getPort d1 n) with laneBad := 0 }
    if mode = 0 then (if was == .down then d2 else linkDown d2 n 4) else startTraining d2 n

/-- FAB_PORT_MODE (R343, R355). -/
def execFabPortMode (n : PortNo) (mode : BitVec 2) (s : State) : Host.Outcome State Fault Refusal :=
  answer s (writeMode s.dev n.val mode.toNat)

/-- A retraining begun on the present lanes (Table 10.8), charged to the port (Table 14.2). -/
def startRetrain (d : Dev) (n : Nat) : Dev :=
  charge (setPort d n { getPort d n with link := .retraining }) (partOfPort n) wRetrain 1

/-- RETRAIN written (R344): an UP link retrains on its present lanes, a DOWN one trains on the lanes now chosen. -/
def writeRetrain (d : Dev) (n : Nat) : Dev :=
  match (getPort d n).link with
  | .up => startRetrain d n
  | .down => startTraining d n
  | _ => d

/-- FAB_PORT_RETRAIN (R344). -/
def execFabPortRetrain (n : PortNo) (s : State) : Host.Outcome State Fault Refusal := answer s (writeRetrain s.dev n.val)

/-- TRAINING_LOCK (Table 10.8): a pod link sends HELLO and enters HELLO with the credits of VC0. A link in Ethernet mode is UP,
DEDUCED (log 27): Table 10.8 is of pod-mode links. -/
def execTrainingLock (n : PortNo) (s : State) : Host.Outcome State Fault Refusal :=
  let d := s.dev
  let P := getPort d n.val
  if P.link != .training then answer s d
  else if portMode d n.val == 1 then
    answer s (sendHello (setPort d n.val { P with link := .hello, credits := [16, 0, 0, 0] }) n)
  else answer s (linkUp (setPort d n.val { P with link := .up }) n.val 0 0)

/-- TRAINING_TIMEOUT (Table 10.8). -/
def execTrainingTimeout (n : PortNo) (s : State) : Host.Outcome State Fault Refusal :=
  let d := s.dev
  let P := getPort d n.val
  answer s (if P.link == .training then linkDown (setPort d n.val (portDown P)) n.val 0 else d)

/-- TRAINING_RESTART (Table 10.8). -/
def execTrainingRestart (n : PortNo) (s : State) : Host.Outcome State Fault Refusal :=
  answer s (if (getPort s.dev n.val).link == .down then startTraining s.dev n.val else s.dev)

/-- HELLO_TIMER (R355). -/
def execHelloTimer (n : PortNo) (s : State) : Host.Outcome State Fault Refusal :=
  answer s (if helloOpen s.dev n.val && !(getPort s.dev n.val).peerSeen then sendHello s.dev n else s.dev)

/-- HELLO_TIMEOUT (Table 10.8). -/
def execHelloTimeout (n : PortNo) (s : State) : Host.Outcome State Fault Refusal :=
  let d := s.dev
  let P := getPort d n.val
  answer s (if P.link == .hello then linkDown (setPort d n.val (portDown P)) n.val 1 else d)

/-- The first failed check of R355 on a HELLO, 1 to 5; 0 when all pass. -/
def helloCheck (d : Dev) (m : Hello) : Nat :=
  if m.pod.toNat != selfPod d then 1
  else if !isMember d m.dev.val || m.dev == selfDev d then 2
  else if m.fwFamily != d.boot.fwFamily then 3
  else if m.members.toNat != fabMembers d then 4
  else if m.digest != d.health.digest then 5
  else 0

/-- A HELLO received on port `n` (R355, Table 10.8). -/
def helloIn (d : Dev) (n : Nat) (m : Hello) : Dev :=
  if !helloOpen d n then d
  else
    let P := { getPort d n with
      seen := true, peerSeen := (getPort d n).peerSeen || m.seen, peerDev := m.dev.val, peerPod := m.pod.toNat }
    let c := helloCheck d m
    if c != 0 then
      if P.link == .quarantined then setPort d n P
      else linkQuarantined (setPort d n { P with
        link := .quarantined, credits := [P.credits.getD 0 0, 0, 0, 0]
        queue := P.queue.filter (fun q => match q.item with | .cell c => c.vc == 0 | .frame _ => true) }) n c
    else if P.link == .up || (P.link == .hello && !m.seen) then setPort d n P
    else linkUp (setPort d n { P with link := .up, credits := P.credits.getD 0 0 :: fullCredits.drop 1 }) n m.pod.toNat m.dev.val

/-- HELLO (R355). -/
def execHello (n : PortNo) (m : Hello) (s : State) : Host.Outcome State Fault Refusal := answer s (helloIn s.dev n.val m)

/-- The cells of a port's replay buffer sent again (R353), counted in REPLAYS and charged to the port. -/
def replayAll (d : Dev) (n : Nat) : Dev :=
  let P := getPort d n
  let k := P.replay.length
  let d1 := setPort d n { P with replays := P.replays + BitVec.ofNat 32 k }
  charge (P.replay.foldl (fun d c => send d (.link n (.cell c))) d1) (partOfPort n) wReplay k

/-- RETRAIN_LOCK (Table 10.8): replay from the oldest unacknowledged cell; credits kept. -/
def execRetrainLock (n : PortNo) (s : State) : Host.Outcome State Fault Refusal :=
  let d := s.dev
  let P := getPort d n.val
  answer s (if P.link == .retraining then replayAll (setPort d n.val { P with link := .up, tries := 0 }) n.val else d)

/-- RETRAIN_TIMEOUT (Table 10.8). -/
def execRetrainTimeout (n : PortNo) (s : State) : Host.Outcome State Fault Refusal :=
  let d := s.dev
  let P := getPort d n.val
  answer s (if P.link == .retraining then linkDown (setPort d n.val (portDown P)) n.val 2 else d)

/-- A lane of port `n` marked bad, fenced (Table 14.3) and reported; a failed lane is charged RETRAIN weight when its port
retrains. -/
def markLane (d : Dev) (n l cause : Nat) : Dev :=
  let P := getPort d n
  let d1 := setPort d n { P with laneBad := P.laneBad ||| BitVec.ofNat 5 (2 ^ l) }
  let d2 := { d1 with health := { d1.health with laneFence := d1.health.laneFence ||| BitVec.ofNat 80 (2 ^ (5 * n + l)) } }
  raise (fencePart d2 (partOfLane (5 * n + l))) 0x0201 (unitOf 3 (5 * n + l)) cause

/-- A lane fails (R344): with AUTOSPARE and a good spare the link retrains onto it, else an UP link goes DOWN. A failed spare
is only marked. A slice that runs on the spare is abandoned (Table 14.15). -/
def laneFail (d : Dev) (lane cause : Nat) : Dev :=
  let n := lane / 5
  let l := lane % 5
  let P := getPort d n
  let d1 := markLane d n l cause
  if P.spare == l || P.link != .up then d1
  else if cfgField d (.portCtl n) 2 1 == 1 && !(getPort d1 n).laneBad.getLsbD P.spare then
    let d2 := raise { d1 with health := { d1.health with slices := tdel d1.health.slices n } } 0x0202 (unitOf 3 lane) (5 * n + P.spare)
    charge (startRetrain (setPort d2 n { getPort d2 n with spare := l }) n) (partOfLane lane) wRetrain 1
  else linkDown (setPort d1 n (portDown (getPort d1 n))) n 3

/-- LANE_FAILURE (R344). -/
def execLaneFailure (lane : Fin 80) (cause : Nat) (s : State) : Host.Outcome State Fault Refusal :=
  answer s (laneFail s.dev lane.val cause)

/-! ## Cells -/

/-- Whether a cell's kind, VC and reserved bits are those of Table 10.5 (R348). -/
def cellValid (c : Cell) : Bool :=
  c.resvOk && (match c.kind.toNat with
    | 0x00 | 0x07 => true
    | 0x01 | 0x02 | 0x09 => c.vc == 1 || c.vc == 3
    | 0x03 => c.vc == 1
    | 0x04 | 0x05 | 0x06 => c.vc == 2
    | 0x08 => c.vc == 0
    | _ => false)

/-- The port after the acknowledgement LACK: every cell up to it leaves the replay buffer (R353). -/
def ackCells (P : PortSt) (lack : Nat) : PortSt :=
  match (P.replay.zipIdx).find? (fun e => e.1.lseq.toNat == lack) with
  | some e => { P with replay := P.replay.drop (e.2 + 1), tries := 0 }
  | none => P

/-- The port after a cell's link word: acknowledgement and credits (R351, R353). -/
def linkIn (P : PortSt) (c : Cell) : PortSt :=
  let P1 := ackCells P c.lack.toNat
  { P1 with credits := listMod P1.credits c.credVc.toNat (· + c.cred.toNat) }

/-- Whether a pod link carries cells now. -/
def cellsOpen (d : Dev) (n : Nat) : Bool :=
  let l := (getPort d n).link
  portMode d n == 1 && !portFenced d n && (l == .hello || l == .up || l == .quarantined)

/-- The forwarding of a cell for another device (R358): with no route, or three hops taken, it is discarded and counted at
port `n`, where it came in. It waits in the SYSTEM queue (R447). -/
def forward (d : Dev) (n : Nat) (c : Cell) : Dev :=
  if 3 ≤ c.hops.toNat then countDiscard d n
  else
    let key := if c.vc == 2 then c.txn.toNat else c.addr.toNat % 2 ^ 46 / 64
    match pickPort d c.dst.val c.src.val c.engine.toNat c.tc.toNat key with
    | none => countDiscard d n
    | some port => egPush d port c.tc.toNat 64 (.cell { c with hops := c.hops + 1 })

/-- The arrival of a sequenced cell on port `n` (R348, R351, R353, R356): out of order, invalid, barred by the link's state,
or of a lost source it is discarded; what is left is forwarded or given to `act`. -/
def cellIn (act : Dev → Cell → Dev) (d : Dev) (n : Nat) (c : Cell) : Dev :=
  let P := getPort d n
  if !cellsOpen d n || c.lseq.toNat != (P.rxSeq + 1) % 4096 then d
  else
    let P1 := linkIn P c
    let d1 := setPort d n { P1 with
      rxSeq := c.lseq.toNat, skip := false, owed := listMod P1.owed c.vc.toNat (· + 1) }
    if !cellValid c || (P.link != .up && c.vc != 0) then countDiscard d1 n
    else if isLost d c.src.val then d1
    else if c.dst != selfDev d then forward d1 n c
    else act d1 c

/-- A cell row is about cells of its own kind. -/
def cellOf (kind : Nat) (act : Dev → Cell → Dev) (d : Dev) (n : Nat) (c : Cell) : Dev :=
  if c.kind.toNat = kind then cellIn act d n c else d

/-- A request performed at this home and answered. -/
def requestIn (kind : Nat) (d : Dev) (c : Cell) : Dev :=
  let (st, data, d1) := homePerform d kind c
  respond d1 kind c st data

/-- A response that completes its operation; one without an operation is discarded (R367). -/
def responseIn (d : Dev) (c : Cell) : Dev :=
  match findOp d c.engine.toNat c.txn.toNat with
  | none => d
  | some op => if op.dst == c.src then podDone d op (statusOf c.status) (slice c.payload 0 c.length.toNat) else d

/-- LOAD (R363). -/
def execLoad (n : PortNo) (c : Cell) (s : State) : Host.Outcome State Fault Refusal :=
  answer s (cellOf 1 (requestIn 1) s.dev n.val c)

/-- STORE (R363). -/
def execStore (n : PortNo) (c : Cell) (s : State) : Host.Outcome State Fault Refusal :=
  answer s (cellOf 2 (requestIn 2) s.dev n.val c)

/-- ATOMIC (R366). -/
def execAtomic (n : PortNo) (c : Cell) (s : State) : Host.Outcome State Fault Refusal :=
  answer s (cellOf 3 (requestIn 3) s.dev n.val c)

/-- LOAD_RSP (R361). -/
def execLoadRsp (n : PortNo) (c : Cell) (s : State) : Host.Outcome State Fault Refusal :=
  answer s (cellOf 4 responseIn s.dev n.val c)

/-- STORE_ACK (R364). -/
def execStoreAck (n : PortNo) (c : Cell) (s : State) : Host.Outcome State Fault Refusal :=
  answer s (cellOf 5 responseIn s.dev n.val c)

/-- ATOMIC_RSP (R366). -/
def execAtomicRsp (n : PortNo) (c : Cell) (s : State) : Host.Outcome State Fault Refusal :=
  answer s (cellOf 6 responseIn s.dev n.val c)

/-- ROUTER_FORWARD (R358): a cell for another device. -/
def execRouterForward (n : PortNo) (c : Cell) (s : State) : Host.Outcome State Fault Refusal :=
  answer s (if c.dst != selfDev s.dev && c.kind != 0 && c.kind != 7 then cellIn (fun d _ => d) s.dev n.val c else s.dev)

/-- IDLE (R351): acknowledgement and credits only. -/
def execIdle (n : PortNo) (c : Cell) (s : State) : Host.Outcome State Fault Refusal :=
  answer s (if cellsOpen s.dev n.val && c.kind == 0 && cellValid c then
    setPort s.dev n.val (linkIn (getPort s.dev n.val) c) else s.dev)

/-- CELL_CRC_FAILURE (R353): the cell is discarded, and NAK asks for a replay from the last one in order. -/
def execCellCrcFailure (n : PortNo) (s : State) : Host.Outcome State Fault Refusal :=
  let d := s.dev
  let P := getPort d n.val
  answer s (if cellsOpen d n.val && !P.skip then send (setPort d n.val { P with skip := true }) (.nak n.val P.rxSeq) else d)

/-- NAK (R353): replay from LACK + 1; the 16th replay in a row of one cell retrains the link. -/
def execNak (n : PortNo) (lack : BitVec 12) (s : State) : Host.Outcome State Fault Refusal :=
  let d := s.dev
  if !cellsOpen d n.val then answer s d
  else
    let P := ackCells (getPort d n.val) lack.toNat
    if P.replay.isEmpty then answer s (setPort d n.val P)
    else if 15 ≤ P.tries && P.link == .up then answer s (startRetrain (setPort d n.val { P with tries := 0 }) n.val)
    else answer s (replayAll (setPort d n.val { P with tries := P.tries + 1 }) n.val)

/-! ## Heartbeats and the aqueduct -/

/-- The other members of the pod. -/
def otherMembers (d : Dev) : List Nat := (maskList 64 (fabMembers d)).filter (fun i => i != (selfDev d).val)

/-- BEAT_SEND (R356, R489): a BEAT to every other member, routed like any cell; the router sends none without FCLK nor in
DORMANT (R537). -/
def execBeatSend (s : State) : Host.Outcome State Fault Refusal :=
  let d := s.dev
  answer s (if d.boot.dormant || d.boot.clkFenced.getLsbD 4 then d
    else ((otherMembers d).filter (fun i => !(routePorts d i).isEmpty)).foldl (fun d i => send d (.beat (devIx i))) d)

/-- BEAT (R356): the member was heard now. A lost member's BEAT is discarded. -/
def execBeat (fromDev : DevIx) (s : State) : Host.Outcome State Fault Refusal :=
  let d := s.dev
  answer s (if isMember d fromDev.val && !isLost d fromDev.val then { d with beats := tset d.beats fromDev.val d.tclk } else d)

/-- AQUEDUCT_CRC_FAILURE (R35): a retry, charged to the device; the 16th in a row fences the aqueduct. Each command is
taken to follow the one before it in a row, DESIGN CHOICE (log 28). -/
def execAqueductCrcFailure (s : State) : Host.Outcome State Fault Refusal :=
  let d := s.dev
  if d.health.aqFence then answer s d
  else
    let k := d.health.aqRetries + 1
    let d1 := charge { d with health := { d.health with aqRetries := k } } partDevice wAqRetry 1
    answer s (if k < 16 then d1
      else raise (assertAlert { d1 with health := { d1.health with aqFence := true } }) 0x0304 (unitOf 6 0) k)

end Sys2Proof.Machine
end

