-- ==== Sys2Proof/Machine/Repl.lean ====
section
/-! DEFINITION. Replicated regions (10_pod_fabric.md R369 to R371): an update's way through the coordinator
and the members' copies. -/
namespace Sys2Proof.Machine

/-! ## Updates -/

/-- The members not marked lost, this device among them, in ascending order. -/
def liveMembers (d : Dev) : List Nat :=
  (List.range 64).filter (fun i => (isMember d i || i == (selfDev d).val) && !isLost d i)

/-- The coordinator: the lowest-indexed member not marked lost (R370). -/
def coordinator (d : Dev) : Nat := (liveMembers d).headD (selfDev d).val

/-- This device's copy of a region written at an offset, and its version set (R370 steps 3 and 4). -/
def writeCopy (d : Dev) (r offset : Nat) (bytes : List Byte) (version : Nat) : Dev :=
  match tget d.repl r with
  | none => d
  | some g => { d with
      hbm := memWrite d.hbm (g.offset + offset) bytes
      hbmBad := clearBad d.hbmBad 64 (g.offset + offset) bytes.length
      replVer := tset d.replVer r (BitVec.ofNat 64 version) }

/-- The completion of an update that this device posted (R370, R371). -/
def replFinish (d : Dev) (tag version : Nat) (missed : List Nat) : Dev :=
  match d.replPosts.find? (fun e => e.1 == tag) with
  | none => d
  | some (_, p) =>
    let d1 := { d with replPosts := d.replPosts.filter (fun e => e.1 != tag) }
    complete d1 p (if missed.isEmpty then .ok else .targetLost) version (missed.foldl (fun m i => m + 2 ^ i) 0)

/-- The update at the head of the coordinator's queue goes on: members lost are skipped, the own copy is written at once, the
next live member is sent its write; with none left the update is answered (R370, R371). -/
def replRun (d : Dev) (u : ReplUpd) (v : Nat) : List Nat → List Nat → Dev
  | [], missed =>
    let d1 := { d with replQueue := d.replQueue.drop 1 }
    if u.by_ == selfDev d then replFinish d1 u.tag v missed else send d1 (.replDone u.by_ u.tag v missed)
  | m :: rest, missed =>
    if isLost d m then replRun d u v rest (missed ++ [m])
    else if m == (selfDev d).val then replRun (writeCopy d u.region u.offset u.bytes v) u v rest missed
    else
      let u1 := { u with left := m :: rest, missed := missed, version := some v }
      send { d with replQueue := u1 :: d.replQueue.drop 1 } (.replWrite (devIx m) u.region v u.offset u.bytes)

/-- The next update of the queue started, when the head has not (R370 step 2). -/
def replStart (d : Dev) : Dev :=
  match d.replQueue with
  | [] => d
  | u :: _ =>
    match u.version with
    | some _ => d
    | none => replRun d u ((tgetD d.replVer u.region 0).toNat + 1)
        ((List.range 64).filter (fun i => isMember d i || i == (selfDev d).val)) []

/-- Starts the updates of the queue one after another while they end at once. -/
def replDrain (d : Dev) : Nat → Dev
  | 0 => d
  | n + 1 => replDrain (replStart d) n

/-- The head of the queue goes on after member `m` has acknowledged or been lost. -/
def replNext (d : Dev) (m : Nat) (lost : Bool) : Dev :=
  match d.replQueue with
  | [] => d
  | u :: _ =>
    match u.version, u.left with
    | some v, h :: rest =>
      if h == m then
        let d1 := replRun d u v rest (if lost then u.missed ++ [m] else u.missed)
        replDrain d1 d1.replQueue.length
      else d
    | _, _ => d

/-- An update joins the coordinator's queue. -/
def replPush (d : Dev) (by_ : DevIx) (tag r offset : Nat) (bytes : List Byte) : Dev :=
  let d1 := { d with replQueue := d.replQueue ++ [⟨by_, tag, r, offset, bytes, [], [], none⟩] }
  replDrain d1 d1.replQueue.length

/-- REPLICATE_UPDATE's rules (R370). -/
def replicateUpdateRule (p : Post) (d : Dev) : Res :=
  let r := dNat p 16 1
  let part := dNat p 18 1
  let x := getPart d part
  let tier := dNat p 19 1
  let n := dNat p 20 4
  let o := dNat p 24 8
  let a := dNat p 32 8
  if !dZero p 8 8 || decide (15 < r) || !dZero p 17 1 || !mayName d (poster d p) part ||
      !(tier == 1 || tier == 3) || decide (16777216 < n) || n % 64 != 0 || o % 64 != 0 || a % 64 != 0 || !dZero p 40 24 then
    .plain .badDescriptor d
  else
    match tget d.repl r with
    | none => .plain .badDescriptor d
    | some g =>
      if n == 0 then .plain .ok d
      else if g.count * pageSize < o + n then .plain .badLength d
      else if !rangeOk d x tier a n false true then .plain .badDescriptor d
      else
        match badIn d x tier a n with
        | l :: _ => .done .memUncorrectable l 0 (postUncorrectable d l)
        | [] =>
          let bytes := tierBytes d x [] tier a n
          let tag := d.replTag
          let d1 := { d with replTag := tag + 1, replPosts := d.replPosts ++ [(tag, p)] }
          if coordinator d == (selfDev d).val then .later (replPush d1 (selfDev d) tag r o bytes)
          else .later (send d1 (.replUpdate (devIx (coordinator d)) tag r o bytes))

/-- REPLICATE_UPDATE (R370). -/
def execReplicateUpdate (p : Post) (s : State) : Host.Outcome State Fault Refusal :=
  answer s (perform 0x0602 p (replicateUpdateRule p) s.dev)

/-- REPL_COORDINATOR_UPDATE (R370): at the coordinator the update joins its queue. From the coordinator, at another member, it
is the write of that member's copy, its tag the version, and is acknowledged: the row stands for both, DESIGN CHOICE
(log 31). -/
def execReplCoordinatorUpdate (fromDev : DevIx) (tag : Nat) (region : Fin 16) (offset : Nat) (bytes : List Byte) (s : State) :
    Host.Outcome State Fault Refusal :=
  let d := s.dev
  if !isMember d fromDev.val || isLost d fromDev.val || (tget d.repl region.val).isNone then answer s d
  else if coordinator d == (selfDev d).val then answer s (replPush d fromDev tag region.val offset bytes)
  else if coordinator d == fromDev.val then
    answer s (send (writeCopy d region.val offset bytes tag) (.replAck fromDev region.val tag))
  else answer s d

/-- REPL_MEMBER_ACK (R370): the coordinator starts the next member or ends the update. At a device whose own update waits, the
coordinator's acknowledgement ends that update (log 31). -/
def execReplMemberAck (member : DevIx) (region : Fin 16) (version : W64) (s : State) : Host.Outcome State Fault Refusal :=
  let d := s.dev
  if coordinator d == (selfDev d).val then
    match d.replQueue with
    | u :: _ => answer s (if u.region == region.val && u.version == some version.toNat then replNext d member.val false else d)
    | [] => answer s d
  else if coordinator d == member.val then
    match d.replPosts with
    | (tag, _) :: _ => answer s (replFinish d tag version.toNat ((List.range 64).filter (fun i => isMember d i && isLost d i)))
    | [] => answer s d
  else answer s d

/-- A lost member: the coordinator skips it, and updates that wait for it as their coordinator end with TARGET_LOST
(R371). -/
def replPeerLost (d : Dev) (wasCoordinator : Bool) (i : Nat) : Dev :=
  if wasCoordinator then
    d.replPosts.foldl (fun d e =>
      complete { d with replPosts := d.replPosts.filter (fun q => q.1 != e.1) } e.2 .targetLost 0 (Config.replMask e.1).toNat) d
  else replNext d i true

end Sys2Proof.Machine
end

