-- ==== Sys2Proof/Machine/LiftBind.lean ====
section
/-! DEFINITION. The binding of a task to the loads of the lift (05_partitions.md R186 to R189): which slots a task reads, which
load it binds to, and when it has completed. -/
namespace Sys2Proof.Machine

/-- The layer of load `q` and how many loads the sequence has, none when it loops (R186). -/
def layerIx (x : LiftSt) (q : Nat) : Nat := (x.first + q) % x.layers.length
def layerOf (x : LiftSt) (q : Nat) : LayerEnt := x.layers.getD (layerIx x q) ⟨0, 1, 0, 0⟩
def seqOpen (x : LiftSt) (q : Nat) : Bool := x.loop || decide (q + x.first < x.layers.length)

/-- The byte range of slot `j`. -/
def slotRange (x : LiftSt) (j : Nat) : Nat × Nat := (x.slotBase + j * x.slotSize, x.slotSize)

/-- The slots that an operand's tile-store ranges meet. -/
def slotsMet (x : LiftSt) (rs : List (Nat × Nat)) : List Nat :=
  (List.range x.depth).filter (fun j => rs.any (meets (slotRange x j)))

/-- The load of slot `j` that a reader binds to: the oldest of the slot that has readers still unbound (R187). -/
def bindLoad (x : LiftSt) (j : Nat) : Option Nat :=
  let mine := x.loads.filter (fun l => l.q % x.depth == j)
  match mine.find? (fun l => l.unbound != 0) with
  | some l => some l.q
  | none =>
    let base := (mine.map (fun l => l.q + x.depth)).foldl max (x.nextQ + (j + x.depth - x.nextQ % x.depth) % x.depth)
    if seqOpen x base then some base else none

/-- A load's record as it stands before any reader has bound. -/
def freshLoad (x : LiftSt) (q : Nat) : LoadSt :=
  { q := q, complete := false, readers := [], waiting := [], unbound := (layerOf x q).uses }

/-- The loads with the record of load `q` changed, made when there was none; kept in sequence order. -/
def modLoad (x : LiftSt) (q : Nat) (f : LoadSt → LoadSt) : LiftSt :=
  if x.loads.any (fun l => l.q == q) then { x with loads := x.loads.map (fun l => if l.q = q then f l else l) }
  else { x with
    loads := x.loads.filter (fun l => decide (l.q < q)) ++ [f (freshLoad x q)] ++ x.loads.filter (fun l => decide (q < l.q)) }

/-- What the lift says of a task: no reader, refused, late, bound with every load complete, or bound and waiting. -/
inductive Bound where
  | free
  | refused
  | late (layer : Nat)
  | ready (x : LiftSt)
  | waits (x : LiftSt)
deriving DecidableEq, Repr

/-- Whether a task comes from the lift's feed ring. -/
def fromFeed (d : Dev) (x : LiftSt) (part : Nat) (p : Post) : Bool :=
  match p.src with
  | .ring f r _ => f == (getPart d part).owner && r == x.feedRing
  | .step .. => false

/-- The binding of a task of a partition whose operands have the tile-store ranges `rs`, one list an operand (R187 to R189). -/
def bindTask (d : Dev) (part : Nat) (p : Post) (rs : List (List (Nat × Nat))) : Bound :=
  let x := (getPart d part).lift
  let met := rs.map (slotsMet x)
  let slots := dedup met.flatten
  if !x.run || slots.isEmpty then .free
  else if met.any (fun l => decide (1 < l.length)) || !fromFeed d x part p then .refused
  else if x.halted then .late (layerIx x ((bindLoad x (slots.headD 0)).getD x.nextQ))
  else if slots.any (fun j => (bindLoad x j).isNone) then .refused
  else
    let qs := slots.filterMap (bindLoad x)
    let y := qs.foldl (fun y q => modLoad y q (fun l =>
      { l with unbound := l.unbound - 1, readers := l.readers ++ [p], waiting := if l.complete then l.waiting else l.waiting ++ [p] })) x
    if qs.all (fun q => y.loads.any (fun l => l.q == q && l.complete)) then .ready y else .waits y

/-- The device with a partition's lift set. -/
def setLift (d : Dev) (part : Nat) (x : LiftSt) : Dev := setPart d part { getPart d part with lift := x }

/-- A reader has completed, with any status (R186): it is bound no more. -/
def liftDone (d : Dev) (part : Nat) (p : Post) : Dev :=
  let x := (getPart d part).lift
  if x.loads.any (fun l => l.readers.contains p) then
    setLift d part { x with loads := x.loads.map (fun l => { l with readers := l.readers.erase p, waiting := l.waiting.erase p }) }
  else d

/-- A wait at the layer fence counted in LIFT_STALL_CNT (R188). -/
def countStall (d : Dev) (part : Nat) : Dev := { d with stallCnt := tset d.stallCnt part (tgetD d.stallCnt part 0 + 1) }

/-- Whether the next load may start now (R186): the one before it is complete, and the readers of the load whose slot it takes
have all bound and completed. -/
def loadMayStart (x : LiftSt) : Bool :=
  let q := x.nextQ
  x.run && !x.halted && x.refetch.isEmpty && seqOpen x q && x.loads.all (fun l =>
    (!(decide (l.q < q)) || l.complete) &&
    (!(l.q % x.depth == q % x.depth && decide (l.q < q)) || (l.unbound == 0 && l.readers.isEmpty)))

/-- Starts the next load when it may (R186): exhausted loads of its slot leave the list; a source in pod memory is loaded piece
by piece (R350, R362). -/
def liftNext (d : Dev) (part : Nat) : Dev :=
  let x := (getPart d part).lift
  if !loadMayStart x then d
  else
    let q := x.nextQ
    let keep := x.loads.filter (fun l => !(l.q % x.depth == q % x.depth && decide (l.q < q)))
    let y := modLoad { x with loads := keep, nextQ := q + 1, buf := [], podLeft := 0 } q id
    let e := layerOf x q
    if e.tier = 2 then
      let d1 := setLift d part { y with podLeft := (podPieces e.src e.length).length }
      podLoads d1 (getPart d part).owner (engLift part) (bulkTc d part) [(e.src, e.length)] (.lift ⟨part % 64, Nat.mod_lt _ (by decide)⟩)
    else setLift d part y

end Sys2Proof.Machine
end

