-- ==== Sys2Proof/Machine/TaskRun.lean ====
section
/-! DEFINITION. The run of a task (04_tasks.md R126 to R136, 05_partitions.md R179, R188): its start on the tiles of its
partition, the end of its work items, the commit of its output; and the task descriptors of Table 4.6. -/
namespace Sys2Proof.Machine

/-- The sampler seed of the live barge of a request that this device owns for a partition, else 0 (R147). -/
def seedOf (d : Dev) (req : W64) : W64 := ((tget d.barges req.toNat).map (fun b => b.hdr.sampling.seed)).getD 0

/-- The requests that the rows of a task belong to (R131); 0 stands for none. -/
def rowOwners (p : Post) (m : Nat) : List W64 :=
  if dNat p 48 8 != 0 then (List.range m).map (fun i => p.rows.getD i 0)
  else List.replicate m (BitVec.ofNat 64 (dNat p 8 8))

/-- The tiles that a task's work items run on: those of the partition that are not fenced, or all when none is left. -/
def workTiles (d : Dev) (x : PartSt) : List Nat :=
  let ok := (tileList x).filter (fun t => !tileFenced d t)
  if ok.isEmpty then tileList x else ok

/-- Whether a fence bars work of a partition on T1 bytes: a fenced stack, or a crossing of a fenced aqueduct (R35,
Table 14.3). -/
def t1Barred (d : Dev) (x : PartSt) (a n : Nat) : Bool :=
  (downAt d x a n).isSome || (d.health.aqFence && (pagesIn a n).any (fun pg => match tget x.maps pg with
    | none => false
    | some m => (tileList x).any (fun t => (decide (32 ≤ t)) != decide (halfPages ≤ m.page))))

/-- Whether a fenced clock domain stops tasks: the lock-keeper, the router or the tiles (Table 14.3). -/
def taskClockDown (d : Dev) : Bool := [1, 3, 4, 5].any (fun i => d.boot.clkFenced.getLsbD i)

/-- The pod-memory ranges that a task reads at its start: GATHER's indexed rows, COPY's source (R149, R151). -/
def podReads (d : Dev) (x : PartSt) (op : Nat) (p : Post) (os : List Opd) : List (Nat × Nat) :=
  if op == 0x0107 && (opd os 6).tier == 2 then
    let t := opd os 6
    let ix := opd os 7
    let n := tN p
    let w := fmtBits t.fmt
    let idx := dedup (((List.range (tM p)).map (fun i => leNat (tierBytes d x [] ix.tier (ix.addr + 4 * i) 4))).filter
      (fun i => decide (i < tBatch p)))
    idx.flatMap (fun i =>
      let n0 := elemIx t (tBatch p) n i 0
      (t.addr + n0 * w / 8, ceilDiv (n0 * w % 8 + n * w) 8) ::
        (if fmtMx t.fmt then [(t.aux + n0 / 32, n / 32)] else []))
  else if op == 0x010C && (opd os 1).tier == 2 then
    [((opd os 1).addr, if (tSub p).testBit 0 then copyLen p * (opd os 1).extent * 64 else copyLen p)]
  else []

/-- The pod-memory range that COPY writes. -/
def podWrites (op : Nat) (p : Post) (os : List Opd) : List (Nat × Nat) :=
  if op == 0x010C && (opd os 5).tier == 2 then
    [((opd os 5).addr, if (tSub p).testBit 0 then copyLen p * (opd os 5).extent * 64 else copyLen p)]
  else []

/-- The first refusal of R361 on the pod-memory ranges of a task. -/
def podRefusal (d : Dev) (x : PartSt) (rd wr : List (Nat × Nat)) : Option (Status × Nat) :=
  (rd.findSome? (fun r => (podCheck d x r.1 r.2 false).map (fun st => (st, detailOf x 2 r.1)))).or
    (wr.findSome? (fun r => (podCheck d x r.1 r.2 true).map (fun st => (st, detailOf x 2 r.1))))

/-- The tile-store ranges of each operand, for the layer fence (R187). -/
def tileRanges (op : Nat) (p : Post) (so : List (Shape × Opd)) : List (List (Nat × Nat)) :=
  (so.filter (fun e => e.2.tier == 0)).map (fun e => taskRanges op p e.1 e.2)

/-- The staged operands of a step's task written to the staging area (R285). -/
def stageIn (d : Dev) (p : Post) : Dev :=
  { d with staging := p.staged.foldl (fun m s => memWrite m (stagedAddr p s.role.toNat) s.bytes) d.staging }

/-- The record of a task that starts (R128). -/
def newTask (d : Dev) (part : PartId) (p : Post) (tiles : List Nat) (pins : List (Nat × Bool)) (rows : Nat) (owners : List W64) :
    TaskSt :=
  { post := p, part := part, tiles := tiles, pins := pins, fail := none, rows := rows, owners := owners
    seeds := owners.map (seedOf d), squashed := [], flags := 0, detail := 0, buf := [], podLeft := 0, legsLeft := 0, computed := false
    walkers := [], recs := [], rowFl := [], appendAt := none, ents := [], maps := [] }

/-- The number as a partition. -/
def partId (n : Nat) : PartId := ⟨n % 64, Nat.mod_lt _ (by decide)⟩

/-- A task of Table 4.6 whose checks have passed starts: its work items are enqueued, each pins the bases of its operands, its
pod-memory inputs are asked for. -/
def startTask (op : Nat) (p : Post) (d : Dev) : Dev :=
  let part := dNat p 17 1
  let x := getPart d part
  let os := taskOpds p
  let k := kindOf op p os x
  let so := shaped k os
  let rd := podReads d x op p os
  let t1 := so.any (fun e => e.2.tier == 1 && (taskRanges op p e.1 e.2).any (fun r => t1Barred d x r.1 r.2))
  if taskClockDown d || t1 then complete (liftDone d part p) p .internal 0 0
  else
    match podRefusal d x rd (podWrites op p os) with
    | some (st, detail) => complete (liftDone d part p) p st detail 0
    | none =>
      let n := d.taskNo
      let tiles := workTiles d x
      let pins := (basisIds d x op p os).flatMap (pinsOf d)
      let rows := if k.mixes then 0 else tM p
      let t := { newTask d (partId part) p tiles pins rows (if k.mixes then [] else rowOwners p (tM p)) with
        podLeft := (rd.flatMap (fun r => podPieces r.1 r.2)).length }
      let d1 := setTask (stageIn { d with taskNo := n + 1 } p) n t
      let d2 := addPins d1 pins tiles.length
      let tc := if op == 0x010C then bulkTc d part else reqTc d part
      podLoads d2 x.owner (engTile (tiles.headD 0)) tc rd (.taskLoad n)

/-- Whether tasks of the partition are held now (R179): it is being suspended, suspended or resumed. -/
def partHolds (x : PartSt) : Bool := x.state == .suspending || x.state == .suspended || x.state == .resuming

/-- A task that has been accepted: held with its partition, bound to the lift, or started. At most 256 tasks are held; the
ring stalls at the next (R179). -/
def admitTask (part : Nat) (p : Post) (rs : List (List (Nat × Nat))) (start : Dev → Dev) (d : Dev) : Res :=
  let x := getPart d part
  if partHolds x && decide (256 ≤ x.held.length) then .wait .partition d
  else
    match bindTask d part p rs with
    | .refused => .plain .badDescriptor d
    | .late layer => .done .windowLate layer 0 d
    | .free =>
      if partHolds x then .later (setPart d part { x with held := x.held ++ [p] }) else .later (start d)
    | .ready y =>
      let d1 := setLift d part y
      if partHolds x then .later (setPart d1 part { getPart d1 part with held := x.held ++ [p] }) else .later (start d1)
    | .waits y => .later (countStall (liftNext (setLift d part y) part) part)

/-- A task descriptor of Table 4.6: acceptance (Table 4.4), then its start. -/
def taskRule (op : Nat) (p : Post) (d : Dev) : Res :=
  let part := dNat p 17 1
  let x := getPart d part
  let os := taskOpds p
  let k := kindOf op p os x
  match acceptTask d op p os k with
  | .stop st detail => .done st detail 0 d
  | .go => admitTask part p (tileRanges op p (shaped k os)) (startTask op p) d

/-! ## The end of work items -/

/-- The context that a task computes in. -/
def taskCtx (d : Dev) (t : TaskSt) : Ctx := ⟨d, getPart d t.part.val, t.buf, t.pins⟩

/-- The flags of the rows that are not squashed together (R66). -/
def rowFlags (fs : List (Nat × NumFlags)) (squashed : List Nat) : NumFlags :=
  (fs.filter (fun f => !squashed.contains f.1)).foldl (fun a f => a ||| f.2) 0

/-- A task that failed: its output lines are left in any mix (R136), and it completes. -/
def failOut (d : Dev) (n : Nat) (ws : List OutW) : Dev :=
  match tget d.tasks n with
  | none => d
  | some t =>
    let x := getPart d t.part.val
    finishTask (liftDone (commitWrites d x (mixWrites n (liveWrites ws t.squashed))) t.part.val t.post) n

/-- The results of task `n` take effect: its failure when one was met, else its writes; a task that stores to pod memory waits
for the acknowledgements (R365). -/
def applyOut (d : Dev) (n : Nat) (t : TaskSt) (o : TaskOut) : Dev :=
  let x := getPart d t.part.val
  let ws := liveWrites o.writes t.squashed
  let fl := t.flags ||| rowFlags o.flags t.squashed
  let fails := o.fails ++ writeFails d x ws
  let d1 := setTask d n { t with flags := fl, computed := true }
  match t.fail with
  | some _ => failOut d1 n o.writes
  | none =>
    match fails[Config.pickFail n % fails.length]? with
    | some (st, detail) => failOut (failTask d1 n st detail) n o.writes
    | none =>
      let d2 := commitWrites d1 x ws
      let pod := ws.filter (fun w => w.tier == 2)
      if pod.isEmpty then finishTask (liftDone d2 t.part.val t.post) n
      else
        let d3 := setTask (liftDone d2 t.part.val t.post) n
          { t with flags := fl, computed := true, podLeft := (pod.flatMap (fun w => podPieces w.base (w.w / 8))).length }
        pod.foldl (fun d w => podStores d x.owner (engTile 0) (bulkTc d t.part.val) w.base (leBytes w.v (w.w / 8)) (.taskStore n)) d3

/-- The last work item of a task of Table 4.6 has ended: a task whose every row is squashed completes with CANCELLED, any
other computes. -/
def concludeTask (d : Dev) (n : Nat) (t : TaskSt) : Dev :=
  let op := opcode t.post
  if t.fail.isNone && decide (0 < t.rows) && t.squashed.length == t.rows then finishTask (liftDone d t.part.val t.post) n
  else applyOut d n t (computeTask (taskCtx d t) op t.post (taskOpds t.post) t.seeds t.squashed)

/-- One work item of a task has ended on a tile: its pins are released (R93). With `concl` the last one concludes the task.
The last item of a task that waits for pod data it needs cannot end yet. -/
def itemEnd (concl : Dev → Nat → TaskSt → Dev) (d : Dev) (n tile : Nat) : Dev :=
  match tget d.tasks n with
  | none => d
  | some t =>
    if !t.tiles.contains tile || (t.tiles.length == 1 && t.fail.isNone && !t.computed && (t.podLeft != 0 || t.legsLeft != 0 || t.appendAt.isSome)) then d
    else
      let t1 := { t with tiles := t.tiles.erase tile }
      let d1 := setTask d n t1
      let d2 := if t1.tiles.isEmpty then concl d1 n t1 else d1
      dropPins d2 t.pins

/-- The rows of a task that belong to cancelled requests squashed (R132). -/
def squashRows (d : Dev) (t : TaskSt) : TaskSt :=
  let hit := ((t.owners.zipIdx).filter (fun e => e.1 != 0 && d.cancelled.contains e.1)).map (·.2)
  { t with squashed := t.squashed ++ hit.filter (fun i => !t.squashed.contains i) }

/-! ## The task descriptors of Table 4.6 -/

/-- MATMUL (R138). -/
def execMatmul (p : Post) (s : State) : Host.Outcome State Fault Refusal :=
  answer s (perform 0x0101 p (taskRule 0x0101 p) s.dev)
/-- GROUPED_MATMUL (R144). -/
def execGroupedMatmul (p : Post) (s : State) : Host.Outcome State Fault Refusal :=
  answer s (perform 0x0102 p (taskRule 0x0102 p) s.dev)
/-- ROUTE (R142). -/
def execRoute (p : Post) (s : State) : Host.Outcome State Fault Refusal :=
  answer s (perform 0x0103 p (taskRule 0x0103 p) s.dev)
/-- NORM (R145). -/
def execNorm (p : Post) (s : State) : Host.Outcome State Fault Refusal :=
  answer s (perform 0x0104 p (taskRule 0x0104 p) s.dev)
/-- ELEMENTWISE (R147). -/
def execElementwise (p : Post) (s : State) : Host.Outcome State Fault Refusal :=
  answer s (perform 0x0105 p (taskRule 0x0105 p) s.dev)
/-- SOFTMAX (R146). -/
def execSoftmax (p : Post) (s : State) : Host.Outcome State Fault Refusal :=
  answer s (perform 0x0106 p (taskRule 0x0106 p) s.dev)
/-- GATHER (R149). -/
def execGather (p : Post) (s : State) : Host.Outcome State Fault Refusal :=
  answer s (perform 0x0107 p (taskRule 0x0107 p) s.dev)
/-- SAMPLE (R154). -/
def execSample (p : Post) (s : State) : Host.Outcome State Fault Refusal :=
  answer s (perform 0x0108 p (taskRule 0x0108 p) s.dev)
/-- CONVERT (R150). -/
def execConvert (p : Post) (s : State) : Host.Outcome State Fault Refusal :=
  answer s (perform 0x0109 p (taskRule 0x0109 p) s.dev)
/-- COMPRESS (R152). -/
def execCompress (p : Post) (s : State) : Host.Outcome State Fault Refusal :=
  answer s (perform 0x010A p (taskRule 0x010A p) s.dev)
/-- REDUCE (R148). -/
def execReduce (p : Post) (s : State) : Host.Outcome State Fault Refusal :=
  answer s (perform 0x010B p (taskRule 0x010B p) s.dev)
/-- COPY (R151). -/
def execCopy (p : Post) (s : State) : Host.Outcome State Fault Refusal :=
  answer s (perform 0x010C p (taskRule 0x010C p) s.dev)
/-- GRAD_WEIGHT (R156). -/
def execGradWeight (p : Post) (s : State) : Host.Outcome State Fault Refusal :=
  answer s (perform 0x0110 p (taskRule 0x0110 p) s.dev)
/-- ACT_BWD (R157). -/
def execActBwd (p : Post) (s : State) : Host.Outcome State Fault Refusal :=
  answer s (perform 0x0111 p (taskRule 0x0111 p) s.dev)
/-- NORM_BWD (R158). -/
def execNormBwd (p : Post) (s : State) : Host.Outcome State Fault Refusal :=
  answer s (perform 0x0112 p (taskRule 0x0112 p) s.dev)
/-- OPTIM_ADAMW (R159). -/
def execOptimAdamw (p : Post) (s : State) : Host.Outcome State Fault Refusal :=
  answer s (perform 0x0113 p (taskRule 0x0113 p) s.dev)

end Sys2Proof.Machine
end

