-- ==== Sys2Proof/Machine/Basis.lean ====
section
/-! DEFINITION. Basis generations (03_lowrank.md R90 to R100, Table 3.3): BASIS_REPLACE, BASIS_RETIRE and the end of a drain. -/
namespace Sys2Proof.Machine

/-- BASIS_ID and PARTITION of Table 3.2. -/
def bId (p : Post) : Nat := dNat p 16 2
def bPart (p : Post) : Nat := dNat p 19 1

/-- Whether the poster owns the partition and the partition's range holds the ID (R90, R96). -/
def basisNamed (d : Dev) (p : Post) : Bool :=
  let x := getPart d (bPart p)
  mayName d (poster d p) (bPart p) && decide (basisBaseOf x ≤ bId p) &&
    decide (bId p < basisBaseOf x + basisCountOf x)

/-- The bytes that V takes. -/
def vBytes (p : Post) : Nat := 2 * dNat p 18 1 * dNat p 20 2

/-- Whether the whole range of V may be read (R97 step 1, R323, R325). -/
def vRangeOk (d : Dev) (p : Post) : Bool :=
  let a := dNat p 32 8
  if dNat p 40 1 = 0 then rangeOk d (getPart d (bPart p)) 1 a (vBytes p) false true
  else decide (a + vBytes p ≤ 2 ^ 64)

/-- 16-bit little-endian words of a byte string. -/
def words16 : List Byte → List W16
  | a :: b :: t => (b ++ a) :: words16 t
  | _ => []

/-- Reading V (R97 step 5): its values, or the failure with the line of Table 3.5. -/
def readV (d : Dev) (p : Post) : Sum (Status × Nat) (List W16) :=
  let a := dNat p 32 8
  let n := vBytes p
  let x := getPart d (bPart p)
  if dNat p 40 1 = 0 then
    match (pagesIn a n).find? (fun pg => !rangeOk d x 1 (pg * pageSize) 1 false true) with
    | some pg => .inl (.badDescriptor, detailOf x 1 (max a (pg * pageSize)))
    | none =>
      match badIn d x 1 a n with
      | l :: _ => .inl (.memUncorrectable, l)
      | [] => .inr (words16 (tierBytes d x [] 1 a n))
  else
    match badIn d x 3 a n with
    | l :: _ => .inl (.memUncorrectable, l)
    | [] => .inr (words16 (memRead d.host a n))

/-- The device with a basis ID's record set. -/
def setBasis (d : Dev) (id : Nat) (b : BasisSt) : Dev := { d with bases := tset d.bases id b }

/-- A slot that becomes EMPTY: its storage returns to the quota of partition `part` (R100). -/
def emptySlot (d : Dev) (part id : Nat) (second : Bool) : Dev :=
  let b := getBasis d id
  setBasis (heapFree d part (slotOf b second).obj) id (setSlot b second BasisSlot.reset)

/-- The target slot of BASIS_REPLACE: an EMPTY one, else one that is not CURRENT (R97 step 2). -/
def targetSlot (b : BasisSt) : Bool :=
  if b.s0.state = .empty then false
  else if b.s1.state = .empty then true
  else b.s0.state == .current

/-- Steps 5 to 7 of R97 on the slot `second`, whose storage is reserved: V is copied and published, or the slot becomes EMPTY. -/
def publish (d : Dev) (p : Post) (second : Bool) : Status × Nat × Dev :=
  let id := bId p
  match readV d p with
  | .inl (st, detail) =>
    let d1 := if st == .memUncorrectable then postUncorrectable d detail else d
    (st, detail, emptySlot { d1 with bases := tset d1.bases id { getBasis d1 id with waiting := none } } (bPart p) id second)
  | .inr v =>
    let b := getBasis d id
    let t := slotOf b second
    let o := slotOf b (!second)
    let gen := dNat p 24 4
    let o1 := if o.state = .current then { o with state := .previous } else o
    let t1 := { t with state := .current, gen := gen, rank := dNat p 18 1, columns := dNat p 20 2, v := v }
    let b1 := setSlot (setSlot { b with waiting := none } second t1) (!second) o1
    (.ok, gen + 2 ^ 32 * (if o1.state = .previous then o1.gen else 0), setBasis d id b1)

/-- The checks of R97 step 1, in the order of R572. -/
def replaceCheck (d : Dev) (p : Post) : Option Status :=
  let rank := dNat p 18 1
  let cols := dNat p 20 2
  let gen := dNat p 24 4
  let b := getBasis d (bId p)
  let newest := [b.s0, b.s1].foldl (fun m s => if s.state = .current then max m s.gen else m) 0
  if !dZero p 8 8 || !dZero p 22 2 || !dZero p 28 4 || !dZero p 41 23 || !basisNamed d p || decide (1 < dNat p 40 1) then
    some .badDescriptor
  else if rank = 0 ∨ cols = 0 then some .badLength
  else if !rankOk rank || decide (16384 < cols) || gen = 0 || decide (gen ≤ newest) || !vRangeOk d p then some .badDescriptor
  else none

/-- BASIS_REPLACE (R97, R98, R100). A descriptor whose basis ID has another waiting for a drain waits for it (R96). -/
def replaceRule (p : Post) (d : Dev) : Res :=
  let id := bId p
  let b := getBasis d id
  if b.waiting.isSome then .wait .basis d
  else
    match replaceCheck d p with
    | some st => .plain st d
    | none =>
      let second := targetSlot b
      let t := slotOf b second
      let (obj, d1) := freshObj d
      let d2 := if t.state = .empty then d1 else heapFree d1 (bPart p) t.obj
      match heapAlloc d2 (bPart p) .basis obj (vBytes p) with
      | .lacks _ => .plain .quotaExceeded d
      | .ok d3 _ =>
        let t1 := { t with obj := obj }
        if t.pins = 0 then
          let (st, detail, d4) := publish (setBasis d3 id (setSlot b second t1)) p second
          .done st detail 0 d4
        else
          .wait .basis (setBasis d3 id { setSlot b second { t1 with state := .draining } with waiting := some p })

/-- BASIS_REPLACE (R97). -/
def execBasisReplace (p : Post) (s : State) : Host.Outcome State Fault Refusal :=
  answer s (perform 0x0410 p (replaceRule p) s.dev)

/-- Every DRAINING slot of an ID that no work item pins becomes EMPTY. -/
def drainSlots (d : Dev) (part id : Nat) : Dev :=
  let step (d : Dev) (second : Bool) : Dev :=
    let t := slotOf (getBasis d id) second
    if t.state = .draining ∧ t.pins = 0 then emptySlot d part id second else d
  step (step d false) true

/-- Whether both slots of an ID are EMPTY. -/
def bothEmpty (d : Dev) (id : Nat) : Bool := let b := getBasis d id; b.s0.state == .empty && b.s1.state == .empty

/-- Every slot of an ID that is not EMPTY turns DRAINING (R99). -/
def retireSlots (d : Dev) (part id : Nat) : Dev :=
  let b := getBasis d id
  let turn (t : BasisSlot) : BasisSlot := if t.state = .empty then t else { t with state := .draining }
  drainSlots (setBasis d id { b with s0 := turn b.s0, s1 := turn b.s1 }) part id

/-- BASIS_RETIRE (R99). -/
def retireRule (p : Post) (d : Dev) : Res :=
  let id := bId p
  if (getBasis d id).waiting.isSome then .wait .basis d
  else if !dZero p 8 8 || !dZero p 18 1 || !dZero p 20 44 || !basisNamed d p then .plain .badDescriptor d
  else
    let d1 := retireSlots d (bPart p) id
    if bothEmpty d1 id then .plain .ok d1
    else .wait .basis (setBasis d1 id { getBasis d1 id with waiting := some p })

/-- BASIS_RETIRE (R99). -/
def execBasisRetire (p : Post) (s : State) : Host.Outcome State Fault Refusal :=
  answer s (perform 0x0411 p (retireRule p) s.dev)

/-- The partition whose range holds a basis ID. -/
def basisOwner (d : Dev) (id : Nat) : Nat :=
  ((d.parts.find? (fun e => e.2.state != .free && decide (basisBaseOf e.2 ≤ id) &&
    decide (id < basisBaseOf e.2 + basisCountOf e.2))).map (·.1)).getD 0

/-- The end of a drain of basis ID `id` (Table 3.3): the descriptor that waits goes on when its slot has no pin left, its ring
resumes; slots that drain without a descriptor become EMPTY. -/
def drainDone (d : Dev) (id : Nat) : Dev :=
  let b := getBasis d id
  match b.waiting with
  | none => drainSlots d (basisOwner d id) id
  | some p =>
    let free (t : BasisSlot) : Bool := t.state == .draining && t.pins == 0
    if opcode p = 0x0410 then
      if (free b.s0 || free b.s1) && (dNat p 40 1 == 0 || hostOpen d (poster d p)) then
        let (st, detail, d1) := publish (takePost d p) p (free b.s1)
        complete d1 p st detail 0
      else d
    else
      let d1 := drainSlots d (bPart p) id
      if bothEmpty d1 id then complete (setBasis (takePost d1 p) id BasisSt.reset) p .ok 0 0 else d1

/-- BASIS_DRAIN_DONE (R97 to R99). -/
def execBasisDrainDone (id : Nat) (s : State) : Host.Outcome State Fault Refusal := answer s (drainDone s.dev id)

end Sys2Proof.Machine
end

