-- ==== Sys2Proof/Machine/PageTable.lean ====
section
/-! DEFINITION. KV layouts, page tables and their reclamation (06_attention.md R198 to R213, R223, R242 to R244): layouts, handles,
commits, walkers, frames, and what a table is charged. -/
namespace Sys2Proof.Machine

/-! ## Layouts (Tables 6.1, 6.2) -/

/-- The field at bytes `off` to `off + n − 1` of KV_LAYOUT. -/
def kvField (l : KvLayout) (off n : Nat) : Nat := bits l.fields.toNat (8 * (off - 18)) (8 * n)

def kvLayers (l : KvLayout) : Nat := kvField l 18 1
def kvHeads (l : KvLayout) : Nat := kvField l 19 1
def kvDim (l : KvLayout) : Nat := kvField l 20 2
def kvGroup (l : KvLayout) : Nat := kvField l 22 1
def kvPage (l : KvLayout) : Nat := kvField l 23 1
def kvBasin (l : KvLayout) : Nat := kvField l 24 2
def kvSpec (l : KvLayout) : Nat := kvField l 26 1
def kvUfmt (l : KvLayout) : Nat := kvField l 27 1
def kvRank (l : KvLayout) : Nat := kvField l 28 1
def kvBfmt (l : KvLayout) : Nat := kvField l 29 1
def kvRope (l : KvLayout) : Nat := kvField l 30 1
def kvDigest (l : KvLayout) : Bool := (kvField l 31 1).testBit 0
def kvBasis (l : KvLayout) : Nat := kvField l 32 2
def kvRopeDims (l : KvLayout) : Nat := kvField l 34 2
def kvRopeBase (l : KvLayout) : Nat := kvField l 36 4
def kvKScale (l : KvLayout) : Nat := kvField l 40 4
def kvVScale (l : KvLayout) : Nat := kvField l 44 4
def kvDigScale (l : KvLayout) : Nat := kvField l 48 4

/-- KV_HEADS × HEAD_DIM. -/
def kvCols (l : KvLayout) : Nat := kvHeads l * kvDim l
/-- The extent of one page in bytes. -/
def kvExt (l : KvLayout) : Nat := blockLen (kvUfmt l) (kvPage l) (kvRank l)
def frameBytes (l : KvLayout) : Nat := 2 * kvLayers l * kvExt l
def digestBytes (l : KvLayout) : Nat := kvLayers l * kvHeads l * 64
def basinBytes (l : KvLayout) : Nat := 2 * kvLayers l * kvBasin l * kvCols l * 2
def rootBytes : Nat := 4160
def leafBytes : Nat := 8192

/-- The layout `id` of a partition. -/
def getLayout (d : Dev) (part id : Nat) : Option KvLayout := tget d.layouts (part * 16 + id)

/-- Equality of layouts (R201). -/
def layoutEq (a b : KvLayout) : Bool := a.fields == b.fields && (!kvDigest a || a.proj == b.proj)

/-- A page table's layout is in use while a live table follows it. -/
def layoutUsed (d : Dev) (part id : Nat) : Bool :=
  d.tables.any (fun e => e.2.live && e.2.hold == part && e.2.layoutId == id)

/-- KV_LAYOUT's first check (R199): who posts it, reserved fields, codes, the basis range. -/
def layoutHead (d : Dev) (p : Post) (l : KvLayout) (part : Nat) : Bool :=
  let x := getPart d part
  let dig := kvDigest l
  dZero p 8 8 && mayName d (poster d p) part && decide (dNat p 17 1 < 16) && dZero p 52 4 && bits (dNat p 31 1) 1 6 == 0 &&
    ufmtOk (kvUfmt l) && (kvBfmt l == 2 || kvBfmt l == 3) && decide (kvRope l ≤ 2) &&
    (kvRope l != 0 || (kvRopeDims l == 0 && kvRopeBase l == 0)) && (dig || (kvDigScale l == 0 && dZero p 56 8)) &&
    decide (basisBaseOf x ≤ kvBasis l) && decide (kvBasis l + 2 * kvLayers l ≤ basisBaseOf x + basisCountOf x)

/-- The sizes that may not be 0, and R82's rank. -/
def layoutSized (l : KvLayout) : Bool :=
  [kvLayers l, kvHeads l, kvDim l, kvGroup l, kvPage l, kvBasin l, kvRank l].all (· != 0) &&
    (kvRope l == 0 || kvRopeDims l != 0) && !(fmtMx (kvUfmt l) && (kvRank l == 8 || kvRank l == 16))

/-- A finite value that is not zero. -/
def scaleOk (x : Nat) : Bool := isFin (dec32 x) && !isZero (dec32 x)

/-- The ranges of Table 6.1. -/
def layoutRanges (l : KvLayout) : Bool :=
  decide (kvLayers l ≤ 128) && decide (kvHeads l ≤ 32) && [64, 128, 256].contains (kvDim l) && decide (kvGroup l ≤ 16) &&
    decide (kvHeads l * kvGroup l ≤ 128) && [16, 32, 64, 128].contains (kvPage l) && decide (64 ≤ kvBasin l) &&
    decide (kvBasin l ≤ 256) && kvBasin l % 32 == 0 && decide (kvPage l + kvSpec l ≤ kvBasin l) && decide (kvSpec l ≤ 32) &&
    rankOk (kvRank l) &&
    (kvRope l == 0 || (kvRopeDims l % 2 == 0 && decide (kvRopeDims l ≤ kvDim l) && isFin (dec32 (kvRopeBase l)) &&
      vlt vOne (dec32 (kvRopeBase l)))) &&
    scaleOk (kvKScale l) && scaleOk (kvVScale l) && (!kvDigest l || scaleOk (kvDigScale l))

/-- The device without a layout: its projections leave the quota. -/
def dropLayout (d : Dev) (part id : Nat) : Dev :=
  match getLayout d part id with
  | none => d
  | some l =>
    let d1 := { d with layouts := tdel d.layouts (part * 16 + id) }
    match l.obj with
    | none => d1
    | some o => heapFree d1 part o

/-- An accepted KV_LAYOUT with its digest projections (R200). -/
def setLayout (d : Dev) (p : Post) (l : KvLayout) (part id : Nat) : Res :=
  let d0 := dropLayout d part id
  if !kvDigest l then .plain .ok { d0 with layouts := tset d0.layouts (part * 16 + id) l }
  else
    let n := kvLayers l * kvDim l * 64 * 2
    let a := dNat p 56 8
    let x := getPart d part
    if !rangeOk d x 1 a n false true then .plain .badDescriptor d
    else
      match badIn d x 1 a n with
      | b :: _ => .done .memUncorrectable b 0 (postUncorrectable d b)
      | [] =>
        let (o, d1) := freshObj d0
        match heapAlloc d1 part .state o n with
        | .lacks _ => .plain .quotaExceeded d
        | .ok d2 _ =>
          .plain .ok { d2 with
            layouts := tset d2.layouts (part * 16 + id) { l with proj := words16 (tierBytes d x [] 1 a n), obj := some o } }

/-- KV_LAYOUT (R198 to R200). -/
def kvLayoutRule (p : Post) (d : Dev) : Res :=
  let part := dNat p 16 1
  let id := dNat p 17 1
  let l : KvLayout := ⟨BitVec.ofNat 304 (dNat p 18 38), [], none⟩
  if !layoutHead d p l part then .plain .badDescriptor d
  else if !layoutSized l then .plain .badLength d
  else if !layoutRanges l || layoutUsed d part id then .plain .badDescriptor d
  else setLayout d p l part id

/-- KV_LAYOUT with REMOVE (R199). -/
def kvLayoutRemoveRule (p : Post) (d : Dev) : Res :=
  let part := dNat p 16 1
  let id := dNat p 17 1
  if !dZero p 8 8 || !mayName d (poster d p) part || decide (15 < id) || !dZero p 18 13 || dNat p 31 1 != 128 || !dZero p 32 32 ||
      (getLayout d part id).isNone || layoutUsed d part id then .plain .badDescriptor d
  else .plain .ok (dropLayout d part id)

/-- KV_LAYOUT in either form: REMOVE decides. -/
def kvLayoutAny (p : Post) (d : Dev) : Res :=
  if (dNat p 31 1).testBit 7 then kvLayoutRemoveRule p d else kvLayoutRule p d

/-- KV_LAYOUT (R199). -/
def execKvLayout (p : Post) (s : State) : Host.Outcome State Fault Refusal :=
  answer s (perform 0x0430 p (kvLayoutAny p) s.dev)

/-- KV_LAYOUT's removing form (R199). -/
def execKvLayoutRemove (p : Post) (s : State) : Host.Outcome State Fault Refusal :=
  answer s (perform 0x0430 p (kvLayoutAny p) s.dev)

/-- KV_POLICY (R205, R242). -/
def kvPolicyRule (p : Post) (d : Dev) : Res :=
  let part := dNat p 16 1
  let v := dNat p 17 1
  if !dZero p 8 8 || !dZero p 18 46 || !mayName d (poster d p) part || decide (1 < v) then .plain .badDescriptor d
  else .plain .ok (setPart d part { getPart d part with dropMoored := v == 1 })

/-- KV_POLICY (R205). -/
def execKvPolicy (p : Post) (s : State) : Host.Outcome State Fault Refusal :=
  answer s (perform 0x0431 p (kvPolicyRule p) s.dev)

/-! ## Handles and tables (R202, R203) -/

/-- The handle of a table (Table 6.3). -/
def handleOf (t : TableSt) : Nat := t.index + t.part * 2 ^ 20 + t.dev * 2 ^ 26 + t.tag * 2 ^ 32

def hPart (h : Nat) : Nat := bits h 20 6
def hDev (h : Nat) : Nat := bits h 26 6

/-- The live table that a handle names on this device, with its key. -/
def findTable (d : Dev) (h : Nat) : Option (Nat × TableSt) :=
  d.tables.find? (fun e => e.2.live && handleOf e.2 == h)

/-- The table under a key, and the device with it set. -/
def setTable (d : Dev) (k : Nat) (t : TableSt) : Dev := { d with tables := tset d.tables k t }

/-- The leaf that holds the entry of page `p`: a ring table keeps it in entry p mod W (R223). -/
def leafOf (t : TableSt) (p : Nat) : Nat := (if t.isRing then p % t.w else p) / 256

/-- The number of tables whose current root maps a frame (R212). -/
def shareCount (d : Dev) (obj : Nat) : Nat :=
  (d.tables.filter (fun e => e.2.live && e.2.entries.any (fun en => !en.2.dropped && en.2.dev == e.2.dev && en.2.frame == obj))).length

/-- Whether a live table's entry keeps a page's digests. -/
def digestUsed (d : Dev) (obj : Nat) : Bool :=
  d.tables.any (fun e => e.2.live && e.2.entries.any (fun en => en.2.dig == some obj))

/-- The device indices of frames that this device holds. -/
def ownFrame (d : Dev) (e : PtEntry) : Bool := e.dev == (selfDev d).val

/-- The device offset of a frame of this device. -/
def frameAddr (d : Dev) (e : PtEntry) : Nat := (heapAddr (getPart d e.part) e.frame).getD 0

/-- The first basin position of a layer (R213). -/
def firstBasin (t : TableSt) (y : PtLayer) : Nat := kvPage t.layout * y.pages

def layerAt (ls : List PtLayer) (l : Nat) : PtLayer := ls.getD l ⟨0, 0, 0⟩

/-- Smallest and largest of a list. -/
def minList (l : List Nat) : Nat := l.foldl min (l.headD 0)
def maxList (l : List Nat) : Nat := l.foldl max 0

def minLen (t : TableSt) : Nat := minList (t.layers.map (·.len))
def maxFirstBasin (t : TableSt) : Nat := maxList (t.layers.map (firstBasin t))

/-! ## Retirement (R211, R212) -/

/-- Whether an object that retired at epoch E is released: no used bucket of its table is labelled below E. -/
def mayRelease' (t : TableSt) (e : Nat) : Bool := t.buckets.all (fun b => decide (e ≤ b.epoch))

/-- Releases what may be released of a table; a table whose handle is dead goes with the last of it. -/
def reap (d : Dev) (k : Nat) : Dev :=
  match tget d.tables k with
  | none => d
  | some t =>
    let go := t.retired.filter (fun r => mayRelease' t r.epoch)
    let keep := t.retired.filter (fun r => !mayRelease' t r.epoch)
    let d1 := go.foldl (fun d r => heapFree d r.part r.obj) d
    if !t.live && keep.isEmpty then { d1 with tables := tdel d1.tables k } else setTable d1 k { t with retired := keep }

/-- A commit publishes the table with EPOCH + 1 (R209). -/
def commitTable (d : Dev) (k : Nat) (t : TableSt) : Dev := reap (setTable d k { t with epoch := t.epoch + 1 }) k

/-- The table without the entries of the pages that `gone` picks (R212): frames no table maps any more retire with their
digests, leaves left without an entry retire. Tagged with the epoch that the commit will have. -/
def unmapPages (d : Dev) (k : Nat) (t : TableSt) (gone : Nat → Bool) : TableSt :=
  let out := t.entries.filter (fun e => gone e.1)
  let entries := t.entries.filter (fun e => !gone e.1)
  let others := { d with tables := tdel d.tables k }
  let e := t.epoch + 1
  let frames := (out.filter (fun x => !x.2.dropped && ownFrame d x.2 && shareCount others x.2.frame == 0)).map
    (fun x => (⟨e, x.2.part, x.2.frame, true⟩ : RetObj))
  let digs := out.filterMap (fun x => match x.2.dig with
    | some o => if digestUsed others o then none else some (⟨e, x.2.part, o, false⟩ : RetObj)
    | none => none)
  let empty := t.leaves.filter (fun l => !entries.any (fun x => leafOf t x.1 == l.1))
  { t with
    entries := entries
    leaves := t.leaves.filter (fun l => entries.any (fun x => leafOf t x.1 == l.1))
    retired := t.retired ++ frames ++ digs ++ empty.map (fun l => (⟨e, t.hold, l.2, false⟩ : RetObj)) }

/-- A frame set aside is released (R286). -/
def dropRsv (d : Dev) (k : Nat) : Dev :=
  match tget d.tables k with
  | none => d
  | some t => setTable (t.rsv.foldl (fun d o => heapFree d t.hold o) d) k { t with rsv := [] }

/-- The end of a table (R208): every page unmapped, basin and root retired, the handle dead. -/
def destroyTable (d : Dev) (k : Nat) : Dev :=
  let d0 := dropRsv d k
  match tget d0.tables k with
  | none => d0
  | some t =>
    let t1 := unmapPages d0 k t (fun _ => true)
    let e := t.epoch + 1
    commitTable d0 k { t1 with
      live := false
      retired := t1.retired ++ [⟨e, t.hold, t.root, false⟩, ⟨e, t.hold, t.basin, false⟩] }

/-- A walker joins a table (R211): the label of the bucket it counts in. -/
def joinBuckets (t : TableSt) : Nat × List Bucket :=
  let inc (e : Nat) : List Bucket := t.buckets.map (fun b => if b.epoch = e then { b with count := b.count + 1 } else b)
  if t.buckets.any (fun b => b.epoch == t.epoch) then (t.epoch, inc t.epoch)
  else if t.buckets.length < 16 then (t.epoch, t.buckets ++ [⟨t.epoch, 1⟩])
  else
    let newest := maxList (t.buckets.map (·.epoch))
    (newest, inc newest)

/-- A walker leaves its bucket; a bucket at 0 becomes unused. -/
def leaveTable (d : Dev) (k label : Nat) : Dev :=
  match tget d.tables k with
  | none => d
  | some t =>
    let bs := (t.buckets.map (fun b => if b.epoch = label then { b with count := b.count - 1 } else b)).filter (fun b => b.count != 0)
    reap (setTable d k { t with buckets := bs }) k

/-! ## Reclaim (R242 to R244) -/

/-- Whether the barge of a request is MOORED at this device, with the order of its mooring. How a page holder learns it of a
barge that another device owns is private: such a barge is never taken (log 34). -/
def mooredAt (d : Dev) (req : W64) : Option Nat :=
  match tget d.barges req.toNat with
  | some b => if b.state = .moored then some b.mooredNo else none
  | none => none

/-- The table of a partition whose barge was moored earliest and that has a PRESENT page. -/
def victim (d : Dev) (part : Nat) : Option Nat :=
  let cands := d.tables.filterMap (fun e =>
    if e.2.live && e.2.hold == part && e.2.part == part && !e.2.atHost && e.2.request != 0 && e.2.entries.any (fun x => !x.2.dropped)
    then (mooredAt d e.2.request).map (fun n => (n, e.1)) else none)
  (cands.foldl (fun (best : Option (Nat × Nat)) c => match best with
    | none => some c
    | some b => if c.1 < b.1 then some c else some b) none).map (·.2)

/-- The commit that marks the PRESENT entries of a table that `p` picks DROPPED, with RECOMPUTE set (R242, R340). Frames no other
table maps retire; digests stay (R243). -/
def dropPages (d : Dev) (k : Nat) (p : Nat → Bool) : Dev :=
  match tget d.tables k with
  | none => d
  | some t =>
    let others := { d with tables := tdel d.tables k }
    let hit := t.entries.filter (fun e => p e.1 && !e.2.dropped)
    let ret := (hit.filter (fun e => ownFrame d e.2 && shareCount others e.2.frame == 0)).map
      (fun e => (⟨t.epoch + 1, e.2.part, e.2.frame, true⟩ : RetObj))
    commitTable d k { t with
      entries := t.entries.map (fun e => if p e.1 && !e.2.dropped then (e.1, { e.2 with dropped := true, recompute := true }) else e)
      retired := t.retired ++ ret }

/-- What an allocation with reclaim answers; a victim stays DROPPED even when the allocation fails (R242). -/
inductive Got where
  | ok (d : Dev)
  | lacks (pages : Nat) (d : Dev)

/-- Places the objects of a page holder, taking MOORED victims when RECLAIM is DROP_MOORED, at most `fuel` of them (R242). -/
def allocReclaim (part : Nat) (l : List (HeapKind × Nat × Nat)) : Nat → Dev → Got
  | 0, d => match heapAllocs d part l with
    | .ok d1 _ => .ok d1
    | .lacks k => .lacks k d
  | n + 1, d =>
    match heapAllocs d part l with
    | .ok d1 _ => .ok d1
    | .lacks k =>
      if (getPart d part).dropMoored then
        match victim d part with
        | none => .lacks k d
        | some v => allocReclaim part l n (dropPages d v (fun _ => true))
      else .lacks k d

/-- Places objects with reclaim over every table that may be taken. -/
def holderAlloc (d : Dev) (part : Nat) (l : List (HeapKind × Nat × Nat)) : Got := allocReclaim part l d.tables.length d

/-- The partition's heap may be used: its key slot, if any, is enabled and holds a key (R108). -/
def heapKeyOk (d : Dev) (part : Nat) : Bool :=
  match (getPart d part).heapKey with
  | none => true
  | some s => keyUsable d (.line s)

/-! ## Making a table (R205) -/

/-- The lowest INDEX of a partition that no table has; TAG counts its uses. DESIGN CHOICE (log 35). -/
def freshIndex (d : Dev) (part : Nat) : Nat × Nat :=
  let used := (d.tables.filter (fun e => e.2.part == part && e.2.dev == (selfDev d).val)).map (fun e => e.2.index)
  let i := ((List.range (used.length + 1)).find? (fun i => !used.contains i)).getD 0
  (i, match tget d.tags (part * 2 ^ 20 + i) with | none => 0 | some t => (t + 1) % 65536)

/-- What making a table answers. -/
inductive Made where
  | ok (k : Nat) (d : Dev)
  | lacks (pages : Nat) (d : Dev)

/-- A new empty table in a partition. -/
def makeTable (d : Dev) (part layoutId : Nat) (l : KvLayout) (req : W64) (isRing : Bool) (w windowPos : Nat) : Made :=
  let (k, d1) := freshObj d
  let (root, d2) := freshObj d1
  let (basin, d3) := freshObj d2
  match holderAlloc d3 part [(.table, root, rootBytes), (.basin, basin, basinBytes l)] with
  | .lacks n d4 => .lacks n d4
  | .ok d4 =>
    let (i, tag) := freshIndex d4 part
    let t : TableSt :=
      { dev := (selfDev d).val, part := part, index := i, tag := tag, hold := part, layoutId := layoutId, layout := l
        request := req, isRing := isRing, w := w, windowPos := windowPos, epoch := 1, entries := []
        layers := List.replicate (kvLayers l) ⟨0, 0, 0⟩, root := root, basin := basin, leaves := [], buckets := [], retired := []
        live := true, atHost := false, rsv := [] }
    .ok k (setTable { d4 with tags := tset d4.tags (part * 2 ^ 20 + i) tag } k t)

/-- The leaf of an entry, placed when its first entry is mapped (Table 6.2). -/
def placeLeaf (d : Dev) (k p : Nat) : Got :=
  match tget d.tables k with
  | none => .ok d
  | some t =>
    let lf := leafOf t p
    if (tget t.leaves lf).isSome then .ok d
    else
      let (lo, d1) := freshObj d
      match holderAlloc d1 t.hold [(.table, lo, leafBytes)] with
      | .lacks n d2 => .lacks n d2
      | .ok d2 =>
        match tget d2.tables k with
        | none => .ok d2
        | some t2 => .ok (setTable d2 k { t2 with leaves := tset t2.leaves lf lo })

/-- The leaf and frame of page `p` placed for a table, with digests when the layout has them (R217, Table 6.2); a page already
there keeps its own. A frame set aside is taken (R286). -/
def placePage (d : Dev) (k p : Nat) : Got :=
  match tget d.tables k with
  | none => .ok d
  | some t =>
    match tget t.entries p with
    | some _ => .ok d
    | none =>
      let d0 := match t.rsv with
        | [] => d
        | o :: os => setTable (heapFree d t.hold o) k { t with rsv := os }
      let lf := leafOf t p
      let needLeaf := (tget t.leaves lf).isNone
      let (fo, d1) := freshObj d0
      let (go, d2) := freshObj d1
      let (lo, d3) := freshObj d2
      let l := t.layout
      let objs := [(HeapKind.frame, fo, frameBytes l)] ++ (if kvDigest l then [(HeapKind.digest, go, digestBytes l)] else []) ++
        (if needLeaf then [(HeapKind.table, lo, leafBytes)] else [])
      match holderAlloc d3 t.hold objs with
      | .lacks n d4 => .lacks n d4
      | .ok d4 =>
        match tget d4.tables k with
        | none => .ok d4
        | some t4 =>
          let e : PtEntry :=
            { dropped := false, recompute := false, dev := (selfDev d).val, part := t.hold, frame := fo
              dig := if kvDigest l then some go else none, done := 0 }
          .ok (setTable d4 k { t4 with
            entries := tset t4.entries p e
            leaves := if needLeaf then tset t4.leaves lf lo else t4.leaves })

/-- Several pages placed. -/
def placePages (k : Nat) : List Nat → Dev → Got
  | [], d => .ok d
  | p :: ps, d =>
    match placePage d k p with
    | .lacks n d1 => .lacks n d1
    | .ok d1 => placePages k ps d1

/-- The pages of `ps` that no commit has published leave the table again with their storage. -/
def unplacePages (d : Dev) (k : Nat) (ps : List Nat) : Dev :=
  match tget d.tables k with
  | none => d
  | some t =>
    let out := t.entries.filter (fun e => ps.contains e.1 && e.2.done == 0)
    let entries := t.entries.filter (fun e => !(ps.contains e.1 && e.2.done == 0))
    let empty := t.leaves.filter (fun l => !entries.any (fun x => leafOf t x.1 == l.1))
    let objs := out.flatMap (fun e => e.2.frame :: e.2.dig.toList) ++ empty.map (·.2)
    let d1 := objs.foldl (fun d o => heapFree d t.hold o) d
    setTable d1 k { t with
      entries := entries
      leaves := t.leaves.filter (fun l => entries.any (fun x => leafOf t x.1 == l.1)) }

end Sys2Proof.Machine
end

