-- ==== Sys2Proof/Machine/PtOps.lean ====
section
/-! DEFINITION. The table descriptors of Table 6.5 (06_attention.md R205 to R208) and what a lock transfer holds back
(07_barges_locks.md Table 7.16). -/
namespace Sys2Proof.Machine

/-! ## What a transfer holds back -/

/-- How far a transfer of a request's barge is at this device: none, FILL with STEP_DURING_FILL or without, or sealed. -/
inductive LockPhase where
  | none
  | fill (stepping : Bool)
  | frozen
deriving DecidableEq, Repr

def phaseOfSrc (x : SrcSt) : LockPhase := if x.frozen then .frozen else .fill x.stepFill

/-- The phase of a request's transfer as a source party of this device knows it. -/
def lockPhase (d : Dev) (req : W64) : LockPhase :=
  match tget d.barges req.toNat with
  | some b => match b.src with
    | some x => phaseOfSrc x
    | none => .none
  | none => match tget d.pageSrcs req.toNat with
    | some q => phaseOfSrc q.src
    | none => .none

/-- The kinds of work on a barge's table that Table 7.16 tells apart. -/
inductive TableUse where
  | edit
  | read
  | destroy
deriving DecidableEq, Repr

/-- Whether work on a table of a request waits for the end of its transfer (Table 7.16). -/
def tableWaits (d : Dev) (req : W64) (u : TableUse) : Bool :=
  req != 0 && (match lockPhase d req, u with
    | .none, _ => false
    | .fill _, .read => false
    | .fill stepping, .edit => !stepping
    | _, _ => true)

/-- The device after performing has answered. -/
def settleRes (p : Post) : Res → Dev
  | .done st detail extra d => complete d p st detail extra
  | .later d => d
  | .wait why d => keepPost d p why

/-- Work on a live table of this device that the poster may name, or its refusal; held back while a transfer says so. -/
def onTable (p : Post) (u : TableUse) (h : Nat) (d : Dev) (act : Nat → TableSt → Res) : Res :=
  match findTable d h with
  | none => .plain .badDescriptor d
  | some (k, t) =>
    if t.dev != (selfDev d).val || !mayName d (poster d p) t.part then .plain .badDescriptor d
    else if tableWaits d t.request u then .later { d with tableHeld := d.tableHeld ++ [p] }
    else act k t

/-! ## PT_CREATE and PT_FORK -/

/-- PT_CREATE (R205). -/
def ptCreateRule (p : Post) (d : Dev) : Res :=
  let part := dNat p 16 1
  let isRing := (dNat p 18 1).testBit 0
  let w := dNat p 20 4
  let wp := dNat p 24 4
  if !mayName d (poster d p) part || decide (1 < dNat p 18 1) || !dZero p 19 1 || !dZero p 28 36 || decide (15 < dNat p 17 1) ||
      (!isRing && (w != 0 || wp != 0)) then .plain .badDescriptor d
  else if isRing && (w == 0 || wp == 0) then .plain .badLength d
  else
    match getLayout d part (dNat p 17 1) with
    | none => .plain .badDescriptor d
    | some l =>
      if isRing && (decide (w < 2) || decide (4096 < w) || decide (w * kvPage l < wp)) then .plain .badDescriptor d
      else
        match makeTable d part (dNat p 17 1) l (dHandle p) isRing w wp with
        | .lacks n d1 => .done .quotaExceeded (n * 2 ^ 32) 0 d1
        | .ok k d1 => .done .ok (((tget d1.tables k).map handleOf).getD 0) 0 d1

/-- PT_CREATE (R205). -/
def execPtCreate (p : Post) (s : State) : Host.Outcome State Fault Refusal :=
  answer s (perform 0x0432 p (ptCreateRule p) s.dev)

/-- Every layer of a layout is done in an entry. -/
def allDone (l : KvLayout) (e : PtEntry) : Bool := (List.range (kvLayers l)).all (fun i => e.done.getLsbD i)

/-- DROPPED pages of a set as first page and run length: the first run (R240). -/
def firstRun (ps : List Nat) : Option (Nat × Nat) :=
  match ps with
  | [] => none
  | p :: _ => some (p, ((ps.zipIdx).takeWhile (fun q => q.1 == p + q.2)).length)

/-- PAGE_DROPPED's DETAIL. -/
def droppedDetail (run : Nat × Nat) (entry : Nat) : Nat := run.1 + min run.2 0xFFFF * 2 ^ 32 + entry * 2 ^ 48

/-- The leaves of the first pages of a table placed. -/
def placeLeaves (k : Nat) : List Nat → Dev → Got
  | [], d => .ok d
  | p :: ps, d => match placeLeaf d k p with
    | .lacks n d1 => .lacks n d1
    | .ok d1 => placeLeaves k ps d1

/-- A fork of `t`: the new table maps its first `n` pages (R206). -/
def forkTable (d : Dev) (t : TableSt) (n : Nat) : Made :=
  match makeTable d t.part t.layoutId t.layout 0 false 0 0 with
  | .lacks m d1 => .lacks m d1
  | .ok k d1 =>
    match placeLeaves k ((List.range (ceilDiv n 256)).map (· * 256)) d1 with
    | .lacks m d2 => .lacks m (destroyTable d2 k)
    | .ok d2 =>
      match tget d2.tables k with
      | none => .lacks 0 d2
      | some u => .ok k (setTable d2 k { u with
          entries := t.entries.filter (fun e => decide (e.1 < n))
          layers := List.replicate (kvLayers t.layout) ⟨n * kvPage t.layout, 0, n⟩ })

/-- PT_FORK (R206). -/
def ptForkRule (p : Post) (d : Dev) : Res :=
  let n := dNat p 20 4
  if !dZero p 16 4 || !dZero p 24 40 then .plain .badDescriptor d
  else onTable p .read (dNat p 8 8) d (fun _ t =>
    if n = 0 then .plain .ok d
    else
      let es := t.entries.filter (fun e => decide (e.1 < n))
      if t.isRing || t.atHost || es.length != n || es.any (fun e => !allDone t.layout e.2 ||
          (!e.2.dropped && ownFrame d e.2 && decide (65535 ≤ shareCount d e.2.frame))) then .plain .badDescriptor d
      else
        match firstRun ((es.filter (fun e => e.2.dropped)).map (·.1)) with
        | some run => .done .pageDropped (droppedDetail run 0) 0 d
        | none =>
          match forkTable d t n with
          | .lacks m d1 => .done .quotaExceeded (m * 2 ^ 32) 0 d1
          | .ok k d1 => .done .ok (((tget d1.tables k).map handleOf).getD 0) 0 d1)

/-- PT_FORK (R206). -/
def execPtFork (p : Post) (s : State) : Host.Outcome State Fault Refusal :=
  answer s (perform 0x0433 p (ptForkRule p) s.dev)

/-! ## PT_TRUNCATE, PT_DESTROY, PT_QUERY -/

/-- A table truncated to `pos` (R207). -/
def truncateTable (d : Dev) (k pos : Nat) : Dev :=
  match tget d.tables k with
  | none => d
  | some t =>
    let ps := kvPage t.layout
    let t1 := unmapPages d k t (fun q => decide (pos ≤ q * ps))
    commitTable d k { t1 with
      layers := t1.layers.map (fun y => { len := pos, tent := 0, pages := if pos % ps = 0 then pos / ps else y.pages }) }

/-- Whether R207 admits a length. -/
def truncateOk (t : TableSt) (pos : Nat) : Bool :=
  let fb := maxFirstBasin t
  decide (pos ≤ minLen t) && (pos % kvPage t.layout == 0 || decide (fb ≤ pos)) && (!t.isRing || pos == 0 || decide (fb ≤ pos))

/-- PT_TRUNCATE (R207). -/
def ptTruncateRule (p : Post) (d : Dev) : Res :=
  let pos := dNat p 24 4
  if !dZero p 16 8 || !dZero p 28 36 then .plain .badDescriptor d
  else onTable p .edit (dNat p 8 8) d (fun k t =>
    if !truncateOk t pos then .plain .badDescriptor d else .plain .ok (truncateTable d k pos))

/-- PT_TRUNCATE (R207). -/
def execPtTruncate (p : Post) (s : State) : Host.Outcome State Fault Refusal :=
  answer s (perform 0x0434 p (ptTruncateRule p) s.dev)

/-- PT_DESTROY (R208). -/
def ptDestroyRule (p : Post) (d : Dev) : Res :=
  if !dZero p 16 48 then .plain .badDescriptor d
  else onTable p .destroy (dNat p 8 8) d (fun k _ => .plain .ok (destroyTable d k))

/-- PT_DESTROY (R208). -/
def execPtDestroy (p : Post) (s : State) : Host.Outcome State Fault Refusal :=
  answer s (perform 0x0435 p (ptDestroyRule p) s.dev)

/-- The runs of a rising list of page numbers. -/
def runsOf (ps : List Nat) : List (Nat × Nat) :=
  (ps.foldl (fun (acc : List (Nat × Nat)) p => match acc with
    | (f, n) :: rest => if f + n = p then (f, n + 1) :: rest else (p, 1) :: acc
    | [] => [(p, 1)]) []).reverse

/-- The size of a heap object of a partition. -/
def objSize (d : Dev) (part obj : Nat) : Nat :=
  (getPart d part).heap.foldl (fun n h => n + (h.objs.filter (fun o => o.id == obj)).foldl (fun m o => m + o.size) 0) 0

/-- The bytes charged to T1 for a table (Table 6.6). -/
def tableCharge (d : Dev) (t : TableSt) : Nat :=
  let objs := [(t.hold, t.root), (t.hold, t.basin)] ++ t.leaves.map (fun l => (t.hold, l.2)) ++
    t.entries.flatMap (fun e => (if !e.2.dropped && ownFrame d e.2 then [(e.2.part, e.2.frame)] else []) ++
      (e.2.dig.toList.map (fun o => (e.2.part, o)))) ++ t.retired.map (fun r => (r.part, r.obj))
  objs.foldl (fun n o => n + objSize d o.1 o.2) 0

/-- The record of PT_QUERY (Table 6.6) with the run records (R208). -/
def tableRecord (d : Dev) (t : TableSt) : List Byte :=
  let runs := runsOf ((t.entries.filter (fun e => e.2.dropped)).map (·.1))
  let tents := t.layers.map (·.tent)
  let tent := if tents.all (· == tents.headD 0) then tents.headD 0 else 0xFF
  let flags := b2n t.isRing + 2 * b2n (!runs.isEmpty) + 4 * b2n (t.entries.any (fun e => !ownFrame d e.2))
  leBytes t.epoch 8 ++ leBytes (minLen t) 4 ++ leBytes (maxList (t.layers.map (·.len))) 4 ++
    leBytes (t.entries.filter (fun e => !e.2.dropped)).length 4 ++ leBytes tent 1 ++ leBytes flags 1 ++ leBytes 0 2 ++
    leBytes runs.length 4 ++ leBytes (t.retired.filter (fun r => r.frame)).length 4 ++ leBytes t.request.toNat 8 ++
    leBytes (tableCharge d t) 8 ++ leBytes 0 16 ++ runs.flatMap (fun r => leBytes r.1 4 ++ leBytes r.2 4)

/-- Bytes written to host memory; lines and words they cover whole are good again. -/
def hostWrite (d : Dev) (a : Nat) (bs : List Byte) : Dev :=
  { d with host := memWrite d.host a bs, hostBad := clearBad d.hostBad 64 a bs.length }

/-- PT_QUERY (R208). -/
def ptQueryRule (p : Post) (d : Dev) : Res :=
  let n := dNat p 24 4
  let dest := dNat p 32 8
  if !dZero p 16 8 || !dZero p 28 4 || !dZero p 40 24 || dest % 64 != 0 then .plain .badDescriptor d
  else
    match findTable d (dNat p 8 8) with
    | none => .plain .badDescriptor d
    | some (_, t) =>
      if t.dev != (selfDev d).val || !mayName d (poster d p) t.part then .plain .badDescriptor d
      else if n = 0 then .plain .ok d
      else if n < 64 ∨ n % 8 ≠ 0 then .plain .badLength d
      else .plain .ok (hostWrite d dest ((tableRecord d t).take n))

/-- PT_QUERY (R208). -/
def execPtQuery (p : Post) (s : State) : Host.Outcome State Fault Refusal :=
  answer s (perform 0x0436 p (ptQueryRule p) s.dev)

end Sys2Proof.Machine
end

