-- ==== Sys2Proof/Machine/AttnMath.lean ====
section
/-! DEFINITION. The arithmetic of attention (06_attention.md R214 to R219, R230 to R234, R237, R238): rotation, the basin, the
flush of a page, masks, the partial of one element of a set and the fold, the selection of pages. -/
namespace Sys2Proof.Machine

/-! ## Rotation (R214 to R216) -/

/-- The cosines and sines of the rotated pairs at a position. -/
def rotPairs (l : KvLayout) (pos : Nat) : List (Num × Num) :=
  if kvRope l = 0 then []
  else
    let lnb := nlog (num (dec32 (kvRopeBase l)))
    (List.range (kvRopeDims l / 2)).map (fun t =>
      let inv := nexp (nmul (ndiv (nneg (nCount (2 * t))) (nCount (kvRopeDims l))) lnb)
      let ang := nmul (nCount pos) inv
      (ncos ang, nsin ang))

/-- One head's vector rotated by the pairs of its position. -/
def rotHead (l : KvLayout) (cs : List (Num × Num)) (x : List Num) : List Num :=
  let r := kvRopeDims l
  let h := r / 2
  (x.zipIdx).map (fun (e : Num × Nat) =>
    let i := e.2
    if kvRope l = 0 || decide (r ≤ i) then e.1
    else
      let t := if kvRope l = 1 then i / 2 else i % h
      let lo := if kvRope l = 1 then i % 2 == 0 else decide (i < h)
      let x0 := x.getD (if kvRope l = 1 then 2 * t else t) (num vZero)
      let x1 := x.getD (if kvRope l = 1 then 2 * t + 1 else t + h) (num vZero)
      let (c, s) := cs.getD t (num vOne, num vZero)
      if lo then nsub (nmul x0 c) (nmul x1 s) else nadd (nmul x0 s) (nmul x1 c))

/-- Head `h` of a row of heads of `n` elements. -/
def headOf (row : List Num) (n h : Nat) : List Num := (row.drop (h * n)).take n

/-- Every head of a row rotated for a position. -/
def rotRow (l : KvLayout) (pos : Nat) (row : List Num) : List Num :=
  let cs := rotPairs l pos
  (List.range (row.length / kvDim l)).flatMap (fun h => rotHead l cs (headOf row (kvDim l) h))

/-! ## The basin (R213) -/

/-- The device offset of the basin row of a position: keys when `kv` is 0, values when it is 1. The layout inside the basin is
private, DESIGN CHOICE (log 37). -/
def basinAt (d : Dev) (t : TableSt) (layer kv pos : Nat) : Nat :=
  let l := t.layout
  (heapAddr (getPart d t.hold) t.basin).getD 0 + ((2 * layer + kv) * kvBasin l + pos % kvBasin l) * (kvCols l * 2)

/-- The values of a basin row. -/
def basinRow (d : Dev) (t : TableSt) (layer kv pos : Nat) : List Num :=
  (words16 (memRead d.hbm (basinAt d t layer kv pos) (kvCols t.layout * 2))).map (fun w =>
    num (decodeElem (kvBfmt t.layout) w.toNat))

/-- Bytes stored to HBM; lines they cover whole are good again (R333). -/
def hbmWrite (d : Dev) (a : Nat) (bs : List Byte) : Dev :=
  { d with hbm := memWrite d.hbm a bs, hbmBad := clearBad d.hbmBad 64 a bs.length }

/-- The DETAIL addresses of the uncorrectable lines in `n` bytes of HBM from `a`. -/
def hbmFails (d : Dev) (a n : Nat) : List Nat :=
  (d.hbmBad.filter (fun b => decide (a < b + 64) && decide (b < a + n))).map (lineDetail 1 0)

/-- A position's keys and values rounded to BASIN_FMT and written to its slot; the flags. -/
def basinPut (d : Dev) (t : TableSt) (layer pos : Nat) (k v : List Num) : Dev × NumFlags :=
  let enc (row : List Num) : List Byte × NumFlags :=
    let es := row.map (fun q => let (e, fl) := convElem (kvBfmt t.layout) q.v; (e, q.fl ||| fl))
    (es.flatMap (fun e => leBytes e.1 2), es.foldl (fun a e => a ||| e.2) 0)
  let (kb, kf) := enc k
  let (vb, vf) := enc v
  (hbmWrite (hbmWrite d (basinAt d t layer 0 pos) kb) (basinAt d t layer 1 pos) vb, kf ||| vf)

/-! ## Flush (R217 to R219) -/

/-- The basis ID of a layer's keys or values. -/
def kvBasisId (l : KvLayout) (layer kv : Nat) : Nat := kvBasis l + 2 * layer + kv

/-- The slot that was CURRENT when the pins were taken: the first pinned of the ID (R93, R95). -/
def flushSlot (d : Dev) (pins : List (Nat × Bool)) (id : Nat) : Option BasisSlot :=
  (pins.find? (fun p => p.1 == id)).map (fun p => slotOf (getBasis d id) p.2)

/-- Why a flush of a layer cannot be made (R218). -/
def flushBar (d : Dev) (pins : List (Nat × Bool)) (l : KvLayout) (layer : Nat) : Option Status :=
  [0, 1].findSome? (fun kv => match flushSlot d pins (kvBasisId l layer kv) with
    | none => some .basisAbsent
    | some s => if s.rank != kvRank l || s.columns != kvCols l then some .badDescriptor else none)

/-- Where a layer's page lies in a frame. -/
def pageAt (frame : Nat) (l : KvLayout) (layer kv : Nat) : Nat := frame + (2 * layer + kv) * kvExt l

/-- The digest of a layer's page for one KV head: 64 FP8 E4M3 bytes (R219). -/
def digestOf (l : KvLayout) (layer h : Nat) (keys : List (List Num)) : List Byte × NumFlags :=
  let n := kvDim l
  let heads := keys.map (fun row => headOf row n h)
  let mu := (List.range n).map (fun i => ndiv (reduceSum (heads.map (fun x => x.getD i (num vZero)))) (nCount (kvPage l)))
  let es := (List.range 64).map (fun t =>
    let g := reduceSum ((mu.zipIdx).map (fun (m : Num × Nat) =>
      nmul m.1 (num (decodeElem 0x03 (l.proj.getD ((layer * n + m.2) * 64 + t) 0).toNat))))
    let q := ndiv g (num (dec32 (kvDigScale l)))
    let (e, fl) := convElem 0x04 q.v
    (e, q.fl ||| fl))
  (es.map (fun e => BitVec.ofNat 8 e.1), es.foldl (fun a e => a ||| e.2) 0)

/-- Page `p` of a layer compressed into its frame, with its digests; the page's entry must be there. The commit that follows
publishes the LAYER_DONE bit that it sets. -/
def flushPage (d : Dev) (t : TableSt) (pins : List (Nat × Bool)) (layer p : Nat) : Dev × TableSt × NumFlags :=
  match tget t.entries p with
  | none => (d, t, 0)
  | some e =>
    let l := t.layout
    let pos := (List.range (kvPage l)).map (fun i => p * kvPage l + i)
    let put (dw : Dev × NumFlags) (kv : Nat) : Dev × NumFlags :=
      match flushSlot d pins (kvBasisId l layer kv) with
      | none => dw
      | some s =>
        let sc := if kv = 0 then kvKScale l else kvVScale l
        let us := (pos.map (basinRow d t layer kv)).map (compressU s (num (dec32 sc)))
        let (bs, fl) := formBlock (1 + kv) (kvUfmt l) (kvBasisId l layer kv) s.gen sc s us
        (hbmWrite dw.1 (pageAt (frameAddr d e) l layer kv) bs, dw.2 ||| fl)
    let (d1, f1) := put (put (d, 0) 0) 1
    let digs : Dev × NumFlags := match e.dig with
      | none => (d1, f1)
      | some o =>
        let base := (heapAddr (getPart d e.part) o).getD 0 + layer * kvHeads l * 64
        (List.range (kvHeads l)).foldl (fun (dw : Dev × NumFlags) h =>
          let (bs, fl) := digestOf l layer h (pos.map (basinRow d t layer 0))
          (hbmWrite dw.1 (base + h * 64) bs, dw.2 ||| fl)) (d1, f1)
    (digs.1, { t with entries := tset t.entries p { e with done := e.done ||| BitVec.ofNat 128 (2 ^ layer) } }, digs.2)

/-! ## Masks (R223, R230, R231) -/

/-- The block rows and block columns of a mask map, and the bytes of its block map. -/
def mapCols (e : LenEntry) : Nat := ceilDiv e.seqLen.toNat 64
def mapRows (e : LenEntry) : Nat := ceilDiv e.qLen.toNat 64
def mapRowBytes (e : LenEntry) : Nat := 8 * ceilDiv (mapCols e) 32
def mapBytes (e : LenEntry) : Nat := mapRows e * mapRowBytes e

/-- The code of block (a, c). Each block row is padded to a multiple of 8 bytes, DEDUCED (log 38). -/
def mapCode (e : LenEntry) (m : List Byte) (a c : Nat) : Nat := bits (leAt m (a * mapRowBytes e + c / 4) 1) (2 * (c % 4)) 2

/-- How many blocks before (a, c) in row-major order have code 2. -/
def mapBitmaps (e : LenEntry) (m : List Byte) (a c : Nat) : Nat :=
  ((List.range (a * mapCols e + c)).filter (fun i => mapCode e m (i / mapCols e) (i % mapCols e) == 2)).length

/-- Whether the mask of an entry allows row `r` at position `q` the key at `j`. The map `m` holds the block map, then the
bitmaps. -/
def allowed (t : TableSt) (e : LenEntry) (m : List Byte) (r q j : Nat) : Bool :=
  decide (j < e.seqLen.toNat) && (!t.isRing || decide (q < j + t.windowPos)) &&
  (match e.mask.toNat % 4 with
    | 0 => true
    | 1 => decide (j ≤ q)
    | _ =>
      match mapCode e m (r / 64) (j / 64) with
      | 0 => false
      | 1 => true
      | _ =>
        let bit := (r % 64) * 64 + j % 64
        (leAt m (mapBytes e + 512 * mapBitmaps e m (r / 64) (j / 64) + bit / 8) 1).testBit (bit % 8))

/-! ## One element and the fold (R232, R233) -/

/-- The partial of an element or of a prefix of a set. -/
structure PartialV where
  empty : Bool
  m     : Num
  l     : Num
  o     : List Num

def PartialV.none : PartialV := ⟨true, num vZero, num vZero, []⟩

/-- The flags that a partial carries. -/
def PartialV.flags (p : PartialV) : NumFlags := p.m.fl ||| p.l.fl ||| p.o.foldl (fun a q => a ||| q.fl) 0

def negInf : Num := num (.inf true)

/-- One element for one query head: `q` its rotated query, `ks` and `vs` the head's keys and values with whether each is
allowed. -/
def elemPartial (scale : Num) (q : List Num) (ks vs : List (List Num)) (ok : List Bool) : PartialV :=
  let s := (ks.zip ok).map (fun (k : List Num × Bool) =>
    if k.2 then nmul (reduceSum (List.zipWith nmul q k.1)) scale else negInf)
  let m := reduceMax s
  if s.isEmpty || m.v == .inf true then PartialV.none
  else
    let p := s.map (fun x => nexp (nsub x m))
    let n := (vs.headD []).length
    ⟨false, m, reduceSum p, (List.range n).map (fun i => reduceSum (List.zipWith (fun a v => nmul a (v.getD i (num vZero))) p vs))⟩

/-- The fold of a further partial into the running one. -/
def foldPartial (a b : PartialV) : PartialV :=
  if b.empty then a
  else if a.empty then b
  else
    let mn := nmax a.m b.m
    let x := nexp (nsub a.m mn)
    let y := nexp (nsub b.m mn)
    ⟨false, mn, nadd (nmul a.l x) (nmul b.l y), List.zipWith (fun p q => nadd (nmul p x) (nmul q y)) a.o b.o⟩

/-- The output of a row's head: +0 when nothing was computed. -/
def partialOut (n : Nat) (p : PartialV) : List Num :=
  if p.empty then List.replicate n (num vZero) else p.o.map (fun x => ndiv x p.l)

/-! ## Retrieval (R237, R238) -/

/-- The digest of a page for a layer and a KV head. -/
def digestVec (d : Dev) (l : KvLayout) (e : PtEntry) (layer h : Nat) : List Num :=
  match e.dig with
  | none => []
  | some o =>
    (memRead d.hbm ((heapAddr (getPart d e.part) o).getD 0 + (layer * kvHeads l + h) * 64) 64).map (fun b => num (decodeElem 0x04 b.toNat))

/-- The score of a page for a row whose rotated query heads are `qs`. -/
def pageScore (d : Dev) (l : KvLayout) (layer : Nat) (qs : List (List Num)) (e : PtEntry) : Num :=
  let n := kvDim l
  let g := kvGroup l
  reduceSum ((List.range (kvHeads l)).map (fun h =>
    let heads := (qs.drop (h * g)).take g
    let mean := (List.range n).map (fun i => ndiv (reduceSum (heads.map (fun x => x.getD i (num vZero)))) (nCount g))
    let proj := (List.range 64).map (fun t => reduceSum ((mean.zipIdx).map (fun (m : Num × Nat) =>
      nmul m.1 (num (decodeElem 0x03 (l.proj.getD ((layer * n + m.2) * 64 + t) 0).toNat)))))
    reduceSum (List.zipWith nmul proj (digestVec d l e layer h))))

/-- The pages of a row's set under retrieval, and the flags of the scores: sinks, window, and the best of the rest (R237). -/
def selectPages (d : Dev) (l : KvLayout) (layer param1 : Nat) (qs : List (List Num)) (pages : List (Nat × PtEntry)) :
    List (Nat × PtEntry) × NumFlags :=
  let topk := bits param1 8 9
  let sink := bits param1 17 4
  let win := bits param1 21 11
  let n := pages.length
  let isFixed (p : Nat) : Bool := decide (p < sink) || decide (n ≤ p + win)
  let rest := pages.filter (fun e => !isFixed e.1)
  if rest.length ≤ topk then (pages, 0)
  else
    let scores := rest.map (fun e => pageScore d l layer qs e.2)
    let chosen := (topOf topk scores).map (fun s => (rest.getD s.2 (0, ⟨false, false, 0, 0, 0, none, 0⟩)).1)
    (pages.filter (fun e => isFixed e.1 || chosen.contains e.1), flagsOf scores)

end Sys2Proof.Machine
end

