-- ==== Sys2Proof/Machine/AttnCheck.lean ====
section
/-! DEFINITION. The acceptance of attention tasks (06_attention.md R215, R220, R224 to R228): the length table, the tables it names,
the operand shapes, the checks of Table 4.4. -/
namespace Sys2Proof.Machine

/-! ## The length table (Table 6.9) -/

/-- The entry in 32 bytes. -/
def lenEntry (b : List Byte) : LenEntry :=
  { seqLen := BitVec.ofNat 32 (leAt b 0 4), qLen := BitVec.ofNat 16 (leAt b 4 2), mask := BitVec.ofNat 8 (leAt b 6 1)
    accept := BitVec.ofNat 8 (leAt b 7 1), handle := BitVec.ofNat 64 (leAt b 8 8), maskAddr := BitVec.ofNat 64 (leAt b 16 8)
    resv := BitVec.ofNat 64 (leAt b 24 8) }

/-- The entries of a task whose LENGTHS operand can be read. -/
def taskEntries (d : Dev) (x : PartSt) (p : Post) (os : List Opd) : List LenEntry :=
  match opd? os 0x11 with
  | none => []
  | some o =>
    let n := tBatch p
    if o.fmt == 0x0B && (o.tier == stagedTier || (decide (o.tier ≤ 1) && rangeOk d x o.tier o.addr (32 * n) false true)) then
      (List.range n).map (fun i => lenEntry (tierBytes d x [] o.tier (o.addr + 32 * i) 32))
    else []

/-- A failure at a field of an entry (R126). -/
def atEntry (st : Status) (i off : Nat) (bad : Bool) : Bad := if bad then some (st, off + (i + 1) * 2 ^ 32) else none

/-- The SUBOP bits of an attention task: KV_APPEND appends, KV_VERIFY does neither. -/
def aAppend (op : Nat) (p : Post) : Bool := op == 0x0120 || (op == 0x0121 && (tSub p).testBit 0)
def aTent (op : Nat) (p : Post) : Bool := op != 0x0122 && (tSub p).testBit 1
def aRetrieve (op : Nat) (p : Post) : Bool := op == 0x0121 && (tSub p).testBit 2
def aLayer (p : Post) : Nat := bits (tP1 p) 0 7

/-- Where a task's tables lie: none of the entries names one, here for the posting partition, or on a CACHE partition that a far
leg reaches, or nowhere that R228 allows. -/
inductive Place where
  | none
  | here
  | far (dev part : Nat)
  | bad
deriving DecidableEq, Repr

/-- The relation of R228 between a posting partition and the table of an entry. -/
def placeOf (d : Dev) (part : Nat) (e : LenEntry) : Place :=
  let h := e.handle.toNat
  let gen := roleOf (getPart d part) == 2
  match findTable d h with
  | some (_, t) =>
    if t.hold == part then .here
    else if gen && roleOf (getPart d t.part) == 3 && t.dev == (selfDev d).val then .far t.dev t.part else .bad
  | none =>
    if h / 2 ^ 48 != 0 || hDev h == (selfDev d).val || !isMember d (hDev h) || !gen then .bad else .far (hDev h) (hPart h)

/-- The place of a whole task: that of its first entry, when every entry has it. -/
def taskPlace (d : Dev) (part : Nat) (es : List LenEntry) : Place :=
  match es with
  | [] => .none
  | e :: _ => placeOf d part e

/-- The layout that sizes the task's rows: of a table on this device its own; else what the poster takes it to be (log 36). -/
def entryLayout (d : Dev) (e : LenEntry) : KvLayout :=
  match findTable d e.handle.toNat with
  | some (_, t) => t.layout
  | none => ⟨Config.farLayout e.handle, [], none⟩

def taskLayout (d : Dev) (es : List LenEntry) : KvLayout :=
  match es with
  | [] => ⟨0, [], none⟩
  | e :: _ => entryLayout d e

/-! ## Rules on tables held here -/

/-- Check 3 of an entry against its table (R215, R220, R224). -/
def entrySizes (op : Nat) (sub param1 : Nat) (t : TableSt) (i : Nat) (e : LenEntry) : Bad :=
  let app := op == 0x0120 || (op == 0x0121 && sub.testBit 0)
  let tent := sub.testBit 1
  let q := e.qLen.toNat
  let y := layerAt t.layers (bits param1 0 7)
  let l := t.layout
  firstBad
    [atEntry .badLength i 0 (app && q != 0 && decide (131071 < (e.seqLen.toNat - 1) / kvPage l)),
     atEntry .badLength i 4 (app && tent && decide (kvSpec l < y.tent + q)),
     atEntry .badLength i 4 (app && tent && decide (kvBasin l < y.len + y.tent + q - firstBasin t y)),
     atEntry .badLength i 4 (op != 0x0122 && t.isRing && decide (t.w * kvPage l < q + t.windowPos - 1))]

/-- Check 4 of a table's own: the layer, retrieval. A table moored at HOST has no frames a task could read (log 43). -/
def entryTable (op sub param1 : Nat) (l0 : KvLayout) (t : TableSt) (i : Nat) (_e : LenEntry) : Bad :=
  let ret := op == 0x0121 && sub.testBit 2
  firstBad
    [atEntry .badDescriptor i 8 (!layoutEq t.layout l0 || t.atHost),
     atField .badDescriptor 60 (op != 0x0122 && decide (kvLayers t.layout ≤ bits param1 0 7)),
     atField .badDescriptor 18 (ret && (!kvDigest t.layout || t.isRing))]

/-- The fields of an entry by themselves (Table 6.9). -/
def entryFields (op : Nat) (i : Nat) (e : LenEntry) : Bad :=
  let m := e.mask.toNat
  let bitmap := op == 0x0121 && m == 2
  firstBad
    [atEntry .badDescriptor i 6 (if op == 0x0121 then decide (2 < m) else m != 0),
     atEntry .badDescriptor i 7 (if op == 0x0122 then decide (32 < e.accept.toNat) else e.accept != 0),
     atEntry .badDescriptor i 16 (!bitmap && e.maskAddr != 0), atEntry .badDescriptor i 24 (e.resv != 0)]

/-- Whether the block map of an entry's mask lies in the partition (R231). -/
def mapRange (d : Dev) (x : PartSt) (op i : Nat) (e : LenEntry) : Bad :=
  atEntry .badDescriptor i 16 (op == 0x0121 && e.mask == 2 && !rangeOk d x 1 e.maskAddr.toNat (mapBytes e) false true)

/-! ## The kinds (Table 6.8) -/

def fmtAttnIn (f : Nat) : Bool := decide (1 ≤ f) && decide (f ≤ 5)
def fmtAttnOut (f : Nat) : Bool := decide (1 ≤ f) && decide (f ≤ 3)

/-- A dense operand of an attention task: no LAYOUT bit is accepted (R226). -/
def rowsOpd (role m c : Nat) (fmts : Nat → Bool) : Shape := { mat role m 20 c 0 fmts with trans := false }

/-- The rows that the operands of a task reach over. -/
def spanRows (p : Post) : Nat := match selRows p with | [] => tM p | l => maxList l + 1

/-- An attention task's rules as a kind of Table 4.4. -/
def kAttn (d : Dev) (op : Nat) (p : Post) (os : List Opd) (part : Nat) : Kind :=
  let x := getPart d part
  let es := taskEntries d x p os
  let l := taskLayout d es
  let sub := tSub p
  let p1 := tP1 p
  let att := op == 0x0121
  let app := aAppend op p
  let ret := aRetrieve op p
  let place := taskPlace d part es
  let cols := kvHeads l * kvGroup l * kvDim l
  let here (f : TableSt → Nat → LenEntry → Bad) : List Bad := (es.zipIdx).map (fun (e : LenEntry × Nat) =>
    match findTable d e.1.handle.toNat with
    | some (_, t) => f t e.2 e.1
    | none => none)
  let readable := (opd? os 0x11).isSome && es.length == tBatch p
  { req := (if att then [1, 5] else []) ++ [0x11] ++ (if op == 0x0120 || (att && app) then [0x0F, 0x10] else [])
    opt := [], mixes := false
    resv := nonZero p [(24, 4), (28, 4)] ++ (if att then [] else nonZero p [(56, 4)]) ++
      subOutside p (if att then 7 else if op == 0x0120 then 2 else 0) ++
      (if op == 0x0122 then nonZero p [(60, 4)]
       else if p1.testBit 7 || (!ret && decide (255 < p1)) then [60] else [])
    sizing := if ret && bits p1 8 9 == 0 then [60] else []
    limits := [limM p, atField .badLength 20 (readable && tM p != es.foldl (fun n e => n + e.qLen.toNat) 0),
        atField .badLength 60 (ret && decide (256 < bits p1 8 9))] ++
      (es.zipIdx).map (fun (e : LenEntry × Nat) => atEntry .badLength e.2 4 (decide (e.1.seqLen.toNat < e.1.qLen.toNat))) ++
      here (entrySizes op sub p1)
    roles4 := [atField .badDescriptor 18 (att && sub.testBit 1 && !sub.testBit 0),
      atField .badDescriptor 56 (att && !isFin (dec32 (tP0 p)))]
    shapes := [rowsOpd 1 (spanRows p) cols fmtAttnIn, rowsOpd 5 (spanRows p) cols fmtAttnOut, rowsOpd 0x0F (spanRows p) (kvCols l) fmtAttnIn,
      rowsOpd 0x10 (spanRows p) (kvCols l) fmtAttnIn, recd 0x11 (32 * tBatch p)]
    late4 := (es.zipIdx).map (fun (e : LenEntry × Nat) => entryFields op e.2 e.1) ++
      (es.zipIdx).map (fun (e : LenEntry × Nat) => atEntry .badDescriptor e.2 8
        (placeOf d part e.1 == .bad || placeOf d part e.1 != place)) ++
      here (entryTable op sub p1 l) ++ (es.zipIdx).map (fun (e : LenEntry × Nat) => mapRange d x op e.2 e.1)
    zero := tBatch p == 0 }

/-- The basis IDs that a task's flushes and pages may need: of its layer, or of every layer for KV_VERIFY. -/
def attnIds (op : Nat) (l : KvLayout) (layer : Nat) : List Nat :=
  (if op == 0x0122 then List.range (kvLayers l) else [layer]).flatMap (fun i => [kvBasisId l i 0, kvBasisId l i 1])

/-- The uncorrectable lines of the length table (R118). -/
def lengthsBad (d : Dev) (x : PartSt) (p : Post) (os : List Opd) : List Nat :=
  let o := opd os 0x11
  badIn d x o.tier o.addr (32 * tBatch p)

end Sys2Proof.Machine
end

