-- ==== Sys2Proof/Machine/AttnAppend.lean ====
section
/-! DEFINITION. Appends and verifies of page tables (06_attention.md R214 to R224, R227, R229, R242): the slots that must wait, the
flushes a new length completes, the commit of one row. -/
namespace Sys2Proof.Machine

/-! ## Slots held by snapshots (R222) -/

/-- The walkers on table `k` of every task but `self`. -/
def walkersOn (d : Dev) (k : Nat) (self : Option Nat) : List Walker :=
  (d.tasks.filter (fun e => some e.1 != self)).flatMap (fun e => e.2.walkers.filter (fun w => w.table == k))

/-- Whether a snapshot of table `t` holds a position in the basin slot of position `n` of a layer. -/
def slotHeld (t : TableSt) (layer n : Nat) (w : Walker) : Bool :=
  let y := layerAt w.layers layer
  let fb := kvPage t.layout * y.pages
  (List.range (y.len + y.tent - fb)).any (fun i => (fb + i) % kvBasin t.layout == n % kvBasin t.layout)

/-- Whether the append of an entry must wait. -/
def entryWaits (d : Dev) (self : Option Nat) (layer : Nat) (e : LenEntry) : Bool :=
  match findTable d e.handle.toNat with
  | none => false
  | some (k, t) =>
    let q := e.qLen.toNat
    (List.range q).any (fun r => (walkersOn d k self).any (slotHeld t layer (e.seqLen.toNat - q + r)))

/-! ## Flushing what a length completes -/

/-- The pages that a layer completes at a committed length. -/
def pagesDone (t : TableSt) (layer len : Nat) : List Nat :=
  let y := layerAt t.layers layer
  (List.range (len / kvPage t.layout - y.pages)).map (fun i => y.pages + i)

/-- An append or verify under way: the device, the table it will commit, the flags by row. -/
structure AppSt where
  d  : Dev
  t  : TableSt
  fl : List (Nat × NumFlags)

/-- One page of a layer flushed; the flags go to row `row`. -/
def appFlush (pins : List (Nat × Bool)) (layer row p : Nat) (a : AppSt) : AppSt :=
  let (d1, t1, fl) := flushPage a.d a.t pins layer p
  let y := layerAt t1.layers layer
  { d := d1, t := { t1 with layers := t1.layers.set layer { y with pages := p + 1 } }, fl := a.fl ++ [(row, fl)] }

/-- The uncorrectable lines of the basin positions that the flushes of `ps` read before position `before` (R118). -/
def basinBad (d : Dev) (t : TableSt) (layer before : Nat) (ps : List Nat) : List Nat :=
  ps.flatMap (fun p => (List.range (kvPage t.layout)).flatMap (fun i =>
    let n := p * kvPage t.layout + i
    if n < before then [0, 1].flatMap (fun kv => hbmFails d (basinAt d t layer kv n) (kvCols t.layout * 2)) else []))

/-- The pages that a ring table gives up when it maps the pages of `ps` (R223). -/
def ringGone (t : TableSt) (ps : List Nat) (q : Nat) : Bool := t.isRing && ps.any (fun p => q + t.w == p)

/-- What an append or verify of one entry answers: committed with its flags, or a failure that commits nothing; reclaimed victims
stay dropped. -/
inductive Appended where
  | ok (d : Dev) (fl : List (Nat × NumFlags))
  | fail (st : Status) (detail : Nat) (d : Dev)

/-- The pages of `ps` placed for table `k`, then the work of `act` committed; QUOTA_EXCEEDED's DETAIL as R240 has it. -/
def withPages (d : Dev) (k i : Nat) (ps : List Nat) (act : Dev → TableSt → AppSt) : Appended :=
  match placePages k ps d with
  | .lacks n d1 => .fail .quotaExceeded (i + n * 2 ^ 32) (unplacePages d1 k ps)
  | .ok d1 =>
    match tget d1.tables k with
    | none => .fail .badDescriptor i d1
    | some t =>
      let a := act d1 t
      .ok (commitTable a.d k (unmapPages a.d k a.t (ringGone a.t ps))) a.fl

/-! ## Append (R214) -/

/-- The rows that an append writes: keys and values by row of the task. -/
structure NewRows where
  keys : List (List Num)
  vals : List (List Num)

/-- Position `n` of row `row` written, and its page flushed when that completes one and the append is not tentative. -/
def appPos (pins : List (Nat × Bool)) (layer : Nat) (tent : Bool) (src : NewRows) (a : AppSt) (nr : Nat × Nat) : AppSt :=
  let (n, row) := nr
  let l := a.t.layout
  let (d1, fl) := basinPut a.d a.t layer n (rotRow l n (rowAt src.keys row)) (rowAt src.vals row)
  let y := layerAt a.t.layers layer
  let y1 := if tent then { y with tent := y.tent + 1 } else { y with len := n + 1 }
  let a1 : AppSt := { d := d1, t := { a.t with layers := a.t.layers.set layer y1 }, fl := a.fl ++ [(row, fl)] }
  if !tent && (n + 1) % kvPage l == 0 then appFlush pins layer row (n / kvPage l) a1 else a1

/-- Why the append of entry `i` cannot be made now (R214, R215, R218, R220). -/
def appendBar (d : Dev) (pins : List (Nat × Bool)) (layer : Nat) (tent : Bool) (i : Nat) (e : LenEntry) (t : TableSt) :
    Bad :=
  let y := layerAt t.layers layer
  let q := e.qLen.toNat
  let s := e.seqLen.toNat
  let ps := if tent then [] else pagesDone t layer s
  if s != y.len + y.tent + q || (!tent && y.tent != 0) then some (.badDescriptor, i)
  else if (tent && (decide (kvSpec t.layout < y.tent + q) || decide (kvBasin t.layout < s - firstBasin t y))) ||
      decide (131071 < (s - 1) / kvPage t.layout) then some (.badLength, (i + 1) * 2 ^ 32)
  else if !heapKeyOk d t.hold then some (.badDescriptor, i)
  else
    match if ps.isEmpty then none else flushBar d pins t.layout layer with
    | some .basisAbsent => some (.basisAbsent, 0)
    | some st => some (st, i)
    | none => match basinBad d t layer (y.len + y.tent) ps with
      | b :: _ => some (.memUncorrectable, b)
      | [] => none

/-- The append of entry `i` whose first row is `r0`. -/
def appendEntry (d : Dev) (pins : List (Nat × Bool)) (layer : Nat) (tent : Bool) (src : NewRows) (i r0 : Nat) (e : LenEntry) :
    Appended :=
  match findTable d e.handle.toNat with
  | none => .fail .badDescriptor i d
  | some (k, t) =>
    match appendBar d pins layer tent i e t with
    | some (st, detail) => .fail st detail d
    | none =>
      let q := e.qLen.toNat
      let ps := if tent then [] else pagesDone t layer e.seqLen.toNat
      withPages d k i ps (fun d1 t1 =>
        ((List.range q).map (fun r => (e.seqLen.toNat - q + r, r0 + r))).foldl (appPos pins layer tent src) ⟨d1, t1, []⟩)

/-! ## Verify (R221) -/

/-- Why the verify of an entry cannot be made. -/
def verifyBar (d : Dev) (pins : List (Nat × Bool)) (i : Nat) (e : LenEntry) (t : TableSt) : Bad :=
  let a := e.accept.toNat
  let ls := List.range (kvLayers t.layout)
  if t.layers.any (fun y => y.tent != e.qLen.toNat) || decide (e.qLen.toNat < a) then some (.badDescriptor, i)
  else if !heapKeyOk d t.hold then some (.badDescriptor, i)
  else ls.findSome? (fun layer =>
    let ps := pagesDone t layer ((layerAt t.layers layer).len + a)
    match if ps.isEmpty then none else flushBar d pins t.layout layer with
    | some .basisAbsent => some (.basisAbsent, 0)
    | some st => some (st, i)
    | none => match basinBad d t layer ((layerAt t.layers layer).len + a) ps with
      | b :: _ => some (.memUncorrectable, b)
      | [] => none)

/-- The verify of entry `i`: the first A tentative positions of every layer become committed, the rest are discarded. -/
def verifyEntry (d : Dev) (pins : List (Nat × Bool)) (i r0 : Nat) (e : LenEntry) : Appended :=
  match findTable d e.handle.toNat with
  | none => .fail .badDescriptor i d
  | some (k, t) =>
    match verifyBar d pins i e t with
    | some (st, detail) => .fail st detail d
    | none =>
      let a := e.accept.toNat
      let ls := List.range (kvLayers t.layout)
      let of (layer : Nat) : List Nat := pagesDone t layer ((layerAt t.layers layer).len + a)
      withPages d k i (dedup (ls.flatMap of)) (fun d1 t1 =>
        ls.foldl (fun s layer => (of layer).foldl (fun s p => appFlush pins layer r0 p s) s)
          ⟨d1, { t1 with layers := t1.layers.map (fun y => { y with len := y.len + a, tent := 0 }) }, []⟩)

/-! ## Every entry of a task -/

/-- The entries with their index and first row. -/
def entriesFrom (es : List LenEntry) (i r : Nat) : List (Nat × Nat × LenEntry) :=
  match es with
  | [] => []
  | e :: l => (i, r, e) :: entriesFrom l (i + 1) (r + e.qLen.toNat)

/-- Whether an entry still has a row that is not squashed. -/
def entryLive (squashed : List Nat) (r0 : Nat) (e : LenEntry) : Bool :=
  (List.range e.qLen.toNat).any (fun r => !squashed.contains (r0 + r))

/-- Appends or verifies in ascending entry order; the first failure ends them, those before it stay committed (R214). -/
def appendAll (act : Dev → Nat → Nat → LenEntry → Appended) : List (Nat × Nat × LenEntry) → Dev → List (Nat × NumFlags) →
    Bad × Dev × List (Nat × NumFlags)
  | [], d, fl => (none, d, fl)
  | (i, r0, e) :: l, d, fl =>
    match act d i r0 e with
    | .fail st detail d1 => (some (st, detail), d1, fl)
    | .ok d1 f => appendAll act l d1 (fl ++ f)

end Sys2Proof.Machine
end

