-- ==== Sys2Proof/Machine/Attn.lean ====
section
/-! DEFINITION. Attention tasks (06_attention.md R225 to R241): their start, append phase and snapshots, the partials of a row's set,
the far leg, the end of their work items; KV_APPEND, ATTEND and KV_VERIFY. -/
namespace Sys2Proof.Machine

/-! ## The set of a row (R232, R241) -/

/-- The context of a leg: the device, the partition that holds the pages, what has been read of pod memory, the pins. -/
structure Leg where
  d     : Dev
  x     : PartSt
  buf   : Mem
  pins  : List (Nat × Bool)
  op1   : Nat
  sub   : Nat
  scale : Num

/-- A layer's page read and expanded, or why it cannot be (R101 to R103). -/
def pageRows (c : Leg) (l : KvLayout) (e : PtEntry) (layer kv : Nat) : Sum (Status × Nat) (List (List Num)) :=
  let n := kvExt l
  let own := ownFrame c.d e
  let off := pageAt (if own then frameAddr c.d e else e.frame) l layer kv
  let bad := if own then hbmFails c.d off n else []
  let bs := if own then memRead c.d.hbm off n else memRead c.buf (e.dev * 2 ^ 40 + off) n
  let detail := if own then lineDetail 1 0 off else lineDetail 2 e.dev off
  match bad with
  | b :: _ => .inl (.memUncorrectable, b)
  | [] =>
    match blockCheck c.d c.x c.pins (some (1 + kv)) true (kvExt l / 64) bs with
    | some st => .inl (st, detail)
    | none =>
      let h := blockHdr bs
      match pinnedSlot c.d c.pins h.id h.gen with
      | none => .inl (.basisAbsent, detail)
      | some s => .inr ((List.range h.rows).map (expandRow h bs s))

/-- The keys and values of an element with the position of its first row: a page, or the basin when `pg` is none. -/
def elemRows (c : Leg) (t : TableSt) (w : Walker) (s layer : Nat) (pg : Option (Nat × PtEntry)) :
    Sum (Status × Nat) (Nat × List (List Num) × List (List Num)) :=
  match pg with
  | some (p, e) =>
    match pageRows c t.layout e layer 0, pageRows c t.layout e layer 1 with
    | .inl f, _ => .inl f
    | _, .inl f => .inl f
    | .inr k, .inr v => .inr (p * kvPage t.layout, k, v)
  | none =>
    let fb := kvPage t.layout * (layerAt w.layers layer).pages
    let ns := (List.range (s - fb)).map (fun i => fb + i)
    match ns.flatMap (fun n => [0, 1].flatMap (fun kv => hbmFails c.d (basinAt c.d t layer kv n) (kvCols t.layout * 2))) with
    | b :: _ => .inl (.memUncorrectable, b)
    | [] => .inr (fb, ns.map (basinRow c.d t layer 0), ns.map (basinRow c.d t layer 1))

/-- The result of one query head of a row: its partial over the whole set, and the number of the set's last element. -/
structure HeadRes where
  row  : Nat
  head : Nat
  last : Nat
  part : PartialV
  fl   : NumFlags

/-- The fold of the elements of a row's set for every query head (R232, R233). An element all of whose keys the mask denies is
not read. -/
def foldSet (c : Leg) (t : TableSt) (w : Walker) (e : LenEntry) (m : List Byte) (r qpos layer : Nat) (qs : List (List Num)) :
    List (Option (Nat × PtEntry)) → List PartialV → Sum (Status × Nat) (List PartialV)
  | [], acc => .inr acc
  | g :: gs, acc =>
    let l := t.layout
    let fb := kvPage l * (layerAt w.layers layer).pages
    let (lo, n) := match g with
      | some (p, _) => (p * kvPage l, kvPage l)
      | none => (fb, e.seqLen.toNat - fb)
    let ok := (List.range n).map (fun i => allowed t e m r qpos (lo + i))
    if !ok.any id then foldSet c t w e m r qpos layer qs gs acc
    else
      match elemRows c t w e.seqLen.toNat layer g with
      | .inl f => .inl f
      | .inr (_, ks, vs) =>
        let acc1 := (qs.zipIdx).map (fun (q : List Num × Nat) =>
          let h := q.2 / kvGroup l
          foldPartial (acc.getD q.2 PartialV.none)
            (elemPartial c.scale q.1 (ks.map (fun k => headOf k (kvDim l) h)) (vs.map (fun v => headOf v (kvDim l) h)) ok))
        foldSet c t w e m r qpos layer qs gs acc1

/-- Row `row` of an entry, whose query values are `a`: the result of each head, or its failure. -/
def rowHeads (c : Leg) (t : TableSt) (w : Walker) (i : Nat) (e : LenEntry) (m : List Byte) (r row : Nat) (a : List Num) :
    Sum (Status × Nat) (List HeadRes) :=
  let l := t.layout
  let layer := bits c.op1 0 7
  let qpos := e.seqLen.toNat - e.qLen.toNat + r
  let rot := rotRow l qpos a
  let qs := (List.range (kvHeads l * kvGroup l)).map (headOf rot (kvDim l))
  let done := w.entries.filter (fun x => x.2.done.getLsbD layer)
  let (pages, sfl) := if c.sub.testBit 2 then selectPages c.d l layer c.op1 qs done else (done, 0)
  match firstRun ((pages.filter (fun x => x.2.dropped && decide (x.1 * kvPage l < e.seqLen.toNat))).map (·.1)) with
  | some run => .inl (.pageDropped, droppedDetail run i)
  | none =>
    match foldSet c t w e m r qpos layer qs (pages.map some ++ [none]) (qs.map (fun _ => PartialV.none)) with
    | .inl f => .inl f
    | .inr ps => .inr ((ps.zipIdx).map (fun (p : PartialV × Nat) => ⟨row, p.2, pages.length, p.1, p.1.flags ||| sfl⟩))

/-- What a leg computes: the results of the rows' heads, and the failures. -/
def legRows (c : Leg) (es : List LenEntry) (maps : List (List Byte)) (ws : List Walker) (rows : List (List Num))
    (squashed : List Nat) : List HeadRes × List (Status × Nat) :=
  let all := (entriesFrom es 0 0).flatMap (fun (x : Nat × Nat × LenEntry) =>
    let (i, r0, e) := x
    match ws.find? (fun w => w.entry == i) with
    | none => []
    | some w => match tget c.d.tables w.table with
      | none => []
      | some t => (List.range e.qLen.toNat).filterMap (fun r =>
        if squashed.contains (r0 + r) then none
        else some (rowHeads c t w i e (maps.getD i []) r (r0 + r) (rowAt rows (r0 + r)))))
  (all.flatMap (fun x => match x with | .inr l => l | .inl _ => []),
   all.filterMap (fun x => match x with | .inl f => some f | .inr _ => none))

/-! ## The rows of an operand -/

/-- The bytes of row `i` of an `m × c` operand of an attention task: its address and length. -/
def rowSpan (o : Opd) (m c i : Nat) : Nat × Nat := (o.addr + elemIx o m c i 0 * fmtBits o.fmt / 8, c * fmtBits o.fmt / 8)

/-- The uncorrectable lines of the rows of an operand. -/
def rowsBad (d : Dev) (x : PartSt) (o : Opd) (m c : Nat) : List Nat :=
  (List.range m).flatMap (fun i => let s := rowSpan o m c i; badIn d x o.tier s.1 s.2)

/-- The rows' bytes, row after row, as a query message carries them. -/
def packRows (d : Dev) (x : PartSt) (o : Opd) (m c : Nat) : List Byte :=
  (List.range m).flatMap (fun i => let s := rowSpan o m c i; tierBytes d x [] o.tier s.1 s.2)

/-- The values of `m` rows of `c` elements of a format in a packed byte string. -/
def unpackRows (f : Nat) (bs : List Byte) (m c : Nat) : List (List Num) :=
  let w := fmtBits f / 8
  (List.range m).map (fun i => (List.range c).map (fun j => num (decodeElem f (leAt bs ((i * c + j) * w) w))))

/-! ## Mask maps (R231) -/

/-- The whole mask map of an entry: the block map, then the bitmaps, which lie from the next 64-byte boundary on. A map that reaches
out of the partition, has an uncorrectable line or a block of code 3 fails its task. -/
def readMap (d : Dev) (x : PartSt) (i : Nat) (e : LenEntry) : Sum (Status × Nat) (List Byte) :=
  let a := e.maskAddr.toNat
  let nb := mapBytes e
  let at16 : Sum (Status × Nat) (List Byte) := .inl (.badDescriptor, 16 + (i + 1) * 2 ^ 32)
  if e.mask != 2 || e.qLen == 0 then .inr []
  else if !rangeOk d x 1 a nb false true then at16
  else
    match badIn d x 1 a nb with
    | b :: _ => .inl (.memUncorrectable, b)
    | [] =>
      let m := tierBytes d x [] 1 a nb
      let codes := (List.range (mapRows e * mapCols e)).map (fun k => mapCode e m (k / mapCols e) (k % mapCols e))
      let nm := 512 * (codes.filter (· == 2)).length
      let a2 := ceilDiv (a + nb) 64 * 64
      if codes.contains 3 || !rangeOk d x 1 a2 nm false true then at16
      else
        match badIn d x 1 a2 nm with
        | b :: _ => .inl (.memUncorrectable, b)
        | [] => .inr (m ++ tierBytes d x [] 1 a2 nm)

/-- The maps of every entry, or the first failure. -/
def readMaps (d : Dev) (x : PartSt) (es : List LenEntry) : Sum (Status × Nat) (List (List Byte)) :=
  (es.zipIdx).foldr (fun (e : LenEntry × Nat) acc => match readMap d x e.2 e.1, acc with
    | .inl f, _ => .inl f
    | _, .inl f => .inl f
    | .inr m, .inr ms => .inr (m :: ms)) (.inr [])

/-! ## Far legs (R228, R235) -/

/-- The opcode that a query message stands for: the rows of A make it an ATTEND, new rows alone a KV_APPEND. -/
def farOp (q : FarQuery) : Nat := if q.fmtA != 0 then 0x0121 else if q.fmtK != 0 then 0x0120 else 0x0122

/-- What the table's device checks of a query message (R228). -/
def farCheck (d : Dev) (q : FarQuery) (part : Nat) : Bad :=
  let op := farOp q
  let l := taskLayout d q.entries
  let each (f : TableSt → Nat → LenEntry → Bad) : List Bad := (q.entries.zipIdx).map (fun (e : LenEntry × Nat) =>
    match findTable d e.1.handle.toNat with
    | some (_, t) => f t e.2 e.1
    | none => none)
  firstBad (each (entrySizes op q.subop.toNat q.param1.toNat) ++
    [atEntry .badDescriptor 0 8 (roleOf (getPart d part) != 3)] ++
    (q.entries.zipIdx).map (fun (e : LenEntry × Nat) => atEntry .badDescriptor e.2 8
      (match findTable d e.1.handle.toNat with | some (_, t) => t.part != part | none => true)) ++
    each (entryTable op q.subop.toNat q.param1.toNat l))

/-- Whether a query must wait: the partition is suspended, a table is sealed by a lock transfer, a slot is held. -/
def farWaits (d : Dev) (q : FarQuery) (part : Nat) : Bool :=
  let op := farOp q
  let app := op == 0x0120 || (op == 0x0121 && q.subop.getLsbD 0)
  partHolds (getPart d part) ||
    q.entries.any (fun e => match findTable d e.handle.toNat with
      | some (_, t) => lockPhase d t.request == .frozen
      | none => false) ||
    (app && q.entries.any (entryWaits d none (bits q.param1.toNat 0 7)))

/-- A snapshot of the table of an entry taken without a bucket, by a leg that ends at once. -/
def peekWalker (d : Dev) (i : Nat) (e : LenEntry) : Option Walker :=
  (findTable d e.handle.toNat).map (fun kt => ⟨i, kt.1, kt.2.epoch, kt.2.entries, kt.2.layers⟩)

/-- An entry of an ATTEND without APPEND that reaches past its snapshot (R227). -/
def pastEnd (layer : Nat) (e : LenEntry) (ls : List PtLayer) : Bool :=
  let y := layerAt ls layer
  e.qLen != 0 && decide (y.len + y.tent < e.seqLen.toNat)

/-- The records of a far leg (Table 6.10): one per row and query head, over the whole set. -/
def farRecs (hs : List HeadRes) (rowFl : List (Nat × NumFlags)) : List Partial :=
  hs.map (fun h =>
    let fl := h.fl ||| ((rowFl.filter (fun f => f.1 == h.row)).foldl (fun a f => a ||| f.2) 0)
    { row := h.row, first := 0, last := h.last, qhead := h.head, empty := h.part.empty
      nan := !h.part.empty && isNan h.part.m.v, flags := fl, m := BitVec.ofNat 32 (enc32 h.part.m.v)
      l := BitVec.ofNat 32 (enc32 h.part.l.v), o := h.part.o.map (fun x => BitVec.ofNat 32 (enc32 x.v)) })

/-- The work of a query at the table's device: its status, DETAIL and records. -/
def farWork (d : Dev) (q : FarQuery) (part : Nat) : Status × Nat × List Partial × Dev :=
  let op := farOp q
  let layer := bits q.param1.toNat 0 7
  let l := taskLayout d q.entries
  let m := q.entries.foldl (fun n e => n + e.qLen.toNat) 0
  let pins := (attnIds op l layer).flatMap (pinsOf d)
  let es := (entriesFrom q.entries 0 0).filter (fun x => x.2.2.qLen != 0)
  let src : NewRows := ⟨unpackRows q.fmtK.toNat q.rowsK m (kvCols l), unpackRows q.fmtV.toNat q.rowsV m (kvCols l)⟩
  let app := op == 0x0120 || (op == 0x0121 && q.subop.getLsbD 0)
  let (bad, d1, fl) :=
    if op == 0x0122 then appendAll (fun d i r0 e => verifyEntry d pins i r0 e) es d []
    else if app then appendAll (fun d i r0 e => appendEntry d pins layer (q.subop.getLsbD 1) src i r0 e) es d []
    else (none, d, [])
  match bad with
  | some (st, detail) => (st, detail, [], d1)
  | none =>
    if op != 0x0121 then (.ok, 0, [], d1)
    else
      let ws := es.filterMap (fun x => peekWalker d1 x.1 x.2.2)
      match es.find? (fun x => ws.any (fun w => w.entry == x.1 && pastEnd layer x.2.2 w.layers)) with
      | some x => (.badDescriptor, x.1, [], d1)
      | none =>
        let c : Leg := ⟨d1, getPart d1 part, [], pins, q.param1.toNat, q.subop.toNat, num (dec32 q.scale.toNat)⟩
        let (hs, fails) := legRows c q.entries q.maps ws
          (unpackRows q.fmtA.toNat q.rowsA m (kvHeads l * kvGroup l * kvDim l)) []
        match fails with
        | (st, detail) :: _ => (st, detail, [], d1)
        | [] => (.ok, 0, farRecs hs fl, d1)

/-- A query message at the table's device: answered, or kept until it can be (none). -/
def farAnswer (d : Dev) (q : FarQuery) : Option (Status × Nat × List Partial × Dev) :=
  let part := match q.entries with | [] => 0 | e :: _ => hPart e.handle.toNat
  match farCheck d q part with
  | some (st, detail) => some (st, detail, [], d)
  | none => if farWaits d q part then none else some (farWork d q part)

/-- The records of a far leg arrive at the posting device. -/
def farArrive (d : Dev) (n : Nat) (st : Status) (detail : Nat) (recs : List Partial) : Dev :=
  match tget d.tasks n with
  | none => d
  | some t =>
    if t.legsLeft = 0 then d
    else
      let d1 := setTask d n { t with legsLeft := 0, recs := recs }
      if statusGood st then d1 else failTask d1 n st detail

/-- A query performed here: the answer goes to the device that sent it. -/
def farHere (d : Dev) (q : FarQuery) : Dev :=
  match farAnswer d q with
  | none => { d with farWait := d.farWait ++ [q] }
  | some (st, detail, recs, d1) =>
    if q.fromDev = selfDev d then farArrive d1 q.task st detail recs
    else send d1 (.partials q.fromDev q.task st (BitVec.ofNat 64 detail) recs)

/-- FAR_LEG_QUERY (R228, R235). -/
def execFarLegQuery (q : FarQuery) (s : State) : Host.Outcome State Fault Refusal := answer s (farHere s.dev q)

/-- PARTIAL_RECORDS (R235, R236). -/
def execPartialRecords (task : Nat) (fromDev : DevIx) (status : Status) (detail : W64) (recs : List Partial) (s : State) :
    Host.Outcome State Fault Refusal :=
  let d := s.dev
  match tget d.tasks task with
  | none => answer s d
  | some t => match t.ents with
    | [] => answer s d
    | e :: _ => answer s (if hDev e.handle.toNat = fromDev.val then farArrive d task status detail.toNat recs else d)

/-- FAR_LEG_TIMEOUT (R236). -/
def execFarLegTimeout (task : Nat) (s : State) : Host.Outcome State Fault Refusal :=
  answer s (farArrive s.dev task .remoteTimeout 0 [])

/-! ## The start of a task -/

/-- The snapshots of the attention phase (R210, R227, R229): each live entry's walker joins its table; frames of another device are asked
for (R194). -/
def snapshot (d : Dev) (n : Nat) : Dev :=
  match tget d.tasks n with
  | none => d
  | some t =>
    let p := t.post
    let layer := aLayer p
    let es := (entriesFrom t.ents 0 0).filter (fun x => entryLive t.squashed x.2.1 x.2.2)
    let joined := es.foldl (fun (acc : Dev × List Walker × Bad) (x : Nat × Nat × LenEntry) =>
      let (d, ws, bad) := acc
      match findTable d x.2.2.handle.toNat with
      | none => (d, ws, bad.or (some (.badDescriptor, x.1)))
      | some (k, tb) =>
        let (label, bs) := joinBuckets tb
        (setTable d k { tb with buckets := bs }, ws ++ [⟨x.1, k, label, tb.entries, tb.layers⟩],
          bad.or (if pastEnd layer x.2.2 tb.layers then some (.badDescriptor, x.1) else none))) (d, [], none)
    let (d1, ws, bad) := joined
    let l := taskLayout d t.ents
    let far := ws.flatMap (fun w => (w.entries.filter (fun e => e.2.done.getLsbD layer && !e.2.dropped && !ownFrame d e.2)).map (·.2))
    let lost := far.find? (fun e => isLost d e.dev || (routePorts d e.dev).isEmpty)
    let fail := bad.or (lost.map (fun e => (.targetLost, lineDetail 2 e.dev (pageAt e.frame l layer 0))))
    let rs := if fail.isSome then [] else dedupRanges (far.map (fun e => (e.dev * 2 ^ 40 + pageAt e.frame l layer 0, 2 * kvExt l)))
    let d2 := setTask d1 n { t with walkers := ws, podLeft := (rs.flatMap (fun r => podPieces r.1 r.2)).length }
    let d3 := podLoads d2 (getPart d t.part.val).owner (engTile (t.tiles.headD 0)) (reqTc d t.part.val) rs (.taskLoad n)
    match fail with
    | some (st, detail) => failTask d3 n st detail
    | none => d3
where
  /-- The list without repeated ranges. -/
  dedupRanges (l : List (Nat × Nat)) : List (Nat × Nat) :=
    (l.foldl (fun acc x => if acc.contains x then acc else x :: acc) []).reverse

/-- The entries that a task's append phase still writes: those with a row, not all of whose rows are squashed (R227, R229). -/
def appendList (t : TaskSt) : List (Nat × Nat × LenEntry) :=
  (entriesFrom t.ents 0 0).filter (fun x => x.2.2.qLen != 0 && entryLive t.squashed x.2.1 x.2.2)

/-- The append or verify of a task: its first failure, what it commits, the flags by row. -/
def runAppend (d : Dev) (t : TaskSt) : Bad × Dev × List (Nat × NumFlags) :=
  let op := opcode t.post
  let x := getPart d t.part.val
  let os := taskOpds t.post
  let l := taskLayout d t.ents
  let m := tM t.post
  let c : Ctx := ⟨d, x, [], t.pins⟩
  if op == 0x0122 then appendAll (fun d i r0 e => verifyEntry d t.pins i r0 e) (appendList t) d []
  else
    match rowsBad d x (opd os 0x0F) m (kvCols l) ++ rowsBad d x (opd os 0x10) m (kvCols l) with
    | b :: _ => (some (.memUncorrectable, b), d, [])
    | [] =>
      let src : NewRows := ⟨matRows c (opd os 0x0F) m (kvCols l), matRows c (opd os 0x10) m (kvCols l)⟩
      appendAll (fun d i r0 e => appendEntry d t.pins (aLayer t.post) (aTent op t.post) src i r0 e) (appendList t) d []

/-- Whether the append of a task must wait for a slot (R222). -/
def appendWaits (d : Dev) (n : Nat) (t : TaskSt) : Bool :=
  opcode t.post != 0x0122 && (appendList t).any (fun x => entryWaits d (some n) (aLayer t.post) x.2.2)

/-- The append phase of an ATTEND (R229), then its snapshots; it waits while a slot is held. -/
def attendPhase (d : Dev) (n : Nat) : Dev :=
  match tget d.tasks n with
  | none => d
  | some t =>
    if !aAppend 0x0121 t.post then snapshot d n
    else if appendWaits d n t then setTask d n { t with appendAt := some 0 }
    else
      let (bad, d1, fl) := runAppend d t
      let d2 := setTask d1 n { t with appendAt := none, rowFl := fl }
      match bad with
      | some (st, detail) => failTask d2 n st detail
      | none => snapshot d2 n

/-- The query message of a far-leg task (R235). -/
def farQueryOf (d : Dev) (n : Nat) (t : TaskSt) : FarQuery :=
  let op := opcode t.post
  let x := getPart d t.part.val
  let os := taskOpds t.post
  let l := taskLayout d t.ents
  let m := tM t.post
  let app := aAppend op t.post
  let fmt (b : Bool) (r : Nat) : Byte := if b then BitVec.ofNat 8 (opd os r).fmt else 0
  { fromDev := selfDev d, part := t.part, task := n, subop := BitVec.ofNat 16 (tSub t.post), scale := BitVec.ofNat 32 (tP0 t.post)
    param1 := BitVec.ofNat 32 (tP1 t.post), fmtA := fmt (op == 0x0121) 1, fmtK := fmt app 0x0F, fmtV := fmt app 0x10
    entries := t.ents, maps := t.maps
    rowsA := if op == 0x0121 then packRows d x (opd os 1) m (kvHeads l * kvGroup l * kvDim l) else []
    rowsK := if app then packRows d x (opd os 0x0F) m (kvCols l) else []
    rowsV := if app then packRows d x (opd os 0x10) m (kvCols l) else [] }

/-- A far-leg task sends its query (R235, R236). -/
def farStart (d : Dev) (n dev : Nat) : Dev :=
  match tget d.tasks n with
  | none => d
  | some t =>
    let x := getPart d t.part.val
    let os := taskOpds t.post
    let l := taskLayout d t.ents
    let m := tM t.post
    let bad := [(1, kvHeads l * kvGroup l * kvDim l), (0x0F, kvCols l), (0x10, kvCols l)].flatMap (fun rc =>
      match opd? os rc.1 with
      | some o => rowsBad d x o m rc.2
      | none => [])
    match bad with
    | b :: _ => failTask d n .memUncorrectable b
    | [] =>
      if isLost d dev then failTask d n .targetLost (lineDetail 2 dev 0)
      else
        let q := farQueryOf d n t
        let d1 := setTask d n { t with legsLeft := 1 }
        if dev = (selfDev d).val then farHere d1 q else send d1 (.farQuery (devIx dev) q)

/-- Whether a frame on this device that a table names lies on a fenced stack (Table 14.3). -/
def tableBarred (d : Dev) (h : Nat) : Bool :=
  match findTable d h with
  | none => false
  | some (_, t) => t.entries.any (fun e => !e.2.dropped && e.2.dev == (selfDev d).val && spanDown d (frameAddr d e.2) (frameBytes t.layout))

/-- An attention task whose checks have passed starts. -/
def startAttn (op : Nat) (p : Post) (d : Dev) : Dev :=
  let part := dNat p 17 1
  let x := getPart d part
  let os := taskOpds p
  let es := taskEntries d x p os
  let so := shaped (kAttn d op p os part) os
  let t1 := so.any (fun e => e.2.tier == 1 && (taskRanges op p e.1 e.2).any (fun r => t1Barred d x r.1 r.2)) ||
    es.any (fun e => tableBarred d e.handle.toNat)
  if taskClockDown d || t1 then complete (liftDone d part p) p .internal 0 0
  else
    match lengthsBad d x p os with
    | b :: _ => complete (liftDone (postUncorrectable d b) part p) p .memUncorrectable b 0
    | [] =>
      match if op == 0x0121 then readMaps d x es else .inr [] with
      | .inl (st, detail) => complete (liftDone d part p) p st detail 0
      | .inr maps =>
        let n := d.taskNo
        let tiles := workTiles d x
        let place := taskPlace d part es
        let pins := if place = .here then (attnIds op (taskLayout d es) (aLayer p)).flatMap (pinsOf d) else []
        let t := { newTask d (partId part) p tiles pins (tM p) (rowOwners p (tM p)) with ents := es, maps := maps }
        let d1 := addPins (setTask (stageIn { d with taskNo := n + 1 } p) n t) pins tiles.length
        match place with
        | .far dev _ => farStart d1 n dev
        | _ => if op == 0x0121 then attendPhase d1 n else d1

/-! ## The end of a task -/

/-- The walkers of a task leave their tables (R211). -/
def leaveAll (d : Dev) (ws : List Walker) : Dev := ws.foldl (fun d w => leaveTable d w.table w.label) d

/-- The partial that a record carries. -/
def recPartial (r : Partial) : PartialV :=
  ⟨r.empty, num (dec32 r.m.toNat), num (dec32 r.l.toNat), r.o.map (fun x => num (dec32 x.toNat))⟩

/-- The records of a row and head folded in ascending order of their first element (R234). -/
def foldRecs (recs : List Partial) (row head : Nat) : PartialV :=
  let mine := recs.filter (fun r => r.row == row && r.qhead == head)
  let order := (List.range (mine.foldl (fun n r => max n (r.first + 1)) 0)).flatMap (fun i => mine.filter (fun r => r.first == i))
  order.foldl (fun a r => foldPartial a (recPartial r)) PartialV.none

/-- The output of an ATTEND: its writes, flags and failures. -/
def attendOut (d : Dev) (t : TaskSt) : TaskOut :=
  let p := t.post
  let x := getPart d t.part.val
  let os := taskOpds p
  let l := taskLayout d t.ents
  let heads := kvHeads l * kvGroup l
  let cols := heads * kvDim l
  let m := tM p
  let far := match taskPlace d t.part.val t.ents with | .far _ _ => true | _ => false
  let bad := (rowsBad d x (opd os 1) m cols).map (fun b => (Status.memUncorrectable, b))
  let c : Leg := ⟨d, x, t.buf, t.pins, tP1 p, tSub p, num (dec32 (tP0 p))⟩
  let (hs, fails) := if far || !bad.isEmpty then ([], bad)
    else legRows c t.ents t.maps t.walkers (matRows ⟨d, x, [], t.pins⟩ (opd os 1) m cols) t.squashed
  let rows := (List.range m).map (fun i => (List.range heads).flatMap (fun h =>
    partialOut (kvDim l) (if far then foldRecs t.recs i h
      else ((hs.find? (fun r => r.row == i && r.head == h)).map (·.part)).getD PartialV.none)))
  let (ws, fl) := outOf (opd os 5) m cols rows
  ⟨ws, t.rowFl ++ hs.map (fun h => (h.row, h.fl)) ++ (if far then t.recs.map (fun r => (r.row, r.flags)) else []) ++ fl, fails⟩

/-- The places that an ATTEND's output takes, for one that failed (R136). -/
def blankOut (d : Dev) (t : TaskSt) : TaskOut :=
  let l := taskLayout d t.ents
  let cols := kvHeads l * kvGroup l * kvDim l
  if opcode t.post == 0x0121 then
    ⟨(outOf (opd (taskOpds t.post) 5) (tM t.post) cols (List.replicate (tM t.post) (List.replicate cols (num vZero)))).1, [], []⟩
  else ⟨[], [], []⟩

/-- Whether every row of a task is squashed. -/
def allSquashed (t : TaskSt) : Bool := decide (0 < t.rows) && t.squashed.length == t.rows

/-- The last work item of an attention task has ended. KV_APPEND and KV_VERIFY act now; an append that must wait holds its
pins. -/
def concludeAttn (d : Dev) (n : Nat) (t : TaskSt) : Dev :=
  let op := opcode t.post
  let far := match taskPlace d t.part.val t.ents with | .far _ _ => true | _ => false
  if t.fail.isSome then applyOut (leaveAll d t.walkers) n t (blankOut d t)
  else if allSquashed t then finishTask (liftDone (leaveAll d t.walkers) t.part.val t.post) n
  else if op == 0x0121 then
    let o := attendOut d t
    applyOut (leaveAll d t.walkers) n t o
  else if far then applyOut d n t ⟨[], t.recs.map (fun r => (r.row, r.flags)), []⟩
  else if appendWaits d n t then setTask (addPins d t.pins 1) n { t with appendAt := some 0 }
  else
    let (bad, d1, fl) := runAppend d t
    match bad with
    | some (st, detail) => applyOut (failTask d1 n st detail) n { t with fail := some (st, detail) } ⟨[], [], []⟩
    | none => applyOut d1 n t ⟨[], fl, []⟩

/-- An append that waited for a slot tries again (R222). -/
def retryAppend (d : Dev) (n : Nat) : Dev :=
  match tget d.tasks n with
  | none => d
  | some t =>
    if t.appendAt.isNone || (t.fail.isNone && appendWaits d n t) then d
    else if opcode t.post == 0x0121 then attendPhase d n
    else dropPins (concludeAttn (setTask d n { t with appendAt := none }) n { t with appendAt := none }) t.pins

/-- The queries that waited for a partition's tables tried again. -/
def retryFar (d : Dev) : Dev := d.farWait.foldl farHere { d with farWait := [] }

/-- APPEND_SLOT_WAIT_END (R222): the appends of the partition's tables that waited go on. -/
def execAppendSlotWaitEnd (part : PartId) (s : State) : Host.Outcome State Fault Refusal :=
  let d := s.dev
  let ns := (d.tasks.filter (fun e => e.2.part == part && e.2.appendAt.isSome)).map (·.1)
  answer s (retryFar (ns.foldl retryAppend d))

/-! ## The task descriptors of Table 6.8 -/

/-- Whether a host's task must wait for the end of a transfer of a barge whose table it names (Table 7.16). A step's own tasks
run (R262). -/
def attnHeld (d : Dev) (op : Nat) (p : Post) (es : List LenEntry) : Bool :=
  let u : TableUse := if op == 0x0121 && !aAppend op p then .read else .edit
  match p.src with
  | .step .. => false
  | .ring .. => es.any (fun e => match findTable d e.handle.toNat with
    | some (_, t) => tableWaits d t.request u
    | none => false)

/-- An attention task: acceptance, then its start. A step's length table is staged before it is read (R285). -/
def attnRule (op : Nat) (p : Post) (d0 : Dev) : Res :=
  let d := stageIn d0 p
  let part := dNat p 17 1
  let x := getPart d part
  let os := taskOpds p
  let k := kAttn d op p os part
  match acceptTask d op p os k with
  | .stop st detail => .done st detail 0 d
  | .go =>
    if attnHeld d op p (taskEntries d x p os) then .later { d with tableHeld := d.tableHeld ++ [p] }
    else admitTask part p (tileRanges op p (shaped k os)) (startAttn op p) d

/-- KV_APPEND (R214). -/
def execKvAppend (p : Post) (s : State) : Host.Outcome State Fault Refusal :=
  answer s (perform 0x0120 p (attnRule 0x0120 p) s.dev)

/-- ATTEND (R225, R229). -/
def execAttend (p : Post) (s : State) : Host.Outcome State Fault Refusal :=
  answer s (perform 0x0121 p (attnRule 0x0121 p) s.dev)

/-- KV_VERIFY (R221). -/
def execKvVerify (p : Post) (s : State) : Host.Outcome State Fault Refusal :=
  answer s (perform 0x0122 p (attnRule 0x0122 p) s.dev)

end Sys2Proof.Machine
end

