-- ==== Sys2Proof/Machine/Items.lean ====
section
/-! DEFINITION. What happens on a tile while tasks run (04_tasks.md R128 to R136, 14_reliability.md R481 to R483): tile boundaries, chunk
ends with their residue check, the end of a work item; and the start of tasks that were held. -/
namespace Sys2Proof.Machine

/-- The opcodes of Table 6.8. -/
def isAttn (op : Nat) : Bool := op == 0x0120 || op == 0x0121 || op == 0x0122

/-- The last work item of any task has ended. -/
def conclude (d : Dev) (n : Nat) (t : TaskSt) : Dev :=
  if isAttn (opcode t.post) then concludeAttn d n t else concludeTask d n t

/-- A task that was held or that waited for the lift starts. -/
def startAny (p : Post) (d : Dev) : Dev :=
  if isAttn (opcode p) then startAttn (opcode p) p d else startTask (opcode p) p d

/-- A held post runs again from its acceptance: what it answers is settled as a ring's command would be. -/
def rerunTask (d : Dev) (p : Post) : Dev :=
  let op := opcode p
  settleRes p (if isAttn op then attnRule op p d else taskRule op p d)

/-- The tasks with a work item on a tile, oldest first. -/
def tasksOn (d : Dev) (tile : Nat) : List Nat := (d.tasks.filter (fun e => e.2.tiles.contains tile)).map (·.1)

/-- The walkers of a task whose entry has no row left leave their tables (R211). -/
def leaveSquashed (d : Dev) (n : Nat) : Dev :=
  match tget d.tasks n with
  | none => d
  | some t =>
    let es := entriesFrom t.ents 0 0
    let dead (w : Walker) : Bool := !es.any (fun x => x.1 == w.entry && entryLive t.squashed x.2.1 x.2.2)
    let d1 := setTask d n { t with walkers := t.walkers.filter (fun w => !dead w) }
    leaveAll d1 (t.walkers.filter dead)

/-- The polling of the cancel bitmap by one task at a tile boundary (R129, R132): rows of cancelled requests are squashed; a
work item with no row left ends. -/
def boundaryTask (tile : Nat) (d : Dev) (n : Nat) : Dev :=
  match tget d.tasks n with
  | none => d
  | some t =>
    let t1 := squashRows d t
    let d1 := leaveSquashed (setTask d n t1) n
    if allSquashed t1 then itemEnd conclude d1 n tile else d1

/-- TILE_BOUNDARY (R129, R132). -/
def execTileBoundary (tile : TileId) (s : State) : Host.Outcome State Fault Refusal :=
  answer s ((tasksOn s.dev tile.val).foldl (boundaryTask tile.val) s.dev)

/-- DETAIL of RESIDUE_MISMATCH (Table 4.5). -/
def residueDetail (tile : Nat) (r : Residue) : Nat :=
  tile + r.column % 512 * 2 ^ 6 + b2n r.expander * 2 ^ 15 + r.chunk % 2 ^ 20 * 2 ^ 16

/-- The end of a chunk on a tile (R136, R481): a mismatch fails the task whose chunk it was, the oldest on the tile, posts
HLT_RESIDUE and fences the tile, which ends the work items of other tasks there the same way; without one, the work item of a
task that has failed stops. -/
def chunkEndOn (d : Dev) (tile : Nat) (mismatch : Option Residue) : Dev :=
  match mismatch with
  | none =>
    match tasksOn d tile with
    | [] => d
    | n :: _ => if ((tget d.tasks n).bind (·.fail)).isSome then itemEnd conclude d n tile else d
  | some r =>
    match tasksOn d tile with
    | [] => d
    | ns =>
      let detail := residueDetail tile r
      let d1 := raise d 0x0301 (unitOf 1 (physOf d tile)) detail
      let d2 := ns.foldl (fun d n => itemEnd conclude (failTask d n .residueMismatch detail) n tile) d1
      fenceTile d2 tile

/-- CHUNK_END (R481). -/
def execChunkEnd (tile : TileId) (mismatch : Option Residue) (s : State) : Host.Outcome State Fault Refusal :=
  answer s (chunkEndOn s.dev tile.val mismatch)

/-- Whether work items of a task stand still: its partition is off its tiles, or a slot that it reads is fetched again (R179,
R188, R192). -/
def itemStands (d : Dev) (t : TaskSt) : Bool :=
  let x := getPart d t.part.val
  x.state == .suspended || x.state == .resuming || x.lift.loads.any (fun l => !l.complete && l.readers.contains t.post)

/-- WORK_ITEM_COMPLETE (R128, R135). -/
def execWorkItemComplete (task : Nat) (tile : TileId) (s : State) : Host.Outcome State Fault Refusal :=
  match tget s.dev.tasks task with
  | none => answer s s.dev
  | some t => answer s (if itemStands s.dev t then s.dev else itemEnd conclude s.dev task tile.val)

end Sys2Proof.Machine
end

