-- ==== Sys2Proof/Machine/Lift.lean ====
section
/-! DEFINITION. The lift (05_partitions.md R185 to R192): its start and stop, the end of a load, the failures that halt it, and
the loads that a resumption fetches again. -/
namespace Sys2Proof.Machine

/-! ## One descriptor of a partition at a time (R163) -/

/-- Whether a descriptor that names the partition is under way. -/
def partBusy (d : Dev) (part : Nat) : Bool :=
  (getPart d part).suspend.isSome || (getPart d part).resuming.isSome || d.composing.any (fun c => c.next.src.val == part) ||
    d.parts.any (fun e => match e.2.suspend with
      | some u => (u.incoming.map (·.val)) == some part
      | none => false)

/-- A descriptor that waits until those that name its partitions are done. -/
def inTurn (parts : List Nat) (rule : Dev → Res) (d : Dev) : Res := if parts.any (partBusy d) then .wait .partition d else rule d

/-! ## LIFT_START and LIFT_STOP -/

/-- The layer-table entry in 32 bytes, and whether its reserved bytes are 0 (Table 5.9). -/
def layerEnt (b : List Byte) : LayerEnt × Bool :=
  (⟨leAt b 0 8, leAt b 8 1, leAt b 10 2, leAt b 12 4⟩, zeroAt b 9 1 && zeroAt b 16 16)

/-- Whether an entry keeps Table 5.9 and names a source that its partition may read. -/
def layerOk (d : Dev) (x : PartSt) (slotSize : Nat) (e : LayerEnt) : Bool :=
  e.src % 64 == 0 && (e.tier == 1 || (e.tier == 2 && x.t2En)) && e.length % 64 == 0 && decide (e.length ≤ slotSize) &&
    rangeOk d x e.tier e.src e.length false false

/-- LIFT_START (R185): the checks in the order of R572. -/
def liftStartRule (p : Post) (d : Dev) : Res :=
  let part := dNat p 16 1
  let x := getPart d part
  let n := dNat p 20 4
  let table := dNat p 48 8
  let feed := getRing d x.owner (dNat p 44 4)
  let W := dNat p 17 1
  let base := dNat p 32 8
  let size := dNat p 40 4
  if !dZero p 8 8 || !mayName d (poster d p) part || decide (1 < dNat p 18 1) || !dZero p 19 1 || !dZero p 56 8 || base % 4096 != 0 then
    .plain .badDescriptor d
  else if W = 0 ∨ n = 0 ∨ dNat p 28 4 = 0 ∨ size = 0 then .plain .badLength d
  else if decide (8 < W) || decide (65536 < n) || decide (n ≤ dNat p 24 4) || decide (1000000 < dNat p 28 4) ||
      size % 4096 != 0 || x.state != .active || (x.lift.run && !x.lift.halted) ||
      !rangeOk d x 0 base (W * size) true true || !rangeOk d x 1 table (32 * n) false true ||
      decide (ringCount x.owner ≤ dNat p 44 4) || !feed.enable || feed.kind != 0 then .plain .badDescriptor d
  else
    match badIn d x 1 table (32 * n) with
    | b :: _ => .done .memUncorrectable b 0 (postUncorrectable d b)
    | [] =>
      let es := (List.range n).map (fun i => layerEnt (tierBytes d x [] 1 (table + 32 * i) 32))
      if es.any (fun e => e.1.uses == 0) then .plain .badLength d
      else if !es.all (fun e => e.2 && layerOk d x size e.1) then .plain .badDescriptor d
      else
        let y : LiftSt := { LiftSt.reset with
          run := true, depth := W, loop := (dNat p 18 1).testBit 0, first := dNat p 24 4, limit := dNat p 28 4, slotBase := base
          slotSize := size, feedRing := dNat p 44 4, layers := es.map (·.1) }
        .plain .ok (liftNext (setLift d part y) part)

/-- LIFT_START (R185). -/
def execLiftStart (p : Post) (s : State) : Host.Outcome State Fault Refusal :=
  answer s (perform 0x0420 p (inTurn [dNat p 16 1] (liftStartRule p)) s.dev)

/-- The loads of a partition's lift that pod memory still owes are forgotten. -/
def dropLoads (d : Dev) (part : Nat) : Dev :=
  { d with podOps := d.podOps.filter (fun o => match o.use with | .lift q => q.val != part | _ => true) }

/-- LIFT_STOP (R191). -/
def liftStopRule (p : Post) (d : Dev) : Res :=
  let part := dNat p 16 1
  let x := getPart d part
  if !dZero p 8 8 || !mayName d (poster d p) part || !dZero p 17 47 || x.lift.loads.any (fun l => !l.readers.isEmpty) then
    .plain .badDescriptor d
  else .plain .ok (setLift (dropLoads d part) part LiftSt.reset)

/-- LIFT_STOP (R191). -/
def execLiftStop (p : Post) (s : State) : Host.Outcome State Fault Refusal :=
  answer s (perform 0x0421 p (inTurn [dNat p 16 1] (liftStopRule p)) s.dev)

/-! ## The halt (R189, R190) -/

/-- The bound readers of incomplete loads with the layer of the first load that each waits for. -/
def lateReaders (x : LiftSt) : List (Post × Nat) :=
  (x.loads.filter (fun l => !l.complete)).foldl (fun acc l =>
    acc ++ ((l.readers.filter (fun p => !acc.any (fun e => e.1 == p))).map (fun p => (p, layerIx x l.q)))) []

/-- The lift halts: the load in flight is discarded, and the bound readers of incomplete loads end, those of load `q` with the
status given, the others with WINDOW_LATE. -/
def liftHalt (d : Dev) (part : Nat) (first : Nat → Post → Option (Status × Nat)) : Dev :=
  let x := (getPart d part).lift
  let late := lateReaders x
  let y := { x with halted := true, loads := x.loads.filter (·.complete), buf := [], podLeft := 0, refetch := [] }
  late.foldl (fun d (e : Post × Nat) => match first e.2 e.1 with
    | some (st, detail) => complete (liftDone d part e.1) e.1 st detail 0
    | none => complete (liftDone d part e.1) e.1 .windowLate e.2 0) (setLift (dropLoads d part) part y)

/-- LIFT_FENCE_TIMEOUT (R189): a reader has waited FENCE_LIMIT at the fence, whose timer stands still while the partition is
off its tiles (R179). -/
def execLiftFenceTimeout (part : PartId) (s : State) : Host.Outcome State Fault Refusal :=
  let d := s.dev
  let x := getPart d part.val
  if partHolds x || x.lift.halted || (lateReaders x.lift).isEmpty then answer s d
  else answer s (liftHalt d part.val (fun _ _ => none))

/-- The number of the load in flight: one fetched again, or the last started. -/
def inFlight (x : LiftSt) : Option Nat :=
  match x.refetch with
  | q :: _ => some q
  | [] => if x.run && !x.halted && x.loads.any (fun l => l.q + 1 == x.nextQ && !l.complete) then some (x.nextQ - 1) else none

/-- A load has failed (R190): its readers end with the status of its line, and the lift halts. -/
def loadFail (d : Dev) (part q : Nat) (st : Status) (detail : Nat) : Dev :=
  let x := (getPart d part).lift
  let mine := ((x.loads.find? (fun l => l.q == q)).map (·.readers)).getD []
  let d1 := if st == .memUncorrectable then postUncorrectable d detail else d
  liftHalt d1 part (fun _ p => if mine.contains p then some (st, detail) else none)

/-- LIFT_LOAD_FAILURE (R190): `addr` is the line's address in the form of Table 3.5. -/
def execLiftLoadFailure (part : PartId) (lost : Bool) (addr : W64) (s : State) : Host.Outcome State Fault Refusal :=
  let d := s.dev
  let x := getPart d part.val
  match inFlight x.lift with
  | none => answer s d
  | some q =>
    if partHolds x then answer s d
    else answer s (loadFail d part.val q (if lost then .targetLost else .memUncorrectable) addr.toNat)

/-! ## The end of a load (R186, R188, R192) -/

/-- Bytes stored to tile store; words they cover are good again. -/
def tsWrite (d : Dev) (a : Nat) (bs : List Byte) : Dev :=
  { d with ts := memWrite d.ts a bs, tsBad := clearBad d.tsBad 8 a bs.length }

/-- The readers that wait at load `q` and at no other load start. -/
def startReaders (d : Dev) (part q : Nat) : Dev :=
  let x := (getPart d part).lift
  match x.loads.find? (fun l => l.q == q) with
  | none => d
  | some l =>
    let free := l.waiting.filter (fun p => x.loads.all (fun k => k.complete || !k.readers.contains p))
    let y := { x with loads := x.loads.map (fun k => { k with waiting := k.waiting.filter (fun p => !free.contains p) }) }
    free.foldl (fun d p =>
      let x := getPart d part
      if partHolds x then setPart d part { x with held := x.held ++ [p] } else startAny p d) (setLift d part y)

/-- The load in flight of a partition completes: its layer is whole in its slot. -/
def loadDone (d : Dev) (part q : Nat) : Dev :=
  let x := getPart d part
  let e := layerOf x.lift q
  let bad := if e.tier = 1 then badIn d x 1 e.src e.length else []
  match bad with
  | b :: _ => loadFail d part q .memUncorrectable b
  | [] =>
    let bs := if e.tier = 1 then tierBytes d x [] 1 e.src e.length else memRead x.lift.buf e.src e.length
    let d1 := tsWrite d (slotRange x.lift (q % x.lift.depth)).1 bs
    let y := modLoad x.lift q (fun l => { l with complete := true })
    let d2 := setLift d1 part { y with refetch := y.refetch.filter (· != q), buf := [], podLeft := 0 }
    liftNext (startReaders d2 part q) part

/-- The pod loads of a layer that is fetched again. -/
def refetchLoads (d : Dev) (part : Nat) : Dev :=
  let x := (getPart d part).lift
  match x.refetch with
  | [] => d
  | q :: _ =>
    let e := layerOf x q
    if e.tier = 2 then
      let d1 := setLift d part { x with buf := [], podLeft := (podPieces e.src e.length).length }
      podLoads d1 (getPart d part).owner (engLift part) (bulkTc d part) [(e.src, e.length)] (.lift (partId part))
    else d

/-- LIFT_LOAD_COMPLETE (R186): the load in flight has arrived whole. -/
def execLiftLoadComplete (part : PartId) (s : State) : Host.Outcome State Fault Refusal :=
  let d := s.dev
  let x := getPart d part.val
  match inFlight x.lift with
  | none => answer s d
  | some q =>
    if partHolds x || x.lift.podLeft != 0 then answer s d
    else answer s (refetchLoads (loadDone d part.val q) part.val)

/-- What a resumption fetches again (R192): the load in flight, and every complete load that still has bound readers; those that
have not started wait for it. -/
def liftRefetch (d : Dev) (part : Nat) : Dev :=
  let x := (getPart d part).lift
  if !x.run || x.halted then d
  else
    let again (l : LoadSt) : Bool := !l.complete || !l.readers.isEmpty
    let running (p : Post) : Bool := d.tasks.any (fun e => e.2.post == p)
    let loads := x.loads.map (fun l => if again l then
      { l with complete := false, waiting := l.readers.filter (fun p => !running p) } else l)
    let held := (getPart d part).held.filter (fun p => !loads.any (fun l => !l.complete && l.readers.contains p))
    let d1 := setPart (dropLoads d part) part { getPart d part with
      held := held
      lift := { x with loads := loads, refetch := (loads.filter again).map (·.q), buf := [], podLeft := 0 } }
    refetchLoads d1 part

end Sys2Proof.Machine
end

