-- ==== Sys2Proof/Machine/SluiceBase.lean ====
section
/-! DEFINITION. The sluice's lookups and colours (12_sluice.md R421 to R445): the shape of a CAM half, the key of Table 12.4, the
search, the policers. -/
namespace Sys2Proof.Machine

/-! ## The CAM of a half -/

def getCam (d : Dev) (h : Nat) : CamHalf := if h = 0 then d.camW else d.camE
def setCam (d : Dev) (h : Nat) (x : CamHalf) : Dev := if h = 0 then { d with camW := x } else { d with camE := x }

/-- LOC_BANKS, the width in banks and the pitch (Table 12.2). -/
def locBanks (d : Dev) (h : Nat) : Nat := cfgField d (.camCfg h) 0 5
def camWidth (d : Dev) (h : Nat) : Nat := 2 ^ cfgField d (.camCfg h) 5 2
def camPitch (d : Dev) (h : Nat) : Nat := 2 ^ (cfgField d (.camCfg h) 7 3 + 2)

/-- The rows and the segments of CLASSIFY, and the entries that LOCATE holds (Table 12.1, R433). -/
def clsRows (d : Dev) (h : Nat) : Nat := (16 - locBanks d h) / camWidth d h * 8192
def clsSegs (d : Dev) (h : Nat) : Nat := clsRows d h / camPitch d h
def locRows (d : Dev) (h : Nat) : Nat := locBanks d h * 8192

/-- The CLASSIFY entries that a half may hold (R431). -/
def clsCapacity (d : Dev) (h : Nat) : Nat := clsSegs d h * (camPitch d h - 1)

/-- The lowest-indexed entry whose compared bits all equal the key (R432). -/
def camSearch (c : CamHalf) (key : BitVec 320) : Option W64 :=
  (c.cls.find? (fun e => (key &&& e.care) == e.value)).map (·.result)

/-- A key of Table 12.4 from its fields. -/
def camKey (port kind fn tc dscp ce pkind qp dev vid peerQp uport flow ip : Nat) : BitVec 320 :=
  BitVec.ofNat 320 (port + kind * 2 ^ 4 + fn * 2 ^ 5 + tc * 2 ^ 11 + dscp * 2 ^ 14 + ce * 2 ^ 20 + pkind * 2 ^ 21 + qp * 2 ^ 29 +
    dev * 2 ^ 53 + vid * 2 ^ 67 + peerQp * 2 ^ 80 + uport * 2 ^ 104 + flow * 2 ^ 120 + ip * 2 ^ 160)

/-! ## Fields of a result (Table 12.6) -/

def resTenant (r : W64) : Nat := bits r.toNat 0 6
def resTc (r : W64) : Nat := bits r.toNat 6 3
def resDiscard (r : W64) : Bool := r.getLsbD 9
def resColour (r : W64) : Nat := bits r.toNat 10 2
def resPolicer (r : W64) : Option Nat := if r.getLsbD 22 then some (bits r.toNat 12 10) else none

/-! ## Policers (R439 to R441) -/

/-- A packet in units of a bucket. -/
def packetUnits : Nat := 2 ^ 20

def getPolicer (d : Dev) (n : Nat) : Policer := tgetD d.policers n Policer.reset
def setPolicer (d : Dev) (n : Nat) (x : Policer) : Dev := { d with policers := tset d.policers n x }

def pmode (x : Policer) : Nat := bits x.mode.toNat 0 2
def paware (x : Policer) : Bool := x.mode.getLsbD 2
def yact (x : Policer) : Nat := bits x.mode.toNat 3 2

/-- The colour of a packet and the policer with its buckets debited (Table 12.9): 0 green, 1 yellow, 2 red. -/
def colour (x : Policer) (pre0 : Nat) : Nat × Policer :=
  let pre := if paware x then pre0 else 0
  let hasC := decide (packetUnits ≤ x.tc)
  let hasX := decide (packetUnits ≤ x.tx)
  match pmode x with
  | 1 =>
    if pre == 0 && hasC then (0, { x with tc := x.tc - packetUnits })
    else if pre != 2 && hasX then (1, { x with tx := x.tx - packetUnits })
    else (2, x)
  | 2 =>
    if pre == 2 || !hasX then (2, x)
    else if pre == 1 || !hasC then (1, { x with tx := x.tx - packetUnits })
    else (0, { x with tx := x.tx - packetUnits, tc := x.tc - packetUnits })
  | _ => (0, x)

/-- A packet of a colour counted (Table 12.10). -/
def countColour (x : Policer) (c : Nat) : Policer :=
  match c with
  | 0 => { x with green := x.green + 1 }
  | 1 => { x with yellow := x.yellow + 1 }
  | _ => { x with red := x.red + 1 }

/-- Credit of a rate in 1,000 TCLK with the remainder carried: units and the new remainder (R440). -/
def creditOf (rate rem : Nat) : Nat × Nat := ((rate * 2 ^ 20 + rem) / 10 ^ 6, (rate * 2 ^ 20 + rem) % 10 ^ 6)

/-- The buckets of a policer after a credit. -/
def credited (x : Policer) : Policer :=
  let (c, rc) := creditOf x.cir x.remC
  let full := x.cbs * packetUnits
  match pmode x with
  | 1 => { x with tc := min full (x.tc + c), tx := min (x.xbs * packetUnits) (x.tx + (x.tc + c - full)), remC := rc }
  | 2 =>
    let (p, rp) := creditOf x.pir x.remX
    { x with tc := min full (x.tc + c), tx := min (x.xbs * packetUnits) (x.tx + p), remC := rc, remX := rp }
  | _ => x

/-- A discard of the sluice at a port: QFULL, or DISCARDED; both saturate (Table 12.7). -/
def countSluice (d : Dev) (n : Nat) (full : Bool) : Dev :=
  let P := getPort d n
  let up (w : W32) : W32 := if w = 0xFFFFFFFF then w else w + 1
  setPort d n (if full then { P with qfull := up P.qfull } else { P with dropped := up P.dropped })

end Sys2Proof.Machine
end

