-- ==== Sys2Proof/Machine/QpBase.lean ====
section
/-! DEFINITION. Queue pairs (11_transport.md R377 to R393, R412 to R414): numbers and halves, counters, the context cache, the packets
that leave the device and how they are carried, the end of operations and of a queue pair. -/
namespace Sys2Proof.Machine

/-! ## Numbers -/

/-- The system device index: pod × 64 + device. -/
def selfSys (d : Dev) : Nat := selfPod d * 64 + (selfDev d).val

/-- The half of a queue pair: 0 W, 1 E (R377). -/
def qpHalf (qn : Nat) : Nat := qn / 2 ^ 23 % 2

def getQp (d : Dev) (qn : Nat) : Option QpSt := tget d.qps qn
def setQp (d : Dev) (qn : Nat) (q : QpSt) : Dev := { d with qps := tset d.qps qn q }

/-- Whether a range of queue pairs lies in a function's range (Table 11.12). -/
def qpInRange (d : Dev) (f : Fn) (qn n : Nat) : Bool :=
  let b := cfgField d (.qpRange f.val) 0 24
  let c := cfgField d (.qpRange f.val) 32 25
  decide (b ≤ qn) && decide (qn + n ≤ b + c)

/-- The counters XPT_MISS, XPT_CWAIT, XPT_DROP and XPT_RETX of a half: `which` 0 to 3. -/
def xptGetCount (d : Dev) (which half : Nat) : W64 := tgetD d.xptCount (2 * which + half) 0
def xptAdd (d : Dev) (which half : Nat) : Dev :=
  { d with xptCount := tset d.xptCount (2 * which + half) (xptGetCount d which half + 1) }

/-- The MTU of a queue pair in payload bytes (R380, R392). -/
def qpMtu (d : Dev) (q : QpSt) : Nat := if q.dev.toNat / 64 = selfPod d then 4032 else 1024 * 2 ^ q.mtu

/-! ## Packets on the wire (Tables 11.6, 11.7) -/

def pkindCode : PKind → Nat
  | .data => 1 | .getReq => 2 | .atomicReq => 3 | .atomicRsp => 4 | .signal => 5 | .tow => 6
  | .ack => 0x10 | .msgNak => 0x11 | .contextWait => 0x12

/-- The 48 bytes of the Finham transport header. -/
def hdrBytes (p : Packet) : List Byte :=
  let h := p.hdr
  let fl := b2n h.first + 2 * b2n h.last + 4 * b2n h.notify + 8 * b2n h.rsp + 16 * b2n h.ece + 32 * b2n h.retx + 64 * b2n h.keyed
  leBytes (pkindCode p.kind) 1 ++ leBytes 1 1 ++ leBytes fl 1 ++ leBytes h.tc.toNat 1 ++ leBytes h.psn.toNat 4 ++
    leBytes h.dstQp.toNat 4 ++ leBytes h.srcQp.toNat 4 ++ leBytes h.srcDev.toNat 2 ++ leBytes h.dstDev.toNat 2 ++
    leBytes h.msn.toNat 8 ++ leBytes h.offset.toNat 4 ++ leBytes h.mlen.toNat 4 ++ leBytes h.raddr.toNat 8 ++
    leBytes h.status.toNat 2 ++ leBytes p.payload.length 2

/-- Whether a packet kind is a message rather than a control packet. -/
def isMessage : PKind → Bool
  | .ack | .msgNak | .contextWait => false
  | _ => true

/-- The frame that carries a packet on a port (R387, R388). -/
def frameOf (d : Dev) (q : QpSt) (qn : Nat) (p : Packet) : Frame :=
  let n := q.lport
  let flow := Config.flowHash qn q.peer.toNat % 2 ^ 20
  { dstMac := BitVec.ofNat 48 (cfgField d (.xptNh n) 0 48), fcsOk := true, plain := true
    vid := if cfgField d (.xptMac n) 60 1 = 1 then some (BitVec.ofNat 12 (cfgField d (.xptMac n) 48 12)) else none
    dstIp := q.ip, srcIp := cfgGet d (.xptIp n)
    dscp := BitVec.ofNat 6 (cfgField d .xptDscp (6 * q.tc.toNat) 6), ecn := if isMessage p.kind then 2 else 0
    flow := BitVec.ofNat 20 flow, sport := BitVec.ofNat 16 (49152 + flow % 16384)
    dport := BitVec.ofNat 16 (cfgField d .xptCtl 0 16), csumOk := true, packet := p }

/-- The MSG cells of a packet (R385): 256 bytes each but the last. -/
def cellsOf (d : Dev) (q : QpSt) (qn : Nat) (p : Packet) : List Cell :=
  let bs := hdrBytes p ++ p.payload
  let dst := q.dev.toNat % 64
  (List.range (ceilDiv bs.length 256)).map (fun i =>
    let part := (bs.drop (256 * i)).take 256
    { idleCell with
      kind := 9, vc := BitVec.ofNat 2 (requestVc d q.tc.toNat), tc := q.tc, hops := 1, dst := devIx dst, src := selfDev d
      engine := BitVec.ofNat 16 (qpHalf qn), txn := p.hdr.psn.setWidth 16
      addr := BitVec.ofNat 64 (dst * 2 ^ 40 + q.peer.toNat * 64), length := BitVec.ofNat 16 part.length, payload := part })

/-- The key of a queue pair as a host injection (Table 12.4). -/
def injKey (d : Dev) (q : QpSt) (qn : Nat) : BitVec 320 :=
  let other := decide (q.dev.toNat / 64 ≠ selfPod d)
  let n := q.lport
  let vid := if other && cfgField d (.xptMac n) 60 1 == 1 then cfgField d (.xptMac n) 48 12 else 0
  camKey (if other then n else 0) 1 q.owner.val q.tc.toNat (cfgField d .xptDscp (6 * q.tc.toNat) 6) 0 0 qn q.dev.toNat vid
    q.peer.toNat 0 (if other then Config.flowHash qn q.peer.toNat % 2 ^ 20 else 0) (if other then q.ip.toNat else 0)

/-- The queue pair with the result of its classification, made once and kept until an entry of its half changes (R430). -/
def classifyQp (d : Dev) (q : QpSt) (qn : Nat) : QpSt :=
  if q.inj.isSome then q else { q with inj := some (camSearch (getCam d (qpHalf qn)) (injKey d q qn)) }

/-- A packet handed to its carriage in the queue of a tenant and a class: MSG cells toward a device of the pod, a frame on the queue
pair's port toward another pod. -/
def carry (d : Dev) (q : QpSt) (qn : Nat) (p : Packet) (cls tenant : Nat) (ce : Bool) : Dev :=
  let dst := q.dev.toNat % 64
  if q.dev.toNat / 64 = selfPod d then
    match pickPort d dst (selfDev d).val (qpHalf qn) q.tc.toNat (dst * 2 ^ 34 + q.peer.toNat) with
    | none => d
    | some port => (cellsOf d q qn p).foldl (fun d c => egPush d port cls tenant (.cell c)) d
  else
    let f := frameOf d q qn p
    egPush d q.lport cls tenant (.frame (if ce then { f with ecn := 3 } else f))

/-- What the sluice says of a packet to be sent (R436, R443, R444): none when its policer holds it, else the device after it is
handed on, or discarded by DISCARD. -/
def offer (d : Dev) (q0 : QpSt) (qn : Nat) (p : Packet) : Option Dev :=
  let q := classifyQp d q0 qn
  let own := if q.towpath then 64 else q.owner.val
  match q.inj.getD none with
  | none => some (carry d q qn p q.tc.toNat own false)
  | some r =>
    let tenant := if q.towpath then 64 else resTenant r
    if resDiscard r then some (if q.lport < 16 then countSluice d q.lport false else d)
    else
      match (if isMessage p.kind && p.kind != .tow then resPolicer r else none) with
      | none => some (carry d q qn p (resTc r) tenant false)
      | some n =>
        let (c, x) := colour (getPolicer d n) (resColour r)
        if c = 2 ∨ (c = 1 ∧ yact x = 2) then none
        else some (carry (setPolicer d n (countColour x c)) q qn p (resTc r) tenant (c == 1 && yact x == 1))

/-- A control packet handed to its carriage; it is never held. -/
def emitPkt (d : Dev) (q : QpSt) (qn : Nat) (p : Packet) : Dev := (offer d q qn p).getD d

/-- A header from a queue pair to its peer. -/
def baseHdr (d : Dev) (q : QpSt) (qn : Nat) : PktHdr :=
  { first := false, last := false, notify := false, rsp := false, ece := false, retx := false, keyed := false, tc := q.tc, psn := 0
    dstQp := q.peer, srcQp := BitVec.ofNat 24 qn, srcDev := BitVec.ofNat 14 (selfSys d), dstDev := q.dev, msn := 0, offset := 0
    mlen := 0, raddr := 0, status := 0 }

/-! ## Waits on counts (R403) -/

/-- QP_WAIT's fields: the queue pair, SOURCE, RING, the target, SKIP. -/
def waitQp (p : Post) : Nat := dNat p 8 3
def waitSource (p : Post) : Nat := bits (dNat p 17 1) 0 2
def waitSkip (p : Post) : Nat := dNat p 60 2

/-- The wait of ring `r` ends with a status; when it fails the next SKIP descriptors of the ring are cancelled. -/
def endWait (d : Dev) (f : Fn) (r : Nat) (w : QpWaitSt) (st : Status) : Dev :=
  let R := getRing d f r
  let skip := if statusGood st then R.skip else (w.idx + 1, w.idx + 1 + waitSkip w.post)
  complete (setRing d f r { R with qpWait := none, skip := skip, stalls := R.stalls.erase .qpWait }) w.post st 0 0

/-- Every pending QP_WAIT with its function and ring. -/
def pendingWaits (d : Dev) : List (Fn × Nat × QpWaitSt) :=
  d.fns.flatMap (fun e => e.2.rings.filterMap (fun r => r.2.qpWait.map (fun w => (⟨e.1 % 64, Nat.mod_lt _ (by decide)⟩, r.1, w))))

/-- The waits that name a queue pair end with a status. -/
def endWaitsOn (d : Dev) (qn : Nat) (st : Status) : Dev :=
  (pendingWaits d).foldl (fun d e =>
    if waitQp e.2.2.post == qn && waitSource e.2.2.post != 2 then endWait d e.1 e.2.1 e.2.2 st else d) d

/-! ## The end of a queue pair (Table 11.3) -/

/-- The QP_DESTROYs whose whole range has become FREE complete (R382). -/
def settleDestroys (d : Dev) : Dev :=
  let free (e : Post × Nat × Nat) : Bool := !d.qps.any (fun q => decide (e.2.1 ≤ q.1) && decide (q.1 < e.2.1 + e.2.2))
  (d.qpDestroys.filter free).foldl (fun d e => complete d e.1 .ok 0 0) { d with qpDestroys := d.qpDestroys.filter (fun e => !free e) }

/-- A queue pair becomes FREE; waits on it end with `st`. -/
def freeQp (d : Dev) (qn : Nat) (st : Status) : Dev := settleDestroys (endWaitsOn { d with qps := tdel d.qps qn } qn st)

/-- The result of a posted operation: its completion, and CCOUNT when it is OK (R399). -/
def opDone (d : Dev) (qn : Nat) (p : Post) (r : Status × Nat × Nat) : Dev :=
  let d1 := match getQp d qn with
    | some q => if r.1 = .ok then setQp d qn { q with ccount := q.ccount + 1 } else d
    | none => d
  complete d1 p r.1 r.2.1 r.2.2

/-- The first posted operation of a queue pair. -/
def headOp (q : QpSt) : Option XOp := q.ops.find? (fun o => o.post.isSome)

/-- The operations at the head of the posting order that have a result complete; answers that the peer has acknowledged
leave (R400). -/
def settleOps (qn : Nat) : Nat → Dev → Dev
  | 0, d => d
  | n + 1, d =>
    match getQp d qn with
    | none => d
    | some q =>
      let q1 := { q with ops := q.ops.filter (fun o => o.post.isSome || !o.acked) }
      let d1 := setQp d qn q1
      match headOp q1 with
      | none => if q1.state = .draining then freeQp d1 qn .cancelled else d1
      | some o =>
        match o.post, o.result with
        | some p, some r => settleOps qn n (opDone (setQp d qn { q1 with ops := q1.ops.erase o }) qn p r)
        | _, _ => d1

def settleQp (d : Dev) (qn : Nat) : Dev :=
  match getQp d qn with
  | none => d
  | some q => settleOps qn (q.ops.length + 1) d

/-- A queue pair enters ERROR: what is outstanding completes with the status that caused it (Table 11.3). -/
def qpError (d : Dev) (qn : Nat) (st : Status) (detail : Nat) : Dev :=
  match getQp d qn with
  | none => d
  | some q =>
    let outs := q.ops.filterMap (fun o => o.post.map (fun p => (p, o.result.getD (st, detail, 0))))
    let d1 := setQp d qn { q with
      state := if q.state = .draining then .draining else .error
      err := st, errDet := detail, ops := [], pkts := [], backoff := false, waiting := [], msgs := [], redHeld := [] }
    let d2 := outs.foldl (fun d e => opDone d qn e.1 e.2) d1
    let d3 := if q.towpath then raiseFn d2 0 0x0106 (unitOf 0x0B (q.dev.toNat % 64)) (q.dev.toNat / 64) (statusCode st).toNat else d2
    if q.state = .draining then freeQp d3 qn .cancelled else endWaitsOn d3 qn st

/-! ## The context cache (R412 to R414) -/

/-- Whether XPT_TOW of this device as gateway names a queue pair. -/
def towNames (d : Dev) (qn : Nat) : Bool :=
  d.regs.any (fun e => decide (regBase (.xptTow 0) ≤ e.1) && decide (e.1 ≤ regBase (.xptTow 255)) &&
    e.2.getLsbD 30 && bits e.2.toNat 24 6 == (selfDev d).val && bits e.2.toNat 0 24 == qn)

/-- Whether a context may not leave the cache. -/
def qpPinned (d : Dev) (qn : Nat) (q : QpSt) : Bool :=
  !q.pkts.isEmpty || !q.msgs.isEmpty || !q.ops.isEmpty || q.backoff || towNames d qn ||
    (pendingWaits d).any (fun e => waitQp e.2.2.post == qn && waitSource e.2.2.post != 2)

/-- The contexts of a half that are cached. -/
def cachedIn (d : Dev) (half : Nat) : List (Nat × QpSt) := d.qps.filter (fun e => qpHalf e.1 == half && e.2.resident)

/-- A context asked for: a fetch starts when it is neither cached nor on its way. -/
def wantCtx (d : Dev) (qn : Nat) : Dev :=
  match getQp d qn with
  | none => d
  | some q => if q.resident || q.fetching then d else xptAdd (setQp d qn { q with fetching := true }) 0 (qpHalf qn)

/-- Room for one more context of a half: the least recently used that is not pinned leaves; none when every one is. -/
def makeRoom (d : Dev) (half : Nat) : Option Dev :=
  let cs := cachedIn d half
  if cs.length < 32768 then some d
  else
    ((cs.filter (fun e => !qpPinned d e.1 e.2)).foldl (fun (best : Option (Nat × QpSt)) e => match best with
      | none => some e
      | some b => if e.2.used < b.2.used then some e else some b) none).map (fun e => setQp d e.1 { e.2 with resident := false })

/-- A context in use now. -/
def touchQp (d : Dev) (qn : Nat) : Dev :=
  match getQp d qn with
  | none => d
  | some q => setQp { d with qpClock := d.qpClock + 1 } qn { q with used := d.qpClock }

/-! ## Sending (R392, R406 to R410) -/

/-- One more packet of the first message that is not all in packets, when the window lets it go and no policer holds it. -/
def nextPkt (d : Dev) (qn : Nat) : Option Dev :=
  match getQp d qn with
  | none => none
  | some q =>
    if q.backoff || !q.resident || q.window ≤ q.pkts.length || (q.state != .connected && q.state != .draining) then none
    else
      match q.ops.find? (fun o => !o.built) with
      | none => none
      | some o =>
        let n := min (qpMtu d q) (o.bytes.length - o.sent)
        let last := o.bytes.length ≤ o.sent + n
        let h := { baseHdr d q qn with
          first := o.sent == 0, last := last, notify := o.notify, rsp := o.rsp, keyed := q.keyEn, psn := q.txPsn
          msn := BitVec.ofNat 56 (o.msn.getD 0), offset := BitVec.ofNat 32 o.sent, mlen := BitVec.ofNat 32 o.bytes.length
          dstDev := if o.kind = .tow then BitVec.ofNat 14 o.raddr else q.dev
          raddr := if o.kind = .tow then 0 else BitVec.ofNat 64 o.raddr }
        let p : Packet := ⟨o.kind, h, slice o.bytes o.sent n⟩
        let o1 := { o with sent := o.sent + n, built := last }
        let qc := classifyQp d q qn
        let q1 := { qc with
          txPsn := q.txPsn + 1, pkts := q.pkts ++ [⟨p, false, false, false⟩]
          ops := q.ops.map (fun x => if x.msn = o.msn then o1 else x) }
        offer (setQp d qn q1) q1 qn p

/-- Every packet that may go now. -/
def pumpGo (qn : Nat) : Nat → Dev → Dev
  | 0, d => d
  | n + 1, d => match nextPkt d qn with
    | none => d
    | some d1 => pumpGo qn n d1

def pump (d : Dev) (qn : Nat) : Dev :=
  match getQp d qn with
  | none => d
  | some q => pumpGo qn (q.window - q.pkts.length) d

/-- A packet sent again, unchanged but for RETX (R408), or held by its policer (R443). -/
def resendPkt (d : Dev) (qn : Nat) (psn : W32) : Dev :=
  match getQp d qn with
  | none => d
  | some q =>
    match q.pkts.find? (fun s => s.pkt.hdr.psn == psn) with
    | none => d
    | some s =>
      let p : Packet := { s.pkt with hdr := { s.pkt.hdr with retx := true } }
      let q1 := { classifyQp d q qn with
        redHeld := q.redHeld.filter (fun x => x != psn)
        retx := if q.retx = 0xFFFFFFFF then q.retx else q.retx + 1
        pkts := q.pkts.map (fun x => if x.pkt.hdr.psn = psn then { x with pkt := p, held := false } else x) }
      match offer (xptAdd (setQp d qn q1) 3 (qpHalf qn)) q1 qn p with
      | some d1 => d1
      | none => setQp d qn { q with redHeld := psn :: q.redHeld.filter (fun x => x != psn) }

/-- A message joins a queue pair's send stream. -/
def pushOp (d : Dev) (qn : Nat) (o : XOp) : Dev :=
  match getQp d qn with
  | none => d
  | some q => setQp d qn { q with
      ops := q.ops ++ [{ o with msn := if o.built then none else some q.txMsn }]
      txMsn := if o.built then q.txMsn else q.txMsn + 1 }

/-- A message of `bytes` of a kind that no descriptor posted. -/
def ownOp (kind : PKind) (bytes : List Byte) (raddr : Nat) (rsp : Bool) : XOp :=
  { post := none, kind := kind, msn := none, bytes := bytes, raddr := raddr, notify := false, rsp := rsp, sent := 0, built := false
    resent := false, acked := false, former := none, result := none }

end Sys2Proof.Machine
end

