-- ==== Sys2Proof/Machine/Region.lean ====
section
/-! DEFINITION. The use of the lock-keeper's region (09_memory.md R314, R574, Table 9.14). -/
namespace Sys2Proof.Machine

/-- The space of a token history of a home: 4 bytes a token in units of 64 KiB. -/
def historySpace (tokens : Nat) : Nat := ceilDiv (4 * tokens) 65536 * 65536

/-- The space of the translation entries of a partition. -/
def mapSpace (x : PartSt) : Nat := 8 * (x.maps.length + x.grants2.length + x.grants3.length)

/-- The bytes of the region in use. -/
def regionUsed (d : Dev) : Nat :=
  512 * pageSize + 512 * d.barges.length + 512 * (d.dsts.filter (fun x => x.party == 2)).length +
    (d.homes.map (fun e => 256 + historySpace e.2.room)).foldl (· + ·) 0 +
    256 * (d.qps.filter (fun e => e.2.ctxHost.isNone)).length + (d.parts.map (fun e => mapSpace e.2)).foldl (· + ·) 0 +
    (d.steps.map (fun e => e.2.staged)).foldl (· + ·) 0

/-- Whether the region can take `n` bytes more. -/
def regionFits (d : Dev) (n : Nat) : Bool := decide (regionUsed d + n ≤ d.boot.opts.regionPages * pageSize)

end Sys2Proof.Machine
end

