-- ==== Sys2Proof/Machine/QpCtl.lean ====
section
/-! DEFINITION. The control descriptors of queue pairs (11_transport.md R378 to R384, R418): QP_CREATE, QP_CONNECT, QP_DESTROY,
QP_QUERY. -/
namespace Sys2Proof.Machine

def qpOf (p : Post) : Nat := dNat p 8 3

/-- A queue pair as QP_CREATE leaves it: IDLE, both counts 0. -/
def QpSt.fresh (part : PartId) (owner : Fn) (host : Option W64) (tow : Bool) : QpSt :=
  { state := .idle, part := part, owner := owner, ctxHost := host, towpath := tow, dev := 0, lport := 0xFF, keyEn := false, peer := 0
    tc := 0, ip := 0, mtu := 0, keySlot := 0, winInit := 0, rto := 0, retryMax := 0, ackEvery := 0, err := .ok, errDet := 0, ccount := 0
    acount := 0, ops := [], txPsn := 0, txMsn := 0, pkts := [], window := 0, winAck := 0, noHalve := none, retries := 0, rtoMul := 1
    backoff := false, rxPsn := 0, marked := [], rxMsn := 0, msgs := [], unacked := 0, ece := false, resident := false
    fetching := false, used := 0, waiting := [], cwaitAt := none, inj := none, redHeld := [], retx := 0, cwaits := 0, eces := 0 }

/-- The number as a function. -/
def fnId (n : Nat) : Fn := ⟨n % 64, Nat.mod_lt _ (by decide)⟩

/-- QP_CREATE (R379). -/
def qpCreateRule (p : Post) (d : Dev) : Res :=
  let f := poster d p
  let own := dNat p 17 1
  let host := dNat p 18 1
  let qn := qpOf p
  let n := dNat p 20 4
  let part := dNat p 16 1
  let tow := (dNat p 19 1).testBit 0
  if !dZero p 11 5 || !dZero p 24 8 || !dZero p 40 24 || decide (63 < own) || decide (1 < host) || decide (1 < dNat p 19 1) ||
      (host == 0 && !dZero p 32 8) || dNat p 32 8 % 256 != 0 || (f.val != 0 && own != f.val) || (tow && (f.val != 0 || own != 0)) ||
      decide (63 < part) || decide (65536 < n) then .plain .badDescriptor d
  else if n = 0 then .plain .ok d
  else if !qpInRange d (fnId own) qn n || d.qps.any (fun e => decide (qn ≤ e.1) && decide (e.1 < qn + n)) ||
      (getPart d part).state == .free || (getPart d part).owner != fnId own then .plain .badDescriptor d
  else if host == 0 && !regionFits d (256 * n) then .plain .quotaExceeded d
  else
    .plain .ok ((List.range n).foldl (fun d i => setQp d (qn + i)
      (QpSt.fresh (partId part) (fnId own) (if host = 1 then some (BitVec.ofNat 64 (dNat p 32 8 + 256 * i)) else none) tow)) d)

/-- QP_CREATE (R379). -/
def execQpCreate (p : Post) (s : State) : Host.Outcome State Fault Refusal :=
  answer s (perform 0x0480 p (qpCreateRule p) s.dev)

/-! ## QP_CONNECT -/

/-- The 64 bytes of a HELLO (Table 10.7). -/
def helloBytes (m : Hello) : List Byte :=
  leBytes 0 1 ++ leBytes 1 1 ++ leBytes (b2n m.seen) 1 ++ leBytes m.port.val 1 ++ leBytes m.dev.val 1 ++ leBytes m.pod.toNat 1 ++
    leBytes m.fwFamily.toNat 2 ++ leBytes m.members.toNat 8 ++ leBytes m.digest.toNat 32 ++ leBytes 0 16

/-- The HELLO that 64 bytes spell, if they do. -/
def helloDecode (b : List Byte) : Option Hello :=
  if leAt b 0 1 = 0 ∧ leAt b 1 1 = 1 then
    some { seen := (leAt b 2 1).testBit 0, port := ⟨leAt b 3 1 % 16, Nat.mod_lt _ (by decide)⟩, dev := devIx (leAt b 4 1)
           pod := BitVec.ofNat 8 (leAt b 5 1), fwFamily := BitVec.ofNat 16 (leAt b 6 2), members := BitVec.ofNat 64 (leAt b 8 8)
           digest := BitVec.ofNat 256 (leAt b 16 32) }
  else none

/-- A HELLO sent over a TOWPATH queue pair (R418). -/
def towHelloOut (d : Dev) (qn : Nat) : Dev :=
  match getQp d qn with
  | none => d
  | some q => pump (wantCtx (pushOp d qn (ownOp .tow (helloBytes (helloOf d 0)) q.dev.toNat false)) qn) qn

/-- Whether a GCM slot is one that a function's context may name (R107). -/
def gcmSlotOk (d : Dev) (f : Fn) (n : Nat) : Bool := (getKey d n).gcm && (getKey d n).owner == f

/-- The checks of QP_CONNECT's fields before the zero check (R380, R572). -/
def connectHead (d : Dev) (p : Post) : Bool :=
  let f := poster d p
  let other := decide (dNat p 16 2 / 64 ≠ selfPod d)
  let keyEn := (dNat p 19 1).testBit 0
  (match getQp d (qpOf p) with | some q => q.owner == f && qpInRange d f (qpOf p) 1 | none => false) &&
    dZero p 11 5 && decide (dNat p 16 2 < 2 ^ 14) && decide (dNat p 19 1 ≤ 1) && decide (dNat p 23 1 ≤ 7) && dZero p 56 8 &&
    (keyEn || dZero p 49 1) && (other || (dZero p 32 16 && dZero p 48 1)) && decide (dNat p 48 1 ≤ 2)

/-- The ranges and pairings of QP_CONNECT. -/
def connectRanges (d : Dev) (p : Post) (q : QpSt) : Bool :=
  let other := decide (dNat p 16 2 / 64 ≠ selfPod d)
  let keyEn := (dNat p 19 1).testBit 0
  let lp := dNat p 18 1
  let tc := dNat p 23 1
  let within (v lo hi : Nat) : Bool := decide (lo ≤ v) && decide (v ≤ hi)
  (if q.towpath then tc == 0 else within tc 1 7) && within (dNat p 50 2) 4 4096 && within (dNat p 52 2) 8 65535 &&
    within (dNat p 54 1) 1 15 && within (dNat p 55 1) 1 64 &&
    (if other then decide (lp < 16) && portMode d lp == 2 && lp / 8 == qpHalf (qpOf p) && keyEn && !dZero p 32 16 else lp == 0xFF) &&
    (!keyEn || gcmSlotOk d q.owner (dNat p 49 1))

/-- QP_CONNECT (R380). -/
def qpConnectRule (p : Post) (d : Dev) : Res :=
  if !connectHead d p then .plain .badDescriptor d
  else if dNat p 50 2 = 0 then .plain .badLength d
  else
    match getQp d (qpOf p) with
    | none => .plain .badDescriptor d
    | some q =>
      if !connectRanges d p q || !(q.state == .idle || q.state == .error || (q.state == .connected && q.ops.isEmpty)) then
        .plain .badDescriptor d
      else
        let q1 := { q with
          state := .connected, dev := BitVec.ofNat 14 (dNat p 16 2), lport := dNat p 18 1, keyEn := (dNat p 19 1).testBit 0
          peer := BitVec.ofNat 24 (dNat p 20 3), tc := BitVec.ofNat 3 (dNat p 23 1), txPsn := BitVec.ofNat 32 (dNat p 24 4)
          rxPsn := BitVec.ofNat 32 (dNat p 28 4), ip := BitVec.ofNat 128 (dNat p 32 16), mtu := dNat p 48 1
          keySlot := dNat p 49 1, winInit := dNat p 50 2, window := dNat p 50 2, rto := dNat p 52 2, retryMax := dNat p 54 1
          ackEvery := dNat p 55 1, txMsn := 0, rxMsn := 0, pkts := [], msgs := [], marked := [], winAck := 0, noHalve := none
          retries := 0, rtoMul := 1, backoff := false, unacked := 0, ece := false, waiting := [], ops := [], err := .ok, errDet := 0, inj := none, redHeld := [] }
        let d1 := setQp d (qpOf p) q1
        .plain .ok (if q.towpath then towHelloOut d1 (qpOf p) else d1)

/-- QP_CONNECT (R380). -/
def execQpConnect (p : Post) (s : State) : Host.Outcome State Fault Refusal :=
  answer s (perform 0x0481 p (qpConnectRule p) s.dev)

/-! ## QP_DESTROY and QP_QUERY -/

/-- Whether a composition link names a queue pair (R181). -/
def linkNames (d : Dev) (qn : Nat) : Bool := d.links.any (fun e => decide (e.2.qpBase ≤ qn) && decide (qn < e.2.qpBase + e.2.qpCount))

/-- One queue pair destroyed (R382): with nothing outstanding it becomes FREE now, else it drains. -/
def qpDestroyOne (d : Dev) (i : Nat) : Dev :=
  match getQp d i with
  | none => d
  | some q => if (headOp q).isNone then freeQp d i .cancelled else setQp d i { q with state := .draining }

/-- QP_DESTROY's rules (R382). -/
def qpDestroyRule (p : Post) (d : Dev) : Res :=
  let qn := qpOf p
  let n := dNat p 20 4
  let qs := (List.range (min n 65536)).map (fun i => qn + i)
  if !dZero p 11 9 || !dZero p 24 40 || decide (65536 < n) then .plain .badDescriptor d
  else if n = 0 then .plain .ok d
  else if !qpInRange d (poster d p) qn n || qs.any (fun i => (getQp d i).isNone || linkNames d i || towNames d i) then
    .plain .badDescriptor d
  else
    let d1 := qs.foldl qpDestroyOne d
    if qs.any (fun i => (getQp d1 i).isSome) then .later { d1 with qpDestroys := d1.qpDestroys ++ [(p, qn, n)] } else .plain .ok d1

/-- QP_DESTROY (R382). -/
def execQpDestroy (p : Post) (s : State) : Host.Outcome State Fault Refusal :=
  answer s (perform 0x0482 p (qpDestroyRule p) s.dev)

/-- STATE of Table 11.4. -/
def qstateCode : QState → Nat
  | .idle => 1 | .connected => 2 | .draining => 3 | .error => 4

/-- The record of Table 11.4. -/
def qpRecord (d : Dev) (qn : Nat) : List Byte :=
  match getQp d qn with
  | none => leBytes qn 3 ++ List.replicate 61 0
  | some q =>
    let una := (q.pkts.head?.map (fun s => s.pkt.hdr.psn)).getD q.txPsn
    leBytes qn 3 ++ leBytes (qstateCode q.state) 1 ++ leBytes (statusCode q.err).toNat 2 ++ leBytes (b2n q.resident) 1 ++ leBytes 0 1 ++
      leBytes q.ccount.toNat 8 ++ leBytes q.acount.toNat 8 ++ leBytes q.txPsn.toNat 4 ++ leBytes una.toNat 4 ++
      leBytes q.rxPsn.toNat 4 ++ leBytes q.window 2 ++ leBytes q.retries 2 ++ leBytes q.txMsn 7 ++ leBytes 0 1 ++
      leBytes q.retx.toNat 4 ++ leBytes q.cwaits.toNat 4 ++ leBytes q.eces.toNat 4 ++ leBytes 0 4

/-- QP_QUERY (R384). -/
def qpQueryRule (p : Post) (d : Dev) : Res :=
  if !dZero p 11 29 || !dZero p 48 16 || dNat p 40 8 % 64 != 0 || !qpInRange d (poster d p) (qpOf p) 1 then .plain .badDescriptor d
  else .plain .ok (hostWrite d (dNat p 40 8) (qpRecord d (qpOf p)))

/-- QP_QUERY (R384). -/
def execQpQuery (p : Post) (s : State) : Host.Outcome State Fault Refusal :=
  answer s (perform 0x0483 p (qpQueryRule p) s.dev)

end Sys2Proof.Machine
end

