-- ==== Sys2Proof/Machine/XptOps.lean ====
section
/-! DEFINITION. The operations of a queue pair (11_transport.md R394 to R405): PUT, GET, ATOMIC, SIGNAL and QP_WAIT as they are
posted, and the accesses they make at either end. -/
namespace Sys2Proof.Machine

/-! ## Accesses at the receiving end (R401) -/

/-- The first of `n` bytes from `a` that a peer may not reach with an access of a kind: BAD_DESCRIPTOR; else INTERNAL of bytes on a fenced
stack (Table 14.3). -/
def refusedAt (d : Dev) (x : PartSt) (kind a n : Nat) : Option (Status × Nat) :=
  ((pagesIn a n).find? (fun pg => match (if pg < 2 ^ 19 then tget x.maps pg else none) with
    | some m => !exportOk d m kind
    | none => true)).map (fun pg => (.badDescriptor, max a (pg * pageSize))) |>.or
  ((downAt d x a n).map (fun u => (.internal, u)))

/-- The uncorrectable lines that `n` bytes from a partition address meet, as partition address and device offset. -/
def linesHit (d : Dev) (x : PartSt) (a n : Nat) : List (Nat × Nat) :=
  (badSeen d x 1).filter (fun e => decide (a < e.1 + 64) && decide (e.1 < a + n))

/-- Bytes placed at a partition address: a part write of an uncorrectable line places nothing and answers the line (R333). -/
def placeAt (d : Dev) (x : PartSt) (a : Nat) (bs : List Byte) : Option Nat × Dev :=
  let hit := linesHit d x a bs.length
  match hit.find? (fun e => !(decide (a ≤ e.1) && decide (e.1 + 64 ≤ a + bs.length))) with
  | some e => (some e.1, postUncorrectable d (lineDetail 1 0 e.2))
  | none => (none, { tierWrite d x 1 a bs with hbmBad := d.hbmBad.filter (fun l => !hit.any (fun e => e.2 == l)) })

/-- The bytes at a partition address, or its first uncorrectable line. -/
def fetchAt (d : Dev) (x : PartSt) (a n : Nat) : Sum Nat (List Byte) × Dev :=
  match linesHit d x a n with
  | e :: _ => (.inl e.1, postUncorrectable d (lineDetail 1 0 e.2))
  | [] => (.inr (tierBytes d x [] 1 a n), d)

/-- A transport atomic at a partition address: the former value, or the status and DETAIL of its failure (R397). -/
def atomicOn (d : Dev) (x : PartSt) (a aop : Nat) (operand compare : W64) : Sum (Status × Nat) W64 × Dev :=
  if a % 8 != 0 || !aopOk aop then (.inl (.badDescriptor, a), d)
  else
    match refusedAt d x ckAtomic a 8, linesHit d x a 8, t1Offset x a with
    | some b, _, _ => (.inl b, d)
    | none, e :: _, _ => (.inl (.memUncorrectable, e.1), postUncorrectable d (lineDetail 1 0 e.2))
    | none, [], some o => let (v, d1) := atomicAt d o aop operand compare; (.inr v, d1)
    | none, [], none => (.inl (.badDescriptor, a), d)

/-! ## Fields and checks of an operation (Table 11.8) -/

def xFlags (p : Post) : Nat := dNat p 17 1
def xNotify (p : Post) : Bool := (xFlags p).testBit 0
def xTier (p : Post) : Nat := if (xFlags p).testBit 1 then 3 else 1
def xLen (p : Post) : Nat := dNat p 20 4
def xLocal (p : Post) : Nat := dNat p 24 8
def xRemote (p : Post) : Nat := dNat p 32 8
def xAop (p : Post) : Nat := dNat p 18 1

/-- Whether the reserved fields, the codes and the alignment of an operation are right. -/
def xFieldsOk (op : Nat) (p : Post) : Bool :=
  dZero p 11 5 && dZero p 62 2 && (match op with
    | 0x0610 => decide (xFlags p < 4) && dZero p 18 2 && dZero p 40 22
    | 0x0611 => (xFlags p == 0 || xFlags p == 2) && dZero p 18 2 && dZero p 40 22
    | 0x0612 => dZero p 17 1 && aopOk (xAop p) && dZero p 19 13 && xRemote p % 8 == 0 && (xAop p == 7 || dZero p 48 8) && dZero p 56 6
    | 0x0613 => dZero p 17 23 && dZero p 44 18
    | _ => dZero p 16 1 && decide (xFlags p < 3) && dZero p 18 1 && (xFlags p == 2 || dZero p 19 1) && dZero p 20 20 && dZero p 48 8)

/-- Whether the local range of a PUT or GET is one that the translation grants (R325). -/
def xLocalOk (d : Dev) (op : Nat) (p : Post) (x : PartSt) : Bool :=
  if op = 0x0610 then rangeOk d x (xTier p) (xLocal p) (xLen p) false true
  else if op = 0x0611 then rangeOk d x (xTier p) (xLocal p) (xLen p) true true
  else true

/-- The answer to an operation posted to a queue pair that takes none (R394, Table 11.3). -/
def xClosed (q : QpSt) (d : Dev) : Option Res :=
  match q.state with
  | .connected => none
  | .error => some (.done q.err q.errDet 0 d)
  | _ => some (.plain .badDescriptor d)

/-- The message that an operation sends. A PUT reads its source as it is posted. -/
def xMessage (d : Dev) (op : Nat) (p : Post) (x : PartSt) : XOp :=
  let base := { ownOp .data [] (xRemote p) false with post := some p }
  match op with
  | 0x0610 =>
    match badIn d x (xTier p) (xLocal p) (xLen p) with
    | b :: _ => { base with built := true, result := some (.memUncorrectable, b, 0) }
    | [] =>
      if xTier p = 1 ∧ (downAt d x (xLocal p) (xLen p)).isSome then
        { base with built := true, result := some (.internal, 0, 0) }
      else if xLen p = 0 then { base with built := true, result := some (.ok, 0, 0) }
      else { base with bytes := tierBytes d x [] (xTier p) (xLocal p) (xLen p), notify := xNotify p }
  | 0x0611 =>
    if xLen p = 0 then { base with built := true, result := some (.ok, 0, 0) }
    else { base with kind := .getReq, bytes := leBytes (xLocal p) 8 ++ leBytes (xLen p) 4 ++ leBytes 0 4 }
  | 0x0612 => { base with kind := .atomicReq, bytes := leBytes (dNat p 40 8) 8 ++ leBytes (dNat p 48 8) 8 ++ leBytes (xAop p) 1 ++ leBytes 0 7 }
  | _ => { base with kind := .signal, raddr := 0, bytes := leBytes (dNat p 40 4) 4 ++ leBytes 0 4 }

/-! ## A queue pair whose peer lies on this device (R380) -/

/-- ACOUNT of a queue pair raised; waits on it are decided by their own row. -/
def addAcount (d : Dev) (qn n : Nat) : Dev :=
  match getQp d qn with
  | none => d
  | some q => setQp d qn { q with acount := q.acount + BitVec.ofNat 64 n }

/-- The destination of a GET written: a partition address or a host address. -/
def placeLocal (d : Dev) (x : PartSt) (p : Post) (bs : List Byte) : Status × Nat × Dev :=
  if xTier p = 1 then
    match placeAt d x (xLocal p) bs with
    | (some a, d1) => (.memUncorrectable, detailOf x 1 a, d1)
    | (none, d1) => (.ok, 0, d1)
  else (.ok, 0, tierWrite d x 3 (xLocal p) bs)

/-- The effect of an operation between two queue pairs of one device: its status, DETAIL and former value. -/
def xHere (d : Dev) (op : Nat) (p : Post) (x y : PartSt) (peer : Nat) (o : XOp) : (Status × Nat × Nat) × Dev :=
  match o.result with
  | some r => (r, d)
  | none =>
    match op with
    | 0x0610 =>
      match refusedAt d y ckStore (xRemote p) o.bytes.length with
      | some a => ((a.1, a.2, 0), d)
      | none =>
        match placeAt d y (xRemote p) o.bytes with
        | (some a, d1) => ((.memUncorrectable, a, 0), d1)
        | (none, d1) => ((.ok, 0, 0), if o.notify then addAcount d1 peer 1 else d1)
    | 0x0611 =>
      match refusedAt d y ckLoad (xRemote p) (xLen p) with
      | some a => ((a.1, a.2, 0), d)
      | none =>
        match fetchAt d y (xRemote p) (xLen p) with
        | (.inl a, d1) => ((.memUncorrectable, a, 0), d1)
        | (.inr bs, d1) => let (st, det, d2) := placeLocal d1 x p bs; ((st, det, 0), d2)
    | 0x0612 =>
      match atomicOn d y (xRemote p) (xAop p) (BitVec.ofNat 64 (dNat p 40 8)) (BitVec.ofNat 64 (dNat p 48 8)) with
      | (.inl e, d1) => ((e.1, e.2, 0), d1)
      | (.inr v, d1) => ((.ok, 0, v.toNat), d1)
    | _ => ((.ok, 0, 0), addAcount d peer (dNat p 40 4))

/-- An operation of a queue pair whose peer lies on this device: it is performed at once at both ends. A peer that does not name
this queue pair answers nothing, and the retry limit passes (Table 11.3). -/
def sameDevice (d : Dev) (op : Nat) (p : Post) (qn : Nat) (q : QpSt) (o : XOp) : Dev :=
  let me := { q with ops := q.ops ++ [{ o with built := true, acked := true }] }
  match getQp d q.peer.toNat with
  | some y =>
    if (y.state == .connected || y.state == .draining) && y.dev == q.dev && y.peer.toNat == qn then
      let (r, d1) := xHere d op p (getPart d q.part.val) (getPart d y.part.val) q.peer.toNat o
      opDone d1 qn p r
    else qpError (setQp d qn me) qn .remoteTimeout q.txPsn.toNat
  | none => qpError (setQp d qn me) qn .remoteTimeout q.txPsn.toNat

/-! ## Posting -/

/-- The rules of PUT, GET, ATOMIC and SIGNAL (R383, R394 to R398). -/
def xptRule (op : Nat) (p : Post) (d : Dev) : Res :=
  let f := poster d p
  let qn := qpOf p
  if !xFieldsOk op p || !qpInRange d f qn 1 then .plain .badDescriptor d
  else
    match getQp d qn with
    | none => .plain .badDescriptor d
    | some q =>
      let x := getPart d q.part.val
      if q.owner != f || q.part.val != dNat p 16 1 || !xLocalOk d op p x then .plain .badDescriptor d
      else if decide (2 ^ 30 < xLen p) && (op == 0x0610 || op == 0x0611) then .plain .badLength d
      else
        match xClosed q d with
        | some r => r
        | none =>
          if 256 ≤ (q.ops.filter (fun o => o.post.isSome)).length then .wait .qpLimit d
          else if (q.keyEn && !keyUsable d (.line q.keySlot)) || decide (2 ^ 56 ≤ q.txMsn) then .plain .badDescriptor d
          else
            let o := xMessage d op p x
            let d0 := match o.result with
              | some (.memUncorrectable, b, _) => postUncorrectable d b
              | _ => d
            if q.dev.toNat = selfSys d then .later (sameDevice d0 op p qn q o)
            else .later (settleQp (pump (wantCtx (touchQp (pushOp d0 qn o) qn) qn) qn) qn)

/-- XPT_PUT (R395). -/
def execXptPut (p : Post) (s : State) : Host.Outcome State Fault Refusal := answer s (perform 0x0610 p (xptRule 0x0610 p) s.dev)

/-- XPT_GET (R396). -/
def execXptGet (p : Post) (s : State) : Host.Outcome State Fault Refusal := answer s (perform 0x0611 p (xptRule 0x0611 p) s.dev)

/-- XPT_ATOMIC (R397). -/
def execXptAtomic (p : Post) (s : State) : Host.Outcome State Fault Refusal := answer s (perform 0x0612 p (xptRule 0x0612 p) s.dev)

/-- XPT_SIGNAL (R398). -/
def execXptSignal (p : Post) (s : State) : Host.Outcome State Fault Refusal := answer s (perform 0x0613 p (xptRule 0x0613 p) s.dev)

/-! ## QP_WAIT (R403) -/

/-- The count that a wait names. -/
def waitCount (d : Dev) (f : Fn) (p : Post) : Nat :=
  if waitSource p = 2 then (getRing d f (dNat p 19 1)).done.toNat
  else
    match getQp d (waitQp p) with
    | none => 0
    | some q => if waitSource p = 0 then q.ccount.toNat else q.acount.toNat

/-- A wait that fails at once: its following descriptors are cancelled. -/
def waitFails (d : Dev) (p : Post) (st : Status) (detail : Nat) : Res :=
  match p.src with
  | .step .. => .done st detail 0 d
  | .ring f r idx => .done st detail 0 (setRing d f r { getRing d f r with skip := (idx + 1, idx + 1 + waitSkip p) })

/-- QP_WAIT's rules. -/
def qpWaitRule (p : Post) (d : Dev) : Res :=
  let f := poster d p
  if !xFieldsOk 0x0614 p || !qpInRange d f (waitQp p) 1 || (waitSource p == 2 && decide (ringCount f ≤ dNat p 19 1)) then
    .plain .badDescriptor d
  else
    let closed : Option Res := if waitSource p = 2 then none else
      match getQp d (waitQp p) with
      | none => some (.plain .badDescriptor d)
      | some q =>
        if q.owner != f || q.state == .draining then some (.plain .badDescriptor d)
        else if q.state == .error then some (waitFails d p q.err 0)
        else none
    match closed with
    | some r => r
    | none =>
      if dNat p 40 8 ≤ waitCount d f p then .plain .ok d
      else
        match p.src with
        | .step .. => .plain .badDescriptor d
        | .ring g r idx =>
          .later (setRing d g r { getRing d g r with qpWait := some ⟨p, idx⟩, stalls := .qpWait :: (getRing d g r).stalls })

/-- QP_WAIT (R403). -/
def execQpWait (p : Post) (s : State) : Host.Outcome State Fault Refusal := answer s (perform 0x0614 p (qpWaitRule p) s.dev)

/-- QP_WAIT_SATISFIED: the wait of a ring completes when its count has reached the target. -/
def execQpWaitSatisfied (fn : Fn) (ring : Nat) (s : State) : Host.Outcome State Fault Refusal :=
  let d := s.dev
  match (getRing d fn ring).qpWait with
  | none => answer s d
  | some w => answer s (if dNat w.post 40 8 ≤ waitCount d fn w.post then endWait d fn ring w .ok else d)

/-- QP_WAIT_TIMEOUT: TIMEOUT µs have passed; a TIMEOUT of 0 sets no bound. -/
def execQpWaitTimeout (fn : Fn) (ring : Nat) (s : State) : Host.Outcome State Fault Refusal :=
  let d := s.dev
  match (getRing d fn ring).qpWait with
  | none => answer s d
  | some w => answer s (if dNat w.post 56 4 = 0 then d else endWait d fn ring w .remoteTimeout)

end Sys2Proof.Machine
end

