-- ==== Sys2Proof/Machine/XptRx.lean ====
section
/-! DEFINITION. Packets received by a transport engine (11_transport.md R399 to R419): the bitmap and the release of messages, the
acknowledgements and what they end, the window, loss recovery, back-off, and the fetch of a context. -/
namespace Sys2Proof.Machine

/-! ## Packets sent back -/

/-- The runs of marked PSNs as offsets above the lowest missing one, START and END (R407). -/
def sackRuns : List Nat → List (Nat × Nat)
  | [] => []
  | a :: l =>
    match sackRuns l with
    | (s, e) :: t => if s = a + 1 then (a, e) :: t else (a, a + 1) :: (s, e) :: t
    | [] => [(a, a + 1)]

/-- The offsets of a list of PSNs from a PSN, rising. -/
def psnOffsets (base : W32) (l : List W32) : List Nat := (l.map (fun x => (x - base).toNat)).mergeSort (fun a b => decide (a ≤ b))

/-- An ACK (R407, R411): CACK, MSN_DONE, the four lowest runs. -/
def sendAck (d : Dev) (qn : Nat) : Dev :=
  match getQp d qn with
  | none => d
  | some q =>
    let runs := (sackRuns (psnOffsets q.rxPsn q.marked)).take 4
    let body := runs.flatMap (fun r =>
      leBytes (q.rxPsn + BitVec.ofNat 32 r.1).toNat 4 ++ leBytes (q.rxPsn + BitVec.ofNat 32 r.2).toNat 4)
    let pay := leBytes q.rxPsn.toNat 4 ++ leBytes q.rxMsn 7 ++ leBytes runs.length 1 ++ slice body 0 32 ++ leBytes 0 4
    let q1 := { q with unacked := 0, ece := false }
    emitPkt (setQp d qn q1) q1 qn ⟨.ack, { baseHdr d q qn with ece := q.ece }, pay⟩

/-- A MSG_NAK for a message (R402, R409). -/
def sendNak (d : Dev) (qn msn : Nat) (st : Status) (detail : Nat) (resend : Bool) : Dev :=
  match getQp d qn with
  | none => d
  | some q =>
    emitPkt d q qn ⟨.msgNak, { baseHdr d q qn with msn := BitVec.ofNat 56 msn, status := statusCode st },
      leBytes detail 8 ++ leBytes (b2n resend) 1 ++ leBytes 0 7⟩

/-- A message of the send stream that answers the peer. -/
def sendOwn (d : Dev) (qn : Nat) (o : XOp) : Dev := pump (pushOp d qn o) qn

/-! ## The release of a message (R400) -/

/-- The first outstanding GET of a queue pair. -/
def firstGet (q : QpSt) : Option XOp := q.ops.find? (fun o => o.kind == .getReq && o.post.isSome && o.result.isNone)

/-- The first outstanding ATOMIC without its answer. -/
def firstAtomic (q : QpSt) : Option XOp :=
  q.ops.find? (fun o => o.kind == .atomicReq && o.post.isSome && o.result.isNone && o.former.isNone)

/-- The result of an operation set. -/
def setResult (d : Dev) (qn : Nat) (o : XOp) (r : Status × Nat × Nat) : Dev :=
  match getQp d qn with
  | none => d
  | some q => setQp d qn { q with ops := q.ops.map (fun x => if x.msn = o.msn ∧ x.post = o.post then { x with result := some r } else x) }

/-- The bytes of a message in offset order. -/
def msgBytes (m : InMsg) : List Byte := ((m.got.mergeSort (fun a b => decide (a.1 ≤ b.1))).map (·.2)).flatten

/-- A HELLO over the towpath (R418): only checks 3 and 5 apply. -/
def towHello (d : Dev) (q : QpSt) (m : Hello) : Dev :=
  let pod := q.dev.toNat / 64
  let c := if m.fwFamily != d.boot.fwFamily then 3 else if m.digest != d.health.digest then 5 else 0
  if c = 0 then { d with towBad := d.towBad.filter (fun x => x != pod) }
  else raise { d with towBad := pod :: d.towBad.filter (fun x => x != pod) } 0x0103 (unitOf 0x0B (q.dev.toNat % 64)) c

/-- A towpath message at its far gateway (R417): a HELLO for this gateway, else a message delivered to its device on VC0, which
is discarded while the checks of the two pods fail. -/
def towRelease (d : Dev) (q : QpSt) (m : InMsg) : Dev :=
  let bs := msgBytes m
  let cls := leAt bs 0 1
  let dst := m.first.pkt.hdr.dstDev.toNat
  match cls, m.first.hello with
  | 0, some h => towHello d q h
  | 0, none => match helloDecode bs with
    | some h => towHello d q h
    | none => d
  | c, _ =>
    if d.towBad.contains (q.dev.toNat / 64) || decide (3 < c) || dst == selfSys d || decide (dst / 64 ≠ selfPod d) then d
    else send d (.tow m.first.pkt.hdr.dstDev c none bs)

/-- What a released message does, or the failure that its release meets. -/
def msgEffect (d : Dev) (qn : Nat) (q : QpSt) (m : InMsg) : Sum (Status × Nat) Dev :=
  let h := m.first.pkt.hdr
  let bs := msgBytes m
  let x := getPart d q.part.val
  let a := h.raddr.toNat
  match m.first.pkt.kind with
  | .data =>
    if h.rsp then
      match firstGet q with
      | some o => .inr (setResult d qn o (.ok, 0, 0))
      | none => .inr d
    else .inr (if h.notify then addAcount d qn 1 else d)
  | .getReq =>
    let n := leAt bs 8 4
    match refusedAt d x ckLoad a n with
    | some b => .inl b
    | none =>
      match fetchAt d x a n with
      | (.inl l, _) => .inl (.memUncorrectable, l)
      | (.inr data, d1) => .inr (sendOwn d1 qn (ownOp .data data (leAt bs 0 8) true))
  | .atomicReq =>
    match atomicOn d x a (leAt bs 16 1) (BitVec.ofNat 64 (leAt bs 0 8)) (BitVec.ofNat 64 (leAt bs 8 8)) with
    | (.inl e, _) => .inl e
    | (.inr v, d1) => .inr (sendOwn d1 qn (ownOp .atomicRsp (leBytes v.toNat 8) 0 false))
  | .atomicRsp =>
    match firstAtomic q with
    | none => .inr d
    | some o =>
      if h.status = 0 then
        let o1 := { o with former := some (leAt bs 0 8), result := if o.acked then some (.ok, 0, leAt bs 0 8) else none }
        .inr (setQp d qn { q with ops := q.ops.map (fun y => if y.msn = o.msn ∧ y.post = o.post then o1 else y) })
      else .inr (setResult d qn o (statusOf h.status, 0, 0))
  | .signal => .inr (addAcount d qn (leAt bs 0 4))
  | .tow => .inr (towRelease d q m)
  | _ => .inr d

/-- Whether every packet of a message has arrived. -/
def msgComplete (m : InMsg) : Bool :=
  m.last && decide (m.first.pkt.hdr.mlen.toNat ≤ (m.got.map (fun g => g.2.length)).foldl (· + ·) 0)

/-- The range of a message whose tag has failed twice: its contents are undefined (R116). -/
def tornRange (d : Dev) (q : QpSt) (m : InMsg) : Dev :=
  let h := m.first.pkt.hdr
  if m.first.pkt.kind == .data && m.fail.isNone then
    let torn := (List.range h.mlen.toNat).map (fun i => Config.tornByte m.msn (h.raddr.toNat + i))
    if h.rsp then
      match firstGet q with
      | some o => match o.post with
        | some p => (placeLocal d (getPart d q.part.val) p torn).2.2
        | none => d
      | none => d
    else (placeAt d (getPart d q.part.val) h.raddr.toNat torn).2
  else d

/-- One message released, or asked for again; `none` when the lowest is not complete. -/
def releaseOne (d : Dev) (qn : Nat) : Option Dev :=
  match getQp d qn with
  | none => none
  | some q =>
    match q.msgs.find? (fun m => m.msn == q.rxMsn) with
    | none => none
    | some m =>
      if !msgComplete m then none
      else
        let passed := { q with rxMsn := q.rxMsn + 1, msgs := q.msgs.filter (fun y => y.msn != m.msn) }
        if m.tagBad then
          if m.fails = 0 then
            let m1 := { m with got := [], last := false, tagBad := false, fails := 1 }
            some (sendNak (setQp d qn { q with msgs := q.msgs.map (fun y => if y.msn = m.msn then m1 else y) }) qn m.msn .internal 0 true)
          else
            let d1 := sendNak (tornRange (setQp d qn passed) q m) qn m.msn .internal 0 false
            some (if m.first.pkt.hdr.rsp then qpError d1 qn .internal 0 else d1)
        else
          let d1 := setQp d qn passed
          match m.fail with
          | some e => some (if m.first.pkt.hdr.rsp then
              (match firstGet q with
                | some o => sendNak (setResult d1 qn o (e.1, e.2, 0)) qn m.msn e.1 e.2 false
                | none => sendNak d1 qn m.msn e.1 e.2 false)
              else sendNak d1 qn m.msn e.1 e.2 false)
          | none =>
            match msgEffect d1 qn passed m with
            | .inl e => some (sendNak (if e.1 = .memUncorrectable then (fetchAt d1 (getPart d1 q.part.val) e.2 1).2 else d1)
                qn m.msn e.1 e.2 false)
            | .inr d2 => some d2

def releaseGo (qn : Nat) : Nat → Dev → Dev
  | 0, d => d
  | n + 1, d => match releaseOne d qn with
    | none => d
    | some d1 => releaseGo qn n d1

/-- Every message that may be released now. -/
def releaseMsgs (d : Dev) (qn : Nat) : Dev :=
  match getQp d qn with
  | none => d
  | some q => releaseGo qn q.msgs.length d

/-! ## The arrival of a message packet (R400, R401, R406) -/

/-- A packet's payload placed on arrival: data of the peer under R401, data that answers a GET in its destination. -/
def placePacket (d : Dev) (q : QpSt) (p : Packet) : Option (Status × Nat) × Dev :=
  let a := p.hdr.raddr.toNat + p.hdr.offset.toNat
  let x := getPart d q.part.val
  if p.kind != .data then (none, d)
  else if p.hdr.rsp then
    match firstGet q with
    | some o => match o.post with
      | some g =>
        if xTier g = 3 then (none, tierWrite d x 3 a p.payload)
        else if !rangeOk d x 1 a p.payload.length true true then (some (.badDescriptor, 0), d)
        else match placeAt d x a p.payload with
          | (some l, d1) => (some (.memUncorrectable, detailOf x 1 l), d1)
          | (none, d1) => (none, d1)
      | none => (none, d)
    | none => (none, d)
  else
    match refusedAt d x ckStore a p.payload.length with
    | some b => (some b, d)
    | none => match placeAt d x a p.payload with
      | (some l, d1) => (some (.memUncorrectable, l), d1)
      | (none, d1) => (none, d1)

/-- A packet joins its message. -/
def joinMsg (q : QpSt) (r : RxPkt) (fail : Option (Status × Nat)) : QpSt :=
  let h := r.pkt.hdr
  let bad := q.keyEn && h.last && !(r.tagOk && h.keyed)
  let add (m : InMsg) : InMsg := { m with
    first := if h.first then r else m.first, got := m.got ++ [(h.offset.toNat, r.pkt.payload)], last := m.last || h.last
    tagBad := m.tagBad || bad, fail := if m.fail.isSome then m.fail else fail }
  if q.msgs.any (fun m => m.msn == h.msn.toNat) then
    { q with msgs := q.msgs.map (fun m => if m.msn = h.msn.toNat then add m else m) }
  else { q with msgs := q.msgs ++ [add { msn := h.msn.toNat, first := r, got := [], last := false, tagBad := false, fails := 0, fail := none }] }

/-- The lowest PSN missing once the marked ones above it are passed. -/
def advancePsn : Nat → QpSt → QpSt
  | 0, q => q
  | n + 1, q => if q.marked.contains q.rxPsn then
      advancePsn n { q with rxPsn := q.rxPsn + 1, marked := q.marked.filter (fun x => x != q.rxPsn) }
    else q

/-- A message packet at a cached context. -/
def messageIn (d : Dev) (qn : Nat) (q0 : QpSt) (r : RxPkt) : Dev :=
  let q := { q0 with ece := q0.ece || r.ce }
  let psn := r.pkt.hdr.psn
  let off := (psn - q.rxPsn).toNat
  let stale := decide (2 ^ 31 ≤ off) || q.marked.contains psn
  if stale then sendAck (setQp d qn q) qn
  else if 4096 ≤ off then sendAck (xptAdd (setQp d qn q) 2 (qpHalf qn)) qn
  else
    let passed := decide (r.pkt.hdr.msn.toNat < q.rxMsn)
    let (fail, d1) := if passed then (none, d) else placePacket d q r.pkt
    let q1 := if passed then q else joinMsg q r fail
    let q2 := advancePsn (q1.marked.length + 1) { q1 with marked := psn :: q1.marked, unacked := q1.unacked + 1 }
    let gap := decide ((psn - q2.rxPsn).toNat < 2 ^ 31)
    let d2 := releaseMsgs (setQp d1 qn q2) qn
    settleQp (match getQp d2 qn with
      | none => d2
      | some q3 => if gap || decide (q3.ackEvery ≤ q3.unacked) then sendAck d2 qn else d2) qn

/-! ## Control packets (R408 to R410, R415) -/

/-- The window halved for an ECE or a loss (R410). -/
def halve (q : QpSt) (cack : W32) : QpSt :=
  let open_ := match q.noHalve with
    | none => true
    | some h => decide (0 < (cack - h).toNat) && decide ((cack - h).toNat < 2 ^ 31)
  if open_ then { q with window := max 4 (q.window / 2), winAck := 0, noHalve := some (q.txPsn - 1) } else q

/-- The window after `k` more packets have been acknowledged without an ECE or a loss. -/
def widen (q : QpSt) (k : Nat) : QpSt :=
  if q.window ≤ q.winAck + k then { q with window := min 4096 (q.window + 1), winAck := q.winAck + k - q.window }
  else { q with winAck := q.winAck + k }

/-- Whether a PSN lies in one of the SACK runs. -/
def inRuns (runs : List (W32 × W32)) (x : W32) : Bool := runs.any (fun r => decide ((x - r.1).toNat < (r.2 - r.1).toNat))

/-- A message whose MSN MSN_DONE has passed: a PUT, SIGNAL or answered ATOMIC has its result. -/
def msgAcked (done : Nat) (o : XOp) : XOp :=
  match o.msn with
  | none => o
  | some m =>
    if m < done then
      let r := if o.result.isSome then o.result else
        match o.kind with
        | .getReq => none
        | .atomicReq => o.former.map (fun v => (.ok, 0, v))
        | _ => some (.ok, 0, 0)
      { o with acked := o.built, result := if o.built then r else o.result }
    else o

/-- An ACK at the sender (R400, R408, R410). -/
def ackIn (d : Dev) (qn : Nat) (q : QpSt) (ece : Bool) (cack : W32) (done : Nat) (runs : List (W32 × W32)) : Dev :=
  let below (x : W32) : Bool := let o := (cack - x).toNat; decide (0 < o) && decide (o < 2 ^ 31)
  let k := (q.pkts.filter (fun s => below s.pkt.hdr.psn)).length
  let pkts := (q.pkts.filter (fun s => !below s.pkt.hdr.psn)).map (fun s => { s with sacked := s.sacked || inRuns runs s.pkt.hdr.psn })
  let q1 := { q with pkts := pkts, ops := q.ops.map (msgAcked done), eces := if ece && q.eces != 0xFFFFFFFF then q.eces + 1 else q.eces }
  let q2 := if k = 0 then q1 else { q1 with retries := 0, rtoMul := 1 }
  let higher (s : SentPkt) : Nat :=
    (pkts.filter (fun t => t.sacked && decide (0 < (t.pkt.hdr.psn - s.pkt.hdr.psn).toNat) &&
      decide ((t.pkt.hdr.psn - s.pkt.hdr.psn).toNat < 2 ^ 31))).length
  let lost := if q.backoff then [] else pkts.filter (fun s => !s.sacked && !s.again && decide (3 ≤ higher s))
  let q3 := { q2 with pkts := q2.pkts.map (fun s => if lost.contains s then { s with again := true } else s) }
  let q4 := if ece || !lost.isEmpty then halve q3 cack else widen q3 k
  let d1 := lost.foldl (fun d s => resendPkt d qn s.pkt.hdr.psn) (setQp d qn q4)
  pump (settleQp d1 qn) qn

/-- A MSG_NAK at the sender (R402, R409, Table 11.3). -/
def nakIn (d : Dev) (qn : Nat) (q : QpSt) (msn : Nat) (st : Status) (detail : Nat) (resend : Bool) : Dev :=
  match q.ops.find? (fun o => o.msn == some msn) with
  | none => d
  | some o =>
    let put (o1 : XOp) : Dev := setQp d qn { q with ops := q.ops.map (fun y => if y.msn = some msn then o1 else y) }
    if resend && !o.resent then pump (put { o with sent := 0, built := false, resent := true, acked := false }) qn
    else if resend || (o.resent && st == .internal) then qpError d qn .internal 0
    else if o.post.isSome then settleQp (put { o with result := some (st, detail, 0) }) qn
    else d

/-- A CONTEXT_WAIT at the sender (R415): back-off, and every unacknowledged packet from the named PSN is to be sent again. -/
def waitIn (d : Dev) (qn : Nat) (q : QpSt) (psn : W32) : Dev :=
  setQp d qn { q with
    backoff := true, cwaits := if q.cwaits = 0xFFFFFFFF then q.cwaits else q.cwaits + 1
    pkts := q.pkts.map (fun s => if !s.sacked && decide ((s.pkt.hdr.psn - psn).toNat < 2 ^ 31) then { s with held := true } else s) }

/-- A packet at a cached context. -/
def packetIn (d0 : Dev) (qn : Nat) (r : RxPkt) : Dev :=
  let d := touchQp d0 qn
  match getQp d qn with
  | none => d
  | some q =>
    let h := r.pkt.hdr
    let b := r.pkt.payload
    match r.pkt.kind with
    | .ack => ackIn d qn q h.ece (BitVec.ofNat 32 (leAt b 0 4)) (leAt b 4 7)
        ((List.range (min 4 (leAt b 11 1))).map (fun i => (BitVec.ofNat 32 (leAt b (12 + 8 * i) 4), BitVec.ofNat 32 (leAt b (16 + 8 * i) 4))))
    | .msgNak => nakIn d qn q h.msn.toNat (statusOf h.status) (leAt b 0 8) ((leAt b 8 1).testBit 0)
    | .contextWait => waitIn d qn q h.psn
    | _ => messageIn d qn q r

/-! ## Arrival, and the miss buffer (R389, R413, R414) -/

/-- Whether a packet names a queue pair that takes it and comes from that queue pair's peer. -/
def fromPeer (d : Dev) (h : PktHdr) : Option QpSt :=
  match getQp d h.dstQp.toNat with
  | none => none
  | some q => if (q.state == .connected || q.state == .draining) && q.dev == h.srcDev && q.peer == h.srcQp then some q else none

/-- A packet that finds no room in the miss buffer (R414). -/
def missFull (d : Dev) (qn : Nat) (q : QpSt) (r : RxPkt) : Dev :=
  let half := qpHalf qn
  let d1 := xptAdd d 2 half
  let fetches := (d.qps.filter (fun e => qpHalf e.1 == half && e.2.fetching)).length
  let backoff := min 64 (2 * ceilDiv (fetches + 1) 16)
  let quiet := match q.cwaitAt with
    | none => false
    | some (t, n) => decide ((d.tclk - t).toNat < 1000 * n)
  if quiet || !isMessage r.pkt.kind then d1
  else
    let q1 := { q with cwaitAt := some (d.tclk, backoff) }
    emitPkt (xptAdd (setQp d1 qn q1) 1 half) q1 qn
      ⟨.contextWait, { baseHdr d q qn with psn := r.pkt.hdr.psn, status := 0x0053 }, leBytes backoff 4 ++ leBytes 0 4⟩

/-- A packet that has reached the transport engine. -/
def rxPacket (d : Dev) (r : RxPkt) : Dev :=
  let qn := r.pkt.hdr.dstQp.toNat
  match fromPeer d r.pkt.hdr with
  | none => if r.pkt.hdr.srcDev.toNat / 64 = selfPod d then d else xptAdd d 2 (qpHalf qn)
  | some q =>
    let usable := !q.keyEn || keyUsable d (.line q.keySlot)
    if isMessage r.pkt.kind && !usable then xptAdd d 2 (qpHalf qn)
    else if q.resident then packetIn d qn r
    else
      let total : Nat := ((d.qps.filter (fun e => qpHalf e.1 == qpHalf qn)).map (fun e => e.2.waiting.length)).foldl (· + ·) 0
      if q.waiting.length < 64 && decide (total < 512) then wantCtx (setQp d qn { q with waiting := q.waiting ++ [r] }) qn
      else missFull d qn q r

/-- A packet as a row gives it. -/
def rowPacket (kind : PKind) (k : PktHdr) (bytes : List Byte) (ce tagOk : Bool) (hello : Option Hello) (s : State) :
    Host.Outcome State Fault Refusal := answer s (rxPacket s.dev ⟨⟨kind, k, bytes⟩, ce, tagOk, hello⟩)

/-- DATA. -/
def execData (k : PktHdr) (bytes : List Byte) (ce tagOk : Bool) (s : State) : Host.Outcome State Fault Refusal :=
  rowPacket .data k bytes ce tagOk none s

/-- GET_REQ. -/
def execGetReq (k : PktHdr) (dest : W64) (length : W32) (ce tagOk : Bool) (s : State) : Host.Outcome State Fault Refusal :=
  rowPacket .getReq k (leBytes dest.toNat 8 ++ leBytes length.toNat 4 ++ leBytes 0 4) ce tagOk none s

/-- ATOMIC_REQ. -/
def execAtomicReq (k : PktHdr) (operand compare : W64) (aop : BitVec 4) (ce tagOk : Bool) (s : State) :
    Host.Outcome State Fault Refusal :=
  rowPacket .atomicReq k (leBytes operand.toNat 8 ++ leBytes compare.toNat 8 ++ leBytes aop.toNat 1 ++ leBytes 0 7) ce tagOk none s

/-- ATOMIC_RSP of Table 11.6. -/
def execAtomicRspPacket (k : PktHdr) (former : W64) (ce tagOk : Bool) (s : State) : Host.Outcome State Fault Refusal :=
  rowPacket .atomicRsp k (leBytes former.toNat 8) ce tagOk none s

/-- SIGNAL. -/
def execSignal (k : PktHdr) (value : W32) (ce tagOk : Bool) (s : State) : Host.Outcome State Fault Refusal :=
  rowPacket .signal k (leBytes value.toNat 4 ++ leBytes 0 4) ce tagOk none s

/-- TOW: the class byte and the message. -/
def execTow (k : PktHdr) (msgClass : Nat) (body : Option Hello) (bytes : List Byte) (s : State) : Host.Outcome State Fault Refusal :=
  rowPacket .tow k (match body with
    | some m => helloBytes m
    | none => leBytes msgClass 1 ++ bytes.drop 1) false true body s

/-- ACK. -/
def execAck (k : PktHdr) (cack : W32) (msnDone : BitVec 56) (sacks : List (W32 × W32)) (s : State) : Host.Outcome State Fault Refusal :=
  let runs := sacks.take 4
  rowPacket .ack k (leBytes cack.toNat 4 ++ leBytes msnDone.toNat 7 ++ leBytes runs.length 1 ++
    slice (runs.flatMap (fun r => leBytes r.1.toNat 4 ++ leBytes r.2.toNat 4)) 0 32 ++ leBytes 0 4) false true none s

/-- MSG_NAK. -/
def execMsgNak (k : PktHdr) (detail : W64) (resend : Bool) (s : State) : Host.Outcome State Fault Refusal :=
  rowPacket .msgNak k (leBytes detail.toNat 8 ++ leBytes (b2n resend) 1 ++ leBytes 0 7) false true none s

/-- CONTEXT_WAIT. -/
def execContextWait (k : PktHdr) (backoff : W32) (s : State) : Host.Outcome State Fault Refusal :=
  rowPacket .contextWait k (leBytes backoff.toNat 4 ++ leBytes 0 4) false true none s

/-! ## Timers and the context fetch -/

/-- BACKOFF_END (R415): the held packets are sent again in order, and sending goes on. -/
def execBackoffEnd (qp : BitVec 24) (s : State) : Host.Outcome State Fault Refusal :=
  let d := s.dev
  let qn := qp.toNat
  match getQp d qn with
  | none => answer s d
  | some q =>
    if !q.backoff then answer s d
    else
      let d1 := setQp d qn { q with backoff := false }
      answer s (pump ((q.pkts.filter (·.held)).foldl (fun d p => resendPkt d qn p.pkt.hdr.psn) d1) qn)

/-- ACK_TIMER (R407). -/
def execAckTimer (qp : BitVec 24) (s : State) : Host.Outcome State Fault Refusal :=
  let d := s.dev
  match getQp d qp.toNat with
  | none => answer s d
  | some q => answer s (if 0 < q.unacked then sendAck d qp.toNat else d)

/-- RTO_EXPIRY (R408): the oldest packet is sent again, or the retry limit has passed. -/
def execRtoExpiry (qp : BitVec 24) (s : State) : Host.Outcome State Fault Refusal :=
  let d := s.dev
  let qn := qp.toNat
  match getQp d qn with
  | none => answer s d
  | some q =>
    match q.pkts with
    | [] => answer s d
    | p :: _ =>
      if q.backoff || q.redHeld.contains p.pkt.hdr.psn then answer s d
      else if q.retryMax < q.retries + 1 then answer s (qpError d qn .remoteTimeout p.pkt.hdr.psn.toNat)
      else answer s (resendPkt (setQp d qn { q with retries := q.retries + 1, rtoMul := min 64 (2 * q.rtoMul) }) qn p.pkt.hdr.psn)

/-- CONTEXT_FETCH_DONE (R412, R413): the context is installed when there is room for it, then the packets that waited are taken in
their order and waiting operations are sent. -/
def execContextFetchDone (qp : BitVec 24) (s : State) : Host.Outcome State Fault Refusal :=
  let d := s.dev
  let qn := qp.toNat
  match getQp d qn with
  | none => answer s d
  | some q =>
    if !q.fetching then answer s d
    else
      match makeRoom d (qpHalf qn) with
      | none => answer s d
      | some d1 =>
        let d2 := touchQp (setQp d1 qn { classifyQp d1 { q with inj := none } qn with resident := true, fetching := false, waiting := [] }) qn
        answer s (pump (q.waiting.foldl (fun d r => packetIn d qn r) d2) qn)

end Sys2Proof.Machine
end

