-- ==== Sys2Proof/Machine/Sluice.lean ====
section
/-! DEFINITION. The sluice (12_sluice.md): CLASSIFY_INSERT and CLASSIFY_REMOVE, the policers' descriptors and credits, LOCATE_SCAN, the
CAM's configuration and shadow check, and the frames of Ethernet-mode ports. -/
namespace Sys2Proof.Machine

/-! ## Moves of entries (R432, R433) -/

/-- The entries of segment `s` at a pitch. -/
def segOf (p s : Nat) (l : List ClsEntry) : List ClsEntry := l.filter (fun e => e.index / p == s)

/-- The list with the entries of segment `s` replaced, in index order. -/
def segPut (p s : Nat) (l es : List ClsEntry) : List ClsEntry :=
  l.filter (fun e => decide (e.index / p < s)) ++ es ++ l.filter (fun e => decide (s < e.index / p))

/-- An entry put into a segment after its first `rank` entries, the entries toward the nearest free index moved by one: the segment
and the moves. -/
def segInsert (p base : Nat) (es : List ClsEntry) (rank : Nat) (e : ClsEntry) : List ClsEntry × Nat :=
  let c := match rank with
    | 0 => base
    | r + 1 => ((es[r]?).map (fun x => x.index + 1)).getD base
  let free (i : Nat) : Bool := !es.any (fun x => x.index == i)
  let up := (List.range (base + p - c)).map (fun i => c + i) |>.find? free
  let down := ((List.range (c - base)).map (fun i => c - 1 - i)).find? free
  let goUp (u : Nat) : List ClsEntry × Nat :=
    (es.take rank ++ [{ e with index := c }] ++
      (es.drop rank).map (fun x => if x.index < u then { x with index := x.index + 1 } else x), u - c)
  let goDown (n : Nat) : List ClsEntry × Nat :=
    ((es.take rank).map (fun x => if n < x.index then { x with index := x.index - 1 } else x) ++
      [{ e with index := c - 1 }] ++ es.drop rank, c - 1 - n)
  match up, down with
  | some u, some n => if u - c ≤ c - 1 - n then goUp u else goDown n
  | some u, none => goUp u
  | none, some n => goDown n
  | none, none => (es, 0)

/-- Segment `s` passes its last entry up to the next one; segments from `s` to `s + n − 1` in turn, the highest first. -/
def passUp (p : Nat) : Nat → Nat → List ClsEntry → List ClsEntry × Nat
  | _, 0, l => (l, 0)
  | s, n + 1, l =>
    let t := s + n
    match (segOf p t l).getLast? with
    | none => (l, 0)
    | some e =>
      let l1 := segPut p t l (segOf p t l).dropLast
      let (es, m) := segInsert p ((t + 1) * p) (segOf p (t + 1) l1) 0 e
      let (l2, m2) := passUp p s n (segPut p (t + 1) l1 es)
      (l2, m + 1 + m2)

/-- The first entries of the `n` segments above `t` passed down, the lowest first. -/
def passDown (p : Nat) : Nat → Nat → List ClsEntry → List ClsEntry × Nat
  | _, 0, l => (l, 0)
  | t, n + 1, l =>
    match segOf p (t + 1) l with
    | [] => (l, 0)
    | e :: rest =>
      let l1 := segPut p (t + 1) l rest
      let here := segOf p t l1
      let (es, m) := segInsert p (t * p) here here.length e
      let (l2, m2) := passDown p (t + 1) n (segPut p t l1 es)
      (l2, m + 1 + m2)

/-- The nearest segment to `s` that has room, the higher one on a tie. -/
def nearestRoom (p segs s : Nat) (l : List ClsEntry) : Option Nat :=
  let room (t : Nat) : Bool := decide (t < segs) && decide ((segOf p t l).length + 1 < p)
  (List.range segs).findSome? (fun k => if room (s + k) then some (s + k) else if decide (k ≤ s) && room (s - k) then some (s - k) else none)

/-- An entry inserted in a half (R432, R433): the entries and the moves. The segment that holds the place is that of the entry
before it, DESIGN CHOICE (log 42). -/
def camInsert (p segs : Nat) (l : List ClsEntry) (e : ClsEntry) : List ClsEntry × Nat :=
  let before := l.filter (fun x => decide (x.priority ≤ e.priority))
  let s := (before.getLast?.map (fun x => x.index / p)).getD 0
  let rank := (segOf p s before).length
  match nearestRoom p segs s l with
  | none => (l, 0)
  | some t =>
    if t = s then
      let (es, m) := segInsert p (s * p) (segOf p s l) rank e
      (segPut p s l es, m)
    else if s < t ∧ rank = (segOf p s l).length then
      let (l1, m1) := passUp p (s + 1) (t - s - 1) l
      let (es, m) := segInsert p ((s + 1) * p) (segOf p (s + 1) l1) 0 e
      (segPut p (s + 1) l1 es, m1 + m)
    else if s < t then
      let (l1, m1) := passUp p s (t - s) l
      let (es, m) := segInsert p (s * p) (segOf p s l1) rank e
      (segPut p s l1 es, m1 + m)
    else
      let (l1, m1) := passDown p t (s - t) l
      let (es, m) := segInsert p (s * p) (segOf p s l1) (rank - 1) e
      (segPut p s l1 es, m1 + m)

/-! ## CLASSIFY_INSERT and CLASSIFY_REMOVE -/

/-- The queue pairs of a half classified anew at their next send (R430). -/
def reclassify (d : Dev) (h : Nat) : Dev :=
  { d with qps := d.qps.map (fun e : Nat × QpSt => if qpHalf e.1 = h then (e.1, { e.2 with inj := none }) else e) }

def clsId (p : Post) : Nat := dNat p 20 4
def clsHalves (p : Post) : List Nat := maskList 2 (dNat p 16 1)
def holdsEntry (c : CamHalf) (i : Nat) : Bool := c.cls.any (fun e => e.id == i)

/-- The key bits that no entry may compare: the reserved fields of Table 12.4. -/
def keyReserved : BitVec 320 :=
  BitVec.ofNat 320 (2 ^ 79 + (2 ^ 20 - 1) * 2 ^ 140 + (2 ^ 32 - 1) * 2 ^ 288)

/-- Whether an entry record may be inserted in a half of the given width (R431). -/
def entryOk (d : Dev) (h : Nat) (arg : List Byte) : Bool :=
  let v := BitVec.ofNat 320 (leAt arg 0 40)
  let care := BitVec.ofNat 320 (leAt arg 40 40)
  let r := BitVec.ofNat 64 (leAt arg 80 8)
  (v &&& ~~~care) == 0 && decide (care.toNat < 2 ^ (80 * camWidth d h)) && (care &&& keyReserved) == 0 && resColour r != 3 &&
    bits r.toNat 23 41 == 0 && zeroAt arg 88 8 &&
    (match resPolicer r with | none => true | some n => (getPolicer d n).owner.val == resTenant r)

/-- The entry that a CLASSIFY_INSERT describes (Table 12.5, Table 12.7). -/
def clsEntry (p : Post) : ClsEntry :=
  { index := 0, id := clsId p, priority := dNat p 24 4, value := BitVec.ofNat 320 (leAt p.arg 0 40)
    care := BitVec.ofNat 320 (leAt p.arg 40 40), result := BitVec.ofNat 64 (leAt p.arg 80 8) }

/-- An entry put into half `h`, its moves added to the half's 32 bits of the count (R431, R432, R434). -/
def putEntry (e : ClsEntry) (acc : Dev × Nat) (h : Nat) : Dev × Nat :=
  let c := getCam acc.1 h
  let (l, m) := camInsert (camPitch acc.1 h) (clsSegs acc.1 h) c.cls e
  (reclassify (setCam acc.1 h { c with cls := l }) h, acc.2 + m * 2 ^ (32 * h))

/-- CLASSIFY_INSERT (R431). -/
def classifyInsertRule (p : Post) (d : Dev) : Res :=
  let hs := clsHalves p
  if (poster d p).val != 0 || !dZero p 8 8 || decide (3 < dNat p 16 1) || !dZero p 17 3 || decide (2 ^ 17 ≤ clsId p) || !dZero p 28 4 ||
      dNat p 32 8 % 64 != 0 || !dZero p 40 24 || hs.isEmpty ||
      hs.any (fun h => holdsEntry (getCam d h) (clsId p) || !entryOk d h p.arg) then .plain .badDescriptor d
  else if hs.any (fun h => decide (clsCapacity d h ≤ (getCam d h).cls.length)) then .plain .quotaExceeded d
  else
    let r := hs.foldl (putEntry (clsEntry p)) (d, 0)
    .done .ok r.2 0 r.1

/-- CLASSIFY_INSERT (R431). -/
def execClassifyInsert (p : Post) (s : State) : Host.Outcome State Fault Refusal :=
  answer s (perform 0x0490 p (classifyInsertRule p) s.dev)

/-- Entry `i` taken out of half `h` (R435). -/
def dropEntry (i : Nat) (d : Dev) (h : Nat) : Dev :=
  let c := getCam d h
  reclassify (setCam d h { c with cls := c.cls.filter (fun e => e.id != i) }) h

/-- CLASSIFY_REMOVE (R435). -/
def classifyRemoveRule (p : Post) (d : Dev) : Res :=
  let hs := clsHalves p
  if (poster d p).val != 0 || !dZero p 8 8 || decide (3 < dNat p 16 1) || !dZero p 17 3 || decide (2 ^ 17 ≤ clsId p) || !dZero p 24 40 ||
      hs.isEmpty || hs.any (fun h => !holdsEntry (getCam d h) (clsId p)) then .plain .badDescriptor d
  else
    .plain .ok (hs.foldl (dropEntry (clsId p)) d)

/-- CLASSIFY_REMOVE (R435). -/
def execClassifyRemove (p : Post) (s : State) : Host.Outcome State Fault Refusal :=
  answer s (perform 0x0491 p (classifyRemoveRule p) s.dev)

/-! ## POLICER_SET, POLICER_QUERY and the credit -/

/-- POLICER_SET (R439, R440). -/
def policerSetRule (p : Post) (d : Dev) : Res :=
  let f := poster d p
  let n := dNat p 16 2
  let own := dNat p 18 1
  let m := dNat p 19 1
  let x := getPolicer d n
  let mode := m % 4
  let half := bits m 5 1
  if !dZero p 8 8 || decide (1023 < n) || decide (63 < own) || mode == 3 || bits m 3 2 == 3 || decide (64 ≤ m) || !dZero p 36 28 ||
      (f.val != 0 && (own != f.val || x.owner != f || half != bits x.mode.toNat 5 1)) ||
      (mode == 0 && !dZero p 20 16) || (mode == 1 && !dZero p 24 4) then .plain .badDescriptor d
  else if mode != 0 && (dNat p 28 4 == 0 || dNat p 32 4 == 0) then .plain .badLength d
  else if mode != 0 && (dNat p 20 4 == 0 || decide (2 ^ 24 < dNat p 28 4) || decide (2 ^ 24 < dNat p 32 4) ||
      (mode == 2 && decide (dNat p 24 4 < dNat p 20 4))) then .plain .badDescriptor d
  else
    .plain .ok (setPolicer d n { x with
      owner := fnId own, mode := BitVec.ofNat 8 m, cir := dNat p 20 4, pir := dNat p 24 4, cbs := dNat p 28 4, xbs := dNat p 32 4
      tc := dNat p 28 4 * packetUnits, tx := dNat p 32 4 * packetUnits, remC := 0, remX := 0 })

/-- POLICER_SET (R439). -/
def execPolicerSet (p : Post) (s : State) : Host.Outcome State Fault Refusal :=
  answer s (perform 0x0492 p (policerSetRule p) s.dev)

/-- The record of Table 12.10. -/
def policerRecord (x : Policer) : List Byte :=
  leBytes x.green.toNat 8 ++ leBytes x.yellow.toNat 8 ++ leBytes x.red.toNat 8 ++ leBytes (x.tc / packetUnits) 4 ++
    leBytes (x.tx / packetUnits) 4 ++ [x.mode] ++ leBytes x.owner.val 1 ++ List.replicate 30 0

/-- POLICER_QUERY (R445). -/
def policerQueryRule (p : Post) (d : Dev) : Res :=
  let f := poster d p
  let n := dNat p 16 2
  if !dZero p 8 8 || decide (1023 < n) || !dZero p 18 22 || !dZero p 48 16 || dNat p 40 8 % 64 != 0 ||
      (f.val != 0 && (getPolicer d n).owner != f) then .plain .badDescriptor d
  else .plain .ok (hostWrite d (dNat p 40 8) (policerRecord (getPolicer d n)))

/-- POLICER_QUERY (R445). -/
def execPolicerQuery (p : Post) (s : State) : Host.Outcome State Fault Refusal :=
  answer s (perform 0x0493 p (policerQueryRule p) s.dev)

/-- Held packets of a queue pair coloured again (R443). -/
def offerAgain (d : Dev) (qn : Nat) : Dev :=
  match getQp d qn with
  | none => d
  | some q => pump (q.redHeld.foldr (fun psn d => resendPkt d qn psn) d) qn

/-- POLICER_CREDIT_TICK (R440, R443). -/
def execPolicerCreditTick (s : State) : Host.Outcome State Fault Refusal :=
  let d : Dev := { s.dev with policers := s.dev.policers.map (fun e => (e.1, credited e.2)) }
  answer s ((s.dev.qps.map (·.1)).foldl offerAgain d)

/-! ## The CAM's own commands -/

/-- Whether a LOCATE entry's request has the origin function and device that the SELECT_MASK asks for (Table 12.6). -/
def locHit (d : Dev) (sm fn dev : Nat) (e : Nat × W64) : Bool :=
  match tget d.homes e.2.toNat with
  | none => false
  | some h => (!sm.testBit 0 || h.originFn.val == fn) && (!sm.testBit 1 || h.originDev.toNat % 64 == dev)

/-- LOCATE_SCAN (R427). -/
def locateScanRule (p : Post) (d : Dev) : Res :=
  let sm := dNat p 18 1
  let n := dNat p 20 4
  if (poster d p).val != 0 || !dZero p 8 8 || decide (63 < dNat p 16 1) || decide (63 < dNat p 17 1) || decide (3 < sm) || !dZero p 19 1 ||
      !dZero p 24 8 || dNat p 32 8 % 8 != 0 || !dZero p 40 24 || n % 8 != 0 then .plain .badDescriptor d
  else if n = 0 then .plain .ok d
  else
    let found := (d.camW.loc ++ d.camE.loc).filter (locHit d sm (dNat p 16 1) (dNat p 17 1))
    .done .ok found.length 0 (hostWrite d (dNat p 32 8) ((found.take (n / 8)).flatMap (fun e => leBytes e.2.toNat 8)))

/-- LOCATE_SCAN (R427). -/
def execLocateScan (p : Post) (s : State) : Host.Outcome State Fault Refusal :=
  answer s (perform 0x0494 p (locateScanRule p) s.dev)

/-- A write of CAM_CFG_h (R422). -/
def camCfgPut (d : Dev) (h : Nat) (mask val : BitVec 128) : Dev :=
  let old := cfgGet d (.camCfg h)
  let v := fieldsWritten d (.camCfg h) mask val
  let loc := bits v.toNat 0 5
  let w := bits v.toNat 5 2
  if v = old ∨ w = 3 ∨ 4 < bits v.toNat 7 3 ∨ loc = 0 ∨ 16 < loc ∨ loc % 2 ^ w ≠ 0 ∨
      (loc ≠ bits old.toNat 0 5 ∧ !(getCam d h).loc.isEmpty) then d
  else reclassify (setCam (cfgSet d (.camCfg h) v) h { getCam d h with cls := [] }) h

/-- The number of a half: 0 W, 1 E. -/
def halfNo : Half → Nat
  | .w => 0
  | .e => 1

/-- CAM_CFG_WRITE (R422). -/
def execCamCfgWrite (h : Half) (value : W32) (s : State) : Host.Outcome State Fault Refusal :=
  answer s (if barOpen s.dev 0 then camCfgPut s.dev (halfNo h) (maskOf 0 32) (value.setWidth 128) else s.dev)

/-- The spare rows of a CAM bank in use. -/
def camSpared (d : Dev) (bank : Nat) : List Nat := tgetD d.health.camRows bank []

/-- A CAM row moved to a spare row of its bank, when one of its 64 remains (R497). -/
def substCamRow (d : Dev) (bank row : Nat) : Option (Dev × Nat) :=
  let used := camSpared d bank
  if 64 ≤ used.length then none
  else some ({ d with health := { d.health with camRows := tset d.health.camRows bank (used ++ [row]) } }, used.length)

/-- CAM_SHADOW_CHECK (R424, R498): an entry that differs from its shadow is rewritten from it. -/
def execCamShadowCheck (h : Half) (locate : Bool) (row : Nat) (mismatch : Bool) (s : State) : Host.Outcome State Fault Refusal :=
  let d := s.dev
  if !mismatch then answer s d
  else
    let bank := halfNo h * 16 + (if locate then row / 8192 else locBanks d (halfNo h) + camWidth d (halfNo h) * (row / 8192))
    let d1 := raise (charge d partDevice wVote 1) 0x0308 (unitOf 0x0A bank) (row % 8192)
    answer s (if camAuto d then
      match substCamRow d1 bank (row % 8192) with
      | some (d2, n) => postSpared d2 (unitOf 0x0A bank) n
      | none => d1
      else d1)

/-! ## Frames of an Ethernet-mode port (R389, R429, R437) -/

/-- The MAC, IPv6 and UDP checks. -/
def frameOk (d : Dev) (n : Nat) (f : Frame) : Bool :=
  f.fcsOk && f.plain && f.csumOk && f.dstMac.toNat == cfgField d (.xptMac n) 0 48 && f.dstIp == cfgGet d (.xptIp n) &&
    f.dport.toNat == cfgField d .xptCtl 0 16 && (f.vid.isNone || cfgField d (.xptMac n) 60 1 == 1)

/-- FRAME_RECEIVE (R389, R437). -/
def execFrameReceive (n : PortNo) (f : Frame) (s : State) : Host.Outcome State Fault Refusal :=
  let d := s.dev
  let P := getPort d n.val
  if portMode d n.val != 2 || P.link != .up then answer s d
  else if !frameOk d n.val f then answer s (xptAdd d 2 (n.val / 8))
  else if 256 ≤ P.frames.length then answer s (countSluice d n.val true)
  else answer s (setPort d n.val { P with frames := P.frames ++ [f] })

/-- The key of a frame (Table 12.4). -/
def frameKey (n : Nat) (f : Frame) : BitVec 320 :=
  let h := f.packet.hdr
  camKey n 0 0 h.tc.toNat f.dscp.toNat (b2n (f.ecn == 3)) (pkindCode f.packet.kind) h.dstQp.toNat h.srcDev.toNat
    ((f.vid.map (·.toNat)).getD 0) h.srcQp.toNat f.sport.toNat f.flow.toNat f.srcIp.toNat

/-- A frame that the sluice has passed, at its transport engine (R389). -/
def frameDeliver (d : Dev) (f : Frame) (ce : Bool) : Dev :=
  let r : RxPkt := ⟨f.packet, ce, Config.frameTagOk f.packet, none⟩
  match fromPeer d f.packet.hdr with
  | none => xptAdd d 2 (qpHalf f.packet.hdr.dstQp.toNat)
  | some q => if q.ip == f.srcIp && decide (q.dev.toNat / 64 ≠ selfPod d) then rxPacket d r
    else xptAdd d 2 (qpHalf f.packet.hdr.dstQp.toNat)

/-- The treatment of a classified frame: DISCARD, its policer with its colour, the transport engine (R436, R441, R442, R444). -/
def frameJudge (d : Dev) (n : Nat) (f : Frame) (discard : Bool) (pol : Option Nat) (pre : Nat) : Dev :=
  let ce := f.ecn == 3
  if discard then countSluice d n false
  else
    match (if isMessage f.packet.kind && f.packet.kind != .tow then pol else none) with
    | none => frameDeliver d f ce
    | some k =>
      let (c, x) := colour (getPolicer d k) pre
      let d1 := setPolicer d k (countColour x c)
      if c = 2 ∨ (c = 1 ∧ yact x = 2) then countSluice d1 n false
      else frameDeliver d1 f (ce || (c == 1 && yact x == 1 && f.ecn != 0))

/-- FRAME_CLASSIFY: the frame at the head of a port's classification queue. -/
def execFrameClassify (n : PortNo) (s : State) : Host.Outcome State Fault Refusal :=
  let d := s.dev
  let P := getPort d n.val
  match P.frames with
  | [] => answer s d
  | f :: rest =>
    let d1 := setPort d n.val { P with frames := rest }
    match camSearch (getCam d (n.val / 8)) (frameKey n.val f) with
    | some r => answer s (frameJudge d1 n.val f (resDiscard r) (resPolicer r) (resColour r))
    | none =>
      let c := cfgGet d (.sluDefault n.val)
      answer s (frameJudge d1 n.val f (c.getLsbD 0) (if c.getLsbD 11 then some (bits c.toNat 1 10) else none) 0)

end Sys2Proof.Machine
end

