-- ==== Sys2Proof/Machine/Memory.lean ====
section
/-! DEFINITION. Mappings, pool mode, the heap key and the dredge (09_memory.md R319 to R338). -/
namespace Sys2Proof.Machine

/-! ## MEM_MAP and MEM_UNMAP (Table 9.7) -/

def mmTier (p : Post) : Nat := dNat p 17 1
def mmKey (p : Post) : Nat := dNat p 18 1
def mmFlags (p : Post) : Nat := dNat p 19 1
def mmCount (p : Post) : Nat := dNat p 20 4
def mmSlot (p : Post) : Nat := dNat p 24 1
def mmPas (p : Post) : Nat := dNat p 32 8
def mmTarget (p : Post) : Nat := dNat p 40 8
def mmLowest (p : Post) : Bool := mmTarget p == 2 ^ 64 - 1

/-- The first check of MEM_MAP (R324). -/
def mapHead (d : Dev) (p : Post) : Bool :=
  let t := mmTier p
  (poster d p).val == 0 && dZero p 8 8 && decide (dNat p 16 1 < 64) && decide (1 ≤ t) && decide (t ≤ 3) && decide (mmKey p ≤ 2) &&
    (t != 2 || mmKey p == 0) && decide (mmFlags p < (if t = 1 then 4 else 2)) && decide (mmCount p ≤ 65536) &&
    (mmKey p != 0 || mmSlot p == 0) && dZero p 25 7 && (if t = 1 then mmPas p % pageSize == 0 && decide (mmPas p < 2 ^ 40) else mmPas p == 0) &&
    ((t == 1 && mmLowest p) || mmTarget p % pageSize == 0) && (t != 2 || decide (mmTarget p < 2 ^ 46)) && dZero p 48 16

/-- Whether a slot may be named as an XTS slot by a function's page or heap (R107). -/
def xtsSlotOk (d : Dev) (f : Fn) (n : Nat) : Bool := !(getKey d n).gcm && (getKey d n).owner == f

/-- The pages a descriptor names: partition pages in T1, else pages of its target. -/
def mmPages (base n : Nat) : List Nat := (List.range n).map (fun i => base / pageSize + i)

/-- The third check of MEM_MAP. -/
def mapState (d : Dev) (p : Post) (x : PartSt) : Bool :=
  let n := mmCount p
  x.state != .free && (mmKey p == 0 || xtsSlotOk d x.owner (mmSlot p)) && (match mmTier p with
    | 1 => (mmPages (mmPas p) n).all (fun pg => decide (pg < 2 ^ 19) && (tget x.maps pg).isNone) &&
        (mmLowest p || (mmPages (mmTarget p) n).all (pageFree d))
    | 2 => x.t2En && (mmPages (mmTarget p) n).all (fun pg => (tget x.grants2 pg).isNone && podDev (pg * pageSize) != (selfDev d).val)
    | _ => x.t3En && (mmPages (mmTarget p) n).all (fun pg => (tget x.grants3 pg).isNone))

/-- The key mode that a mapping sets. -/
def mapKey (p : Post) : KeyMode := match mmKey p with | 0 => .none | 1 => .block (mmSlot p) | _ => .line (mmSlot p)

/-- An accepted MEM_MAP of T1 pages from device page `pg`. -/
def mapT1 (d : Dev) (p : Post) (part pg : Nat) : Dev :=
  let x := getPart d part
  let m (i : Nat) : PageMap := ⟨pg + i, mapKey p, (mmFlags p).testBit 0, (mmFlags p).testBit 1⟩
  setPart d part { x with maps := (List.range (mmCount p)).foldl (fun t i => tset t (mmPas p / pageSize + i) (m i)) x.maps }

/-- Pages granted in a table of grants. -/
def grantPages (p : Post) (t : Tab Grant) : Tab Grant :=
  (mmPages (mmTarget p) (mmCount p)).foldl (fun t pg => tset t pg ⟨mapKey p, (mmFlags p).testBit 0⟩) t

/-- MEM_MAP (R324). -/
def memMapRule (p : Post) (d : Dev) : Res :=
  let part := dNat p 16 1
  let x := getPart d part
  let n := mmCount p
  if !mapHead d p then .plain .badDescriptor d
  else if n = 0 then .plain .ok d
  else if !mapState d p x then .plain .badDescriptor d
  else if !regionFits d (8 * n) then .plain .quotaExceeded d
  else
    match mmTier p with
    | 1 =>
      if d.pool.isNone && decide (t1QuotaOf x < t1Charge x + n) then .plain .quotaExceeded d
      else
        match (if mmLowest p then freeRun d n 0 devicePages else some (mmTarget p / pageSize)) with
        | none => .plain .quotaExceeded d
        | some pg => .done .ok (pg * pageSize) 0 (mapT1 d p part pg)
    | 2 => if t2QuotaOf x < x.grants2.length + n then .plain .quotaExceeded d
      else .plain .ok (setPart d part { x with grants2 := grantPages p x.grants2 })
    | _ => if t3QuotaOf x < x.grants3.length + n then .plain .quotaExceeded d
      else .plain .ok (setPart d part { x with grants3 := grantPages p x.grants3 })

/-- MEM_MAP (R324). -/
def execMemMap (p : Post) (s : State) : Host.Outcome State Fault Refusal := answer s (perform 0x0460 p (memMapRule p) s.dev)

/-- The pages of a partition that moved objects take among its T3 grants. -/
def spillsAt (x : PartSt) (pg : Nat) : Bool := x.spill.any (fun h => decide (h.page ≤ pg) && decide (pg < h.page + h.run))

/-- MEM_UNMAP (R324, R327). -/
def memUnmapRule (p : Post) (d : Dev) : Res :=
  let part := dNat p 16 1
  let x := getPart d part
  let t := mmTier p
  let n := mmCount p
  let pages := mmPages (if t = 1 then mmPas p else mmTarget p) n
  if (poster d p).val != 0 || !dZero p 8 8 || decide (63 < part) || t == 0 || decide (3 < t) || !dZero p 18 2 || decide (65536 < n) ||
      !dZero p 24 8 || mmPas p % pageSize != 0 || (t != 1 && mmPas p != 0) || mmTarget p % pageSize != 0 || !dZero p 48 16 then
    .plain .badDescriptor d
  else if n = 0 then .plain .ok d
  else
    match t with
    | 1 =>
      if !pages.all (fun pg => (tget x.maps pg).isSome) then .plain .badDescriptor d
      else
        let gone := (x.maps.filter (fun m => pages.contains m.1)).map (fun m => m.2.page)
        .plain .ok (setPart (gone.foldl (fun d pg => clearRun d pg 1) d) part { x with maps := x.maps.filter (fun m => !pages.contains m.1) })
    | 2 =>
      if !pages.all (fun pg => (tget x.grants2 pg).isSome) then .plain .badDescriptor d
      else .plain .ok (setPart d part { x with grants2 := x.grants2.filter (fun m => !pages.contains m.1) })
    | _ =>
      if !pages.all (fun pg => (tget x.grants3 pg).isSome) then .plain .badDescriptor d
      else .plain .ok (setPart d part { x with grants3 := x.grants3.filter (fun m => !pages.contains m.1) })

/-- MEM_UNMAP (R327). -/
def execMemUnmap (p : Post) (s : State) : Host.Outcome State Fault Refusal := answer s (perform 0x0461 p (memUnmapRule p) s.dev)

/-! ## MEM_MODE and MEM_HEAP -/

/-- The lowest partition whose T1 charge exceeds its quota (R322). -/
def overQuota (d : Dev) : Option Nat :=
  (d.parts.find? (fun e => e.2.state != .free && decide (t1QuotaOf e.2 < t1Charge e.2))).map (·.1)

/-- Whether the spill area holds any object. -/
def spillInUse (d : Dev) : Bool :=
  match d.pool with
  | none => false
  | some (pg, n) => (spillRuns d).any (fun r => decide (pg ≤ r.1) && decide (r.1 < pg + n))

/-- MEM_MODE (R319 to R322). -/
def memModeRule (p : Post) (d : Dev) : Res :=
  let pages := dNat p 20 4
  let pool := dNat p 16 1 == 1
  if (poster d p).val != 0 || !dZero p 8 8 || decide (1 < dNat p 16 1) || !dZero p 17 3 || !dZero p 24 8 || !dZero p 40 24 ||
      dNat p 32 8 % pageSize != 0 || (!pool && (pages != 0 || !dZero p 32 8)) then .plain .badDescriptor d
  else if pool && pages == 0 then .plain .badLength d
  else if pool && decide (16777215 < pages) then .plain .badDescriptor d
  else if pool == d.pool.isSome then .plain .ok d
  else if pool then .plain .ok { d with pool := some (dNat p 32 8 / pageSize, pages) }
  else
    match overQuota d with
    | some n => .done .quotaExceeded n 0 d
    | none => if spillInUse d then .plain .badDescriptor d else .plain .ok { d with pool := none }

/-- MEM_MODE POOL (R320). -/
def execMemModePool (p : Post) (s : State) : Host.Outcome State Fault Refusal := answer s (perform 0x0462 p (memModeRule p) s.dev)

/-- MEM_MODE NORMAL (R322). -/
def execMemModeNormal (p : Post) (s : State) : Host.Outcome State Fault Refusal := answer s (perform 0x0462 p (memModeRule p) s.dev)

/-- MEM_HEAP (R329). -/
def memHeapRule (p : Post) (d : Dev) : Res :=
  let part := dNat p 16 1
  let mode := dNat p 17 1
  let slot := dNat p 18 1
  let x := getPart d part
  if !dZero p 8 8 || decide (1 < mode) || (mode == 0 && slot != 0) || !dZero p 19 45 || !mayName d (poster d p) part ||
      (mode == 1 && !xtsSlotOk d x.owner slot) || !x.heap.isEmpty || !x.spill.isEmpty then .plain .badDescriptor d
  else .plain .ok (setPart d part { x with heapKey := if mode = 1 then some slot else none })

/-- MEM_HEAP (R329). -/
def execMemHeap (p : Post) (s : State) : Host.Outcome State Fault Refusal := answer s (perform 0x0463 p (memHeapRule p) s.dev)

/-! ## The dredge (R335 to R338) -/

/-- The lines of a stack and the rows of a slice. -/
def stackLines : Nat := 805306368
def sliceRows : Nat := 16384

/-- Whether the device is powered for its memories: out of DORMANT and past bring-up. -/
def awake (d : Dev) : Bool := d.boot.phase == .ready && !d.boot.dormant

/-- The position after a read: the next position, and the passes completed. -/
def dredgeNext (pos passes : Tab Nat) (k size : Nat) : Tab Nat × Tab Nat :=
  let n := tgetD pos k 0 + 1
  if n = size then (tset pos k 0, tset passes k (tgetD passes k 0 + 1)) else (tset pos k n, passes)

/-- HBM_DREDGE_TICK: one line of a stack. -/
def execHbmDredgeTick (stack : Fin 12) (found : Ecc) (s : State) : Host.Outcome State Fault Refusal :=
  let d := s.dev
  if !hbmEn d || !awake d || d.boot.clkFenced.getLsbD 3 then answer s d
  else
    let line := stackOffset stack.val (tgetD d.dredge.hbmPos stack.val 0 * 64)
    let (pos, passes) := dredgeNext d.dredge.hbmPos d.dredge.hbmPasses stack.val stackLines
    let d1 := { d with dredge := { d.dredge with hbmPos := pos, hbmPasses := passes } }
    if found = .uncorrectable ∨ d.hbmBad.contains line then
      answer s (raise { d1 with hbmBad := if d.hbmBad.contains line then d.hbmBad else line :: d.hbmBad } 0x0303
        (unitOf 4 stack.val) (lineDetail 1 0 line))
    else if found = .corrected then answer s (charge d1 (partOfStack stack.val) wHbmSym 1)
    else answer s d1

/-- A spare row of a slice of physical tile `t`, 64 at most (R497). -/
def substTsRow (d : Dev) (t row : Nat) : Option (Dev × Nat) :=
  let used := tgetD d.health.tsRows t []
  if 64 ≤ used.length then none
  else some ({ d with health := { d.health with tsRows := tset d.health.tsRows t (used ++ [row]) } }, used.length)

/-- A corrected word of a row: charged, and counted for the auto-spare bit, which takes a spare row at 16 within one window (R498). -/
def tsCorrected (d : Dev) (t row : Nat) : Dev :=
  let d1 := charge d (partOfTile t) wTsBit 1
  let k := t * sliceRows + row
  let n := tgetD d1.health.tsCorr k 0 + 1
  let d2 := { d1 with health := { d1.health with tsCorr := tset d1.health.tsCorr k n } }
  if tsAuto d2 && n == 16 then
    match substTsRow d2 t row with
    | some (d3, sp) => postSpared d3 (unitOf 0x0C t) sp
    | none => d2
  else d2

/-- TS_DREDGE_TICK: one row of a slice of a tile that a partition names. -/
def execTsDredgeTick (tile : TileId) (found : Ecc) (s : State) : Host.Outcome State Fault Refusal :=
  let d := s.dev
  let named := d.parts.any (fun e => e.2.state != .free && (tilesOf e.2).testBit tile.val)
  if !tsEn d || !awake d || !named || tileFenced d tile.val then answer s d
  else
    let row := tgetD d.dredge.tsPos tile.val 0
    let base := tile.val * 2 ^ 26 + row * 4096
    let (pos, passes) := dredgeNext d.dredge.tsPos d.dredge.tsPasses tile.val sliceRows
    let d1 := { d with dredge := { d.dredge with tsPos := pos, tsPasses := passes } }
    let bad := d.tsBad.filter (fun w => decide (base ≤ w) && decide (w < base + 4096))
    let bad1 := if bad.isEmpty && found == .uncorrectable then [base] else bad
    if !bad1.isEmpty then
      answer s (bad1.foldl (fun d w => raise d 0x0303 (unitOf 0x0C (physOf d tile.val)) (lineDetail 0 0 w))
        { d1 with tsBad := if bad.isEmpty then base :: d.tsBad else d.tsBad })
    else if found = .corrected then answer s (tsCorrected d1 (physOf d tile.val) row)
    else answer s d1

end Sys2Proof.Machine
end

