-- ==== Sys2Proof/Machine/Parts.lean ====
section
/-! DEFINITION. Partitions (05_partitions.md R162 to R184): creation, removal, roles, suspension, resumption and switches, and
composition links. -/
namespace Sys2Proof.Machine

/-! ## PART_CREATE -/

/-- PARTITION and ARG of Table 5.2. -/
def ptNo (p : Post) : Nat := dNat p 16 1
def ptArg (p : Post) : Nat := dNat p 17 1

/-- Whether a partition holds its tiles: one that is FREE or SUSPENDED holds none. -/
def holdsTiles (x : PartSt) : Bool := x.state != .free && x.state != .suspended

/-- Whether another partition than `part` holds a tile. -/
def tileTaken (d : Dev) (part t : Nat) : Bool := d.parts.any (fun e => e.1 != part && holdsTiles e.2 && (tilesOf e.2).testBit t)

/-- The slices of a list of tiles cleared to zero. -/
def clearSlices (d : Dev) (ts : List Nat) : Dev := ts.foldl clearSlice d

def pcMask (p : Post) : Nat := dNat p 32 8
def pcBase (p : Post) : Nat := dNat p 40 2
def pcCount (p : Post) : Nat := dNat p 42 2

/-- Check 1 of R165. -/
def createHead (d : Dev) (p : Post) : Bool :=
  let fl := dNat p 19 1
  (poster d p).val == 0 && !lockPart d && decide (ptNo p < 64) && (getPart d (ptNo p)).state == .free && decide (ptArg p < 64) &&
    fnExists d (fnId (ptArg p)) && decide (1 ≤ dNat p 18 1) && decide (dNat p 18 1 ≤ 3) && decide (fl < 8) && dZero p 8 8 && dZero p 44 20 &&
    (fl.testBit 1 || dZero p 24 4) && (fl.testBit 2 || dZero p 28 4) && decide (dNat p 20 4 ≤ 294912) &&
    decide (dNat p 24 4 ≤ 18874368) && decide (dNat p 28 4 ≤ 16777215) && decide (pcBase p < 16384) &&
    decide (pcBase p + pcCount p ≤ 16384) &&
    !d.parts.any (fun e => e.2.state != .free && decide (pcBase p < basisBaseOf e.2 + basisCountOf e.2) &&
      decide (basisBaseOf e.2 < pcBase p + pcCount p))

/-- The T1 pages that no partition's reservation and not the region has (R165, R315). -/
def pagesLeft (d : Dev) : Nat :=
  devicePages - d.boot.opts.regionPages - (d.parts.map (fun e => if e.2.state = .free then 0 else t1QuotaOf e.2)).foldl (· + ·) 0

/-- PART_CREATE (R165, R166). -/
def partCreateRule (p : Post) (d : Dev) : Res :=
  let fl := dNat p 19 1
  let tiles := maskList 64 (pcMask p)
  if !createHead d p then .plain .badDescriptor d
  else if pcMask p = 0 ∨ pcCount p = 0 ∨ dNat p 20 4 = 0 ∨ (fl.testBit 1 ∧ dNat p 24 4 = 0) ∨ (fl.testBit 2 ∧ dNat p 28 4 = 0) then
    .plain .badLength d
  else if tiles.any (fun t => tileFenced d t || tileTaken d (ptNo p) t) then .plain .badDescriptor d
  else if pagesLeft d < dNat p 20 4 then .plain .quotaExceeded d
  else
    let x : PartSt := { PartSt.reset with
      state := .active, role := Tri.same (BitVec.ofNat 2 (dNat p 18 1)), tiles := Tri.same (BitVec.ofNat 64 (pcMask p))
      t1Quota := Tri.same (BitVec.ofNat 19 (dNat p 20 4)), t2Quota := Tri.same (BitVec.ofNat 25 (dNat p 24 4))
      t3Quota := Tri.same (BitVec.ofNat 24 (dNat p 28 4)), basisBase := Tri.same (BitVec.ofNat 14 (pcBase p))
      basisCount := Tri.same (BitVec.ofNat 15 (pcCount p)), owner := fnId (ptArg p), roleByOwner := fl.testBit 0
      t2En := fl.testBit 1, t3En := fl.testBit 2 }
    .plain .ok (setPart (clearSlices d tiles) (ptNo p) x)

/-- PART_CREATE (R165). -/
def execPartCreate (p : Post) (s : State) : Host.Outcome State Fault Refusal :=
  answer s (perform 0x0400 p (inTurn [ptNo p] (partCreateRule p)) s.dev)

/-! ## PART_DESTROY and PART_ROLE -/

/-- Whether a partition holds a barge, a page table or a basin, or a destination's part of a transfer (R169, R171). -/
def holdsState (d : Dev) (part : Nat) : Bool :=
  d.barges.any (fun e => e.2.part.val == part) || d.tables.any (fun e => e.2.part == part || e.2.hold == part) ||
    d.dsts.any (fun e => e.part.val == part)

/-- Whether a task of a partition is queued or running. -/
def hasTasks (d : Dev) (part : Nat) : Bool :=
  let mine (p : Post) : Bool := opcode p / 256 == 1 && dNat p 17 1 == part
  let x := getPart d part
  !x.held.isEmpty || x.lift.loads.any (fun l => !l.readers.isEmpty) || d.tasks.any (fun e => e.2.part.val == part) || d.tableHeld.any mine ||
    d.fns.any (fun e => e.2.rings.any (fun r => kindSubmission r.2.kind && r.2.queue.any mine)) ||
    (d.steps.any (fun e => e.1 == part))

/-- Whether a composition link leaves a partition. -/
def linkSource (d : Dev) (part : Nat) : Bool := d.links.any (fun e => e.2.src.val == part)

/-- A partition becomes FREE (R169, R328): its slices are cleared when it holds its tiles, its pages are cleared and released, its
bases, layouts and programs go. -/
def freePart (d : Dev) (part : Nat) : Dev :=
  let x := getPart d part
  let d1 := if holdsTiles x then clearSlices d (tileList x) else d
  let d2 := x.maps.foldl (fun d m => clearRun d m.2.page 1) d1
  let d3 := x.heap.foldl (fun d h => clearRun d h.page h.run) d2
  { d3 with
    parts := tdel d3.parts part
    bases := d3.bases.filter (fun b => !(decide (basisBaseOf x ≤ b.1) && decide (b.1 < basisBaseOf x + basisCountOf x)))
    layouts := d3.layouts.filter (fun l => l.1 / 16 != part)
    programs := d3.programs.filter (fun l => l.1 / 2 != part) }

/-- PART_DESTROY (R169). -/
def partDestroyRule (p : Post) (d : Dev) : Res :=
  let part := ptNo p
  let x := getPart d part
  if (poster d p).val != 0 || lockPart d || !dZero p 8 8 || !dZero p 17 47 || decide (63 < part) ||
      !(x.state == .active || x.state == .suspended) || hasTasks d part || holdsState d part || x.lift.run || linkSource d part then
    .plain .badDescriptor d
  else .plain .ok (freePart d part)

/-- PART_DESTROY (R169). -/
def execPartDestroy (p : Post) (s : State) : Host.Outcome State Fault Refusal :=
  answer s (perform 0x0401 p (inTurn [ptNo p] (partDestroyRule p)) s.dev)

/-- PART_ROLE (R171, R172). -/
def partRoleRule (p : Post) (d : Dev) : Res :=
  let part := ptNo p
  let x := getPart d part
  let f := poster d p
  if !dZero p 8 8 || !dZero p 18 46 || decide (63 < part) || ptArg p == 0 || decide (3 < ptArg p) || x.state == .free ||
      !(f.val == 0 || (x.owner == f && x.roleByOwner)) || !(x.state == .active || x.state == .suspended) || holdsState d part ||
      linkSource d part then .plain .badDescriptor d
  else .plain .ok (setPart d part { x with role := Tri.same (BitVec.ofNat 2 (ptArg p)) })

/-- PART_ROLE (R172). -/
def execPartRole (p : Post) (s : State) : Host.Outcome State Fault Refusal :=
  answer s (perform 0x0402 p (inTurn [ptNo p] (partRoleRule p)) s.dev)

/-! ## Suspension (R173 to R177) -/

/-- The entries of the save map that the descriptor names. -/
def saveMap (p : Post) : List SaveEnt :=
  (List.range (dNat p 24 4)).map (fun i => ⟨leAt p.arg (16 * i) 1, leAt p.arg (16 * i + 4) 4, leAt p.arg (16 * i + 8) 4⟩)

/-- Whether every entry of the save map keeps Table 5.5. -/
def saveMapOk (p : Post) (x : PartSt) : Bool :=
  (saveMap p).all (fun e => decide (e.tile < 64) && (tilesOf x).testBit e.tile && e.offset % 4096 == 0 && e.length % 4096 == 0 &&
    decide (e.offset + e.length ≤ 2 ^ 26)) &&
    (List.range (dNat p 24 4)).all (fun i => zeroAt p.arg (16 * i + 1) 3 && zeroAt p.arg (16 * i + 12) 4)

/-- The fields of PART_SUSPEND and PART_SWITCH, ARG apart. -/
def suspendFields (p : Post) : Bool :=
  dZero p 8 8 && decide (ptNo p < 64) && dZero p 18 6 && dZero p 28 4 && dNat p 32 8 % 16 == 0 && dNat p 40 8 % 4096 == 0 && dZero p 52 12

/-- What follows a suspension's own field checks: sizes, the save area and map, then the start. -/
def startSuspend (p : Post) (d : Dev) (incoming : Option PartId) : Res :=
  let part := ptNo p
  let x := getPart d part
  let n := dNat p 48 4
  if n = 0 then .plain .badLength d
  else if decide (2 ^ 20 < n) || decide (4096 < dNat p 24 4) || x.state != .active ||
      !rangeOk d x 1 (dNat p 40 8) (4096 * n) true true || !saveMapOk p x then .plain .badDescriptor d
  else
    .later (setPart d part { x with
      state := .suspending
      suspend := some { post := p, map := saveMap p, saveAddr := dNat p 40 8, saveLen := 4096 * n, incoming := incoming } })

/-- PART_SUSPEND (Table 5.4). -/
def partSuspendRule (p : Post) (d : Dev) : Res :=
  if !suspendFields p || ptArg p != 0 || !mayName d (poster d p) (ptNo p) then .plain .badDescriptor d else startSuspend p d none

/-- PART_SUSPEND (R174). -/
def execPartSuspend (p : Post) (s : State) : Host.Outcome State Fault Refusal :=
  answer s (perform 0x0403 p (inTurn [ptNo p] (partSuspendRule p)) s.dev)

/-- The tile-store ranges that the unfinished work items of a partition hold, and the free value of their accumulators (log 21). -/
def heldRanges (d : Dev) (part : Nat) : List (Nat × Nat) :=
  (d.tasks.filter (fun e => e.2.part.val == part && !e.2.tiles.isEmpty)).flatMap (fun e =>
    let p := e.2.post
    let op := opcode p
    let os := taskOpds p
    let x := getPart d part
    let k := if isAttn op then kAttn d op p os part else kindOf op p os x
    (tileRanges op p (shaped k os)).flatten)

/-- The lengths of a list of ranges, what overlaps counted once. -/
def unionLen (rs : List (Nat × Nat)) : Nat :=
  let sorted := (rs.filter (fun r => r.2 != 0)).mergeSort (fun a b => decide (a.1 ≤ b.1))
  (sorted.foldl (fun (acc : Nat × Nat) r =>
    let lo := max acc.2 r.1
    let hi := max acc.2 (r.1 + r.2)
    (acc.1 + (hi - lo), hi)) (0, 0)).1

/-- What the save area of a suspending partition takes: the ranges, and the bytes with the contexts and accumulators (R175). -/
def saveNeeds (d : Dev) (part : Nat) (u : Suspend) : List (Nat × Nat) × Nat :=
  let rs := heldRanges d part ++ u.map.map (fun e => (e.tile * 2 ^ 26 + e.offset, e.length))
  let acc := ((d.tasks.filter (fun e => e.2.part.val == part && !e.2.tiles.isEmpty)).map (fun e => Config.accBytes e.1)).foldl (· + ·) 0
  (rs, unionLen rs + 4096 * tileCount (getPart d part) + acc)

/-- The lowest tile of a partition that another holds or that is fenced. -/
def tileBarred (d : Dev) (part : Nat) : Option Nat :=
  (tileList (getPart d part)).find? (fun t => tileTaken d part t || tileFenced d t)

/-- A SUSPENDED partition takes its tiles and begins its restore (Table 5.4). -/
def startResume (d : Dev) (part : Nat) (p : Post) : Dev :=
  let x := getPart d part
  setPart (clearSlices d (tileList x)) part { x with state := .resuming, resuming := some p }

/-- PART_SAVE_COMPLETE: every tile is at a boundary and the save area is written, or cannot hold what must be saved. -/
def saveComplete (d : Dev) (part : Nat) : Dev :=
  let x := getPart d part
  match x.suspend with
  | none => d
  | some u =>
    let (rs, need) := saveNeeds d part u
    if u.saveLen < need then complete (setPart d part { x with state := .active, suspend := none }) u.post .quotaExceeded need 0
    else
      let cells := d.ts.filter (fun c => rs.any (fun r => decide (r.1 ≤ c.1) && decide (c.1 < r.1 + r.2)))
      let d1 := tierWrite d x 1 u.saveAddr ((List.range need).map (Config.saveByte part))
      let d2 := setPart (clearSlices d1 (tileList x)) part { x with
        state := .suspended, suspend := none, saved := some { addr := u.saveAddr, bytes := need, cells := cells } }
      match u.incoming with
      | none => complete d2 u.post .ok need 0
      | some i =>
        match tileBarred d2 i.val with
        | some t => complete d2 u.post .badDescriptor t 0
        | none => startResume d2 i.val u.post

/-- PART_SAVE_COMPLETE (R175). -/
def execPartSaveComplete (part : PartId) (s : State) : Host.Outcome State Fault Refusal := answer s (saveComplete s.dev part.val)

/-- PASS_ABANDON_TIMEOUT (R174): a pass of a suspending partition that has not ended is abandoned; it has written nothing outside
its own areas and will run again, so that only its tile stands at a boundary now. -/
def execPassAbandonTimeout (_part : PartId) (s : State) : Host.Outcome State Fault Refusal := answer s s.dev

/-! ## Resumption and switches (R176, R178) -/

/-- PART_RESUME (Table 5.4). -/
def partResumeRule (p : Post) (d : Dev) : Res :=
  let part := ptNo p
  if !dZero p 8 8 || !dZero p 17 47 || !mayName d (poster d p) part || (getPart d part).state != .suspended then .plain .badDescriptor d
  else
    match tileBarred d part with
    | some t => .done .badDescriptor t 0 d
    | none => .later (startResume d part p)

/-- PART_RESUME (R176). -/
def execPartResume (p : Post) (s : State) : Host.Outcome State Fault Refusal :=
  answer s (perform 0x0404 p (inTurn [ptNo p] (partResumeRule p)) s.dev)

/-- PART_SWITCH (R178). -/
def partSwitchRule (p : Post) (d : Dev) : Res :=
  let x := getPart d (ptNo p)
  let y := getPart d (ptArg p)
  if !suspendFields p || !mayName d (poster d p) (ptNo p) || !mayName d (poster d p) (ptArg p) then .plain .badDescriptor d
  else if dNat p 48 4 != 0 && (x.state != .active || y.state != .suspended ||
      (tileList y).any (fun t => tileTaken d (ptNo p) t && !(tilesOf x).testBit t)) then .plain .badDescriptor d
  else startSuspend p d (some (partId (ptArg p)))

/-- PART_SWITCH (R178). -/
def execPartSwitch (p : Post) (s : State) : Host.Outcome State Fault Refusal :=
  answer s (perform 0x0405 p (inTurn [ptNo p, ptArg p] (partSwitchRule p)) s.dev)

/-- The tasks that a partition holds start, in their order. -/
def startHeld (d : Dev) (part : Nat) : Dev :=
  let x := getPart d part
  x.held.foldl (fun d p => startAny p d) (setPart d part { x with held := [] })

/-- PART_RESTORE_COMPLETE: the restore has ended (R176, Table 5.4). -/
def restoreComplete (d : Dev) (part : Nat) : Dev :=
  let x := getPart d part
  match x.resuming, x.saved with
  | some p, some v =>
    match badIn d x 1 v.addr v.bytes with
    | b :: _ =>
      let d1 := setPart (clearSlices d (tileList x)) part { x with state := .suspended, resuming := none }
      complete (postUncorrectable d1 b) p .memUncorrectable b 0
    | [] =>
      let ts := v.cells.foldl (fun m c => memPut m c.1 c.2) d.ts
      let d1 := setPart { d with ts := ts } part { x with state := .active, resuming := none, saved := none }
      let d2 := retryFar (startHeld (liftRefetch d1 part) part)
      let detail := if opcode p = 0x0405 then (((getPart d2 (ptNo p)).saved).map (·.bytes)).getD 0 else 0
      complete d2 p .ok detail 0
  | _, _ => d

/-- PART_RESTORE_COMPLETE (R176). -/
def execPartRestoreComplete (part : PartId) (s : State) : Host.Outcome State Fault Refusal := answer s (restoreComplete s.dev part.val)

/-- The held tasks of SUSPENDED partitions whose every row has been cancelled complete with CANCELLED (Table 5.4). -/
def cancelHeld (d : Dev) : Dev :=
  let dead (p : Post) : Bool := let os := rowOwners p (tM p); !os.isEmpty && os.all (fun r => r != 0 && d.cancelled.contains r)
  d.parts.foldl (fun d e =>
    if e.2.state = .suspended then
      let gone := e.2.held.filter dead
      gone.foldl (fun d p => complete (liftDone d e.1 p) p .cancelled 0 (min 0xFFFF (tM p) * 2 ^ 16))
        (setPart d e.1 { getPart d e.1 with held := e.2.held.filter (fun p => !dead p) })
    else d) d

/-! ## Composition (R181 to R184) -/

def linkKey (comp link : Nat) : Nat := comp * 4 + link
def getLink (d : Dev) (comp link : Nat) : Option LinkSt := tget d.links (linkKey comp link)

def coComp (p : Post) : Nat := dNat p 16 1
def coLink (p : Post) : Nat := dNat p 17 1
def coSrc (p : Post) : Nat := dNat p 18 1
def coFlags (p : Post) : Nat := dNat p 19 1
def coBase (p : Post) : Nat := dNat p 20 3
def coCount (p : Post) : Nat := dNat p 24 2

/-- The checks of the poster, of the codes and of the reserved fields of COMPOSE. -/
def composeHead (d : Dev) (p : Post) : Bool :=
  let x := getPart d (coSrc p)
  dZero p 8 8 && decide (coLink p ≤ 2) && decide (coSrc p < 64) && decide (coFlags p < 4) && dZero p 23 1 && dZero p 26 38 &&
    (!(coFlags p).testBit 1 || dZero p 20 6) && x.state != .free && x.owner == poster d p && (!(coFlags p).testBit 0 || coLink p == 0)

/-- A link bound. -/
def bindLink (d : Dev) (comp link : Nat) (l : LinkSt) : Dev := { d with links := tset d.links (linkKey comp link) l }

/-- The queue pairs of a range whose peers lie on other devices. -/
def farPairs (d : Dev) (base n : Nat) : List Nat :=
  ((List.range n).map (fun i => base + i)).filter (fun q => match getQp d q with
    | some y => y.dev.toNat != selfSys d
    | none => false)

/-- COMPOSE without REMOVE: the peers are asked to confirm (R181, R184). -/
def composeRule (p : Post) (d : Dev) : Res :=
  let n := coCount p
  let qs := (List.range (min n 256)).map (fun i => coBase p + i)
  let role := if coLink p = 2 then 2 else 1
  if n = 0 then .plain .badLength d
  else if decide (256 < n) || roleOf (getPart d (coSrc p)) != role ||
      !qs.all (fun q => match getQp d q with | some y => y.owner == poster d p && y.state == .connected | none => false) then
    .plain .badDescriptor d
  else
    let l : LinkSt := { src := partId (coSrc p), weir := (coFlags p).testBit 0, qpBase := coBase p, qpCount := n }
    let far := farPairs d (coBase p) n
    if far.isEmpty then .plain .ok (bindLink d (coComp p) (coLink p) l)
    else
      .later { far.foldl (fun d q => match getQp d q with
          | some y => send d (.composeAsk y.dev (coComp p) (coLink p) y.peer.toNat)
          | none => d) d with
        composing := d.composing ++ [{ post := p, comp := coComp p, link := coLink p, next := l, missing := far }] }

/-- COMPOSE with REMOVE (R181). -/
def composeRemoveRule (p : Post) (d : Dev) : Res :=
  match getLink d (coComp p) (coLink p) with
  | none => .plain .badDescriptor d
  | some l => if l.src.val != coSrc p then .plain .badDescriptor d
    else .plain .ok { d with links := tdel d.links (linkKey (coComp p) (coLink p)) }

/-- COMPOSE in either form: REMOVE decides. -/
def composeAny (p : Post) (d : Dev) : Res :=
  if !composeHead d p then .plain .badDescriptor d
  else if (coFlags p).testBit 1 then composeRemoveRule p d else composeRule p d

/-- COMPOSE (R181). -/
def execCompose (p : Post) (s : State) : Host.Outcome State Fault Refusal :=
  answer s (perform 0x0408 p (inTurn [coSrc p] (composeAny p)) s.dev)

/-- COMPOSE's removing form (R181). -/
def execComposeRemove (p : Post) (s : State) : Host.Outcome State Fault Refusal :=
  answer s (perform 0x0408 p (inTurn [coSrc p] (composeAny p)) s.dev)

/-- The COMPOSE of a link that waits for its peers. -/
def waitingCompose (d : Dev) (comp link : Nat) : Option ComposeSt := d.composing.find? (fun c => c.comp == comp && c.link == link)

/-- COMPOSE_PEER_CONFIRM: the peer of a queue pair confirms its end; with the last the new range is bound (R184). -/
def execComposePeerConfirm (compId : Byte) (link : Fin 3) (qp : BitVec 24) (s : State) : Host.Outcome State Fault Refusal :=
  let d := s.dev
  match waitingCompose d compId.toNat link.val with
  | none => answer s d
  | some c =>
    let left := c.missing.filter (fun q => q != qp.toNat)
    if left.isEmpty then
      answer s (complete (bindLink { d with composing := d.composing.erase c } c.comp c.link c.next) c.post .ok 0 0)
    else answer s { d with composing := d.composing.map (fun e => if e = c then { c with missing := left } else e) }

/-- COMPOSE_CONFIRM_TIMEOUT: 5 ms have passed, and the old range stays bound (R184). -/
def execComposeConfirmTimeout (compId : Byte) (link : Fin 3) (s : State) : Host.Outcome State Fault Refusal :=
  let d := s.dev
  match waitingCompose d compId.toNat link.val with
  | none => answer s d
  | some c => answer s (complete { d with composing := d.composing.erase c } c.post .remoteTimeout 0 0)

end Sys2Proof.Machine
end

