-- ==== Sys2Proof/Machine/LockBase.lean ====
section
/-! DEFINITION. What the lock's parties share (07_barges_locks.md R246 to R263): the home of a request, lock messages and how they
travel, refusal reasons, the sections of a FILL stream and the barge digest, the remainders a barge carries. -/
namespace Sys2Proof.Machine

/-! ## The home of a request (R252, R253, R425) -/

/-- h of R252. -/
def reqHash (x : W64) : W64 := x * 0x9E3779B97F4A7C15

/-- The slot of the home map, and the half of the LOCATE entry. -/
def homeSlot (x : W64) : Nat := (reqHash x).toNat / 2 ^ 58
def locHalf (x : W64) : Nat := bits (reqHash x).toNat 57 1

/-- The pod device index that the home map names for a request. -/
def homeIx (d : Dev) (x : W64) : Nat := cfgField d (.homeMap (homeSlot x)) 0 6

/-- A system device index as the messages carry it. -/
def sysIx (n : Nat) : BitVec 14 := BitVec.ofNat 14 n

/-- The system device index of a request's home by the home map. -/
def homeSys (d : Dev) (x : W64) : Nat := selfPod d * 64 + homeIx d x

/-- Whether a system device is in this device's pod. -/
def inPod (d : Dev) (s : Nat) : Bool := s / 64 == selfPod d

/-- Whether this device can send to a system device: itself; a member with a route that is not lost; another pod with a towpath
queue pair (R253, R257, R417). -/
def canReach (d : Dev) (s : Nat) : Bool :=
  if s = selfSys d then true
  else if inPod d s then isMember d (s % 64) && !isLost d (s % 64) && !(routePorts d (s % 64)).isEmpty
  else cfgField d (.xptTow (s / 64)) 30 1 == 1

/-! ## Messages (Tables 7.8, 7.9) -/

def rLayout : Nat := 1
def rBasis : Nat := 2
def rQuota : Nat := 3
def rFull : Nat := 4
def rDigest : Nat := 5
def rRole : Nat := 6
def rReset : Nat := 7
def rTimeout : Nat := 8
def rCancel : Nat := 9
def rLost : Nat := 10
def rLate : Nat := 11

/-- The STATUS of LOCK_MOVE for a REASON (Table 7.9). -/
def reasonStatus (r : Nat) : Status :=
  match r with
  | 1 | 6 => .badDescriptor
  | 2 => .basisAbsent
  | 3 | 4 => .quotaExceeded
  | 5 => .internal
  | 7 => .functionReset
  | 8 => .remoteTimeout
  | 10 => .targetLost
  | _ => .cancelled

/-- A message header from this device (Table 7.8). -/
def lockHdr (d : Dev) (req : W64) (epoch xfer reason part party : Nat) (home : BitVec 14) : LockHdr :=
  { reason := BitVec.ofNat 16 reason, xfer := BitVec.ofNat 32 xfer, request := req, epoch := BitVec.ofNat 64 epoch
    sender := sysIx (selfSys d), senderPart := BitVec.ofNat 8 part, party := BitVec.ofNat 8 party, home := home }

/-- A message sent to a system device: to this device itself through the inbox, else over VC0 or the towpath (R257). -/
def lockSend (d : Dev) (h : LockHdr) (m : LockMsg) (dst : Nat) : Dev :=
  if dst = selfSys d then { d with inbox := d.inbox ++ [(h, m)] }
  else if inPod d dst || cfgField d (.xptTow (dst / 64)) 30 1 == 1 then send d (.lock dst h m)
  else d

/-- One message to each of several devices. -/
def lockTell (d : Dev) (h : LockHdr) (m : LockMsg) (devs : List Nat) : Dev := (dedup devs).foldl (fun d x => lockSend d h m x) d

def holderDev (x : Holder) : Nat := x.dev.toNat
def optDev (x : Option Holder) : List Nat := x.toList.map holderDev

/-- A partition of this device as a holder. -/
def holderOf (d : Dev) (part : PartId) : Holder := ⟨sysIx (selfSys d), part⟩

/-! ## The table of a barge -/

/-- The live table that a handle names here. -/
def bargeTable (d : Dev) (b : Barge) : Option (Nat × TableSt) := findTable d b.hdr.handle.toNat

/-- The bytes of a heap object of a partition, in T1 or in host memory. -/
def objBytes (d : Dev) (part obj n : Nat) : List Byte :=
  let x := getPart d part
  match heapAddr x obj with
  | some a => memRead d.hbm a n
  | none => match x.spill.findSome? (fun h => (h.objs.find? (fun o => o.id == obj)).map (fun o => h.page * pageSize + o.off)) with
    | some a => memRead d.host a n
    | none => List.replicate n 0

/-- The bytes of a frame; of one on another device they are free (log 49). -/
def frameContent (d : Dev) (l : KvLayout) (e : PtEntry) : List Byte :=
  if ownFrame d e then objBytes d e.part e.frame (frameBytes l)
  else (List.range (frameBytes l)).map (fun i => Config.farByte e.dev (e.frame + i))

/-- One past the highest mapped page index. -/
def pageEnd (t : TableSt) : Nat := maxList (t.entries.map (fun e => e.1 + 1))

/-- The positions that the basin holds: from the lowest first basin position to the highest length with its tentative ones. -/
def basinSpan (t : TableSt) : Nat × Nat :=
  let lo := minList (t.layers.map (firstBasin t))
  (lo, maxList (t.layers.map (fun y => y.len + y.tent)) - lo)

/-- The basin bytes of one position: every layer's key row, then its value row (Table 7.11). -/
def basinPos (d : Dev) (t : TableSt) (bs : List Byte) (pos : Nat) : List Byte :=
  let l := t.layout
  let w := kvCols l * 2
  let _ := d
  (List.range (2 * kvLayers l)).flatMap (fun i => slice bs ((i * kvBasin l + pos % kvBasin l) * w) w)

/-- A basin with the positions of a stream placed. -/
def basinFill (l : KvLayout) (lo : Nat) (bs : List Byte) : List Byte :=
  let w := kvCols l * 2
  let per := 2 * kvLayers l * w
  let n := bs.length / per
  (List.range (2 * kvLayers l)).flatMap (fun i => (List.range (kvBasin l)).flatMap (fun s =>
    match (List.range n).find? (fun k => (lo + k) % kvBasin l == s) with
    | some k => slice bs (k * per + i * w) w
    | none => List.replicate w 0))

/-! ## The FILL stream (Table 7.11, R260 to R263) -/

/-- A chunk: its section, its index, its content. -/
abbrev Chunk := Nat × Nat × FillSec

/-- A byte string cut into chunks of at most 64 KiB. -/
def cut64 (sec : Nat) (bs : List Byte) : List Chunk :=
  (List.range (ceilDiv bs.length 65536)).map (fun i => (sec, i, .bytes ((bs.drop (65536 * i)).take 65536)))

/-- A byte string padded with zeros to a multiple of 64. -/
def pad64 (bs : List Byte) : List Byte := bs ++ List.replicate (ceilDiv bs.length 64 * 64 - bs.length) 0

/-- The sections of the owner. -/
def ownerSecs (b : Barge) : List Chunk :=
  (0, 0, .header b.hdr) :: cut64 1 (pad64 (b.history.flatMap (fun t => leBytes t.toNat 4))) ++ cut64 2 (pad64 b.dstate)

/-- The records of the pages up to the highest mapped one. -/
def pageRecsOf (t : TableSt) : List PageRec :=
  (List.range (pageEnd t)).map (fun p => match tget t.entries p with
    | none => ⟨0, false, 0⟩
    | some e => ⟨if e.dropped then 2 else 1, e.recompute, e.done⟩)

def recChunks (rs : List PageRec) : List Chunk :=
  (List.range (ceilDiv rs.length 2048)).map (fun i => (4, i, .pageRecs ((rs.drop (2048 * i)).take 2048)))

/-- The sections of the page holder; on the weir path frames and digests stay (R194). -/
def pageSecs (d : Dev) (t : TableSt) (weir : Bool) : List Chunk :=
  let l := t.layout
  let span := basinSpan t
  let basin := objBytes d t.hold t.basin (basinBytes l)
  (3, 0, .tableRec (t.layers.map (·.len)) (t.layers.map (·.tent)) t.isRing t.w t.windowPos) :: recChunks (pageRecsOf t) ++
    (if weir then [] else
      cut64 5 ((t.entries.filter (fun e => !e.2.dropped)).flatMap (fun e => frameContent d l e.2)) ++
      (if kvDigest l then cut64 6 (t.entries.flatMap (fun e => match e.2.dig with
        | some o => objBytes d e.2.part o (digestBytes l)
        | none => List.replicate (digestBytes l) 0)) else [])) ++
    cut64 7 ((List.range span.2).flatMap (fun i => basinPos d t basin (span.1 + i)))

/-- The plaintext of a chunk: the encodings of header and records are private (log 48). -/
def secBytes : FillSec → List Byte
  | .bytes bs => bs
  | c => Config.encodeSec c

/-- The size of a chunk in the stream. -/
def chunkSize : FillSec → Nat
  | .header _ => 512
  | .tableRec .. => 1024
  | .pageRecs rs => 32 * rs.length
  | .bytes bs => bs.length

/-- The barge digest over chunks in section order, then chunk order (R263). -/
def bargeDigest (cs : List Chunk) : BitVec 256 :=
  sha256 ((cs.mergeSort (fun a b => decide (a.1 < b.1 ∨ (a.1 = b.1 ∧ a.2.1 ≤ b.2.1)))).flatMap (fun c =>
    leBytes c.1 1 ++ leBytes c.2.1 4 ++ beBytes (sha256 (secBytes c.2.2)).toNat 32))

/-- The chunk count of each section. -/
def chunkCounts (cs : List Chunk) : List Nat := (List.range 8).map (fun s => (cs.filter (fun c => c.1 == s)).length)

/-- The size of each section. -/
def secSizes (cs : List Chunk) : List Nat :=
  (List.range 8).map (fun s => (cs.filter (fun c => c.1 == s)).foldl (fun n c => n + chunkSize c.2.2) 0)

/-- The chunks not sent yet, or changed since (R261). -/
def dirtyOf (cur sent : List Chunk) : List Chunk := cur.filter (fun c => !sent.contains c)
def dirtySize (cs : List Chunk) : Nat := cs.foldl (fun n c => n + chunkSize c.2.2) 0

/-- The layout of a table as FILL_OPEN carries it (Table 7.10, R201). -/
def layoutKeyOf (l : KvLayout) : LayoutKey :=
  ⟨l.fields, if kvDigest l then some (sha256 (l.proj.flatMap (fun w => leBytes w.toNat 2))) else none⟩

/-- The basis IDs and generations that the frames of a table name (Table 7.10). -/
def basesNamed (d : Dev) (t : TableSt) : List (Nat × Nat) :=
  let l := t.layout
  let hdrs := (t.entries.filter (fun e => !e.2.dropped)).flatMap (fun e =>
    let fr := frameContent d l e.2
    ((List.range (kvLayers l)).filter (fun i => e.2.done.getLsbD i)).flatMap (fun i =>
      [0, 1].map (fun kv => blockHdr (slice fr (pageAt 0 l i kv) 32))))
  (hdrs.foldl (fun (acc : List (Nat × Nat)) h => if acc.contains (h.id, h.gen) then acc else (h.id, h.gen) :: acc) []).reverse

/-! ## Remainders (R264, R300, R305) -/

/-- The source of a barge has frozen. -/
def bargeFrozen (b : Barge) : Bool := match b.src with | some x => x.frozen | none => false

/-- A barge with its remainders brought up to now: the mooring remainder of one that is or was MOORED, else the deadline and
the charged time. Nothing runs from the freeze on, nor in ADRIFT and SUNK; mooring remainders stop in DORMANT (R537). -/
def tickBarge (d : Dev) (b : Barge) : Barge :=
  let n := (d.tclk - b.clockAt).toNat
  let b1 := { b with clockAt := d.tclk }
  if bargeFrozen b || b.state == .adrift || b.state == .sunk then b1
  else if b.hdr.moored then (if d.boot.dormant then b1 else { b1 with hdr := { b.hdr with ttl := b.hdr.ttl - n } })
  else { b1 with hdr := { b.hdr with deadline := b.hdr.deadline.map (· - n), charged := b.hdr.charged + n } }

/-- The state a barge has outside a transfer. -/
def restState (b : Barge) : BState := if b.hdr.moored then .moored else .underway

def getBarge (d : Dev) (req : W64) : Option Barge := tget d.barges req.toNat
def setBarge (d : Dev) (b : Barge) : Dev := { d with barges := tset d.barges b.hdr.request.toNat b }

/-- A barge changed where it is. -/
def modBarge (d : Dev) (req : W64) (f : Barge → Barge) : Dev := { d with barges := tmod d.barges req.toNat f }

def getReq (d : Dev) (req : W64) : Option ReqSt := tget d.requests req.toNat
def setReq (d : Dev) (req : W64) (r : ReqSt) : Dev := { d with requests := tset d.requests req.toNat r }

/-- The barge as its owner would send a message about it. -/
def ownerHdr (d : Dev) (b : Barge) (xfer reason : Nat) : LockHdr :=
  lockHdr d b.hdr.request b.epoch xfer reason b.part.val 0 b.hdr.home

/-- A barge dropped with its objects at its owner. -/
def dropBarge (d : Dev) (b : Barge) : Dev :=
  b.objs.foldl (fun d o => heapFree d b.part.val o) { d with barges := tdel d.barges b.hdr.request.toNat }

/-- The objects of kind STATE that a history of `n` tokens and `m` bytes of decode state take (Tables 7.1, 9.4). -/
def stateSizes (n m : Nat) : List Nat :=
  let a := ceilDiv (4 * n) 64 * 64
  let b := ceilDiv m 64 * 64
  if a + b ≤ pageSize then (if a + b = 0 then [] else [a + b]) else [a, b].filter (· != 0)

/-- Objects of sizes with fresh numbers placed in a partition, with reclaim. -/
def holdObjs (d : Dev) (part : Nat) (l : List (HeapKind × Nat)) : Sum Nat (List Nat) × Dev :=
  let ids := (List.range l.length).map (fun i => d.objNo + i)
  let d1 := { d with objNo := d.objNo + l.length }
  match holderAlloc d1 part ((l.zip ids).map (fun x => (x.1.1, x.2, x.1.2))) with
  | .ok d2 => (.inr ids, d2)
  | .lacks n d2 => (.inl n, d2)

end Sys2Proof.Machine
end

