-- ==== Sys2Proof/Machine/Output.lean ====
section
/-! DEFINITION. Requests at their origin (08_serving.md R280 to R298): the fields of REQUEST_SUBMIT, request completions, budgets and
leases, output rings with their moderation, the end and the cancellation of a request. -/
namespace Sys2Proof.Machine

/-! ## REQUEST_SUBMIT's fields (Tables 8.1, 8.2) -/

def rqId (p : Post) : W64 := dHandle p
def rqClass (p : Post) : Nat := dNat p 16 1
def rqComp (p : Post) : Nat := dNat p 17 1
def rqPrompt (p : Post) : Nat := dNat p 20 4
def rqMax (p : Post) : Nat := dNat p 24 4
def rqDeadline (p : Post) : Nat := dNat p 28 4
def rqOut (p : Post) : Nat := dNat p 48 8
def rqDstate (p : Post) : Nat := leAt p.arg 24 4
def rqLog2 (p : Post) : Nat := leAt p.arg 28 1
def rqVector (p : Post) : Nat := leAt p.arg 30 2
def rqModCount (p : Post) : Nat := leAt p.arg 32 2
def rqModUsec (p : Post) : Nat := leAt p.arg 34 2
def rqEndTtl (p : Post) : Nat := leAt p.arg 36 4
def rqStop (p : Post) : List W32 := (List.range 4).map (fun i => BitVec.ofNat 32 (leAt p.arg (40 + 4 * i) 4))

/-! ## Completions (R283, Tables 8.4, 8.5) -/

def kAdmitted : Nat := 0
def kHeld : Nat := 1
def kStepFailed : Nat := 2
def kDropped : Nat := 3
def kAdrift : Nat := 4
def kEnded : Nat := 5
def kMoored : Nat := 6
def kResumed : Nat := 7
def kLost : Nat := 8

/-- Bytes 24 to 31 of a request completion (Table 8.4). -/
def reqExtra (r : ReqSt) (kind : Nat) (final : Bool) : Nat :=
  r.emitted % 2 ^ 24 + 2 ^ 24 * b2n final + 2 ^ 25 * b2n r.weir + 2 ^ 26 * b2n r.late + 2 ^ 27 * b2n r.recomputed +
    2 ^ 28 * kind + 2 ^ 32 * r.slot

/-- A completion that is not final: the descriptor stays in flight. -/
def reqNote (d : Dev) (r : ReqSt) (kind : Nat) (st : Status) (detail : Nat) : Dev :=
  if (getFn d r.fn).inReset then d
  else
    let c := (getRing d r.fn r.ring).cplRing.toNat
    let C := getRing d r.fn c
    setRing d r.fn c { C with
      waiting := C.waiting ++ [⟨dTag r.post, st, r.ring, BitVec.ofNat 64 detail, BitVec.ofNat 64 (reqExtra r kind false),
        flagIrq (dFlags r.post)⟩] }

/-- Whether a completion of the request waits for room in its completion ring (R464). -/
def noteWaits (d : Dev) (r : ReqSt) : Bool :=
  (getRing d r.fn (getRing d r.fn r.ring).cplRing.toNat).waiting.any (fun c => c.ring == r.ring && c.tag == dTag r.post)

/-! ## Budgets (R289 to R291) -/

def getBudget (d : Dev) (f : Fn) : Option Budget := (tget d.budgets f.val).bind (fun b => if b.metered then some b else none)

/-- RESERVED rises. -/
def reserve (d : Dev) (f : Fn) (n : Nat) : Dev := { d with budgets := tmod d.budgets f.val (fun b => { b with reserved := b.reserved + n }) }

/-- Units move from RESERVED to USED. -/
def spend (d : Dev) (f : Fn) (n fromRes : Nat) : Dev :=
  { d with budgets := tmod d.budgets f.val (fun b => { b with used := b.used + n, reserved := b.reserved - fromRes }) }

/-- Whether units fit under LIMIT beside what is used and reserved. -/
def budgetFits (d : Dev) (f : Fn) (n : Nat) : Bool :=
  match getBudget d f with
  | none => true
  | some b => decide (b.used + b.reserved + n ≤ 256 * b.limit)

/-- A message from the origin to the owner of a request. -/
def toOwner (d : Dev) (req : W64) (r : ReqSt) (m : LockMsg) (reason : Nat) : Dev :=
  lockSend d (lockHdr d req r.epoch 0 reason 0xFF 5 r.home) m (holderDev r.owner)

/-- A lease asked for is granted when it fits (R291). -/
def grantLease (d : Dev) (req : W64) : Dev :=
  match getReq d req with
  | none => d
  | some r =>
    if r.leaseAsk = 0 || !budgetFits d r.fn (256 * r.leaseAsk) then d
    else
      let d1 := setReq (reserve d r.fn (256 * r.leaseAsk)) req { r with leaseRes := r.leaseRes + 256 * r.leaseAsk, leaseAsk := 0 }
      toOwner d1 req r (.leaseGrant r.leaseAsk) 0

/-- The leases that a function's requests wait for, in ascending request ID. -/
def grantLeases (d : Dev) (f : Fn) : Dev :=
  (d.requests.filter (fun e => e.2.fn == f && e.2.leaseAsk != 0)).foldl (fun d e => grantLease d (BitVec.ofNat 64 e.1)) d

/-- What a request has reserved and not used goes back (R291). -/
def returnBudget (d : Dev) (req : W64) : Dev :=
  match getReq d req with
  | none => d
  | some r =>
    let n := r.prefillRes + r.leaseRes
    let d1 := { d with budgets := tmod d.budgets r.fn.val (fun b => { b with reserved := b.reserved - n }) }
    grantLeases (setReq d1 req { r with prefillRes := 0, leaseRes := 0, leaseAsk := 0 }) r.fn

/-- Units of prompt or feed positions committed (R290): they come from what the request has reserved for them. -/
def chargePositions (d : Dev) (req : W64) (n : Nat) : Dev :=
  match getReq d req with
  | none => d
  | some r => match getBudget d r.fn with
    | none => d
    | some b =>
      let u := n * b.weight
      let k := min u r.prefillRes
      setReq (spend d r.fn u k) req { r with prefillRes := r.prefillRes - k }

/-! ## The end of a request -/

/-- LDONE of a transfer with its REASON (R258); a source on another device keeps it (log 47). -/
def ldoneOut (req : W64) (r : ReqSt) (reason : Nat) : Nat :=
  let v := r.ldone.getD (Config.farLdone req)
  bits v 0 2 + reason % 256 * 256 + bits v 16 48 * 2 ^ 16

/-- The outcome of the descriptors that waited for a request when it ends: LOCK_MOVE's LDONE carries the reason (Tables 7.7, 7.9). -/
def endAsks (d : Dev) (req : W64) (st : Status) (reason : Nat) : Dev :=
  match getReq d req with
  | none => d
  | some r => r.asks.foldl (fun d p =>
      complete d p st r.epoch (if opcode p = 0x0440 then ldoneOut req r reason else 0)) (setReq d req { r with asks := [] })

/-- The final completion: the request is live no more (R283). -/
def finalReq (d : Dev) (req : W64) (kind : Nat) (st : Status) (detail : Nat) : Dev :=
  match getReq (returnBudget d req) req with
  | none => d
  | some r =>
    let d1 := returnBudget d req
    let idx := match r.post.src with | .ring _ _ i => i | .step .. => 0
    let d2 := completeRing d1 r.fn r.ring idx (dTag r.post) (dTag r.post) (dFlags r.post) st (BitVec.ofNat 64 detail)
      (BitVec.ofNat 64 (reqExtra r kind true))
    { d2 with requests := tdel d2.requests req.toNat, ended := (r.fn, req) :: d2.ended.filter (fun e => e != (r.fn, req)) }

/-- OK, or OK_LATE when a record carried LATE (R301). -/
def okStatus (r : ReqSt) : Status := if r.late then .okLate else .ok

/-! ## Output rings (R292 to R295) -/

/-- The 16 bytes of an output record (Table 8.10). -/
def recBytes (o : OutRec) (phase : Bool) : List Byte :=
  leBytes o.token.toNat 4 ++ leBytes o.position.toNat 4 ++
    leBytes (b2n o.last + 2 * b2n o.late + 4 * b2n o.cancel + 8 * b2n o.error + 2 ^ 15 * b2n phase) 2 ++
    leBytes (statusCode o.status).toNat 2 ++ leBytes o.delta.toNat 4

/-- Whether the output ring has room. -/
def outRoom (r : ReqSt) : Bool := decide ((r.produced - r.consumed).toNat < 2 ^ rqLog2 r.post)

/-- The interrupt of one more record (R295). -/
def outModerate (d : Dev) (req : W64) (last : Bool) : Dev :=
  match getReq d req with
  | none => d
  | some r =>
    let n := r.modPend + 1
    if firesNow (BitVec.ofNat 16 (rqModCount r.post)) (BitVec.ofNat 16 (rqModUsec r.post)) n last then
      fireVector (setReq d req { r with modPend := 0, modTimer := false }) r.fn (rqVector r.post)
    else setReq d req { r with modPend := n, modTimer := r.modTimer || rqModUsec r.post != 0 }

/-- What the last record of a request ends: a cancelled one, an erroneous one, one whose generation has ended without a mooring. -/
def afterLast (d : Dev) (req : W64) (o : OutRec) : Dev :=
  match getReq d req with
  | none => d
  | some r =>
    if o.cancel then finalReq d req kEnded .cancelled (b2n (r.cancelled == some rLate))
    else if o.error then finalReq d req kEnded o.status o.position.toNat
    else if rqEndTtl r.post = 0 then finalReq d req kEnded (okStatus r) r.historyLen
    else d

/-- An end that waited for the last record (R283, R305). -/
def finishEnding (d : Dev) (req : W64) (r : ReqSt) : Dev :=
  match r.ending with
  | none => d
  | some (.ok, _) => finalReq d req kEnded (okStatus r) r.historyLen
  | some (st, detail) => finalReq d req kEnded st detail.toNat

/-- The records that wait are written while the ring has room; ERROR and CANCELLED records are not counted (R290). -/
def writeOut (req : W64) : Nat → Dev → Dev
  | 0, d => d
  | n + 1, d =>
    match getReq d req with
    | none => d
    | some r =>
      match r.waiting with
      | [] => finishEnding d req r
      | o :: rest =>
        if !outRoom r || !hostOpen d r.fn then d
        else
          let n2 := 2 ^ rqLog2 r.post
          let a := rqOut r.post + 16 * (r.produced.toNat % n2)
          let phase := r.produced.toNat / n2 % 2 == 0
          let tok := !o.error && !o.cancel
          let d1 := { d with host := memWrite d.host a (recBytes o phase) }
          let k := min 256 r.leaseRes
          let r1 := { r with
            produced := r.produced + 1, waiting := rest, emitted := r.emitted + b2n tok, late := r.late || o.late
            leaseRes := if tok then r.leaseRes - k else r.leaseRes }
          let d2 := setReq (if tok then spend d1 r.fn 256 k else d1) req r1
          let d3 := outModerate d2 req o.last
          writeOut req n (if o.last then afterLast d3 req o else d3)

/-- RING_HOLD and RING_FREE follow from whether records wait (R294). -/
def ringSignal (d : Dev) (req : W64) : Dev :=
  match getReq d req with
  | none => d
  | some r =>
    let held := !r.waiting.isEmpty
    if held == r.ringHeld then d
    else toOwner (setReq d req { r with ringHeld := held }) req r (if held then .ringHold else .ringFree) 0

/-- Records for the output ring of a request (R293, R294). -/
def emitRecs (d : Dev) (req : W64) (recs : List OutRec) : Dev :=
  match getReq d req with
  | none => d
  | some r =>
    let d1 := setReq d req { r with waiting := r.waiting ++ recs }
    ringSignal (writeOut req (r.waiting.length + recs.length + 1) d1) req

/-- OUTPUT_MOD_TIMER (R295). -/
def execOutputModTimer (fn : Fn) (slot : Nat) (s : State) : Host.Outcome State Fault Refusal :=
  let d := s.dev
  match d.requests.find? (fun e => e.2.fn == fn && e.2.slot == slot) with
  | none => answer s d
  | some (k, r) =>
    if r.modTimer then
      answer s (fireVector (setReq d (BitVec.ofNat 64 k) { r with modPend := 0, modTimer := false }) fn (rqVector r.post))
    else answer s d

/-! ## Cancellation at the origin (R297, R298) -/

/-- The CANCELLED record: its position is the next one; its DELTA is what the barge has been charged since the last record when
it lies here (log 51). -/
def cancelRecord (d : Dev) (req : W64) (r : ReqSt) (reason : Nat) : OutRec :=
  let delta := match getBarge d req with
    | some b => BitVec.ofNat 32 (min 0xFFFFFFFF ((tickBarge d b).hdr.charged / 1000))
    | none => if r.phase = .live then Config.farDelta req else 0
  { token := 0xFFFFFFFF, position := BitVec.ofNat 32 r.historyLen, last := true, late := r.late || reason == rLate, cancel := true
    error := false, status := .cancelled, delta := delta }

/-- A live request cancelled: from now on no record of it is taken; what waited is discarded; the owner is told. -/
def cancelReq (d : Dev) (req : W64) (reason : Nat) : Dev :=
  match getReq d req with
  | none => d
  | some r =>
    let o := cancelRecord d req r reason
    let d1 := setReq d req { r with cancelled := some reason, waiting := [], late := r.late || reason == rLate }
    let d2 := match r.phase with
      | .live => toOwner d1 req r .cancel reason
      | .held => lockSend d1 (lockHdr d1 req r.epoch 0 reason 0xFF 5 r.home) .release r.home.toNat
      | .asking => d1
    emitRecs (endAsks d2 req .cancelled reason) req [o]

end Sys2Proof.Machine
end

