-- ==== Sys2Proof/Machine/LockHome.lean ====
section
/-! DEFINITION. The home of a barge (07_barges_locks.md R255, R265 to R275, Tables 7.5, 7.13, 7.15): its locator entry and record, and
what the record answers to each message, timer and loss. -/
namespace Sys2Proof.Machine

def getHome (d : Dev) (req : W64) : Option HomeRec := tget d.homes req.toNat
def setHome (d : Dev) (req : W64) (r : HomeRec) : Dev := { d with homes := tset d.homes req.toNat r }

/-! ## The locator entry (R255, R425, R574) -/

/-- Whether the LOCATE partition of a request's half, or the region, is full for a home record with room for `room` tokens. -/
def homeFull (d : Dev) (req : W64) (room : Nat) : Bool :=
  let h := locHalf req
  decide (locRows d h ≤ (getCam d h).loc.length) || !regionFits d (256 + historySpace room)

/-- The lowest index of a half that no LOCATE entry has; DESIGN CHOICE (log 52). -/
def locIndex (c : CamHalf) : Nat :=
  ((List.range (c.loc.length + 1)).find? (fun i => !c.loc.any (fun e => e.1 == i))).getD 0

/-- A home record with its locator entry. -/
def homeEnter (d : Dev) (req : W64) (r : HomeRec) : Dev :=
  let h := locHalf req
  let c := getCam d h
  setHome (setCam d h { c with loc := tset c.loc (locIndex c) req }) req r

/-- A home record and its locator entry gone (R425). -/
def homeDrop (d : Dev) (req : W64) : Dev :=
  let h := locHalf req
  let c := getCam d h
  setCam { d with homes := tdel d.homes req.toNat } h { c with loc := c.loc.filter (fun e => e.2 != req) }

/-- A record that a barge enters at. -/
def newHome (epoch : Nat) (owner pages : Holder) (history : List W32) (room : Nat) (originDev : BitVec 14) (originFn : Fn) : HomeRec :=
  { state := .idle, epoch := epoch, owner := owner, pages := pages, oldOwner := owner, oldPages := pages, xfer := 0
    dstOwner := none, dstPages := none, accepts := [], refused := none, handle := 0, drained := [], history := history, room := room
    cancelPend := none, srcLost := false, originDev := originDev, originFn := originFn }

/-! ## Messages of the home -/

/-- A message from the home to devices. -/
def homeTell (d : Dev) (req : W64) (epoch xfer reason : Nat) (devs : List Nat) (m : LockMsg) : Dev :=
  lockTell d (lockHdr d req epoch xfer reason 0xFF 4 (sysIx (selfSys d))) m devs

/-- The destinations of a transfer, and every party of it with the origin. -/
def homeDsts (r : HomeRec) : List Nat := optDev r.dstOwner ++ optDev r.dstPages
def homeParties (r : HomeRec) : List Nat := [holderDev r.owner, holderDev r.pages] ++ homeDsts r ++ [r.originDev.toNat]

/-- The source parties that must drain: those whose part moves (R267). -/
def homeNeeds (r : HomeRec) : List Nat := (if r.dstOwner.isSome then [0] else []) ++ (if r.dstPages.isSome then [1] else [])

/-- The record with no transfer. -/
def homeClear (r : HomeRec) : HomeRec :=
  { r with state := .idle, dstOwner := none, dstPages := none, accepts := [], refused := none, drained := [], srcLost := false }

/-- A cancel that was kept is forwarded to the owner that the home records (Table 7.16). -/
def homeForward (d : Dev) (req : W64) : Dev :=
  match getHome d req with
  | none => d
  | some r => match r.cancelPend with
    | none => d
    | some why => homeTell (setHome d req { r with cancelPend := none }) req r.epoch 0 why [holderDev r.owner] .cancel

/-- ABORT to every party, and the record is IDLE again (R268, Table 7.13). -/
def homeAbort (d : Dev) (req : W64) (r : HomeRec) (reason : Nat) : Dev :=
  homeForward (homeTell (setHome d req (homeClear r)) req r.epoch r.xfer reason (homeParties r) .abort) req

/-- Every source party has drained: IDLE at E + 1, and the origin may complete LOCK_MOVE (R267). -/
def homeDrained (d : Dev) (req : W64) : Dev :=
  match getHome d req with
  | none => d
  | some r =>
    if r.state = .drain ∧ (homeNeeds r).all (fun p => r.drained.contains p) then
      homeTell (setHome d req (homeClear r)) req r.epoch r.xfer 0 [r.originDev.toNat] .drainDone
    else d

/-- The commit (R265): one change, and COMMIT to every party. -/
def homeCommit (d : Dev) (req : W64) (r : HomeRec) : Dev :=
  let r1 := { r with
    epoch := r.epoch + 1, state := .drain, oldOwner := r.owner, oldPages := r.pages
    owner := r.dstOwner.getD r.owner, pages := r.dstPages.getD r.pages }
  let d1 := homeTell (setHome d req r1) req r1.epoch r.xfer 0 (homeParties r) (.commit r1.owner r1.pages r1.handle)
  homeDrained (homeForward d1 req) req

/-- DETAIL of STATE_LOST (Table 7.15). -/
def lossDetail (r : HomeRec) (ownerLost pagesLost inLock : Bool) : Nat :=
  r.history.length % 2 ^ 32 + 2 ^ 32 + 2 ^ 33 * b2n ownerLost + 2 ^ 34 * b2n pagesLost + 2 ^ 35 * b2n inLock

/-- The barge becomes SUNK (R273): ABORT to the destinations of a transfer, LOSS to the origin, and the surviving partner discards
its part; the history stays. -/
def homeSink (d : Dev) (req : W64) (r : HomeRec) (ownerLost pagesLost : Bool) : Dev :=
  let inLock := r.state != .idle
  let d1 := setHome d req { homeClear r with state := .sunk }
  let d2 := if r.state = .fill ∨ r.state = .gate then homeTell d1 req r.epoch r.xfer rLost (homeDsts r) .abort else d1
  let d3 := homeTell d2 req r.epoch r.xfer 0 [r.originDev.toNat] (.loss (BitVec.ofNat 64 (lossDetail r ownerLost pagesLost inLock)))
  homeTell d3 req r.epoch r.xfer rLost
    ((if ownerLost then [] else [holderDev r.owner]) ++ (if pagesLost then [] else [holderDev r.pages])) .release

/-! ## What the record answers (Table 7.13) -/

/-- Whether a message's epoch and transfer match the record (R259). -/
def homeMatch (r : HomeRec) (h : LockHdr) : Bool := h.epoch.toNat == r.epoch && h.xfer.toNat == r.xfer

/-- FILL_OPEN from the owner. -/
def homeFillOpen (d : Dev) (h : LockHdr) (pay : FillOpenPay) : Dev :=
  match getHome d h.request with
  | none => d
  | some r =>
    if h.party.toNat != 0 || h.home.toNat != selfSys d || r.state != .idle then d
    else if h.epoch.toNat ≠ r.epoch then
      homeTell d h.request h.epoch.toNat h.xfer.toNat rTimeout [h.sender.toNat] .refuse
    else if h.sender != r.owner.dev || h.senderPart.toNat ≠ r.owner.part.val then d
    else setHome d h.request { homeClear r with state := .fill, xfer := h.xfer.toNat, dstOwner := pay.dstOwner, dstPages := pay.dstPages }

/-- SEAL from the source owner: the GATE timer starts. A REFUSE that came before the seal aborts now (Table 7.17). -/
def homeSeal (d : Dev) (h : LockHdr) : Dev :=
  match getHome d h.request with
  | none => d
  | some r =>
    if r.state != .fill || h.party.toNat != 0 || !homeMatch r h then d
    else match r.refused with
      | some why => homeAbort d h.request r why
      | none => setHome d h.request { r with state := .gate }

/-- ACCEPT from a destination: the last one commits. -/
def homeAccept (d : Dev) (h : LockHdr) (handle : W64) : Dev :=
  match getHome d h.request with
  | none => d
  | some r =>
    if r.state != .gate || !homeMatch r h then d
    else
      let p := h.party.toNat
      let r1 := { r with accepts := p :: r.accepts.filter (· != p), handle := if p = 3 then handle else r.handle }
      if (homeNeeds r).all (fun q => r1.accepts.contains (q + 2)) then homeCommit d h.request r1 else setHome d h.request r1

/-- REFUSE from a destination: in GATE it aborts; in FILL the source aborts, and the home remembers it. -/
def homeRefuse (d : Dev) (h : LockHdr) : Dev :=
  match getHome d h.request with
  | none => d
  | some r =>
    if !homeMatch r h || decide (h.party.toNat < 2) then d
    else if r.state = .gate then homeAbort d h.request r h.reason.toNat
    else if r.state = .fill then setHome d h.request { r with refused := some h.reason.toNat }
    else d

/-- ABORT from the source in FILL: the record is cleared. -/
def homeAbortIn (d : Dev) (h : LockHdr) : Dev :=
  match getHome d h.request with
  | none => d
  | some r =>
    if r.state != .fill || !homeMatch r h || h.party.toNat != 0 then d else homeForward (setHome d h.request (homeClear r)) h.request

/-- DRAIN_DONE from a source party. -/
def homeDrainIn (d : Dev) (h : LockHdr) : Dev :=
  match getHome d h.request with
  | none => d
  | some r =>
    if r.state != .drain || h.xfer.toNat != r.xfer || h.epoch.toNat + 1 != r.epoch then d
    else homeDrained (setHome d h.request { r with drained := h.party.toNat :: r.drained }) h.request

/-- The code of a record's state in HOME_REPLY. -/
def homeCode : HomeSt → Nat
  | .idle => 0
  | .fill => 1
  | .gate => 3
  | .drain => 4
  | .sunk => 5

/-- HOME_QUERY, which the home always answers (R259). -/
def homeQueryIn (d : Dev) (h : LockHdr) : Dev :=
  if h.home.toNat ≠ selfSys d then d
  else match getHome d h.request with
    | some r => homeTell d h.request r.epoch r.xfer 0 [h.sender.toNat]
        (.homeReply ⟨homeCode r.state, BitVec.ofNat 64 r.epoch, r.owner, r.pages, BitVec.ofNat 32 r.xfer⟩)
    | none => homeTell d h.request 0 0 0 [h.sender.toNat] (.homeReply ⟨6, 0, ⟨0, 0⟩, ⟨0, 0⟩, 0⟩)

/-- TOKEN from the owner: the history takes what it does not hold yet (R250). -/
def homeToken (d : Dev) (h : LockHdr) (position : Nat) (tokens : List W32) : Dev :=
  match getHome d h.request with
  | none => d
  | some r =>
    if r.state = .sunk ∨ h.epoch.toNat ≠ r.epoch ∨ h.sender ≠ r.owner.dev then d
    else
      let hist := if position ≤ r.history.length then r.history.take position ++ tokens else r.history
      homeTell (setHome d h.request { r with history := hist }) h.request r.epoch 0 0 [h.sender.toNat] (.tokenAck hist.length)

/-- RELEASE: a transfer in FILL or GATE is aborted at its destinations, the parties are told, entry and history go. -/
def homeRelease (d : Dev) (h : LockHdr) : Dev :=
  match getHome d h.request with
  | none => d
  | some r =>
    if h.home.toNat != selfSys d || decide (h.party.toNat = 4) then d
    else
      let e := r.epoch
      let why := h.reason.toNat
      let d1 := if r.state = .fill ∨ r.state = .gate then homeTell d h.request e r.xfer why (homeDsts r) .abort else d
      let old := if r.state = .drain then [holderDev r.oldOwner, holderDev r.oldPages] else []
      homeTell (homeDrop d1 h.request) h.request e r.xfer why
        ([holderDev r.owner, holderDev r.pages, r.originDev.toNat] ++ old) .release

/-- CANCEL at the home (R296, Table 7.16): kept in GATE, else forwarded to the owner. -/
def homeCancel (d : Dev) (h : LockHdr) : Dev :=
  match getHome d h.request with
  | none => d
  | some r =>
    if h.home.toNat != selfSys d || r.state == .sunk || decide (h.party.toNat = 4) then d
    else
      let d1 := setHome d h.request { r with cancelPend := some h.reason.toNat }
      if r.state = .gate then d1
      else if h.party.toNat = 0 then homeForward d1 h.request
      else d

/-- The history and the tokens that a new home takes over from the chosen party (R272): those of the barge or of the destination's
copy when they lie here. -/
def chosenHistory (d : Dev) (req : W64) (dest : Bool) (chosen : Holder) : List W32 × Nat :=
  if chosen.dev.toNat ≠ selfSys d then (Config.farHistory req, 0)
  else
    match (if dest then none else getBarge d req) with
    | some b => (b.history, b.hdr.tokensLeft)
    | none =>
      match d.dsts.find? (fun x => x.hdr.request == req && x.party == 2) with
      | none => (Config.farHistory req, 0)
      | some x =>
        let hd := x.chunks.findSome? (fun c => match c.2.2 with | .header h => some h | _ => none)
        let bs := ((x.chunks.filter (fun c => c.1 == 1)).mergeSort (fun a b => decide (a.2.1 ≤ b.2.1))).flatMap (fun c => secBytes c.2.2)
        let n := (hd.map (·.nextPosition)).getD 0
        ((List.range n).map (fun i => BitVec.ofNat 32 (leAt bs (4 * i) 4)), (hd.map (·.tokensLeft)).getD 0)

/-- RESOLVE from the origin (R272): epoch + 2, the chosen side's owner and page holder, RESOLVED to the former parties and the origin,
which names them all, since a home that has aborted holds no destinations (log 82). A new home makes its entry; one that is full
refuses. -/
def homeResolve (d : Dev) (h : LockHdr) (dest : Bool) (owner pages : Holder) (parties : List (BitVec 14)) : Dev :=
  let tell := h.sender.toNat :: parties.map (·.toNat)
  if h.home.toNat ≠ selfSys d then d
  else match getHome d h.request with
    | some r =>
      if r.state = .sunk then d
      else
        let r1 := { homeClear r with epoch := h.epoch.toNat + 2, owner := owner, pages := pages }
        homeTell (setHome d h.request r1) h.request r1.epoch r.xfer 0 (tell ++ homeParties r) (.resolved owner pages)
    | none =>
      let (hist, left) := chosenHistory d h.request dest owner
      let room := hist.length + left
      if homeFull d h.request room then homeTell d h.request h.epoch.toNat h.xfer.toNat rQuota [h.sender.toNat] .refuse
      else
        let e := h.epoch.toNat + 2
        let fn := ((getReq d h.request).map (·.fn)).getD 0
        homeTell (homeEnter d h.request (newHome e owner pages hist room h.sender fn)) h.request e h.xfer.toNat 0 tell (.resolved owner pages)

/-- The home's entry of an admission or a re-homing, written for another device (R255, R274). -/
def homeEntryIn (d : Dev) (h : LockHdr) (owner pages : Holder) (history : List W32) (room : Nat) (fn : Fn) : Dev :=
  if h.home.toNat ≠ selfSys d ∨ (getHome d h.request).isSome ∨ homeFull d h.request room then d
  else homeEnter d h.request (newHome h.epoch.toNat owner pages history room h.sender fn)

/-- Room for more history (R574). -/
def homeMore (d : Dev) (h : LockHdr) (n : Nat) : Dev :=
  match getHome d h.request with
  | none => d
  | some r => setHome d h.request { r with room := r.room + n }

/-! ## Timers and losses -/

/-- GATE_TIMER_EXPIRY (R269). -/
def gateExpiry (d : Dev) (req : W64) : Dev :=
  match getHome d req with
  | none => d
  | some r =>
    if r.state != .gate then d
    else if r.srcLost then homeSink d req r (isLost d (holderDev r.owner % 64) && inPod d (holderDev r.owner))
      (isLost d (holderDev r.pages % 64) && inPod d (holderDev r.pages))
    else homeAbort d req r rTimeout

/-- DRAIN_RESEND_TIMEOUT: COMMIT again to each source party that has not drained. -/
def drainResend (d : Dev) (req : W64) : Dev :=
  match getHome d req with
  | none => d
  | some r =>
    if r.state != .drain then d
    else
      let left := (homeNeeds r).filter (fun p => !r.drained.contains p)
      homeTell d req r.epoch r.xfer 0 (left.map (fun p => holderDev (if p = 0 then r.oldOwner else r.oldPages)))
        (.commit r.owner r.pages r.handle)

/-- A system device is lost: what Table 7.13 makes of one record. A holder that does not move and is lost in FILL or GATE leaves no
complete copy, DEDUCED (log 53). -/
def homeLose (dev : Nat) (d : Dev) (req : W64) : Dev :=
  match getHome d req with
  | none => d
  | some r =>
    let ol := holderDev r.owner == dev
    let pl := holderDev r.pages == dev
    let dl := (homeDsts r).contains dev
    let stays := (ol && r.dstOwner.isNone) || (pl && r.dstPages.isNone)
    match r.state with
    | .sunk => d
    | .idle => if ol || pl then homeSink d req r ol pl else d
    | .fill =>
      if ol || pl then homeSink d req r ol pl
      else if dl then homeAbort d req r rLost else d
    | .gate =>
      if stays then homeSink d req r ol pl
      else if dl then homeAbort d req r rLost
      else if ol || pl then
        setHome d req { r with srcLost := true, drained := (if ol then [0] else []) ++ (if pl then [1] else []) ++ r.drained }
      else d
    | .drain =>
      if ol || pl then homeSink d req r ol pl
      else
        let gone := (if holderDev r.oldOwner == dev then [0] else []) ++ (if holderDev r.oldPages == dev then [1] else [])
        homeDrained (setHome d req { r with drained := gone ++ r.drained }) req

end Sys2Proof.Machine
end

