-- ==== Sys2Proof/Machine/LockDst.lean ====
section
/-! DEFINITION. The destinations of a lock transfer (07_barges_locks.md R260, R265, R266, R268, Table 7.14): the checks and the
reservation of FILL_OPEN, the chunks, the digest, and what COMMIT and ABORT make of the copy. -/
namespace Sys2Proof.Machine

/-- A message from a destination party about its transfer. -/
def dstHdr (d : Dev) (x : DstSt) (reason : Nat) : LockHdr :=
  lockHdr d x.hdr.request x.hdr.epoch.toNat x.hdr.xfer.toNat reason x.part.val x.party x.hdr.home

/-- REFUSE to the home and to the source owner. -/
def dstRefuse (d : Dev) (x : DstSt) (reason : Nat) : Dev :=
  lockTell d (dstHdr d x reason) .refuse [x.hdr.home.toNat, x.hdr.sender.toNat]

/-- The device without a destination's record. -/
def dstGone (d : Dev) (x : DstSt) : Dev :=
  { d with dsts := d.dsts.filter (fun y => !(y.hdr.request == x.hdr.request && y.party == x.party)) }

/-- A destination's record replaced. -/
def dstSet (d : Dev) (x : DstSt) : Dev :=
  { d with dsts := d.dsts.map (fun y => if y.hdr.request = x.hdr.request ∧ y.party = x.party then x else y) }

/-- The copy discarded and the reservation released (R268). -/
def dstDrop (d : Dev) (x : DstSt) : Dev :=
  let d1 := x.rsv.foldl (fun d o => heapFree d x.part.val o) (dstGone d x)
  match x.table with
  | none => d1
  | some k => destroyTable d1 k

/-! ## FILL_OPEN (R260) -/

/-- A layout of a partition equal to the one a transfer names (R201). -/
def equalLayout (d : Dev) (part : Nat) (k : LayoutKey) : Option (Nat × KvLayout) :=
  ((List.range 16).filterMap (fun i => (getLayout d part i).map (fun l => (i, l)))).find? (fun e => layoutKeyOf e.2 == k)

/-- Whether every basis generation named is resident here. -/
def basesHere (d : Dev) (bs : List (Nat × Nat)) : Bool :=
  bs.all (fun b => let B := getBasis d b.1
    [B.s0, B.s1].any (fun s => s.state != .empty && s.gen == b.2))

/-- Whether a party keeps pages or a basin: the new page holder, or the new owner on the weir path. -/
def holdsPages (party : Nat) (pay : FillOpenPay) : Bool := party == 3 || pay.weir

/-- The objects that a destination reserves (Table 6.2, Table 7.1). -/
def dstObjects (l : Option KvLayout) (party : Nat) (pay : FillOpenPay) : List (HeapKind × Nat) :=
  let sz (i : Nat) := pay.sizes.getD i 0
  let own := if party = 2 then (stateSizes (sz 1 / 4) (sz 2)).map (fun n => (HeapKind.state, n)) else []
  match l with
  | none => own
  | some l =>
    if party = 2 then own ++ (if pay.weir then [(HeapKind.basin, basinBytes l)] else [])
    else
      let pages := sz 4 / 32
      [(HeapKind.table, rootBytes), (HeapKind.basin, basinBytes l)] ++
        List.replicate (ceilDiv pages 256) (HeapKind.table, leafBytes) ++
        List.replicate (sz 5 / frameBytes l) (HeapKind.frame, frameBytes l) ++
        (if kvDigest l then List.replicate (sz 6 / digestBytes l) (HeapKind.digest, digestBytes l) else [])

/-- The role that lets a partition take a part (Table 5.3): the owner's in GENERATION, or in CACHE for a mooring, which FILL_OPEN
tells (log 80); pages in CACHE. -/
def roleAdmits (party role : Nat) (mooring : Bool) : Bool := if party = 2 then role == 2 || (mooring && role == 3) else role == 3

/-- The reason for which a destination refuses before it reserves, in the order of R260. -/
def dstRefusal (d : Dev) (party : Nat) (part : PartId) (pay : FillOpenPay) : Option Nat :=
  let x := getPart d part.val
  let lay := (pay.layout.bind (equalLayout d part.val)).isSome
  if x.state != .free && (getFn d x.owner).inReset then some rReset
  else if holdsPages party pay && !lay then some rLayout
  else if holdsPages party pay && !basesHere d pay.bases then some rBasis
  else if x.state != .active || !roleAdmits party (roleOf x) pay.mooring then some rRole
  else if party == 2 && decide (1048576 ≤ d.barges.length) then some rFull
  else if party == 2 && !regionFits d 512 then some rQuota
  else none

/-- FILL_OPEN at a destination party of this device. -/
def dstOpenAs (h : LockHdr) (pay : FillOpenPay) (party : Nat) (d : Dev) (at_ : Option Holder) : Dev :=
  match at_ with
  | none => d
  | some hold =>
    if hold.dev.toNat ≠ selfSys d ∨ d.dsts.any (fun y => y.hdr.request == h.request && y.party == party) then d
    else
      let x : DstSt :=
        { hdr := h, pay := pay, party := party, part := hold.part, rsv := [], chunks := [], counts := [], digest := none
          verified := false, table := none, querying := false, adrift := false }
      match dstRefusal d party hold.part pay with
      | some why => dstRefuse d x why
      | none =>
        let l := (pay.layout.bind (equalLayout d hold.part.val)).map (·.2)
        match holdObjs d hold.part.val (dstObjects l party pay) with
        | (.inl _, d1) => dstRefuse d1 x rQuota
        | (.inr ids, d1) =>
          lockSend { d1 with dsts := d1.dsts ++ [{ x with rsv := ids }] } (dstHdr d1 x 0) .ready h.sender.toNat

/-- FILL_OPEN at this device's destinations. Instructions to a source page holder name destinations elsewhere. -/
def dstOpen (d : Dev) (h : LockHdr) (pay : FillOpenPay) : Dev :=
  dstOpenAs h pay 3 (dstOpenAs h pay 2 d pay.dstOwner) pay.dstPages

/-! ## The table that a stream describes -/

/-- The chunks of one section in order. -/
def secChunks (cs : List Chunk) (s : Nat) : List FillSec :=
  ((cs.filter (fun c => c.1 == s)).mergeSort (fun a b => decide (a.2.1 ≤ b.2.1))).map (fun c => c.2.2)

def secData (cs : List Chunk) (s : Nat) : List Byte := (secChunks cs s).flatMap secBytes

/-- The page records with their page index. -/
def streamRecs (cs : List Chunk) : List (Nat × PageRec) :=
  (((secChunks cs 4).flatMap (fun c => match c with | .pageRecs rs => rs | _ => [])).zipIdx).map (fun e => (e.2, e.1))

/-- One past the highest page of a layer that is done. -/
def donePages (rs : List (Nat × PageRec)) (layer : Nat) : Nat :=
  maxList ((rs.filter (fun e => e.2.layerDone.getLsbD layer)).map (fun e => e.1 + 1))

/-- The table record. -/
def streamTable (cs : List Chunk) : List Nat × List Nat × Bool × Nat × Nat :=
  match (secChunks cs 3).head? with
  | some (.tableRec ls ts r w p) => (ls, ts, r, w, p)
  | _ => ([], [], false, 0, 0)

/-- Writes bytes into a heap object of a partition. -/
def objWrite (d : Dev) (part obj : Nat) (bs : List Byte) : Dev :=
  match heapAddr (getPart d part) obj with
  | none => d
  | some a => hbmWrite d a bs

/-- The entry of a page on the weir path: its frame stays on the prompt device (R194), or in this device's own T1. -/
def weirEntry (d : Dev) (x : DstSt) (hd : BargeHdr) (p : Nat) (r : PageRec) : PtEntry :=
  let dev := hd.pages.dev.toNat % 64
  let local_ := if hd.pages.dev.toNat = selfSys d then (findTable d hd.handle.toNat).bind (fun kt => tget kt.2.entries p) else none
  let _ := x
  match local_ with
  | some e => e
  | none => { dropped := r.state == 2, recompute := r.recompute, dev := dev, part := hd.pages.part.val
              frame := Config.farFrame hd.handle p, dig := none, done := r.layerDone }

/-- The header that a stream carries. -/
def streamHdr (cs : List Chunk) : Option BargeHdr :=
  (secChunks cs 0).findSome? (fun c => match c with | .header h => some h | _ => none)

/-- The table built, not yet published, from the stream of a new page holder: none when T1 lacks room. -/
def buildTable (d : Dev) (x : DstSt) (id : Nat) (l : KvLayout) : Option (Nat × Dev) :=
  let cs := x.chunks
  let part := x.part.val
  let rs := (streamRecs cs).filter (fun e => e.2.state != 0)
  let (lens, tents, isRing, w, wp) := streamTable cs
  let leafIx := dedup (rs.map (fun e => (if isRing then e.1 % w else e.1) / 256))
  let live := rs.filter (fun e => e.2.state == 1)
  let nd := if kvDigest l then rs.length else 0
  let d0 := x.rsv.foldl (fun d o => heapFree d part o) d
  match holdObjs d0 part ([(.table, rootBytes), (.basin, basinBytes l)] ++ leafIx.map (fun _ => (HeapKind.table, leafBytes)) ++
      live.map (fun _ => (HeapKind.frame, frameBytes l)) ++ List.replicate nd (HeapKind.digest, digestBytes l)) with
  | (.inl _, _) => none
  | (.inr ids, d1) =>
    let (k, d2) := freshObj d1
    let root := ids.getD 0 0
    let basin := ids.getD 1 0
    let leaves := leafIx.zip (ids.drop 2)
    let frames := (live.map (·.1)).zip (ids.drop (2 + leafIx.length))
    let digs := (rs.map (·.1)).zip ((ids.drop (2 + leafIx.length + live.length)).take nd)
    let fb := secData cs 5
    let gb := secData cs 6
    let d3 := (frames.zipIdx).foldl (fun d e => objWrite d part e.1.2 (slice fb (e.2 * frameBytes l) (frameBytes l))) d2
    let d4 := (digs.zipIdx).foldl (fun d e => objWrite d part e.1.2 (slice gb (e.2 * digestBytes l) (digestBytes l))) d3
    let layers := (List.range (kvLayers l)).map (fun i => (⟨lens.getD i 0, tents.getD i 0, donePages rs i⟩ : PtLayer))
    let lo := minList (layers.map (fun y => kvPage l * y.pages))
    let d5 := objWrite d4 part basin (basinFill l lo (secData cs 7))
    let (ix, tag) := freshIndex d5 part
    let pick (m : List (Nat × Nat)) (p : Nat) : Option Nat := (m.find? (fun e => e.1 == p)).map (·.2)
    let t : TableSt :=
      { dev := (selfDev d).val, part := part, index := ix, tag := tag, hold := part, layoutId := id, layout := l
        request := x.hdr.request, isRing := isRing, w := w, windowPos := wp, epoch := 1
        entries := rs.map (fun e => (e.1, { dropped := e.2.state == 2, recompute := e.2.recompute, dev := (selfDev d).val, part := part
                                            frame := (pick frames e.1).getD 0, dig := pick digs e.1, done := e.2.layerDone }))
        layers := layers, root := root, basin := basin, leaves := leaves.mergeSort (fun a b => decide (a.1 ≤ b.1))
        buckets := [], retired := [], live := false, atHost := false, rsv := [] }
    some (k, setTable { d5 with tags := tset d5.tags (part * 2 ^ 20 + ix) tag } k t)

/-- The new owner's table on the weir path: the basin is its own, the frames stay where prefill wrote them (R194). -/
def buildWeir (d : Dev) (x : DstSt) (id : Nat) (l : KvLayout) (hd : BargeHdr) : Option (Nat × Dev) :=
  let cs := x.chunks
  let part := x.part.val
  let rs := (streamRecs cs).filter (fun e => e.2.state != 0)
  let (lens, tents, isRing, w, wp) := streamTable cs
  match holdObjs d part [(.basin, basinBytes l)] with
  | (.inl _, _) => none
  | (.inr ids, d1) =>
    let (k, d2) := freshObj d1
    let basin := ids.getD 0 0
    let layers := (List.range (kvLayers l)).map (fun i => (⟨lens.getD i 0, tents.getD i 0, donePages rs i⟩ : PtLayer))
    let lo := minList (layers.map (fun y => kvPage l * y.pages))
    let h := hd.handle.toNat
    some (k, setTable (objWrite d2 part basin (basinFill l lo (secData cs 7))) k
      { dev := hDev h, part := hPart h, index := bits h 0 20, tag := bits h 32 16, hold := part, layoutId := id, layout := l
        request := x.hdr.request, isRing := isRing, w := w, windowPos := wp, epoch := 1
        entries := rs.map (fun e => (e.1, weirEntry d x hd e.1 e.2)), layers := layers, root := 0, basin := basin, leaves := []
        buckets := [], retired := [], live := false, atHost := false, rsv := [] })

/-! ## Chunks, SEAL and the digest (R263, R265) -/

/-- The sections a party covers. -/
def dstCovers (x : DstSt) (s : Nat) : Bool :=
  if x.party = 2 then decide (s ≤ 2) || (x.pay.weir && (s == 3 || s == 4 || s == 7)) else decide (3 ≤ s)

/-- The objects of the owner's part placed anew for the history as it stands at SEAL. -/
def dstOwnerObjs (d : Dev) (x : DstSt) (hd : BargeHdr) : Sum Nat (List Nat) × Dev :=
  holdObjs (x.rsv.foldl (fun d o => heapFree d x.part.val o) d) x.part.val
    ((stateSizes hd.nextPosition (secData x.chunks 2).length).map (fun n => (HeapKind.state, n)))

/-- What a complete copy whose digest agrees becomes: ready for COMMIT, or refused for want of room. -/
def dstAccept (d : Dev) (x : DstSt) : Dev :=
  let part := x.part.val
  let lay := x.pay.layout.bind (equalLayout d part)
  let accept (d : Dev) (x1 : DstSt) : Dev :=
    let handle := match x1.table.bind (fun k => tget d.tables k) with | some t => handleOf t | none => 0
    lockSend (dstSet d { x1 with verified := true }) (dstHdr d x1 0) (.acceptMsg (BitVec.ofNat 64 handle)) x.hdr.home.toNat
  let refuse (d : Dev) (why : Nat) : Dev := dstDrop (dstRefuse d x why) { x with rsv := [] }
  if holdsPages x.party x.pay && !basesHere d x.pay.bases then dstDrop (dstRefuse d x rBasis) x
  else if x.party = 3 then
    match lay with
    | none => dstDrop (dstRefuse d x rLayout) x
    | some (id, l) => match buildTable d x id l with
      | none => dstDrop (dstRefuse d x rQuota) x
      | some (k, d1) => accept d1 { x with rsv := [], table := some k }
  else
    match streamHdr x.chunks with
    | none => dstDrop (dstRefuse d x rDigest) x
    | some hd =>
      match dstOwnerObjs d x hd with
      | (.inl _, d1) => refuse d1 rQuota
      | (.inr ids, d1) =>
        let x1 := { x with rsv := ids }
        if x.pay.weir then
          match lay with
          | none => dstDrop (dstRefuse d1 x1 rLayout) x1
          | some (id, l) => match buildWeir d1 x1 id l hd with
            | none => dstDrop (dstRefuse d1 x1 rQuota) x1
            | some (k, d2) => accept d2 { x1 with table := some k }
        else accept d1 x1

/-- A destination that holds the seal and every chunk compares its digest (R265). -/
def dstCheck (d : Dev) (x : DstSt) : Dev :=
  match x.digest with
  | none => d
  | some g =>
    let cs := x.chunks.filter (fun c => decide (c.2.1 < x.counts.getD c.1 0))
    let whole := (List.range 8).all (fun s => !dstCovers x s ||
      (List.range (x.counts.getD s 0)).all (fun i => cs.any (fun c => c.1 == s && c.2.1 == i)))
    if !whole || x.verified then d
    else if bargeDigest cs ≠ g then dstDrop (dstRefuse d x rDigest) x
    else dstAccept (dstSet d { x with chunks := cs }) { x with chunks := cs }

/-- Whether a message belongs to a destination's transfer (R259). -/
def dstMatch (x : DstSt) (h : LockHdr) : Bool :=
  x.hdr.request == h.request && x.hdr.xfer == h.xfer && x.hdr.epoch == h.epoch && !x.adrift

/-- FILL_DATA: a chunk placed, in any order (R260). -/
def dstData (d : Dev) (h : LockHdr) (sec chunk : Nat) (c : FillSec) : Dev :=
  match d.dsts.find? (fun x => dstMatch x h && dstCovers x sec) with
  | none => d
  | some x =>
    if x.verified then d
    else
      let x1 := { x with chunks := x.chunks.filter (fun e => !(e.1 == sec && e.2.1 == chunk)) ++ [(sec, chunk, c)], querying := false }
      dstCheck (dstSet d x1) x1

/-- SEAL from a source party: party 0 seals the owner's stream, party 1 the page holder's. -/
def dstSeal (d : Dev) (h : LockHdr) (counts : List Nat) (digest : BitVec 256) : Dev :=
  match d.dsts.find? (fun x => dstMatch x h && x.party == h.party.toNat + 2) with
  | none => d
  | some x =>
    let x1 := { x with counts := counts, digest := some digest, querying := false }
    dstCheck (dstSet d x1) x1

/-! ## COMMIT and ABORT -/

/-- A destination takes up its part at an epoch (R266, R272): a new page holder publishes its table, a new owner its barge in
the state it had before the transfer. -/
def dstTake (d : Dev) (x : DstSt) (epoch : Nat) (pages : Holder) (handle : W64) : Dev :=
  let d1 := match x.table with
    | none => dstGone d x
    | some k => let e := dstGone d x; { e with tables := tmod e.tables k (fun t => { t with live := true }) }
  if x.party = 3 then d1
  else
    match streamHdr x.chunks with
    | none => d1
    | some hd =>
      let hb := secData x.chunks 1
      let hd1 := { hd with pages := pages, handle := if x.pay.dstPages.isSome then handle else hd.handle, weir := hd.weir || x.pay.weir }
      setBarge (if hd1.moored then { d1 with mooredNo := d1.mooredNo + 1 } else d1)
        { hdr := hd1, epoch := epoch, state := if hd.moored then .moored else .underway, part := x.part
          history := (List.range hd.nextPosition).map (fun i => BitVec.ofNat 32 (leAt hb (4 * i) 4)), dstate := secData x.chunks 2
          objs := x.rsv, homeLost := false, holdBudget := false, holdQuota := false, holdRing := false, holdWeir := false, asked := false
          moorPend := none, mooredNo := d1.mooredNo, src := none, inStep := false, cancelled := none, clockAt := d1.tclk, unacked := []
          homeLen := hd.nextPosition }

/-- COMMIT at this device's destinations: the page holder first, so that the owner finds its table. -/
def dstCommit (d : Dev) (h : LockHdr) (pages : Holder) (handle : W64) : Dev :=
  let mine := d.dsts.filter (fun x => x.hdr.request == h.request && x.hdr.xfer == h.xfer && x.hdr.epoch.toNat + 1 == h.epoch.toNat &&
    x.verified && !x.adrift)
  (mine.filter (fun x => x.party == 3) ++ mine.filter (fun x => x.party == 2)).foldl
    (fun d x => dstTake d x h.epoch.toNat pages handle) d

/-- ABORT at this device's destinations. -/
def dstAbort (d : Dev) (h : LockHdr) : Dev := (d.dsts.filter (fun x => dstMatch x h)).foldl dstDrop d

/-- RELEASE at this device's destinations, which discard their copies. -/
def dstRelease (d : Dev) (req : W64) : Dev := (d.dsts.filter (fun x => x.hdr.request == req)).foldl dstDrop d

/-- The handle of the table that a destination of this device has built for a request. -/
def dstHandle (d : Dev) (req : W64) : W64 :=
  match (d.dsts.find? (fun y => y.hdr.request == req && y.party == 3)).bind (fun y => y.table.bind (fun k => tget d.tables k)) with
  | some t => BitVec.ofNat 64 (handleOf t)
  | none => Config.farHandle req

/-- Whether the chosen owner and page holder are the destinations of a transfer. -/
def chosenDst (dstOwner dstPages : Option Holder) (owner pages : Holder) : Bool :=
  dstOwner.all (· == owner) && dstPages.all (· == pages)

/-- RESOLVED at ADRIFT destinations: the chosen one takes its part up at E + 2, the other discards its copy. -/
def dstResolved (d : Dev) (h : LockHdr) (owner pages : Holder) : Dev :=
  let handle := dstHandle d h.request
  (d.dsts.filter (fun x => x.hdr.request == h.request && x.adrift && x.hdr.epoch.toNat + 2 == h.epoch.toNat)).foldl (fun d x =>
    if x.verified && chosenDst x.pay.dstOwner x.pay.dstPages owner pages then
      dstTake d x h.epoch.toNat pages handle
    else dstDrop d x) d

/-- HOME_REPLY at querying destinations (Table 7.14). -/
def dstReply (d : Dev) (h : LockHdr) (a : HomeAnswer) : Dev :=
  let handle := dstHandle d h.request
  (d.dsts.filter (fun x => x.hdr.request == h.request && x.querying && !x.adrift)).foldl (fun d x =>
    if (a.state = 0 ∨ a.state = 4) ∧ a.epoch.toNat = x.hdr.epoch.toNat + 1 then
      (if x.verified then dstTake d x a.epoch.toNat a.pages handle else dstDrop d x)
    else if (a.state = 1 ∨ a.state = 2 ∨ a.state = 3) ∧ a.xfer = x.hdr.xfer then dstSet d { x with querying := false }
    else dstDrop d x) d

/-- 2T without a message: the destinations query the home. -/
def dstQuery (d : Dev) (req : W64) : Dev :=
  (d.dsts.filter (fun x => x.hdr.request == req && !x.querying && !x.adrift)).foldl (fun d x =>
    lockSend (dstSet d { x with querying := true }) (dstHdr d x 0) .homeQuery x.hdr.home.toNat) d

end Sys2Proof.Machine
end

