-- ==== Sys2Proof/Machine/LockSrc.lean ====
section
/-! DEFINITION. The source parties of a lock transfer (07_barges_locks.md R257 to R268, Table 7.14, Table 7.16): its start, the
rounds, the seal, what COMMIT and ABORT make of the barge, and the work on a table that a transfer held back. -/
namespace Sys2Proof.Machine

/-! ## Work held back (Table 7.16) -/

/-- A held post runs again: an edit of a table, or a task. -/
def rerunPost (d : Dev) (p : Post) : Dev :=
  match opcode p with
  | 0x0433 => settleRes p (ptForkRule p d)
  | 0x0434 => settleRes p (ptTruncateRule p d)
  | 0x0435 => settleRes p (ptDestroyRule p d)
  | _ => rerunTask d p

/-- What waited for the end of a transfer runs: on a table that has moved away it completes with BAD_DESCRIPTOR. -/
def rerunHeld (d : Dev) : Dev := retryFar (d.tableHeld.foldl rerunPost { d with tableHeld := [] })

/-! ## The start -/

/-- The table of a barge whose pages lie on this device. -/
def localPages (d : Dev) (b : Barge) : Option (Nat × TableSt) :=
  if b.hdr.pages.dev.toNat = selfSys d || b.hdr.weir then bargeTable d b else none

/-- The barge as the stream shows it: one that moves to be moored is MOORED on its arrival (R303). -/
def streamBarge (b : Barge) (x : SrcSt) : Barge :=
  match x.moorTo with
  | none => { b with hdr := { b.hdr with moorTier := 0, weir := b.hdr.weir && x.dstPages.isNone } }
  | some (tier, ttl) => { b with hdr := { b.hdr with
      moored := true, ttl := ttl * 1000, moorTier := tier } }

/-- The chunks of the owner's stream; on the weir path with the table's record, page records and basin (R194). -/
def srcOwnerChunks (d : Dev) (b : Barge) (x : SrcSt) : List Chunk :=
  if x.dstOwner.isNone then []
  else ownerSecs (streamBarge b x) ++ (if x.weir then (match localPages d b with | some (_, t) => pageSecs d t true | none => []) else [])

/-- The chunks of the page holder's stream when the pages lie here. -/
def srcPageChunks (d : Dev) (b : Barge) (x : SrcSt) : List Chunk :=
  if x.dstPages.isNone then [] else match localPages d b with | some (_, t) => pageSecs d t false | none => []

/-- The payload of FILL_OPEN (Table 7.10); what only a far page holder knows is free (log 47). -/
def srcPay (d : Dev) (b : Barge) (x : SrcSt) : FillOpenPay :=
  let own := srcOwnerChunks d b x
  let add (a c : List Nat) : List Nat := (List.range 8).map (fun i => a.getD i 0 + c.getD i 0)
  if x.dstPages.isNone && !x.weir then
    { dstOwner := x.dstOwner, dstPages := none, layout := none, bases := [], sizes := secSizes own, stepDuringFill := x.stepFill, weir := false, mooring := x.moorTo.isSome }
  else
    match localPages d b with
    | some (_, t) =>
      { dstOwner := x.dstOwner, dstPages := x.dstPages, layout := some (layoutKeyOf t.layout), bases := basesNamed d t
        sizes := secSizes (own ++ srcPageChunks d b x), stepDuringFill := x.stepFill, weir := x.weir, mooring := x.moorTo.isSome }
    | none =>
      { dstOwner := x.dstOwner, dstPages := x.dstPages
        layout := some ⟨Config.farLayout b.hdr.handle, if kvDigest ⟨Config.farLayout b.hdr.handle, [], none⟩ then some (Config.farProj b.hdr.handle) else none⟩
        bases := Config.farBases b.hdr.handle
        sizes := add (secSizes own) (Config.farSizes b.hdr.handle), stepDuringFill := x.stepFill, weir := false, mooring := x.moorTo.isSome }

/-- The page holder of a moving table that is another device. -/
def farPageDev (d : Dev) (b : Barge) (x : SrcSt) : List Nat :=
  if x.dstPages.isSome && (localPages d b).isNone then [holderDev b.hdr.pages] else []

/-- A transfer's first state at its source. -/
def newSrc (xfer : Nat) (dstOwner dstPages : Option Holder) (stepFill weir first : Bool) (moorTo : Option (Nat × Nat)) : SrcSt :=
  { xfer := xfer, stepFill := stepFill, dstOwner := dstOwner, dstPages := dstPages, ready := [], rounds := 0, sent := [], frozen := false
    querying := false, sealPend := false, frozenAt := 0, stepped := false, weir := weir, tries0 := [], tries1 := [], first := first
    moorTo := moorTo }

/-- A lock transfer starts (Tables 7.3, 7.14): the barge is IN_LOCK, FILL_OPEN goes to the home, the destinations and a far page
holder. The origin notes the destinations. -/
def startXfer (d : Dev) (b0 : Barge) (x0 : SrcSt) : Dev :=
  let b := tickBarge d b0
  let x := { x0 with xfer := d.xferNo % 2 ^ 32 }
  let req := b.hdr.request
  let d1 := setBarge { d with xferNo := d.xferNo + 1 } { b with state := .inLock, src := some x }
  let d2 := match getReq d1 req with
    | some r => setReq d1 req { r with dstOwner := x.dstOwner, dstPages := x.dstPages }
    | none => d1
  lockTell d2 (ownerHdr d b x.xfer 0) (.fillOpen (srcPay d b x))
    ([b.hdr.home.toNat] ++ optDev x.dstOwner ++ optDev x.dstPages ++ farPageDev d b x)

/-! ## The end of a transfer at its source -/

/-- LDONE as far as the source knows it (R258). -/
def ldoneOf (d : Dev) (x : SrcSt) : Nat :=
  b2n x.weir + 2 * b2n x.stepped + 2 ^ 16 * (x.rounds % 65536) +
    2 ^ 32 * (if x.frozen then ((d.tclk - x.frozenAt).toNat / 1000) % 2 ^ 32 else 0)

/-- The origin, when it is this device, notes LDONE. -/
def noteLdone (d : Dev) (req : W64) (x : SrcSt) : Dev :=
  match getReq d req with
  | none => d
  | some r => setReq d req { r with ldone := some (ldoneOf d x) }

/-- The source owner's barge as before the transfer (R268): its remainders run again, what waited runs. -/
def srcRestore (d : Dev) (b : Barge) (x : SrcSt) : Dev :=
  let b1 := { tickBarge d b with clockAt := d.tclk, src := none }
  rerunHeld (noteLdone (setBarge d { b1 with state := restState b1 }) b.hdr.request x)

/-- The source owner aborts in FILL (Table 7.14): ABORT to the home, the destinations, a far page holder and the origin. -/
def srcAbort (d : Dev) (b : Barge) (x : SrcSt) (reason : Nat) : Dev :=
  let d1 := lockTell d (ownerHdr d b x.xfer reason) .abort
    ([b.hdr.home.toNat] ++ optDev x.dstOwner ++ optDev x.dstPages ++ farPageDev d b x ++ [b.hdr.originDev.toNat])
  srcRestore d1 b x

/-- A table of this device leaves it (R267): it ends, with its frames retiring. -/
def pagesGone (d : Dev) (handle : W64) : Dev :=
  match findTable d handle.toNat with
  | some (k, _) => destroyTable d k
  | none => d

/-- On the weir path the page holder keeps its table and its frames; the basin has moved (R194). -/
def basinGone (d : Dev) (b : Barge) : Dev :=
  match bargeTable d b with
  | some (_, t) => heapFree d t.hold t.basin
  | none => d

/-- DRAIN_DONE from a source party to the home (R267). -/
def sendDrain (d : Dev) (b : Barge) (x : SrcSt) (party : Nat) : Dev :=
  lockSend d { ownerHdr d b x.xfer 0 with party := BitVec.ofNat 8 party } .drainDone b.hdr.home.toNat

/-- COMMIT at the source owner (R267): parts that have moved are discarded and drained; a part that stays goes on at E + 1. -/
def srcCommit (d : Dev) (b : Barge) (x : SrcSt) (epoch : Nat) (pages : Holder) (handle : W64) : Dev :=
  let pagesHere := x.dstPages.isSome && (localPages d b).isSome
  let d1 := noteLdone d b.hdr.request x
  let d2 := if pagesHere then sendDrain (pagesGone d1 b.hdr.handle) b x 1 else d1
  let d3 := if x.weir then basinGone d2 b else d2
  if x.dstOwner.isSome then rerunHeld (sendDrain (dropBarge d3 b) b x 0)
  else
    let b1 := { tickBarge d b with
      clockAt := d.tclk, src := none, epoch := epoch
      hdr := { (tickBarge d b).hdr with
        pages := pages, handle := if x.dstPages.isSome then handle else b.hdr.handle, weir := b.hdr.weir && x.dstPages.isNone } }
    rerunHeld (setBarge d3 { b1 with state := restState b1 })

/-! ## Rounds and the seal (R260 to R264) -/

/-- Chunks sent to a destination. -/
def sendChunks (d : Dev) (h : LockHdr) (dst : Option Holder) (cs : List Chunk) : Dev :=
  match dst with
  | none => d
  | some x => cs.foldl (fun d c =>
      if holderDev x = selfSys d then dstData d h c.1 c.2.1 c.2.2
      else lockSend d h (.fillData c.1 c.2.1 c.2.2) (holderDev x)) d

/-- What is dirty at the source parties of this device is sent. -/
def srcStream (d : Dev) (b : Barge) (x : SrcSt) : Dev :=
  let own := srcOwnerChunks d b x
  let pgs := srcPageChunks d b x
  let d1 := setBarge d { b with src := some { x with sent := own ++ pgs } }
  let h := ownerHdr d b x.xfer 0
  sendChunks (sendChunks d1 h x.dstOwner (dirtyOf own x.sent)) { h with party := 1 } x.dstPages (dirtyOf pgs x.sent)

/-- The seal: the barge freezes, the final delta goes out, SEAL to the home and the new owner, a far page holder is told, and
the pages' own SEAL follows (R264). -/
def doSeal (d : Dev) (b0 : Barge) (x0 : SrcSt) : Dev :=
  let b := tickBarge d b0
  let x := { x0 with frozen := true, sealPend := false, frozenAt := d.tclk }
  let own := srcOwnerChunks d b x
  let pgs := srcPageChunks d b x
  let h := ownerHdr d b x.xfer 0
  let d1 := lockTell (setBarge d { b with src := some x }) h (.sealMsg (chunkCounts own) (bargeDigest own)) [b.hdr.home.toNat]
  let d2 := srcStream d1 b x
  let d3 := lockTell d2 h (.sealMsg (chunkCounts own) (bargeDigest own))
    (optDev x.dstOwner ++ farPageDev d b x)
  if x.dstPages.isSome && (localPages d b).isSome then
    lockTell d3 { h with party := 1 } (.sealMsg (chunkCounts pgs) (bargeDigest pgs)) (optDev x.dstPages)
  else d3

/-- The dirty bytes of the source parties at the end of a round. -/
def srcDirty (d : Dev) (b : Barge) (x : SrcSt) : Nat :=
  dirtySize (dirtyOf (srcOwnerChunks d b x) x.sent) +
    (if (localPages d b).isSome || x.dstPages.isNone then dirtySize (dirtyOf (srcPageChunks d b x) x.sent) else Config.farDirty x.xfer)

/-- The parties whose READY a transfer needs. -/
def srcNeeds (x : SrcSt) : List Nat := (if x.dstOwner.isSome then [2] else []) ++ (if x.dstPages.isSome then [3] else [])
def allReady (x : SrcSt) : Bool := (srcNeeds x).all (fun p => x.ready.contains p)

/-- A round of the source owner has ended (R262): it seals, now or when the running step has ended, or starts the next. -/
def roundEnd (d : Dev) (b : Barge) (x : SrcSt) : Dev :=
  if x.frozen || !allReady x || x.sealPend then d
  else
    let x1 := { x with rounds := x.rounds + 1 }
    if 8 ≤ x1.rounds ∨ srcDirty d b x1 ≤ 4194304 then
      if b.inStep then setBarge d { b with src := some { x1 with sealPend := true } }
      else doSeal d b x1
    else srcStream d b x1

/-- READY at the source owner; with the last of them round 1 starts, at a far page holder too. -/
def srcReady (d : Dev) (h : LockHdr) : Dev :=
  match getBarge d h.request with
  | none => d
  | some b => match b.src with
    | none => d
    | some x =>
      if x.frozen || h.xfer.toNat ≠ x.xfer || h.epoch.toNat ≠ b.epoch || decide (h.party.toNat < 2) || allReady x then d
      else
        let x1 := { x with ready := h.party.toNat :: x.ready }
        let d1 := setBarge d { b with src := some x1 }
        if allReady x1 then
          lockTell (srcStream d1 b x1) (ownerHdr d b x.xfer 0) .ready (farPageDev d b x)
        else d1

/-! ## The source page holder of a barge that another device owns (Table 7.14) -/

def modPageSrc (d : Dev) (req : W64) (f : PageSrc → PageSrc) : Dev := { d with pageSrcs := tmod d.pageSrcs req.toNat f }
def pageSrcGone (d : Dev) (req : W64) : Dev := { d with pageSrcs := tdel d.pageSrcs req.toNat }

/-- FILL_OPEN from the owner as an instruction: this device holds the table of the request and pages move. -/
def pageOpen (d : Dev) (h : LockHdr) (pay : FillOpenPay) : Dev :=
  if pay.dstPages.isNone || h.sender.toNat == selfSys d || h.party.toNat != 0 || (tget d.pageSrcs h.request.toNat).isSome then d
  else
    match d.tables.find? (fun e => e.2.live && e.2.request == h.request && e.2.dev == (selfDev d).val) with
    | none => d
    | some (k, _) =>
      let q : PageSrc := ⟨h, k, newSrc h.xfer.toNat pay.dstOwner pay.dstPages pay.stepDuringFill false false none⟩
      { d with pageSrcs := tset d.pageSrcs h.request.toNat q }

/-- The page holder's header for a message. -/
def pageHdr (d : Dev) (q : PageSrc) : LockHdr :=
  let part := ((tget d.tables q.table).map (·.part)).getD 0
  lockHdr d q.hdr.request q.hdr.epoch.toNat q.hdr.xfer.toNat 0 part 1 q.hdr.home

/-- What the page holder has not sent as it stands. -/
def pageStream (d : Dev) (q : PageSrc) : Dev :=
  match tget d.tables q.table with
  | none => d
  | some t =>
    let cur := pageSecs d t false
    let d1 := modPageSrc d q.hdr.request (fun y => { y with src := { y.src with sent := cur } })
    sendChunks d1 (pageHdr d q) q.src.dstPages (dirtyOf cur q.src.sent)

/-- Whether a message is of the transfer of a page holder here. -/
def pageMatch (q : PageSrc) (h : LockHdr) : Bool := q.hdr.xfer == h.xfer && q.hdr.epoch == h.epoch

/-- READY passed on by the owner: round 1 of the pages. -/
def pageReady (d : Dev) (h : LockHdr) : Dev :=
  match tget d.pageSrcs h.request.toNat with
  | none => d
  | some q => if pageMatch q h && h.party.toNat == 0 && !q.src.frozen then
      pageStream (modPageSrc d h.request (fun y => { y with src := { y.src with ready := [3] } })) q
    else d

/-- The owner's SEAL at the page holder: the table freezes; final delta and SEAL with the pages' digest. -/
def pageSeal (d : Dev) (h : LockHdr) : Dev :=
  match tget d.pageSrcs h.request.toNat with
  | none => d
  | some q =>
    if !pageMatch q h || h.party.toNat != 0 || q.src.frozen then d
    else
      match tget d.tables q.table with
      | none => d
      | some t =>
        let cur := pageSecs d t false
        let d1 := pageStream d q
        let d2 := modPageSrc d1 h.request (fun y => { y with src := { y.src with frozen := true, frozenAt := d.tclk } })
        lockTell d2 (pageHdr d q) (.sealMsg (chunkCounts cur) (bargeDigest cur)) (optDev q.src.dstPages)

/-- COMMIT at the page holder (R267). -/
def pageCommit (d : Dev) (h : LockHdr) : Dev :=
  match tget d.pageSrcs h.request.toNat with
  | none => d
  | some q =>
    if q.hdr.xfer != h.xfer || q.hdr.epoch.toNat + 1 != h.epoch.toNat || q.src.dstOwner.isNone && !q.src.frozen then d
    else
      let d1 := rerunHeld (pageSrcGone (destroyTable d q.table) h.request)
      lockSend d1 (pageHdr d q) .drainDone q.hdr.home.toNat

/-- ABORT at the page holder. -/
def pageAbort (d : Dev) (h : LockHdr) : Dev :=
  match tget d.pageSrcs h.request.toNat with
  | none => d
  | some q => if pageMatch q h then rerunHeld (pageSrcGone d h.request) else d

/-! ## Messages at the source owner -/

/-- Whether a message is of the barge's transfer (R259). -/
def srcMatch (b : Barge) (x : SrcSt) (h : LockHdr) : Bool := h.xfer.toNat == x.xfer && h.epoch.toNat == b.epoch && b.state != .adrift

/-- COMMIT at the source owner. -/
def srcCommitIn (d : Dev) (h : LockHdr) (pages : Holder) (handle : W64) : Dev :=
  match getBarge d h.request with
  | none => d
  | some b => match b.src with
    | none => d
    | some x =>
      if x.frozen && h.xfer.toNat == x.xfer && h.epoch.toNat == b.epoch + 1 && b.state != .adrift then
        srcCommit d b x h.epoch.toNat pages handle
      else d

/-- ABORT at the source owner: from the home. -/
def srcAbortIn (d : Dev) (h : LockHdr) : Dev :=
  match getBarge d h.request with
  | none => d
  | some b => match b.src with
    | none => d
    | some x => if srcMatch b x h && h.party.toNat == 4 then srcRestore d b x else d

/-- HOME_REPLY at a querying source (Table 7.14). A source that reads there how the transfer ended tells the origin, whose
COMMIT or ABORT may have been lost too, DEDUCED (log 81). -/
def srcReply (d : Dev) (h : LockHdr) (a : HomeAnswer) : Dev :=
  match getBarge d h.request with
  | none => d
  | some b => match b.src with
    | none => d
    | some x =>
      if !x.querying || b.state == .adrift then d
      else if (a.state = 0 ∨ a.state = 4) ∧ a.epoch.toNat = b.epoch + 1 then
        let handle := dstHandle d h.request
        srcCommit (lockTell d { ownerHdr d b x.xfer 0 with epoch := a.epoch } (.commit a.owner a.pages handle) [b.hdr.originDev.toNat])
          b x a.epoch.toNat a.pages handle
      else if (a.state = 1 ∨ a.state = 2 ∨ a.state = 3) ∧ a.xfer.toNat = x.xfer then
        setBarge d { b with src := some { x with querying := false } }
      else srcRestore (lockTell d (ownerHdr d b x.xfer rTimeout) .abort [b.hdr.originDev.toNat]) b x

/-- HOME_REPLY at a querying page holder. -/
def pageReply (d : Dev) (h : LockHdr) (a : HomeAnswer) : Dev :=
  match tget d.pageSrcs h.request.toNat with
  | none => d
  | some q =>
    if !q.src.querying then d
    else if (a.state = 0 ∨ a.state = 4) ∧ a.epoch.toNat = q.hdr.epoch.toNat + 1 then
      pageCommit d { h with xfer := q.hdr.xfer, epoch := a.epoch }
    else if (a.state = 1 ∨ a.state = 2 ∨ a.state = 3) ∧ a.xfer = q.hdr.xfer then
      modPageSrc d h.request (fun y => { y with src := { y.src with querying := false } })
    else rerunHeld (pageSrcGone d h.request)

/-- 2T without a message at sealed source parties: they query the home. -/
def srcQuery (d : Dev) (req : W64) : Dev :=
  let d1 := match getBarge d req with
    | some b => (match b.src with
      | some x => if x.frozen && !x.querying && b.state != .adrift then
          lockSend (setBarge d { b with src := some { x with querying := true } }) (ownerHdr d b x.xfer 0) .homeQuery b.hdr.home.toNat
        else d
      | none => d)
    | none => d
  match tget d1.pageSrcs req.toNat with
  | some q => if q.src.frozen && !q.src.querying then
      lockSend (modPageSrc d1 req (fun y => { y with src := { y.src with querying := true } })) (pageHdr d1 q) .homeQuery q.hdr.home.toNat
    else d1
  | none => d1

/-- RESOLVED at an ADRIFT source: it keeps the barge at E + 2, or discards it (Table 7.14). -/
def srcResolved (d : Dev) (h : LockHdr) (owner pages : Holder) : Dev :=
  let d1 := match getBarge d h.request with
    | none => d
    | some b =>
      if b.state != .adrift || h.epoch.toNat ≠ b.epoch + 2 then d
      else
        let x := b.src.getD (newSrc 0 none none false false false none)
        if chosenDst x.dstOwner x.dstPages owner pages then
          let d1 := if x.dstPages.isSome && (localPages d b).isSome then pagesGone d b.hdr.handle else d
          if x.dstOwner.isSome then rerunHeld (dropBarge d1 b)
          else
            let b1 := { b with
              src := none, epoch := h.epoch.toNat, clockAt := d.tclk
              hdr := { b.hdr with pages := pages, handle := if x.dstPages.isSome then dstHandle d h.request else b.hdr.handle } }
            rerunHeld (setBarge d1 { b1 with state := restState b1 })
        else
          let b1 := { b with src := none, epoch := h.epoch.toNat, clockAt := d.tclk, homeLost := false }
          rerunHeld (setBarge d { b1 with state := restState b1 })
  match tget d1.pageSrcs h.request.toNat with
  | none => d1
  | some q =>
    if q.hdr.epoch.toNat + 2 ≠ h.epoch.toNat then d1
    else if chosenDst q.src.dstOwner q.src.dstPages owner pages then rerunHeld (pageSrcGone (destroyTable d1 q.table) h.request)
    else rerunHeld (pageSrcGone d1 h.request)

end Sys2Proof.Machine
end

