-- ==== Sys2Proof/Machine/Request.lean ====
section
/-! DEFINITION. Requests are submitted, checked, held and admitted (08_serving.md R280 to R284, R289, R290; 07_barges_locks.md R248,
R252 to R255): REQUEST_SUBMIT, REQ_CLASS, BUDGET_SET. -/
namespace Sys2Proof.Machine

/-! ## Classes and budgets -/

def getClass (d : Dev) (f : Fn) (c : Nat) : Option ClassCfg := tget d.classes (f.val * 16 + c)
def cancelOnLate (f : Byte) : Bool := f.getLsbD 0
def recomputeOnDrop (f : Byte) : Bool := f.getLsbD 1
def holdReport (f : Byte) : Bool := f.getLsbD 2
def resumeOnFail (f : Byte) : Bool := f.getLsbD 3

/-- REQ_CLASS (R284). -/
def reqClassRule (p : Post) (d : Dev) : Res :=
  let c := dNat p 16 1
  let fl := dNat p 17 1
  if !dZero p 8 8 || decide (15 < c) || decide (15 < fl) || !dZero p 18 2 || !dZero p 24 40 then .plain .badDescriptor d
  else if dNat p 20 4 = 0 then .plain .badLength d
  else .plain .ok { d with classes := tset d.classes ((poster d p).val * 16 + c) ⟨BitVec.ofNat 8 fl, dNat p 20 4⟩ }

/-- REQ_CLASS (R284). -/
def execReqClass (p : Post) (s : State) : Host.Outcome State Fault Refusal :=
  answer s (perform 0x0504 p (reqClassRule p) s.dev)

/-- BUDGET_SET (R289): a new window opens; without METERED the budget goes and the other fields say nothing. -/
def budgetSetRule (p : Post) (d : Dev) : Res :=
  let f := dNat p 16 1
  let fl := dNat p 17 1
  let w := dNat p 20 4
  if (poster d p).val != 0 || !dZero p 8 8 || decide (63 < f) || decide (1 < fl) || !dZero p 28 36 then .plain .badDescriptor d
  else
    let fn : Fn := fnId f
    let old := tgetD d.budgets f { metered := false, weight := 0, window := 0, limit := 0, used := 0, reserved := 0 }
    if fl = 0 then .plain .ok (grantLeases { d with budgets := tset d.budgets f { old with metered := false } } fn)
    else if dNat p 24 4 = 0 then .plain .badLength d
    else if w < 10000 ∨ 10000000 < w then .plain .badDescriptor d
    else
      let nb : Budget := ⟨true, dNat p 18 2, w, dNat p 24 4, 0, old.reserved⟩
      .plain .ok (grantLeases { d with budgets := tset d.budgets f nb } fn)

/-! ## The checks of Table 8.3 -/

/-- The PROMPT partition of a composition: links 0 and 1 leave one of the posting function. -/
def compPart (d : Dev) (f : Fn) (comp : Nat) : Option PartId :=
  match getLink d comp 0, getLink d comp 1 with
  | some a, some b =>
    let x := getPart d a.src.val
    if a.src = b.src ∧ roleOf x = 1 ∧ x.owner = f then some a.src else none
  | _, _ => none

/-- The lowest-numbered layout of a partition: the one a request's table follows, DEDUCED (log 55). -/
def lowLayout (d : Dev) (part : Nat) : Option (Nat × KvLayout) :=
  ((List.range 16).filterMap (fun i => (getLayout d part i).map (fun l => (i, l)))).head?

/-- The sampling check of bytes 0 to 23 of the parameter block (Table 4.11). -/
def paramSampling (p : Post) : Option Status := samplingCheck (slice p.arg 0 24 ++ List.replicate 8 0)

/-- Whether a reserved byte or bit of the sampling fields is set. -/
def samplingReserved (p : Post) : Bool := decide (3 < leAt p.arg 6 1) || leAt p.arg 7 1 != 0 || leAt p.arg 12 4 != 0

/-- Checks 1 to 4 of Table 8.3. -/
def submitBad (d : Dev) (f : Fn) (p : Post) : Option Status :=
  let vec := rqVector p
  if dNat p 8 8 == 0 || !dZero p 18 2 || !dZero p 56 8 || leAt p.arg 29 1 != 0 || !zeroAt p.arg 56 8 || samplingReserved p ||
      decide (15 < rqClass p) || (getClass d f (rqClass p)).isNone || (compPart d f (rqComp p)).isNone ||
      ((compPart d f (rqComp p)).bind (fun x => lowLayout d x.val)).isNone || (leAt p.arg 6 1).testBit 1 ||
      (vec != 0xFFFF && decide (vecCount f ≤ vec)) || dNat p 32 8 % 4 != 0 || dNat p 40 8 % 64 != 0 || rqOut p % 4096 != 0 then
    some .badDescriptor
  else if rqLog2 p = 0 ∨ paramSampling p = some .badLength then some .badLength
  else if decide (rqLog2 p < 6) || decide (16 < rqLog2 p) || (paramSampling p).isSome then some .badDescriptor
  else if decide (16777216 < rqPrompt p + rqMax p) || decide (1048576 < rqDstate p) || rqDstate p % 64 != 0 then some .badLength
  else none

/-- The charge of a request's prompt in units (R290), and that of its first lease. -/
def promptUnits (d : Dev) (f : Fn) (p : Post) : Nat := match getBudget d f with | some b => rqPrompt p * b.weight | none => 0
def leaseUnits (d : Dev) (f : Fn) (p : Post) : Nat := if (getBudget d f).isSome then 256 * min 64 (rqMax p) else 0

/-- Bytes 24 to 31 of the final completion of a request that ends before it has a slot. -/
def earlyExtra : Nat := stopExtra 0x0500

/-- What R253 says of the home that the map names. -/
def homeRefusal (d : Dev) (req : W64) : Option (Status × Nat) :=
  let i := homeIx d req
  if i = (selfDev d).val then none
  else if !isMember d i then some (.badDescriptor, homeSlot req)
  else if isLost d i ∨ (routePorts d i).isEmpty then some (.targetLost, i)
  else none

/-- The lowest origin slot that no request has. -/
def freeSlot (d : Dev) : Nat :=
  ((List.range (d.requests.length + 1)).find? (fun i => !d.requests.any (fun e => e.2.slot == i))).getD 0

/-! ## Admission -/

/-- The barge of a request that is admitted (R247, R248, R290, R300). -/
def newBarge (d : Dev) (r : ReqSt) (part : PartId) (handle : Nat) (objs : List Nat) : Barge :=
  let p := r.post
  let self := holderOf d part
  let hist := (List.range (rqPrompt p)).map (fun i => BitVec.ofNat 32 (leNat (memRead d.host (dNat p 32 8 + 4 * i) 4)))
  { hdr :=
      { request := rqId p
        sampling := { temperature := BitVec.ofNat 32 (leAt p.arg 0 4), topK := BitVec.ofNat 16 (leAt p.arg 4 2)
                      flags := BitVec.ofNat 8 (leAt p.arg 6 1), topP := BitVec.ofNat 32 (leAt p.arg 8 4)
                      seed := BitVec.ofNat 64 (leAt p.arg 16 8) }
        originDev := sysIx (selfSys d), originFn := r.fn, slot := r.slot, compId := rqComp p, nextPosition := rqPrompt p
        promptLen := rqPrompt p, tokensLeft := rqMax p
        deadline := if rqDeadline p = 0 then none else some (r.left.getD 0 - (d.tclk - r.since).toNat)
        ttl := 0, charged := 0, lease := min 64 (rqMax p), moored := false, fedHigh := rqPrompt p, fedTo := 0, stop := rqStop p
        endTtl := rqEndTtl p, classFlags := r.classFlags, failTtl := r.failTtl, failPos := none, failed := false, weir := false
        late := false, recomputed := false, cancelPend := false, home := r.home, pages := self, handle := BitVec.ofNat 64 handle
        lastOwner := self, moorTier := 0 }
    epoch := 1, state := .underway, part := part, history := hist, dstate := List.replicate (rqDstate p) 0, objs := objs
    homeLost := false, holdBudget := false, holdQuota := false, holdRing := false, holdWeir := false, asked := false
    moorPend := none, mooredNo := 0, src := none, inStep := false, cancelled := none, clockAt := d.tclk, unacked := []
    homeLen := rqPrompt p }

/-- A hold under check 10 or 11 and its HELD completion (R282, R283). -/
def holdReq (d : Dev) (req : W64) (r : ReqSt) (st : Status) (detail : Nat) : Dev :=
  let first := r.phase != .held
  let d1 := setReq d req { r with phase := .held }
  if first && (st == .quotaExceeded || holdReport r.classFlags) then reqNote d1 r kHeld st detail else d1

/-- Checks 10 and 11, and what they let in: budget, table, decode state, barge, home entry, ADMITTED (R281, R290). -/
def tryAdmit (d : Dev) (req : W64) : Dev :=
  match getReq d req with
  | none => d
  | some r =>
    let p := r.post
    let part := r.part.val
    if !budgetFits d r.fn (promptUnits d r.fn p + leaseUnits d r.fn p) then holdReq d req r .budgetHeld 0
    else
      match lowLayout d part with
      | none => holdReq d req r .quotaExceeded 0
      | some (id, l) =>
        match makeTable d part id l req false 0 0 with
        | .lacks n d1 => holdReq d1 req r .quotaExceeded n
        | .ok k d1 =>
          match holdObjs d1 part ((stateSizes (rqPrompt p) (rqDstate p)).map (fun n => (HeapKind.state, n))) with
          | (.inl n, d2) => holdReq (destroyTable d2 k) req r .quotaExceeded n
          | (.inr objs, d2) =>
            let handle := ((tget d2.tables k).map handleOf).getD 0
            let b := newBarge d2 r r.part handle objs
            let d3 := setBarge (reserve d2 r.fn (promptUnits d r.fn p + leaseUnits d r.fn p)) b
            let self := holderOf d r.part
            let room := rqPrompt p + rqMax p
            let d4 := if r.home.toNat = selfSys d then d3
              else lockSend d3 (ownerHdr d3 b 0 0) (.homeEntry self self b.history room r.fn) r.home.toNat
            let d5 := { d4 with homes := tmod d4.homes req.toNat (fun h => { h with history := b.history }) }
            let r1 := { r with
              phase := .live, owner := self, pages := self, prefillRes := promptUnits d r.fn p, leaseRes := leaseUnits d r.fn p
              historyLen := rqPrompt p, left := none }
            reqNote (setReq d5 req r1) r1 kAdmitted .ok 0

/-- Check 9 at a home on this device, and the entry it takes; then checks 10 and 11. A home that is full ends the request. -/
def enterHome (d : Dev) (req : W64) : Dev :=
  match getReq d req with
  | none => d
  | some r =>
    let room := rqPrompt r.post + rqMax r.post
    let self := holderOf d r.part
    if !regionFits d 512 then finalReq d req kEnded .quotaExceeded 0
    else if r.home.toNat ≠ selfSys d then tryAdmit d req
    else if homeFull d req room then finalReq d req kEnded .quotaExceeded 0
    else tryAdmit (homeEnter d req (newHome 1 self self [] room (sysIx (selfSys d)) r.fn)) req

/-- A request's record when it passes the checks before its home is asked. -/
def newReq (d : Dev) (p : Post) (f : Fn) (ring : Nat) (part : PartId) (c : ClassCfg) : ReqSt :=
  let self := holderOf d part
  { post := p, fn := f, ring := ring, slot := freeSlot d, classFlags := c.flags, failTtl := c.failTtl, part := part, phase := .asking
    home := sysIx (homeSys d (rqId p)), epoch := 1, owner := self, pages := self, dstOwner := none, dstPages := none, produced := 0
    consumed := 0, waiting := [], emitted := 0, cancelled := none, late := false, weir := false, recomputed := false, ending := none, failRep := false
    prefillRes := 0, leaseRes := 0, leaseAsk := 0, historyLen := rqPrompt p, modPend := 0, modTimer := false, ringHeld := false
    asks := [], adrift := none, ldone := none, left := if rqDeadline p = 0 then none else some (rqDeadline p * 1000), since := d.tclk }

/-- REQUEST_SUBMIT (R281). A check that ends the request leaves it ended for REQUEST_CANCEL (R298). -/
def requestSubmitRule (p : Post) (d : Dev) : Res :=
  let req := rqId p
  let f := poster d p
  let stop (st : Status) (detail : Nat) : Res :=
    .done st detail earlyExtra { d with ended := (f, req) :: d.ended.filter (fun e => e != (f, req)) }
  match submitBad d f p with
  | some st => stop st 0
  | none =>
    if rqPrompt p = 0 ∨ rqMax p = 0 then stop .ok 0
    else if 1048576 ≤ d.requests.length then stop .quotaExceeded 0
    else if (match getBudget d f with | some b => decide (256 * b.limit < rqPrompt p * b.weight) | none => false) then stop .quotaExceeded 0
    else
      match homeRefusal d req with
      | some e => stop e.1 e.2
      | none =>
        let here := homeIx d req = (selfDev d).val
        if (getReq d req).isSome ∨ (here ∧ (getHome d req).isSome) then stop .badDescriptor 0
        else
          match p.src, compPart d f (rqComp p), getClass d f (rqClass p) with
          | .ring _ ring _, some part, some c =>
            let r := newReq d p f ring part c
            let d1 := setReq { d with ended := d.ended.filter (fun e => e != (f, req)) } req r
            if here then .later (enterHome d1 req)
            else .later (lockSend d1 (lockHdr d req 0 0 0 0xFF 5 r.home) .homeQuery r.home.toNat)
          | _, _, _ => stop .badDescriptor 0

/-- The home's answer to the question of an admission: an unknown request may be admitted, a live one may not (R246, R281). -/
def askAnswer (d : Dev) (h : LockHdr) (a : HomeAnswer) : Dev :=
  match getReq d h.request with
  | some r =>
    if r.phase != .asking || h.sender != r.home then d
    else if a.state = 6 then enterHome d h.request
    else finalReq d h.request kEnded .badDescriptor 0
  | none => d

/-! ## Cancellation by host software (R297, R298) -/

/-- REQUEST_CANCEL (R298). -/
def requestCancelRule (p : Post) (d : Dev) : Res :=
  let req := dHandle p
  let f := poster d p
  if !dZero p 16 48 then .plain .badDescriptor d
  else
    match getReq d req with
    | some r =>
      if r.fn ≠ f then .plain .badDescriptor d
      else if r.cancelled.isSome then .done .ok 1 0 d
      else .plain .ok (cancelReq d req rCancel)
    | none => if d.ended.contains (f, req) then .done .ok 1 0 d else .plain .badDescriptor d

/-- The request that a cancel doorbell's value names. -/
def doorbellReq (d : Dev) (f : Fn) (v : W64) : Option W64 :=
  if v.extractLsb' 20 12 != 0 then none
  else (d.requests.find? (fun e => e.2.fn == f && e.2.slot == bits v.toNat 0 20 && e.1 % 2 ^ 32 == bits v.toNat 32 32)).map
    (fun e => BitVec.ofNat 64 e.1)

end Sys2Proof.Machine
end

