-- ==== Sys2Proof/Machine/Owner.lean ====
section
/-! DEFINITION. What the owner of a barge does outside the lock's own phases (05_partitions.md R182, R193; 07_barges_locks.md R251, R271,
Table 7.3; 08_serving.md R299, R302 to R306, R308): the first transfer with its weir path, release, cancellation, mooring, resumption, and
the descriptors that the origin passes on. -/
namespace Sys2Proof.Machine

/-- REPORT from the owner to the origin (Table 8.11). -/
def report (d : Dev) (b : Barge) (kind : Nat) (st : Status) (detail : Nat) : Dev :=
  lockSend d (ownerHdr d b 0 0) (.report kind st (BitVec.ofNat 64 detail) (b.src.bind (·.dstOwner)) (b.src.bind (·.dstPages))) b.hdr.originDev.toNat

/-! ## Release (Table 7.3) -/

/-- The live tables of a request that this device holds. -/
def tablesOf (d : Dev) (req : W64) : List Nat := (d.tables.filter (fun e => e.2.live && e.2.request == req && req != 0)).map (·.1)

/-- What this device holds of a request beside a home record: barge, tables, copies of a transfer. What waited for the tables runs and
finds them gone. -/
def discardHere (d : Dev) (req : W64) : Dev :=
  let d1 := match getBarge d req with
    | some b => { dropBarge d b with cancelled := if b.inStep then req :: d.cancelled.filter (· != req) else d.cancelled.filter (· != req) }
    | none => d
  let d2 := (tablesOf d1 req).foldl destroyTable d1
  rerunHeld (dstRelease (pageSrcGone d2 req) req)

/-- The owner releases its barge: the home frees entry and history and tells the parties (Table 7.13). Without a home the owner tells
them itself. -/
def releaseBarge (d : Dev) (b : Barge) (reason : Nat) : Dev :=
  let h := ownerHdr d b 0 reason
  lockTell (discardHere d b.hdr.request) h .release
    (if b.homeLost then [holderDev b.hdr.pages, b.hdr.originDev.toNat].filter (· != b.hdr.home.toNat) ++ [b.hdr.home.toNat]
     else [b.hdr.home.toNat])

/-! ## Cancellation at the owner (R299, Table 7.16) -/

/-- A barge outside the lock is released at once, one in a step when the step ends; its rows are squashed meanwhile. -/
def ownerCancelNow (d : Dev) (b : Barge) (reason : Nat) : Dev :=
  let req := b.hdr.request
  if b.inStep then
    cancelHeld { setBarge d { b with cancelled := some reason } with cancelled := req :: d.cancelled.filter (· != req) }
  else releaseBarge d b reason

/-- CANCEL at the owner. A device that owns the barge no more passes it to the home, which forwards it (Table 7.16, DRAIN). -/
def ownerCancel (d : Dev) (h : LockHdr) : Dev :=
  match getBarge d h.request with
  | none => if h.party.toNat = 5 then lockSend d { h with party := 0 } .cancel h.home.toNat else d
  | some b =>
    let why := h.reason.toNat
    if h.epoch.toNat ≠ b.epoch ∨ b.state = .adrift then d
    else match b.src with
      | none => ownerCancelNow d b why
      | some x =>
        if x.frozen then lockSend d (ownerHdr d b x.xfer why) .cancel b.hdr.home.toNat
        else
          let d1 := srcAbort d b x rCancel
          match getBarge d1 h.request with
          | some b1 => ownerCancelNow d1 b1 why
          | none => d1

/-! ## The first transfer (R182, R193) -/

/-- The partition that a queue pair of a link reaches. -/
def qpHolder (d : Dev) (q : Nat) : Option Holder := (tget d.qps q).map (fun Q => ⟨Q.dev, Config.peerPart q⟩)

/-- The queue pairs of a link in the order in which a request tries them. -/
def linkOrder (d : Dev) (comp link : Nat) (req : W64) : List Nat :=
  match getLink d comp link with
  | none => []
  | some l => ((List.range l.qpCount).map (fun i => l.qpBase + (req.toNat + i) % l.qpCount)).filter (fun q => (qpHolder d q).isSome)

/-- No destination: the barge is held, and the first time the hold is reported. -/
def holdNoDest (d : Dev) (b : Barge) : Dev :=
  let d1 := setBarge d { b with holdWeir := true }
  if b.holdWeir then d1 else report d1 b kHeld .quotaExceeded 0

/-- The next attempt of the first transfer: the head of each list is the queue pair tried now; with no pages destination left the weir
path, where R193 allows it. -/
def tryFirst (d : Dev) (b : Barge) (t0 t1 : List Nat) : Dev :=
  match t1 with
  | [] => holdNoDest d b
  | q1 :: _ =>
    match t0 with
    | q0 :: _ =>
      startXfer d b { newSrc 0 (qpHolder d q1) (qpHolder d q0) false false true none with tries0 := t0, tries1 := t1 }
    | [] =>
      let weirEn := (getLink d b.hdr.compId 0).any (·.weir)
      if weirEn && (qpHolder d q1).any (fun x => inPod d x.dev.toNat) then
        startXfer d b { newSrc 0 (qpHolder d q1) none false true true none with tries1 := t1 }
      else holdNoDest d b

/-- The first transfer of a request, at the end of prefill. -/
def firstXfer (d : Dev) (b : Barge) : Dev :=
  tryFirst d b (linkOrder d b.hdr.compId 0 b.hdr.request) (linkOrder d b.hdr.compId 1 b.hdr.request)

/-- WEIR_RETRY (R193): the destinations of a held barge are tried again. -/
def weirRetryAct (d : Dev) (req : W64) : Dev :=
  match getBarge d req with
  | none => d
  | some b => if b.holdWeir && b.state == .underway && b.src.isNone && !b.inStep then firstXfer d b else d

/-- REFUSE at the source owner in FILL (Table 7.14): the transfer aborts; the first transfer goes on to the next queue pair of the link
that refused. -/
def srcRefuse (d : Dev) (h : LockHdr) : Dev :=
  match getBarge d h.request with
  | none => d
  | some b => match b.src with
    | none => d
    | some x =>
      if !srcMatch b x h || x.frozen || decide (h.party.toNat < 2) then d
      else
        let d1 := srcAbort d b x h.reason.toNat
        match x.first, getBarge d1 h.request with
        | true, some b1 =>
          tryFirst d1 b1 (if h.party.toNat = 3 then x.tries0.drop 1 else x.tries0) (if h.party.toNat = 2 then x.tries1.drop 1 else x.tries1)
        | _, _ => d1

/-- A first transfer that ended without a commit leaves its barge held (R193). -/
def afterFirst (before : Option Barge) (d : Dev) (req : W64) : Dev :=
  match before, getBarge d req with
  | some b0, some b =>
    if b0.src.any (·.first) && b.src.isNone && b.state == .underway && b.epoch == b0.epoch then holdNoDest d b else d
  | _, _ => d

/-! ## Mooring (R303, R304) -/

/-- The pages of T3 that a partition's heap may take: those granted with WRITE. -/
def t3Avail (x : PartSt) : List (Nat × Nat) := (x.grants3.filter (fun g => g.2.write)).map (fun g => (g.1, 1))

/-- A moored barge's table moved to host memory when its tier is HOST: whether it could be. -/
def moorPages (d : Dev) (b : Barge) (tier : Nat) : Option Dev :=
  if tier ≠ 2 then some d
  else match bargeTable d b with
    | none => some d
    | some (k, t) => if t.atHost then some d else tableToHost (t3Avail (getPart d t.hold)) d k t

/-- A barge moored where it is; one that is in the lock will be MOORED when the transfer has ended. -/
def moorHere (d : Dev) (b0 : Barge) (tier ttl : Nat) : Dev :=
  let b := tickBarge d b0
  let b1 := { b with
    hdr := { b.hdr with moored := true, ttl := ttl * 1000, moorTier := tier, lastOwner := holderOf d b.part }
    state := if b.src.isSome then b.state else .moored
    moorPend := none, mooredNo := d.mooredNo }
  report { setBarge d b1 with mooredNo := d.mooredNo + 1 } b1 kMoored .ok ttl

/-- REQUEST_MOOR takes effect (R303): STAY, or a transfer of the owner's part to the page holder's partition. A T3 quota too small for
the pages of this device leaves the barge where it was. -/
def moorNow (d : Dev) (b : Barge) (tier ttl : Nat) : Dev :=
  let self := holderOf d b.part
  if tier = 0 then moorHere d b 0 ttl
  else if (localPages d b).isSome && (moorPages d b tier).isNone then report d b kMoored .quotaExceeded 0
  else if b.hdr.pages = self then
    match moorPages d b tier with
    | none => report d b kMoored .quotaExceeded 0
    | some d1 => moorHere d1 b tier ttl
  else
    let b1 := { b with moorPend := none, hdr := { b.hdr with lastOwner := self } }
    startXfer (setBarge d b1) b1 (newSrc 0 (some b.hdr.pages) none false false false (some (tier, ttl)))

/-- A barge that has arrived to be moored (R303): the new owner moves the pages to T3 for HOST and reports. -/
def moorArrive (d : Dev) (req : W64) : Dev :=
  match getBarge d req with
  | none => d
  | some b =>
    if b.state ≠ .moored ∨ b.hdr.moorTier = 0 then d
    else match moorPages d b b.hdr.moorTier with
      | some d1 => report d1 b kMoored .ok (b.hdr.ttl / 1000)
      | none =>
        report (setBarge d { b with hdr := { b.hdr with moorTier := 1 } }) b kMoored .quotaExceeded 0

/-- REQUEST_MOOR at the owner (R304). -/
def orderMoor (d : Dev) (b : Barge) (p : Post) : Dev :=
  let tier := dNat p 16 1
  let ttl := dNat p 24 4
  let noT3 := match localPages d b with | some (_, t) => t3QuotaOf (getPart d t.hold) == 0 | none => false
  if (b.state != .moored && b.state != .underway) || (b.hdr.weir && tier != 0) || (tier == 2 && noT3) then report d b kMoored .badDescriptor 0
  else if b.inStep then setBarge d { b with moorPend := some (tier, ttl) }
  else moorNow d b tier ttl

/-! ## Resumption (R306) -/

/-- A copy of an object in host memory brought back to T1 under a new number. -/
def copyIn (n : Nat) (r : Option (Dev × List (Nat × Nat))) (id : Nat) : Option (Dev × List (Nat × Nat)) :=
  match r with
  | none => none
  | some (d, m) =>
    match objIn (getPart d n).spill id with
    | none => some (d, m)
    | some (kind, size) =>
      let bs := objBytes d n id size
      let (nid, d1) := freshObj d
      match holderAlloc d1 n [(kind, nid, size)] with
      | .lacks _ _ => none
      | .ok d2 => some (match heapAddr (getPart d2 n) nid with | some a => hbmWrite d2 a bs | none => d2, (id, nid) :: m)

/-- The pages of a table moored at HOST return to T1; none when T1 cannot take them. -/
def tableFromHost (d : Dev) (k : Nat) (t : TableSt) : Option Dev :=
  let objs := tableObjs t
  (objs.foldl (copyIn t.hold) (some (d, []))).map (fun r =>
    let ren := renamed r.2
    let d1 := (r.2.map (·.1)).foldl (fun d o => heapFree d t.hold o) r.1
    { d1 with tables := tmod d1.tables k (fun t1 => { t1 with
        epoch := t1.epoch + 1, atHost := false, basin := ren t1.basin
        entries := t1.entries.map (fun e => (e.1, { e.2 with frame := ren e.2.frame, dig := e.2.dig.map ren })) }) })

/-- The lowest page that is dropped and its run, with the first position it holds. -/
def droppedRun (d : Dev) (b : Barge) : Option (Nat × Nat) :=
  match bargeTable d b with
  | none => none
  | some (_, t) => firstRun ((t.entries.filter (fun e => e.2.dropped)).map (·.1))

/-- From where REFEED feeds the history again (R306): after a failed step from where that step began, else from the committed length that
every layer in use has; or from the first dropped run. -/
def refeedAt (d : Dev) (b : Barge) : Nat :=
  match bargeTable d b with
  | none => b.hdr.fedTo
  | some (_, t) =>
    let held := if b.hdr.failed then b.hdr.fedTo else min b.hdr.fedTo (maxList (t.layers.map (·.len)))
    match droppedRun d b with
    | some r => min held (r.1 * kvPage t.layout)
    | none => held

/-- Each layer cut back to `pos`, where it is longer (R306). -/
def refeedTable (d : Dev) (k pos : Nat) : Dev :=
  match tget d.tables k with
  | none => d
  | some t =>
    let ps := kvPage t.layout
    let t1 := unmapPages d k t (fun q => decide (pos ≤ q * ps))
    commitTable d k { t1 with
      layers := t1.layers.map (fun (y : PtLayer) =>
        if pos < y.len then { len := pos, tent := 0, pages := if pos % ps = 0 then pos / ps else y.pages } else { y with tent := 0 }) }

/-- Each layer cut back so that the positions after it are fed again from the history. -/
def refeed (d : Dev) (b : Barge) : Dev :=
  let at_ := refeedAt d b
  let d1 := match bargeTable d b with | some (k, _) => refeedTable d k at_ | none => d
  modBarge d1 b.hdr.request (fun b => { b with
    hdr := { b.hdr with failed := false, fedTo := min b.hdr.fedTo at_, fedHigh := max b.hdr.fedHigh (b.history.length - 1) } })

/-- Steps 3 to 5 of R306: REFEED, the given tokens, further tokens, a new deadline; then RESUMED. The home makes room and takes the given
tokens. -/
def resumeHere (d : Dev) (b0 : Barge) (p : Post) (toks : List W32) : Dev :=
  let b := tickBarge d b0
  let fl := dNat p 17 1
  let req := b.hdr.request
  let d1 := if fl.testBit 0 || b.hdr.failed then refeed (setBarge d b) b else setBarge d b
  let more := dNat p 24 4
  let d2 := modBarge d1 req (fun x =>
    { x with
      state := .underway, mooredNo := 0, history := x.history ++ toks, clockAt := d.tclk
      hdr := { x.hdr with
        moored := false, ttl := 0, moorTier := 0, nextPosition := x.hdr.nextPosition + toks.length, tokensLeft := x.hdr.tokensLeft + more
        fedHigh := if toks.isEmpty then x.hdr.fedHigh else x.history.length + toks.length
        deadline := if fl.testBit 1 then some (dNat p 28 4 * 1000) else x.hdr.deadline } })
  let h := ownerHdr d2 b 0 0
  let d3 := if toks.length + more = 0 then d2 else lockSend d2 h (.moreRoom (toks.length + more)) b.hdr.home.toNat
  let d4 := if toks.isEmpty || b.homeLost then d3 else lockSend d3 h (.token b.history.length toks) b.hdr.home.toNat
  report d4 b kResumed .ok b.epoch

/-- The lock-keeper resumes a barge itself (R307, R308), with REFEED and nothing more. -/
def resumeSelf (d : Dev) (req : W64) : Dev :=
  match getBarge d req with
  | none => d
  | some b =>
    let d1 := refeed d b
    report (modBarge d1 req (fun x => { x with state := if x.src.isSome then x.state else .underway, hdr := { x.hdr with moored := false } })) b kResumed .ok b.epoch

/-- The GENERATION owner that REQUEST_RESUME names; 0xFFFF stands for the owner before mooring. -/
def resumeDst (b : Barge) (p : Post) : Holder :=
  if dNat p 18 2 = 0xFFFF then b.hdr.lastOwner else ⟨BitVec.ofNat 14 (dNat p 18 2), partId (dNat p 20 1)⟩

/-- REQUEST_RESUME at the owner (R306). An owner that is not a GENERATION partition transfers its part first; the origin sends the order
again to the new owner. -/
def orderResume (d : Dev) (b : Barge) (p : Post) (toks : List W32) : Dev :=
  if b.state ≠ .moored then report d b kResumed .badDescriptor 0
  else
    let back := match localPages d b with
      | some (k, t) => if t.atHost then tableFromHost d k t else some d
      | none => some d
    match back with
    | none => report d b kResumed .quotaExceeded 0
    | some d1 =>
      let dst := resumeDst b p
      if roleOf (getPart d1 b.part.val) = 2 ∨ dst = holderOf d b.part then resumeHere d1 b p toks
      else startXfer d1 b (newSrc 0 (some dst) none false (b.hdr.weir && decide (dst ≠ b.hdr.pages)) false none)

/-! ## LOCK_MOVE at the owner (R257) -/

def lmOwn (p : Post) : Bool := (dNat p 16 1).testBit 0
def lmPages (p : Post) : Bool := (dNat p 16 1).testBit 1
def lmDstOwner (p : Post) : Option Holder := if lmOwn p then some ⟨BitVec.ofNat 14 (dNat p 20 2), partId (dNat p 22 1)⟩ else none
def lmDstPages (p : Post) : Option Holder := if lmPages p then some ⟨BitVec.ofNat 14 (dNat p 24 2), partId (dNat p 26 1)⟩ else none

/-- What keeps a LOCK_MOVE from starting. -/
def moveBad (d : Dev) (b : Barge) (p : Post) : Bool :=
  (b.state != .moored && b.state != .underway) || (!lmOwn p && !lmPages p) || b.homeLost ||
    lmDstOwner p == some (holderOf d b.part) || lmDstPages p == some b.hdr.pages

/-- The transfer that a LOCK_MOVE starts. On the weir path the basin goes with the decode state (R194). -/
def moveSrc (b : Barge) (p : Post) : SrcSt :=
  newSrc 0 (lmDstOwner p) (lmDstPages p) ((dNat p 16 1).testBit 2) (b.hdr.weir && lmOwn p && !lmPages p) false none

/-- LOCK_MOVE at the owner; the refusal goes to the origin as an ABORT whose REASON means BAD_DESCRIPTOR. -/
def orderMove (d : Dev) (b : Barge) (p : Post) : Dev :=
  if moveBad d b p then lockSend d (ownerHdr d b (d.xferNo % 2 ^ 32) rRole) .abort b.hdr.originDev.toNat
  else startXfer d b (moveSrc b p)

/-- A descriptor passed on by the origin. -/
def ownerOrder (d : Dev) (h : LockHdr) (desc : BitVec 512) (toks : List W32) : Dev :=
  match getBarge d h.request with
  | none => d
  | some b =>
    let p : Post := ⟨.step b.part 0, desc, [], [], []⟩
    if h.epoch.toNat ≠ b.epoch ∨ h.party.toNat ≠ 5 then d
    else match opcode p with
      | 0x0440 => orderMove d b p
      | 0x0502 => orderMoor d b p
      | 0x0503 => orderResume d b p toks
      | 0x0443 => setBarge d { b with homeLost := false, hdr := { b.hdr with home := h.home } }
      | _ => d

/-! ## Messages of the origin -/

/-- LEASE_GRANT (R291): 0 holds the barge with BUDGET_HELD. -/
def ownerLease (d : Dev) (h : LockHdr) (n : Nat) : Dev :=
  match getBarge d h.request with
  | none => d
  | some b =>
    if h.epoch.toNat ≠ b.epoch ∨ b.state = .adrift then d
    else if n = 0 then setBarge d { b with holdBudget := true }
    else setBarge d { b with holdBudget := false, asked := false, hdr := { b.hdr with lease := b.hdr.lease + n } }

/-- RING_HOLD and RING_FREE (R294). -/
def ownerRing (d : Dev) (h : LockHdr) (on : Bool) : Dev :=
  match getBarge d h.request with
  | none => d
  | some b => if h.epoch.toNat ≠ b.epoch ∨ b.state = .adrift then d else setBarge d { b with holdRing := on }

/-! ## ADRIFT (R271) -/

/-- DETAIL of OWNERSHIP_UNRESOLVED. -/
def adriftDetail (srcDev dstDev : Nat) (srcCopy dstCopy : Bool) : Nat :=
  srcDev % 2 ^ 14 + dstDev % 2 ^ 14 * 2 ^ 14 + 2 ^ 32 * b2n srcCopy + 2 ^ 33 * b2n dstCopy

/-- The parties of this device that have queried in vain become ADRIFT and report it. -/
def goAdrift (d : Dev) (req : W64) : Dev :=
  let self := selfSys d
  let d1 : Dev := match getBarge d req with
    | some b => match b.src with
      | some x =>
        if x.querying && b.state != BState.adrift then
          let dst := (x.dstOwner.or x.dstPages).map holderDev
          report (setBarge d { tickBarge d b with state := BState.adrift }) b kAdrift .ownershipUnresolved (adriftDetail self (dst.getD self) true false)
        else d
      | none => d
    | none => d
  (d1.dsts.filter (fun x => x.hdr.request == req && x.querying && !x.adrift)).foldl (fun (d : Dev) (x : DstSt) =>
    let dst := ((x.pay.dstOwner.or x.pay.dstPages).map holderDev).getD self
    let d2 := dstSet d { x with adrift := true }
    match streamHdr x.chunks with
    | some hd => lockSend d2 (dstHdr d x 0) (.report kAdrift .ownershipUnresolved
        (BitVec.ofNat 64 (adriftDetail x.hdr.sender.toNat dst false x.verified)) x.pay.dstOwner x.pay.dstPages) hd.originDev.toNat
    | none => d2) d1

end Sys2Proof.Machine
end

