-- ==== Sys2Proof/Machine/Origin.lean ====
section
/-! DEFINITION. What the origin of a request makes of the lock and serving messages (07_barges_locks.md R258, R271 to R273;
08_serving.md R283, R291, R293, R296 to R298, R305), and the descriptors of Tables 7.6 and 8.13 that are posted there. -/
namespace Sys2Proof.Machine

/-! ## Messages at the origin -/

/-- The live request that a message is about, when it carries the barge's epoch (R259). -/
def originReq (d : Dev) (h : LockHdr) : Option ReqSt :=
  (getReq d h.request).bind (fun r => if r.phase = .live ∧ h.epoch.toNat = r.epoch then some r else none)

/-- The descriptors of one opcode that wait for a request complete, and leave. -/
def endOps (d : Dev) (req : W64) (op : Nat) (st : Status) (detail reason : Nat) : Dev :=
  match getReq d req with
  | none => d
  | some r =>
    let mine := r.asks.filter (fun p => opcode p == op)
    mine.foldl (fun d p => complete d p st detail (if op = 0x0440 then ldoneOut req r reason else 0))
      (setReq d req { r with asks := r.asks.filter (fun p => opcode p != op) })

/-- COMMIT (R265): the origin notes epoch, owner and page holder; a ring that is held is held at the new owner too. -/
def originCommit (d : Dev) (h : LockHdr) (owner pages : Holder) : Dev :=
  match getReq d h.request with
  | none => d
  | some r =>
    if r.phase ≠ .live ∨ h.epoch.toNat ≠ r.epoch + 1 then d
    else
      let r1 := { r with epoch := r.epoch + 1, owner := owner, pages := pages, dstOwner := none, dstPages := none, adrift := none
                         weir := r.weir || r.ldone.any (fun v => v.testBit 0) }
      let d1 := setReq d h.request r1
      if r.ringHeld then toOwner d1 h.request r1 .ringHold 0 else d1

/-- Every source party has drained: LOCK_MOVE completes (R258, R267); a resumption goes on at the new owner (R306). -/
def originDrain (d : Dev) (h : LockHdr) : Dev :=
  match originReq d h with
  | none => d
  | some r =>
    let d1 := endOps d h.request 0x0440 .ok r.epoch 0
    match r.asks.find? (fun p => opcode p == 0x0503) with
    | some p => toOwner d1 h.request r
        (.order p.desc ((List.range (p.arg.length / 4)).map (fun i => BitVec.ofNat 32 (leAt p.arg (4 * i) 4)))) 0
    | none => d1

/-- ABORT: the transfer that a descriptor asked for has ended (R258, Table 7.9). -/
def originAbort (d : Dev) (h : LockHdr) : Dev :=
  match originReq d h with
  | none => d
  | some r =>
    let why := h.reason.toNat
    let d1 := setReq d h.request { r with dstOwner := none, dstPages := none }
    [0x0440, 0x0502, 0x0503].foldl (fun d op => endOps d h.request op (reasonStatus why) (if op = 0x0440 then r.epoch else 0) why) d1

/-- LOSS (R273): the request ends with STATE_LOST. -/
def originLoss (d : Dev) (h : LockHdr) (detail : W64) : Dev :=
  match getReq d h.request with
  | none => d
  | some r =>
    if r.cancelled.isSome then d
    else finalReq (endAsks d h.request .stateLost rLost) h.request kLost .stateLost detail.toNat

/-- MOORING_EXPIRED on the function's event ring (R305, R507). -/
def mooringEvent (d : Dev) (req : W64) (r : ReqSt) : Dev :=
  raiseFn d r.fn 0x0700 (unitOf 0x0D r.fn.val) req.toNat r.slot

/-- RELEASE from the home: the request ends with FUNCTION_RESET after a reset; else its generation has ended, and its last record
ends it, or its mooring has expired. -/
def originRelease (d : Dev) (h : LockHdr) : Dev :=
  match getReq d h.request with
  | none => d
  | some r =>
    if r.phase ≠ .live ∨ r.cancelled.isSome then d
    else if h.reason.toNat = rReset then finalReq (endAsks d h.request .functionReset rReset) h.request kEnded .functionReset 0
    else if h.reason.toNat ≠ 0 ∨ r.ending.isSome ∨ (r.waiting.any (·.last) && rqEndTtl r.post == 0) then d
    else
      let d1 := mooringEvent (endAsks d h.request .badDescriptor 0) h.request r
      if r.waiting.isEmpty then finalReq d1 h.request kEnded (okStatus r) r.historyLen
      else match getReq d1 h.request with
        | some r1 => setReq d1 h.request { r1 with ending := some (.ok, 0) }
        | none => d1

/-- RESOLVED (R272): the chosen party owns at E + 2. -/
def originResolved (d : Dev) (h : LockHdr) (owner pages : Holder) : Dev :=
  match getReq d h.request with
  | none => d
  | some r =>
    if r.phase ≠ .live ∨ h.epoch.toNat ≠ r.epoch + 2 then d
    else
      let r1 := { r with
        epoch := r.epoch + 2, adrift := none, dstOwner := none, dstPages := none
        owner := owner, pages := pages }
      endOps (setReq d h.request r1) h.request 0x0441 .ok r1.epoch 0

/-- A home that is full refuses a new entry (R255, R574). -/
def originRefuse (d : Dev) (h : LockHdr) : Dev :=
  match getReq d h.request with
  | none => d
  | some r =>
    if h.party.toNat ≠ 4 ∨ h.sender ≠ r.home then d
    else if r.phase = .asking then finalReq d h.request kEnded .quotaExceeded 0
    else endOps d h.request 0x0441 .quotaExceeded 0 0

/-- An ADRIFT report (R271): the first one posts its completion and ends a LOCK_MOVE; a later one adds the copy it tells of. -/
def originAdrift (d : Dev) (req : W64) (r : ReqSt) (detail : W64) (dstOwner dstPages : Option Holder) : Dev :=
  match r.adrift with
  | some v => setReq d req { r with adrift := some (v ||| (detail &&& 0x300000000)) }
  | none =>
    let d1 := reqNote (setReq d req { r with adrift := some detail, dstOwner := dstOwner, dstPages := dstPages }) r kAdrift .ownershipUnresolved detail.toNat
    [0x0440, 0x0502, 0x0503].foldl (fun d op => endOps d req op .ownershipUnresolved (if op = 0x0440 then r.epoch else 0) 0) d1

/-- REPORT (Table 8.11). RESUMED without a REQUEST_RESUME and not after a failed step is a recomputation under R308. -/
def originReport (d : Dev) (h : LockHdr) (kind : Nat) (st : Status) (detail : W64) (dstOwner dstPages : Option Holder) : Dev :=
  match originReq d h with
  | none => d
  | some r =>
    let req := h.request
    if r.cancelled.isSome ∨ r.ending.isSome then d
    else if kind = kAdrift then originAdrift d req r detail dstOwner dstPages
    else if kind = kEnded then
      if r.waiting.isEmpty then finalReq (endAsks d req st 0) req kEnded st detail.toNat
      else setReq d req { r with ending := some (st, detail) }
    else if kind = kMoored then
      if st = .ok then endOps (reqNote d r kMoored .ok detail.toNat) req 0x0502 .ok 0 0 else endOps d req 0x0502 st 0 0
    else if kind = kResumed then
      if st ≠ .ok then endOps d req 0x0503 st 0 0
      else
        let again := !r.asks.any (fun p => opcode p == 0x0503) && recomputeOnDrop r.classFlags && !r.failRep
        let r1 := { r with recomputed := r.recomputed || again, failRep := false }
        endOps (reqNote (setReq d req r1) r1 kResumed .ok detail.toNat) req 0x0503 .ok 0 0
    else if kind = kHeld then
      if st = .quotaExceeded || holdReport r.classFlags then reqNote d r kHeld st detail.toNat else d
    else if kind = kStepFailed ∨ kind = kDropped then
      let r1 := { r with failRep := kind == kStepFailed }
      reqNote (setReq d req r1) r1 kind st detail.toNat
    else d

/-- OUTPUT (R293, R298): records of a cancelled request are discarded; given positions that steps have fed are charged. -/
def originOutput (d : Dev) (h : LockHdr) (recs : List OutRec) (len fed : Nat) : Dev :=
  match originReq d h with
  | none => d
  | some r =>
    if r.cancelled.isSome then d
    else
      let d1 := setReq d h.request { r with historyLen := len }
      emitRecs (if fed = 0 then d1 else chargePositions d1 h.request fed) h.request recs

/-- LEASE_ASK (R291): granted when it fits, else the barge is held. -/
def originLease (d : Dev) (h : LockHdr) (n : Nat) : Dev :=
  match originReq d h with
  | none => d
  | some r =>
    if r.cancelled.isSome ∨ n = 0 then d
    else
      let d1 := setReq d h.request { r with leaseAsk := n }
      if budgetFits d1 r.fn (256 * n) then grantLease d1 h.request
      else
        let d2 := toOwner d1 h.request r (.leaseGrant 0) 0
        if holdReport r.classFlags then reqNote d2 r kHeld .budgetHeld 0 else d2

/-- CANCEL with REASON LATE from the owner (R302). -/
def originLate (d : Dev) (h : LockHdr) : Dev :=
  match originReq d h with
  | none => d
  | some r => if r.cancelled.isSome ∨ h.reason.toNat ≠ rLate ∨ h.sender ≠ r.owner.dev then d else cancelReq d h.request rLate

/-! ## The descriptors of Table 7.6 -/

/-- The live request whose barge a descriptor names, for its origin function or the PF (R256). -/
def ctlReq (d : Dev) (p : Post) : Option ReqSt :=
  (getReq d (dHandle p)).bind (fun r =>
    if r.phase = .live ∧ r.cancelled.isNone ∧ (r.fn = poster d p ∨ (poster d p).val = 0) then some r else none)

/-- Whether a queue-pair field breaks Table 7.6: its upper byte is reserved, all of it for a destination in the same pod or none. -/
def qpFieldBad (p : Post) (off : Nat) (src : Nat) (dst : Option Holder) : Bool :=
  match dst with
  | none => !dZero p off 4
  | some x => if x.dev.toNat / 64 = src / 64 then !dZero p off 4 else dNat p (off + 3) 1 != 0

/-- The reserved fields and ranges of LOCK_MOVE. -/
def moveFields (p : Post) (r : ReqSt) : Bool :=
  decide (7 < dNat p 16 1) || !dZero p 17 3 || !dZero p 23 1 || !dZero p 27 1 || !dZero p 36 28 ||
    (if lmOwn p then decide (16383 < dNat p 20 2) || decide (63 < dNat p 22 1) else !dZero p 20 3) ||
    (if lmPages p then decide (16383 < dNat p 24 2) || decide (63 < dNat p 26 1) else !dZero p 24 3) ||
    qpFieldBad p 28 (holderDev r.owner) (lmDstOwner p) || qpFieldBad p 32 (holderDev r.pages) (lmDstPages p)

/-- What the origin itself knows against a LOCK_MOVE (R257). -/
def moveKnown (d : Dev) (r : ReqSt) (p : Post) : Bool :=
  (!lmOwn p && !lmPages p) || r.adrift.isSome || r.asks.any (fun q => opcode q == 0x0440) || lmDstOwner p == some r.owner ||
    lmDstPages p == some r.pages ||
    (holderDev r.owner == selfSys d && (match getBarge d (dHandle p) with | some b => moveBad d b p | none => true))

/-- A descriptor noted at the origin and passed to the owner. -/
def passOn (d : Dev) (req : W64) (r : ReqSt) (p : Post) (toks : List W32) : Dev :=
  toOwner (setReq d req { r with asks := r.asks ++ [p], ldone := none }) req r (.order p.desc toks) 0

/-- LOCK_MOVE (R256, R257). -/
def lockMoveRule (p : Post) (d : Dev) : Res :=
  match ctlReq d p with
  | none => .plain .badDescriptor d
  | some r => if moveFields p r || moveKnown d r p then .plain .badDescriptor d else .later (passOn d (dHandle p) r p [])

/-- LOCK_RESOLVE (R272). -/
def lockResolveRule (p : Post) (d : Dev) : Res :=
  match ctlReq d p with
  | none => .plain .badDescriptor d
  | some r =>
    let dst := (dNat p 16 1).testBit 0
    let own := if dst then r.dstOwner.getD r.owner else r.owner
    let pgs := if dst then r.dstPages.getD r.pages else r.pages
    let parties := ([some r.owner, some r.pages, r.dstOwner, r.dstPages].filterMap id).map (·.dev)
    if decide (1 < dNat p 16 1) || !dZero p 17 47 then .plain .badDescriptor d
    else match r.adrift with
      | none => .plain .badDescriptor d
      | some v =>
        if !v.getLsbD (if dst then 33 else 32) then .plain .badDescriptor d
        else if !canReach d (holderDev own) || !canReach d (holderDev pgs) then .plain .targetLost d
        else
          let r1 := { r with home := sysIx (homeSys d (dHandle p)), asks := r.asks ++ [p] }
          .later (lockSend (setReq d (dHandle p) r1) (lockHdr d (dHandle p) r.epoch 0 0 0xFF 5 r1.home) (.resolve dst own pgs parties) r1.home.toNat)

/-- A field of a barge that only another device holds (log 56). -/
def farField (req : W64) (i n : Nat) : Nat := Config.farBarge req i % 2 ^ n

/-- STATE and PHASE of Table 7.18. -/
def queryState (d : Dev) (req : W64) (b : Option Barge) (h : Option HomeRec) : Nat × Nat :=
  let st := match b with
    | some x => (match x.state with | .moored => 0 | .underway => 1 | .inLock => 2 | .adrift => 3 | .sunk => 4)
    | none => (match h with | some r => if r.state = .sunk then 4 else if r.state = .idle then farField req 0 1 else 2 | none => farField req 0 2)
  let ph := match h with
    | some r => (match r.state with | .fill => 1 | .gate => 3 | .drain => 4 | _ => 0)
    | none => (match b.bind (·.src) with | some x => if x.frozen then 2 else 1 | none => if b.isSome then 0 else farField req 1 2)
  let _ := d
  (st, ph)

/-- The record of Table 7.18: what home record and header on this device hold; the rest is free (log 56). -/
def queryRecord (d : Dev) (req : W64) (r : ReqSt) : List Byte :=
  let b := (getBarge d req).map (tickBarge d)
  let h := getHome d req
  let (st, ph) := queryState d req b h
  let homeLost := !canReach d r.home.toNat || b.any (·.homeLost)
  let flags := b2n r.weir + 2 * b2n homeLost + 4 * b2n (h.any (fun x => x.cancelPend.isSome)) + 8 * b2n ((b.bind (·.src)).any (·.stepFill))
  let dead := match b with
    | some x => (match x.hdr.deadline with | some n => n | none => 2 ^ 64 - 1)
    | none => if rqDeadline r.post = 0 then 2 ^ 64 - 1 else farField req 2 63
  leBytes req.toNat 8 ++ leBytes r.epoch 8 ++ leBytes st 1 ++ leBytes ph 1 ++ leBytes flags 1 ++ leBytes r.owner.part.val 1 ++
    leBytes (holderDev r.owner) 2 ++ leBytes (holderDev r.pages) 2 ++ leBytes r.pages.part.val 1 ++ [0] ++ leBytes r.home.toNat 2 ++
    leBytes ((b.map (·.history.length)).getD r.historyLen) 4 ++
    leBytes ((b.map (·.hdr.handle.toNat)).getD (farField req 3 64)) 8 ++
    leBytes (if homeLost then 0 else (h.map (·.history.length)).getD (farField req 4 24)) 4 ++
    leBytes ((b.map (·.hdr.tokensLeft)).getD (farField req 5 24)) 4 ++ leBytes dead 8 ++
    leBytes ((b.map (·.hdr.nextPosition)).getD (farField req 6 24)) 4 ++ leBytes 0 4

/-- The record of a barge that is SUNK after its final completion (R273): what its home holds; the rest is free (log 56). -/
def sunkRecord (d : Dev) (req : W64) (home : Nat) (h : Option HomeRec) : List Byte :=
  let own := (h.map (fun (x : HomeRec) => (holderDev x.owner, x.owner.part.val))).getD (farField req 8 14, farField req 9 6)
  let pgs := (h.map (fun (x : HomeRec) => (holderDev x.pages, x.pages.part.val))).getD (farField req 10 14, farField req 11 6)
  let toks := (h.map (·.history.length)).getD (farField req 4 24)
  leBytes req.toNat 8 ++ leBytes ((h.map (·.epoch)).getD (farField req 12 64)) 8 ++ leBytes 4 1 ++ leBytes 0 1 ++
    leBytes (farField req 13 1 + 4 * b2n (h.any (fun (x : HomeRec) => x.cancelPend.isSome))) 1 ++ leBytes own.2 1 ++
    leBytes own.1 2 ++ leBytes pgs.1 2 ++ leBytes pgs.2 1 ++ [0] ++ leBytes home 2 ++ leBytes toks 4 ++
    leBytes ((h.map (·.handle.toNat)).getD (farField req 3 64)) 8 ++ leBytes toks 4 ++
    leBytes (farField req 5 24) 4 ++ leBytes (farField req 2 63) 8 ++ leBytes (farField req 6 24) 4 ++ leBytes 0 4

/-- BARGE_QUERY after the final completion: a barge that is SUNK at its home, until BARGE_RELEASE, is read there (R273, R279);
whether another device holds such a record is that device's state (log 56). -/
def sunkQuery (p : Post) (d : Dev) : Res :=
  let req := dHandle p
  let home := homeSys d req
  if !d.ended.any (fun e => e.2 == req && (e.1 == poster d p || (poster d p).val == 0)) then .plain .badDescriptor d
  else if home = selfSys d then
    match getHome d req with
    | some h => if h.state = .sunk then .plain .ok (hostWrite d (dNat p 40 8) (sunkRecord d req home (some h))) else .plain .badDescriptor d
    | none => .plain .badDescriptor d
  else if farField req 7 1 = 0 then .plain .badDescriptor d
  else if !canReach d home then .plain .targetLost d
  else .plain .ok (hostWrite d (dNat p 40 8) (sunkRecord d req home none))

/-- BARGE_QUERY (R279). -/
def bargeQueryRule (p : Post) (d : Dev) : Res :=
  if !dZero p 16 24 || !dZero p 48 16 || dNat p 40 8 % 64 != 0 then .plain .badDescriptor d
  else match ctlReq d p with
    | none => sunkQuery p d
    | some r =>
      if !canReach d r.home.toNat && !canReach d (holderDev r.owner) then .plain .targetLost d
      else .plain .ok (hostWrite d (dNat p 40 8) (queryRecord d (dHandle p) r))

/-- BARGE_REHOME (R274): a new entry at the home of the map, with the owner's history and the epoch as it is. -/
def bargeRehomeRule (p : Post) (d : Dev) : Res :=
  let req := dHandle p
  if (poster d p).val != 0 || !dZero p 16 48 then .plain .badDescriptor d
  else match ctlReq d p with
    | none => .plain .badDescriptor d
    | some r =>
      if r.adrift.isSome || canReach d r.home.toNat then .plain .badDescriptor d
      else match homeRefusal d req with
        | some e => .done e.1 e.2 0 d
        | none =>
          let hist := match getBarge d req with | some b => b.history | none => Config.farHistory req
          let left := match getBarge d req with | some b => b.hdr.tokensLeft | none => farField req 5 24
          let home := homeSys d req
          if home = selfSys d ∧ homeFull d req (hist.length + left) then .plain .quotaExceeded d
          else
            let r1 := { r with home := sysIx home }
            let d1 := setReq d req r1
            let d2 := if home = selfSys d then homeEnter d1 req (newHome r.epoch r.owner r.pages hist (hist.length + left) (sysIx (selfSys d)) r.fn)
              else lockSend d1 (lockHdr d req r.epoch 0 0 0xFF 5 r1.home) (.homeEntry r.owner r.pages hist (hist.length + left) r.fn) home
            .plain .ok (toOwner d2 req r1 (.order p.desc []) 0)

/-- BARGE_RELEASE (R256, R275): at the origin, of a live request, which ends with CANCELLED (log 54), or of one that has ended and whose
home record remains; at the home, of a barge whose origin device is lost. -/
def bargeReleaseRule (p : Post) (d : Dev) : Res :=
  let req := dHandle p
  let tell (d : Dev) (epoch : Nat) (home : BitVec 14) : Dev := lockSend d (lockHdr d req epoch 0 rCancel 0xFF 5 home) .release home.toNat
  if (poster d p).val != 0 || !dZero p 16 48 then .plain .badDescriptor d
  else match getReq d req with
    | some r =>
      let d1 := tell d r.epoch r.home
      .plain .ok (if r.cancelled.isSome then d1 else finalReq (endAsks d1 req .cancelled rCancel) req kEnded .cancelled 0)
    | none =>
      if d.ended.any (fun e => e.2 == req) then .plain .ok (tell d 0 (sysIx (homeSys d req)))
      else match getHome d req with
        | some h =>
          let o := h.originDev.toNat
          if o ≠ selfSys d ∧ inPod d o ∧ isLost d (o % 64) then .plain .ok (tell d h.epoch (sysIx (selfSys d))) else .plain .badDescriptor d
        | none => .plain .badDescriptor d

/-! ## REQUEST_MOOR and REQUEST_RESUME (R303 to R306) -/

/-- REQUEST_MOOR. -/
def requestMoorRule (p : Post) (d : Dev) : Res :=
  if decide (2 < dNat p 16 1) || !dZero p 17 7 || !dZero p 28 36 then .plain .badDescriptor d
  else if dNat p 24 4 = 0 then .plain .badLength d
  else match ctlReq d p with
    | none => .plain .badDescriptor d
    | some r => if r.adrift.isSome then .plain .badDescriptor d else .later (passOn d (dHandle p) r p [])

/-- The reserved fields of REQUEST_RESUME. -/
def resumeFields (p : Post) : Bool :=
  decide (3 < dNat p 17 1) || !dZero p 16 1 || (if dNat p 18 2 = 0xFFFF then !dZero p 20 1 else decide (16383 < dNat p 18 2) || decide (63 < dNat p 20 1)) ||
    !dZero p 21 3 || (!(dNat p 17 1).testBit 1 && !dZero p 28 4) || !dZero p 36 4 || !dZero p 48 16

/-- Whether a home on this device has room for the history that a resumption adds (R574). -/
def resumeRoom (d : Dev) (req : W64) (n : Nat) : Bool :=
  match getHome d req with
  | none => true
  | some h => regionFits d (historySpace (h.room + n) - historySpace h.room)

/-- REQUEST_RESUME: the given tokens are read here and travel with the order. -/
def requestResumeRule (p : Post) (d : Dev) : Res :=
  let n := dNat p 32 4
  if resumeFields p then .plain .badDescriptor d
  else match ctlReq d p with
    | none => .plain .badDescriptor d
    | some r =>
      if n = 0 ∧ dNat p 24 4 = 0 ∧ ¬ (dNat p 17 1).testBit 0 then .plain .ok d
      else if 16777216 < r.historyLen + n + dNat p 24 4 then .plain .badLength d
      else if r.adrift.isSome then .plain .badDescriptor d
      else if !resumeRoom d (dHandle p) (n + dNat p 24 4) then .plain .quotaExceeded d
      else
        let bs := memRead d.host (dNat p 40 8) (4 * n)
        .later (passOn d (dHandle p) r { p with arg := bs } ((List.range n).map (fun i => BitVec.ofNat 32 (leAt bs (4 * i) 4))))

end Sys2Proof.Machine
end

