-- ==== Sys2Proof/Machine/Program.lean ====
section
/-! DEFINITION. Step programs (08_serving.md R285, Tables 8.7, 8.8): STEP_PROGRAM and the tasks that a step's batch makes of the
templates. -/
namespace Sys2Proof.Machine

/-! ## STEP_PROGRAM -/

def spPart (p : Post) : Nat := dNat p 16 1
def spDecode (p : Post) : Bool := dNat p 17 1 == 1
def spCount (p : Post) : Nat := dNat p 20 2
def spBatch (p : Post) : Nat := dNat p 22 2
def spChunk (p : Post) : Nat := dNat p 24 4

def patchRows (m : Nat) : Bool := m.testBit 0
def patchLengths (m : Nat) : Bool := m.testBit 1
def patchIndex (m : Nat) : Bool := m.testBit 2
def patchDstate (m : Nat) : Bool := m.testBit 3
def patchEmit (m : Nat) : Bool := m.testBit 4

/-- A template's descriptor as a post of a step. -/
def tempPost (part : PartId) (k : Nat) (desc : BitVec 512) (arg : List Byte) (rows : List W64) (staged : List Staged) : Post :=
  ⟨.step part k, desc, arg, rows, staged⟩

/-- The 96-byte templates that the descriptor names, each with the argument block that its own descriptor names. -/
def templatesOf (d : Dev) (p : Post) : List Template :=
  (List.range (spCount p)).map (fun i =>
    let desc := BitVec.ofNat 512 (leAt p.arg (96 * i) 64)
    ⟨desc, leAt p.arg (96 * i + 64) 1, (fetchPost d p.src desc).arg⟩)

/-- A descriptor with a field replaced. -/
def putField (desc : BitVec 512) (off n v : Nat) : BitVec 512 :=
  let lo := desc.toNat % 2 ^ (8 * off)
  let hi := desc.toNat / 2 ^ (8 * (off + n))
  BitVec.ofNat 512 (lo + v % 2 ^ (8 * n) * 2 ^ (8 * off) + hi * 2 ^ (8 * (off + n)))

/-- The operand of a template that DSTATE names: Table 8.8 says 'the named operand' and no field names one; the first operand whose ADDR
is 0, else the first, DESIGN CHOICE (log 57). -/
def dstateRole (t : Template) : Nat :=
  let p : Post := ⟨.step 0 0, t.desc, t.arg, [], []⟩
  let os := opdsOf p
  (((os.find? (fun o => o.addr == 0)).or os.head?).map (·.role)).getD 0

/-- The values that stand for the patched fields while a program is checked: one row, one entry that is skipped, one token, a record
of the lowest sampling settings. -/
def sampleStage (t : Template) : List Staged :=
  (if patchLengths t.patch then [⟨0x11, []⟩] else []) ++ (if patchIndex t.patch then [⟨7, List.replicate 4 0⟩] else []) ++
    (if patchEmit t.patch then [⟨8, List.replicate 32 0⟩] else []) ++
    (if patchDstate t.patch then [⟨BitVec.ofNat 8 dstateMark, leBytes (dstateRole t) 1⟩] else [])

/-- The checks of Table 4.4 on a template (R285). BATCH 0 of an attention task whose LENGTHS is patched names no entry, and
its M is the sum of none: its operand shapes are checked at the step. -/
def templateBad (d : Dev) (part : PartId) (t : Template) : Bad :=
  let desc1 := if patchRows t.patch then putField (putField t.desc 20 4 1) 48 8 64 else t.desc
  let m0 := tempPost part 0 desc1 t.arg [0] []
  let desc := if patchLengths t.patch then putField (if isAttn (opcode m0) then putField desc1 20 4 0 else desc1) 44 4 0 else desc1
  let p := tempPost part 0 desc t.arg [0] (sampleStage t)
  let op := opcode p
  let os := taskOpds p
  let d1 := stageIn d p
  let x := getPart d part.val
  let known := (decide (0x0101 ≤ op) && decide (op ≤ 0x010C)) || (decide (0x0110 ≤ op) && decide (op ≤ 0x0113)) || (decide (0x0120 ≤ op) && decide (op ≤ 0x0122))
  if !known || bits (dNat p 2 2) 4 12 != 0 || dNat p 17 1 != part.val || decide (31 < t.patch) then some (.badDescriptor, 0)
  else
    let k := if isAttn op then kAttn d1 op p os part.val else kindOf op p os x
    match firstBad [check1 d1 p os k, check2 p os k, limM m0, check3 os k] with
    | some b => some b
    | none => if isAttn op && patchLengths t.patch then none else check4 d1 x op p os k

/-- Whether a reserved byte of a patch record is set. -/
def patchResv (p : Post) : Bool := (List.range (spCount p)).any (fun i => !zeroAt p.arg (96 * i + 65) 31)

/-- STEP_PROGRAM (R285). -/
def stepProgramRule (p : Post) (d : Dev) : Res :=
  let part := spPart p
  let x := getPart d part
  if !dZero p 8 8 || decide (1 < dNat p 17 1) || !dZero p 18 2 || !dZero p 28 4 || !dZero p 40 24 || decide (63 < part) || !mayName d (poster d p) part then
    .plain .badDescriptor d
  else if spCount p = 0 ∨ spBatch p = 0 ∨ spChunk p = 0 then .plain .badLength d
  else
    let ts := templatesOf d p
    let emits := ts.filter (fun t => patchEmit t.patch)
    if decide (1024 < spCount p) || decide (4096 < spBatch p) || roleOf x != (if spDecode p then 2 else 1) || patchResv p ||
        (if spDecode p then decide (256 < spChunk p) else decide (spChunk p < 16) || decide (16384 < spChunk p)) ||
        emits.any (fun t => fNat t.desc 0 2 != 0x0108) || decide (1 < emits.length) || (spDecode p && emits.isEmpty) then
      .plain .badDescriptor d
    else
      match firstBad (ts.map (templateBad d (partId part))) with
      | some (st, _) => .plain st d
      | none => .plain .ok { d with programs := tset d.programs (part * 2 + b2n (spDecode p)) ⟨ts, spBatch p, spChunk p⟩ }

/-- STEP_PROGRAM (R285). -/
def execStepProgram (p : Post) (s : State) : Host.Outcome State Fault Refusal :=
  answer s (perform 0x0450 p (stepProgramRule p) s.dev)

/-! ## The tasks of a step -/

/-- One row of a step's batch: its request, the position fed and the token there. -/
structure BatchRow where
  request : W64
  pos     : Nat
  token   : W32

/-- The rows of a batch in their order. -/
def batchRows (d : Dev) (rs : List StepRow) : List BatchRow :=
  rs.flatMap (fun r =>
    let hist := ((getBarge d r.request).map (·.history)).getD []
    (List.range r.count).map (fun i => ⟨r.request, r.first + i, hist.getD (r.first + i) 0⟩))

/-- The 32 bytes of the sampling record of a row (Table 4.11): POSITION is that of the token drawn. -/
def paramBytes (d : Dev) (b : BatchRow) : List Byte :=
  match getBarge d b.request with
  | none => List.replicate 32 0
  | some x =>
    let s := x.hdr.sampling
    leBytes s.temperature.toNat 4 ++ leBytes s.topK.toNat 2 ++ [s.flags, 0] ++ leBytes s.topP.toNat 4 ++ leBytes 0 4 ++
      leBytes s.seed.toNat 8 ++ leBytes (b.pos + 1) 4 ++ leBytes 0 4

/-- The 32 bytes of the length-table entry of a request (R285): its table, the positions it feeds, CAUSAL. -/
def entryBytes (d : Dev) (op : Nat) (r : StepRow) : List Byte :=
  let h := ((getBarge d r.request).map (·.hdr.handle)).getD 0
  leBytes (r.first + r.count) 4 ++ leBytes r.count 2 ++ [if op = 0x0121 then 1 else 0, 0] ++ leBytes h.toNat 8 ++ leBytes 0 16

/-- The page holders of a batch, in the order of its rows. -/
def batchHolders (d : Dev) (rs : List StepRow) : List Holder :=
  (rs.filterMap (fun r => (getBarge d r.request).map (fun b => if b.hdr.weir then holderOf d b.part else b.hdr.pages))).foldl
    (fun acc h => if acc.contains h then acc else acc ++ [h]) []

/-- The indexes of the rows of some requests in a batch. -/
def rowIndexes (all : List StepRow) (mine : List StepRow) : List Nat :=
  ((all.foldl (fun (acc : Nat × List Nat) r =>
    (acc.1 + r.count, if mine.contains r then acc.2 ++ (List.range r.count).map (· + acc.1) else acc.2)) (0, [])).2)

/-- The post that a template becomes for the rows `mine` of a batch (Table 8.8). -/
def patchTemplate (d : Dev) (part : PartId) (k : Nat) (all mine : List StepRow) (t : Template) : Post :=
  let op := fNat t.desc 0 2
  let rows := batchRows d mine
  let desc1 := if patchRows t.patch then putField (putField t.desc 20 4 rows.length) 48 8 64 else t.desc
  let desc := if patchLengths t.patch then putField desc1 44 4 mine.length else desc1
  let sel := if mine.length = all.length then [] else
    [(⟨BitVec.ofNat 8 rowsMark, (rowIndexes all mine).flatMap (fun i => leBytes i 4)⟩ : Staged)]
  let staged := sel ++
    (if patchLengths t.patch then [⟨0x11, mine.flatMap (entryBytes d op)⟩] else []) ++
    (if patchIndex t.patch then [⟨7, rows.flatMap (fun b => leBytes b.token.toNat 4)⟩] else []) ++
    (if patchEmit t.patch then [⟨8, rows.flatMap (paramBytes d)⟩] else []) ++
    (if patchDstate t.patch then [⟨BitVec.ofNat 8 dstateMark, leBytes (dstateRole t) 1⟩] else [])
  tempPost part k desc t.arg (if patchRows t.patch then rows.map (·.request) else []) staged

/-- The templates with the rows each takes: an attention template with LENGTHS is split by page holder (R287). -/
def splitTemplates (d : Dev) (rs : List StepRow) (ts : List Template) : List (Template × List StepRow) :=
  let hs := batchHolders d rs
  ts.flatMap (fun t =>
    if patchLengths t.patch && isAttn (fNat t.desc 0 2) then
      hs.map (fun h => (t, rs.filter (fun r => (getBarge d r.request).any (fun b => (if b.hdr.weir then holderOf d b.part else b.hdr.pages) == h))))
    else [(t, rs)])

/-- The posts of a step. -/
def stepPosts (d : Dev) (part : PartId) (rs : List StepRow) (ts : List Template) : List Post :=
  ((splitTemplates d rs ts).zipIdx).map (fun e => patchTemplate d part e.2 rs e.1.2 e.1.1)

/-- The OUT operand of the EMIT task of a step: its tier and address. -/
def emitPlace (ts : List Template) : Option (Nat × Nat) :=
  (ts.find? (fun t => patchEmit t.patch)).bind (fun t =>
    let p : Post := ⟨.step 0 0, t.desc, t.arg, [], []⟩
    (opd? (opdsOf p) 5).map (fun o => (o.tier, o.addr)))

/-- The decode states of a batch, row after row. -/
def dstateBytes (d : Dev) (rs : List StepRow) : List Byte := rs.flatMap (fun r => ((getBarge d r.request).map (·.dstate)).getD [])

end Sys2Proof.Machine
end

