-- ==== Sys2Proof/Machine/Serving.lean ====
section
/-! DEFINITION. Steps (08_serving.md R286 to R288, R290, R291, R300 to R302, R305, R307, R308; 07_barges_locks.md R250): admission of a
step, its end, the tokens' way through the home, failed steps and dropped pages, deadlines, mooring's end. -/
namespace Sys2Proof.Machine

/-! ## Dropped pages and late requests -/

/-- CANCEL with REASON LATE to the origin (R302). -/
def sendLate (d : Dev) (b : Barge) : Dev := lockSend d (ownerHdr d b 0 rLate) .cancel b.hdr.originDev.toNat

/-- The deadline has passed. -/
def deadlineGone (b : Barge) : Bool := b.hdr.deadline == some 0

/-- A table's pages are DROPPED (R308): a resumption with REFEED under RECOMPUTE_ON_DROP, else DROPPED and a mooring at STAY. -/
def dropAct (d : Dev) (b : Barge) (detail : Nat) : Dev :=
  if recomputeOnDrop b.hdr.classFlags then
    resumeSelf (setBarge d { b with hdr := { b.hdr with recomputed := true } }) b.hdr.request
  else moorHere (report d b kDropped .pageDropped detail) b 0 b.hdr.failTtl

/-! ## Admission (R286, R287) -/

/-- A barge may join a step of its partition: UNDERWAY, or in a FILL that lets it step, not held, not in a step. A completion of
its request that waits for room holds it (R464). -/
def mayStep (d : Dev) (part : Nat) (b : Barge) : Bool :=
  let going := match b.state, b.src with
    | .underway, _ => true
    | .inLock, some x => x.stepFill && !x.frozen && !x.sealPend && !b.hdr.moored
    | _, _ => false
  b.part.val == part && going && !b.inStep && b.cancelled.isNone && !b.holdBudget && !b.holdRing && !b.holdWeir &&
    !(getReq d b.hdr.request).any (noteWaits d)

/-- The positions that a barge has still to be fed: in a PROMPT partition the given ones, else all. -/
def toFeed (decode : Bool) (b : Barge) : Nat :=
  (if decode then b.history.length else min b.hdr.fedHigh b.history.length) - b.hdr.fedTo

/-- The frames that feeding up to a length flushes and the table does not hold. -/
def framesNeeded (t : TableSt) (len : Nat) : Nat :=
  ((List.range (kvLayers t.layout)).flatMap (fun i => pagesDone t i len)).foldl (fun (acc : List Nat) p =>
    if acc.contains p || (tget t.entries p).isSome then acc else p :: acc) [] |>.length

/-- Whether the frames of a row whose pages lie on another device are set aside there: when it completes no page none is needed,
else that device knows (log 58). -/
def farAside (d : Dev) (b : Barge) (len : Nat) : Bool :=
  let ps := kvPage ⟨Config.farLayout b.hdr.handle, [], none⟩
  decide (len / ps ≤ b.hdr.fedTo / ps) || Config.farReserve b.hdr.handle len d.tclk

/-- The frames of a row set aside, after reclaim (R286); none when they do not fit. -/
def setAside (d : Dev) (b : Barge) (len : Nat) : Option Dev :=
  match bargeTable d b with
  | none => if farAside d b len then some d else none
  | some (k, t) =>
    let n := framesNeeded t len - t.rsv.length
    match holdObjs d t.hold (List.replicate n (.frame, frameBytes t.layout)) with
    | (.inl _, _) => none
    | (.inr ids, d1) => some { d1 with tables := tmod d1.tables k (fun t => { t with rsv := t.rsv ++ ids }) }

/-- LEASE_ASK for as many tokens as a lease holds (R291). -/
def askLease (d : Dev) (b : Barge) : Dev :=
  if b.asked then d
  else lockSend (setBarge d { b with asked := true }) (ownerHdr d b 0 0) (.leaseAsk (min 64 b.hdr.tokensLeft)) b.hdr.originDev.toNat

/-- The hold for want of a frame, reported once. -/
def holdFrame (d : Dev) (b : Barge) : Dev :=
  let d1 := setBarge d { b with holdQuota := true }
  if b.holdQuota then d1 else report d1 b kHeld .quotaExceeded 0

/-- The row of a barge in a step with `room` rows left, or why it does not join. -/
def joinStep (d : Dev) (decode hasEmit : Bool) (chunk room : Nat) (b0 : Barge) : Dev × Option StepRow :=
  let b := tickBarge d b0
  let first := b.hdr.fedTo
  let count := min (min (toFeed decode b) chunk) room
  let emits := hasEmit && first + count == b.history.length && b.hdr.tokensLeft != 0
  if deadlineGone b && cancelOnLate b.hdr.classFlags then (sendLate (setBarge d b) b, none)
  else match droppedRun d b with
    | some run => (dropAct d b (droppedDetail run 0), none)
    | none =>
      if count = 0 then (setBarge d b, none)
      else if emits && b.hdr.lease == 0 then (askLease d b, none)
      else match setAside d b (first + count) with
        | none => (holdFrame d b, none)
        | some d1 => (setBarge d1 { b with holdQuota := false, inStep := true }, some ⟨b.hdr.request, first, count, emits⟩)

/-- The place of a barge in the order of admission: the deadline remainder, none last, then the request ID. -/
def stepKey (b : Barge) : Nat := (match b.hdr.deadline with | some n => min n (2 ^ 64 - 1) | none => 2 ^ 64) * 2 ^ 64 + b.hdr.request.toNat

/-- The rows of a step, barge after barge. -/
def fillStep (decode hasEmit dst : Bool) (pr : Program) : List Barge → Dev → Nat → Nat → List StepRow → Dev × List StepRow × Nat
  | [], d, _, bytes, acc => (d, acc, bytes)
  | b :: bs, d, room, bytes, acc =>
    let per := 128
    let more := if dst then b.dstate.length else 0
    let fit := if regionFits d (bytes + more + per) then (d.boot.opts.regionPages * pageSize - regionUsed d - bytes - more) / per else 0
    match joinStep d decode hasEmit pr.chunk (min room fit) b with
    | (d1, none) => fillStep decode hasEmit dst pr bs d1 room bytes acc
    | (d1, some r) => fillStep decode hasEmit dst pr bs d1 (room - r.count) (bytes + per * r.count + more) (acc ++ [r])

/-- STEP_ADMISSION of a partition that runs no step (R286). -/
def stepAdmit (d : Dev) (part : PartId) : Dev :=
  let x := getPart d part.val
  let decode := roleOf x == 2
  match tget d.programs (part.val * 2 + b2n decode) with
  | none => d
  | some pr =>
    if x.state != .active || (tget d.steps part.val).isSome || !(roleOf x == 1 || decode) || d.boot.dormant || !keeperRuns d ||
        !d.health.joinHold.isEmpty then d
    else
      let cands := ((d.barges.map (·.2)).filter (mayStep d part.val)).mergeSort (fun a b => decide (stepKey (tickBarge d a) ≤ stepKey (tickBarge d b)))
      let hasEmit := pr.temps.any (fun t => patchEmit t.patch)
      let dst := pr.temps.any (fun t => patchDstate t.patch)
      let (d1, rows, bytes) := fillStep decode hasEmit dst pr cands d pr.batch 0 []
      if rows.isEmpty then d1
      else
        let rs := rows.mergeSort (fun a b => decide (a.request.toNat ≤ b.request.toNat))
        let posts := stepPosts d1 part rs pr.temps
        let st : StepSt := ⟨decode, rs, posts, posts.length, emitPlace pr.temps, bytes, dst⟩
        { d1 with
          steps := tset d1.steps part.val st
          staging := if dst then memWrite d1.staging (dstateAddr part.val) (dstateBytes d1 rs) else d1.staging }

/-! ## Tokens through the home (R250, R293) -/

/-- The end of a step for one barge, its tokens acknowledged or its home lost: the records go to the origin; then what waited for
the step's end. -/
def delivered (d : Dev) (req : W64) : Dev :=
  match getBarge d req with
  | none => d
  | some b =>
    let b1 := { b with unacked := [], inStep := false, homeLen := if b.homeLost then b.homeLen else b.history.length }
    let d0 := setBarge d b1
    let d1 := if b.unacked.isEmpty then d0
      else lockSend d0 (ownerHdr d b 0 0) (.output b.unacked b.history.length 0) b.hdr.originDev.toNat
    let last := b.unacked.any (·.last)
    let late := b.unacked.any (·.late) && cancelOnLate b.hdr.classFlags
    let d2 := { d1 with cancelled := d1.cancelled.filter (· != req) }
    match b1.cancelled with
    | some why => releaseBarge d2 b1 why
    | none =>
      if last && b.hdr.endTtl == 0 then releaseBarge d2 b1 0
      else
        let d3 := if last then moorHere d2 b1 0 b.hdr.endTtl else if late then sendLate d2 b1 else d2
        match getBarge d3 req with
        | none => d3
        | some b2 => match b2.src with
          | some x => if x.sealPend then doSeal d3 b2 x else d3
          | none => match b2.moorPend with
            | some (tier, ttl) => if last then d3 else moorNow d3 b2 tier ttl
            | none =>
              if roleOf (getPart d3 b2.part.val) = 1 ∧ ¬ last ∧ ¬ late ∧ b2.hdr.fedHigh ≤ b2.hdr.fedTo ∧ b2.state = .underway then firstXfer d3 b2 else d3

/-- TOKEN_ACK at the owner. -/
def ownerAck (d : Dev) (h : LockHdr) (len : Nat) : Dev :=
  match getBarge d h.request with
  | none => d
  | some b =>
    if h.epoch.toNat ≠ b.epoch ∨ b.state = .adrift then d
    else if b.unacked.isEmpty then setBarge d { b with homeLen := len }
    else delivered d h.request

/-- TOKEN_ACK_TIMEOUT (R250): HOME_LOST is set and the tokens are delivered. -/
def ackTimeout (d : Dev) (req : W64) : Dev :=
  match getBarge d req with
  | none => d
  | some b => if b.unacked.isEmpty || b.homeLost then d else delivered (setBarge d { b with homeLost := true }) req

/-! ## The end of a step -/

/-- The token that the EMIT task gave a row of the batch. -/
def emitted (d : Dev) (part : Nat) (y : StepSt) (i : Nat) : W32 :=
  match y.emit with
  | none => 0
  | some (tier, a) => BitVec.ofNat 32 (leNat (tierBytes d (getPart d part) [] tier (a + 8 * i) 4))

/-- The record of a token, or of its failure (R288). -/
def tokenRec (b : Barge) (tok : W32) (late : Bool) : OutRec :=
  let bad := tok == 0xFFFFFFFF
  { token := tok, position := BitVec.ofNat 32 b.history.length, last := bad || b.hdr.tokensLeft == 1 || b.hdr.stop.contains tok, late := late
    cancel := false, error := bad, status := if bad then .badDescriptor else .ok
    delta := BitVec.ofNat 32 (min 0xFFFFFFFF (b.hdr.charged / 1000)) }

/-- The reserve of a row given back. -/
def endRow (d : Dev) (b : Barge) : Dev := match bargeTable d b with | some (k, _) => dropRsv d k | none => d

/-- The state objects of a barge made as large as its history needs (R316). -/
def growState (d : Dev) (b : Barge) : Dev :=
  let need := stateSizes b.history.length b.dstate.length
  if need == (stateSizes (b.history.length - 1) b.dstate.length) && !b.objs.isEmpty then d
  else match holdObjs d b.part.val (need.map (fun n => (HeapKind.state, n))) with
    | (.inl _, _) => d
    | (.inr ids, d1) => setBarge (b.objs.foldl (fun d o => heapFree d b.part.val o) d1) { b with objs := ids }

/-- A row of a step that has committed: the decode state, the positions charged, the token on its way (R250, R287, R290, R301). -/
def commitRow (d0 : Dev) (part : Nat) (y : StepSt) (r : StepRow) (lastIx off : Nat) : Dev :=
  match getBarge d0 r.request with
  | none => d0
  | some b0 =>
    let d := endRow d0 b0
    let b1 := tickBarge d b0
    let b := { b1 with
      hdr := { b1.hdr with fedTo := r.first + r.count }
      dstate := if y.dstate then memRead d.staging (dstateAddr part + off) b1.dstate.length else b1.dstate }
    let fed := min (r.first + r.count) b.hdr.fedHigh - r.first
    let h := ownerHdr d b 0 0
    let d1 := setBarge d b
    let d2 := if fed = 0 then d1 else lockSend d1 h (.output [] b.history.length fed) b.hdr.originDev.toNat
    if b.cancelled.isSome || !r.emits then delivered d2 r.request
    else
      let late := b.hdr.late || deadlineGone b
      let tok := emitted d part y lastIx
      let o := tokenRec b tok late
      if o.error then
        releaseBarge (lockSend (setBarge d2 { b with inStep := false }) h (.output [o] b.history.length 0) b.hdr.originDev.toNat)
          { b with inStep := false } rCancel
      else
        let b2 := { b with
          history := b.history ++ [tok], unacked := [o]
          hdr := { b.hdr with
            nextPosition := b.hdr.nextPosition + 1, tokensLeft := b.hdr.tokensLeft - 1, lease := b.hdr.lease - 1, charged := 0, late := late } }
        let d3 := growState (setBarge d2 b2) b2
        if b.homeLost then delivered d3 r.request else lockSend d3 h (.token b.history.length [tok]) b.hdr.home.toNat

/-- A row of a step that has failed (R307, R308). -/
def failRow (d0 : Dev) (rows : List StepRow) (st : Status) (detail : Nat) (r : StepRow) : Dev :=
  match getBarge d0 r.request with
  | none => d0
  | some b0 =>
    let b := { tickBarge d0 b0 with inStep := false }
    let d := setBarge (endRow d0 b0) b
    let dropped := st == .pageDropped &&
      (match bargeTable d b with | some _ => (droppedRun d b).isSome | none => rows[detail / 2 ^ 48]? == some r)
    let shut (d : Dev) : Dev := match getBarge d r.request with
      | some b1 => (match b1.src with | some x => if x.sealPend then doSeal d b1 x else d | none => d)
      | none => d
    match b.cancelled with
    | some why => releaseBarge { d with cancelled := d.cancelled.filter (· != r.request) } b why
    | none =>
      if dropped then shut (dropAct d b detail)
      else if b.hdr.weir && st == .quotaExceeded then shut (holdFrame d b)
      else
        let d1 := report d b kStepFailed st detail
        if resumeOnFail b.hdr.classFlags && b.hdr.failPos == some r.first then releaseBarge (report d1 b kEnded st detail) b rCancel
        else
          let b1 := { b with hdr := { b.hdr with failPos := some r.first, failed := true } }
          if resumeOnFail b.hdr.classFlags then shut (resumeSelf (setBarge d1 b1) r.request)
          else shut (moorHere (setBarge d1 b1) b1 0 b.hdr.failTtl)

/-- The rows of a step with the index of the last row of each and the offset of its decode state. -/
def rowPlaces (d : Dev) : List StepRow → Nat → Nat → List (StepRow × Nat × Nat)
  | [], _, _ => []
  | r :: rs, i, off =>
    (r, i + r.count - 1, off) :: rowPlaces d rs (i + r.count) (off + ((getBarge d r.request).map (·.dstate.length)).getD 0)

/-- JOIN_ARRIVE to the joining devices that wait for the end of this device's steps (R503). -/
def joinAnswer (d : Dev) : Dev :=
  if d.steps.isEmpty && !d.health.joinOwed.isEmpty then
    d.health.joinOwed.foldl (fun d j => send d (.joinArrive j)) { d with health := { d.health with joinOwed := [] } }
  else d

/-- STEP_END: every task that has started has completed, and none is left to start or one has failed. -/
def stepFinish (d : Dev) (part : PartId) : Dev :=
  match tget d.steps part.val with
  | none => d
  | some y =>
    let res := d.stepResults.filter (fun r => r.part == part)
    let bad := res.find? resFailed
    if res.length < y.count - y.posts.length ∨ (¬ y.posts.isEmpty ∧ bad.isNone) then d
    else
      let places := rowPlaces d y.rows 0 0
      let d1 := { d with stepResults := d.stepResults.filter (fun r => r.part != part), steps := tdel d.steps part.val }
      let d2 := match bad with
        | some r => y.rows.foldl (fun d q => failRow d y.rows r.status r.detail.toNat q) d1
        | none => places.foldl (fun (d : Dev) (q : StepRow × Nat × Nat) => commitRow d part.val y q.1 q.2.1 q.2.2) d1
      joinAnswer { d2 with staging := memZeroRange d2.staging (part.val * 2 ^ 56) (2 ^ 56) }

/-! ## Deadlines and moorings (R300 to R302, R305) -/

/-- DEADLINE_CHECK (R301, R302): of a barge held here, and of a request held at its origin. -/
def deadlineAct (d : Dev) (req : W64) : Dev :=
  let d1 := match getBarge d req with
    | some b0 =>
      let b := tickBarge d b0
      if (b.holdBudget || b.holdQuota || b.holdRing || b.holdWeir) && b.state == .underway && deadlineGone b && b.cancelled.isNone then
        let d1 := setBarge d { b with hdr := { b.hdr with late := true } }
        if cancelOnLate b.hdr.classFlags then sendLate d1 b else d1
      else setBarge d b
    | none => d
  match getReq d1 req with
  | some r =>
    if r.phase = .held ∧ r.cancelled = none ∧ r.left.any (fun n => decide (n ≤ (d.tclk - r.since).toNat)) ∧ cancelOnLate r.classFlags then
      cancelReq d1 req rLate
    else d1
  | none => d1

/-- MOORING_TTL_EXPIRY (R305): the holder releases the barge. -/
def mooringEnd (d : Dev) (req : W64) : Dev :=
  match getBarge d req with
  | none => d
  | some b => if b.state = .moored then releaseBarge (setBarge d { b with hdr := { b.hdr with ttl := 0 } }) b 0 else d

end Sys2Proof.Machine
end

