-- ==== Sys2Proof/Machine/LockIn.lean ====
section
/-! DEFINITION. The lock and serving messages as they arrive (07_barges_locks.md R259, Tables 7.13, 7.14; 08_serving.md R296): what each role of
this device makes of one, the messages that the device sends to itself, and the commands of the lock and of serving. -/
namespace Sys2Proof.Machine

/-! ## One message -/

/-- A table that has moved to another device under COMMIT and has no source party here leaves (the prompt device's, when a weir barge's pages
move; R197, R267). -/
def orphanPages (d : Dev) (req : W64) (pages : Holder) : Dev :=
  if pages.dev.toNat = selfSys d then d
  else ((d.tables.filter (fun e => e.2.live && e.2.request == req && req != 0 && e.2.dev == (selfDev d).val)).map (·.1)).foldl destroyTable d

/-- COMMIT at the parties of this device: the sources give their parts up before the destinations take them. -/
def commitIn (d : Dev) (h : LockHdr) (owner pages : Holder) (handle : W64) : Dev :=
  let old := (getBarge d h.request).isSome
  let d1 := orphanPages (pageCommit (srcCommitIn d h pages handle) h) h.request pages
  let had := d1.dsts.any (fun x => x.hdr.request == h.request && x.party == 2)
  let d2 := originCommit (dstCommit d1 h pages handle) h owner pages
  let _ := old
  if had then moorArrive d2 h.request else d2

/-- ABORT at every role; a first transfer that ends so leaves its barge held. -/
def abortIn (d : Dev) (h : LockHdr) : Dev :=
  let before := getBarge d h.request
  originAbort (homeAbortIn (dstAbort (pageAbort (afterFirst before (srcAbortIn d h) h.request) h) h) h) h

/-- HOME_REPLY at every querier. -/
def replyIn (d : Dev) (h : LockHdr) (a : HomeAnswer) : Dev :=
  let before := getBarge d h.request
  let d1 := pageReply (afterFirst before (srcReply (askAnswer d h a) h a) h.request) h a
  let had := d1.dsts.any (fun x => x.hdr.request == h.request && x.party == 2 && x.querying)
  let d2 := dstReply d1 h a
  if had then moorArrive d2 h.request else d2

/-- SEAL: the home's own comes first; the parties' follow their final delta (R264). -/
def sealIn (d : Dev) (h : LockHdr) (counts : List Nat) (digest : BitVec 256) : Dev :=
  if (getHome d h.request).any (fun r => r.state == .fill && homeMatch r h) && h.party.toNat == 0 then homeSeal d h
  else dstSeal (pageSeal d h) h counts digest

/-- RELEASE: at the home from a party, at a party from the home. -/
def releaseIn (d : Dev) (h : LockHdr) : Dev :=
  if h.party.toNat ≠ 4 ∧ h.home.toNat = selfSys d then homeRelease d h
  else if (getBarge d h.request).any (fun b => decide (h.epoch.toNat < b.epoch)) then d
  else originRelease (discardHere d h.request) h

/-- CANCEL: from the origin, and forwarded by the home, for the owner; from the owner for the home (SEAL, GATE) and for the origin (LATE). -/
def cancelIn (d : Dev) (h : LockHdr) : Dev := if h.party.toNat = 0 then originLate (homeCancel d h) h else ownerCancel d h

/-- A lock or serving message at this device (Tables 7.10, 8.11). -/
def lockIn (d : Dev) (h : LockHdr) : LockMsg → Dev
  | .fillOpen pay => pageOpen (dstOpen (homeFillOpen d h pay) h pay) h pay
  | .ready => pageReady (srcReady d h) h
  | .fillData s c x => dstData d h s c x
  | .sealMsg cs g => sealIn d h cs g
  | .acceptMsg handle => homeAccept d h handle
  | .refuse => originRefuse (srcRefuse (homeRefuse d h) h) h
  | .commit owner pages handle => commitIn d h owner pages handle
  | .abort => abortIn d h
  | .drainDone => if h.party.toNat = 4 then originDrain d h else homeDrainIn d h
  | .homeQuery => homeQueryIn d h
  | .homeReply a => replyIn d h a
  | .resolve dest owner pages parties => homeResolve d h dest owner pages parties
  | .resolved owner pages => originResolved (dstResolved (srcResolved d h owner pages) h owner pages) h owner pages
  | .release => releaseIn d h
  | .loss detail => originLoss d h detail
  | .token position tokens => homeToken d h position tokens
  | .tokenAck len => ownerAck d h len
  | .output recs len fed => originOutput d h recs len fed
  | .leaseAsk n => originLease d h n
  | .leaseGrant n => ownerLease d h n
  | .ringHold => ownerRing d h true
  | .ringFree => ownerRing d h false
  | .cancel => cancelIn d h
  | .report kind st detail dstOwner dstPages => originReport d h kind st detail dstOwner dstPages
  | .homeEntry owner pages history room fn => homeEntryIn d h owner pages history room fn
  | .order desc toks => ownerOrder d h desc toks
  | .moreRoom n => homeMore d h n

/-- The messages that this device has sent to itself, oldest first, each with what follows from it (log 59). -/
def settle : Nat → Dev → Dev
  | 0, d => d
  | n + 1, d =>
    match d.inbox with
    | [] => d
    | e :: rest => settle n (lockIn { d with inbox := rest } e.1 e.2)

/-- The answer of a command of the lock or of serving: its own messages have been taken too. While no lock-keeper runs the command is lost
and changes nothing, DEDUCED (log 61): parties run to their timeouts (R485). -/
def lockAnswer (s : State) (d : Dev) : Host.Outcome State Fault Refusal :=
  if keeperRuns s.dev then answer s (settle 4096 d) else answer s s.dev

/-! ## Messages (Table 7.10) -/

/-- FILL_OPEN (R260). -/
def execFillOpen (h : LockHdr) (pay : FillOpenPay) (s : State) : Host.Outcome State Fault Refusal :=
  lockAnswer s (lockIn s.dev h (.fillOpen pay))
/-- READY (R260). -/
def execReady (h : LockHdr) (s : State) : Host.Outcome State Fault Refusal := lockAnswer s (lockIn s.dev h .ready)
/-- FILL_DATA (R260). -/
def execFillData (h : LockHdr) (sec : SecNo) (chunk : Nat) (content : FillSec) (s : State) : Host.Outcome State Fault Refusal :=
  lockAnswer s (lockIn s.dev h (.fillData sec.val chunk content))
/-- SEAL (R264, R265). -/
def execSeal (h : LockHdr) (chunks : List Nat) (digest : BitVec 256) (s : State) : Host.Outcome State Fault Refusal :=
  lockAnswer s (lockIn s.dev h (.sealMsg chunks digest))
/-- ACCEPT (R265). -/
def execAccept (h : LockHdr) (handle : W64) (s : State) : Host.Outcome State Fault Refusal := lockAnswer s (lockIn s.dev h (.acceptMsg handle))
/-- REFUSE (R260, R265). -/
def execRefuse (h : LockHdr) (s : State) : Host.Outcome State Fault Refusal := lockAnswer s (lockIn s.dev h .refuse)
/-- COMMIT (R265 to R267). -/
def execCommit (h : LockHdr) (owner pages : Holder) (handle : W64) (s : State) : Host.Outcome State Fault Refusal :=
  lockAnswer s (lockIn s.dev h (.commit owner pages handle))
/-- ABORT (R268). -/
def execAbort (h : LockHdr) (s : State) : Host.Outcome State Fault Refusal := lockAnswer s (lockIn s.dev h .abort)
/-- DRAIN_DONE (R267). -/
def execDrainDone (h : LockHdr) (s : State) : Host.Outcome State Fault Refusal := lockAnswer s (lockIn s.dev h .drainDone)
/-- HOME_QUERY (R259, Table 7.13). -/
def execHomeQuery (h : LockHdr) (s : State) : Host.Outcome State Fault Refusal := lockAnswer s (lockIn s.dev h .homeQuery)
/-- HOME_REPLY (Table 7.14). -/
def execHomeReply (h : LockHdr) (a : HomeAnswer) (s : State) : Host.Outcome State Fault Refusal := lockAnswer s (lockIn s.dev h (.homeReply a))
/-- RESOLVE (R272). -/
def execResolve (h : LockHdr) (dest : Bool) (owner pages : Holder) (parties : List (BitVec 14)) (s : State) : Host.Outcome State Fault Refusal :=
  lockAnswer s (lockIn s.dev h (.resolve dest owner pages parties))
/-- RESOLVED (R272). -/
def execResolved (h : LockHdr) (owner pages : Holder) (s : State) : Host.Outcome State Fault Refusal :=
  lockAnswer s (lockIn s.dev h (.resolved owner pages))
/-- RELEASE (Table 7.13). -/
def execRelease (h : LockHdr) (s : State) : Host.Outcome State Fault Refusal := lockAnswer s (lockIn s.dev h .release)
/-- LOSS (R273). -/
def execLoss (h : LockHdr) (detail : W64) (s : State) : Host.Outcome State Fault Refusal := lockAnswer s (lockIn s.dev h (.loss detail))
/-- TOKEN (R250). -/
def execToken (h : LockHdr) (position : Nat) (tokens : List W32) (s : State) : Host.Outcome State Fault Refusal :=
  lockAnswer s (lockIn s.dev h (.token position tokens))
/-- TOKEN_ACK (R250). -/
def execTokenAck (h : LockHdr) (historyLen : Nat) (s : State) : Host.Outcome State Fault Refusal := lockAnswer s (lockIn s.dev h (.tokenAck historyLen))

/-! ## Rounds and timers (R262, R269) -/

/-- FILL_ROUND_END (R261, R262): at the source owner; at a source page holder the next round starts. -/
def fillRound (d : Dev) (req : W64) : Dev :=
  match (getBarge d req).bind (fun b => b.src.map (fun x => (b, x))) with
  | some (b, x) => roundEnd d b x
  | none => match tget d.pageSrcs req.toNat with
    | some q => if q.src.frozen || q.src.ready.isEmpty then d else pageStream d q
    | none => d

/-- FILL_ROUND_END. -/
def execFillRoundEnd (request : W64) (s : State) : Host.Outcome State Fault Refusal := lockAnswer s (fillRound s.dev request)
/-- TOKEN_ACK_TIMEOUT (R250). -/
def execTokenAckTimeout (request : W64) (s : State) : Host.Outcome State Fault Refusal := lockAnswer s (ackTimeout s.dev request)
/-- GATE_TIMER_EXPIRY (Table 7.13). -/
def execGateTimerExpiry (request : W64) (s : State) : Host.Outcome State Fault Refusal := lockAnswer s (gateExpiry s.dev request)

/-- No READY or chunk acknowledgement within T (Table 7.14): the source aborts in FILL. -/
def readyTimeout (d : Dev) (req : W64) : Dev :=
  match (getBarge d req).bind (fun b => b.src.map (fun x => (b, x))) with
  | some (b, x) => if x.frozen || b.state == .adrift then d else afterFirst (some b) (srcAbort d b x rTimeout) req
  | none => d

/-- FILL_READY_TIMEOUT. -/
def execFillReadyTimeout (request : W64) (s : State) : Host.Outcome State Fault Refusal := lockAnswer s (readyTimeout s.dev request)
/-- PARTY_QUERY_TIMEOUT (R269): 2T without a message, the sealed parties query the home. -/
def execPartyQueryTimeout (request : W64) (s : State) : Host.Outcome State Fault Refusal :=
  lockAnswer s (dstQuery (srcQuery s.dev request) request)
/-- DRAIN_RESEND_TIMEOUT (Table 7.13). -/
def execDrainResendTimeout (request : W64) (s : State) : Host.Outcome State Fault Refusal := lockAnswer s (drainResend s.dev request)

/-- No HOME_REPLY within T: an admission ends with TARGET_LOST (R253), LOCK_RESOLVE with REMOTE_TIMEOUT (R272), a party is ADRIFT. -/
def replyTimeout (d : Dev) (req : W64) : Dev :=
  match getReq d req with
  | some r =>
    if r.phase = .asking then finalReq d req kEnded .targetLost (r.home.toNat % 64)
    else endOps (goAdrift d req) req 0x0441 .remoteTimeout 0 0
  | none => goAdrift d req

/-- QUERY_REPLY_TIMEOUT. -/
def execQueryReplyTimeout (request : W64) (s : State) : Host.Outcome State Fault Refusal := lockAnswer s (replyTimeout s.dev request)

/-! ## The descriptors of Table 7.6 -/

/-- LOCK_MOVE (R256, R257). -/
def execLockMove (p : Post) (s : State) : Host.Outcome State Fault Refusal := lockAnswer s (perform 0x0440 p (lockMoveRule p) s.dev)
/-- LOCK_RESOLVE (R272). -/
def execLockResolve (p : Post) (s : State) : Host.Outcome State Fault Refusal := lockAnswer s (perform 0x0441 p (lockResolveRule p) s.dev)
/-- BARGE_QUERY (R279). -/
def execBargeQuery (p : Post) (s : State) : Host.Outcome State Fault Refusal := lockAnswer s (perform 0x0442 p (bargeQueryRule p) s.dev)
/-- BARGE_REHOME (R274). -/
def execBargeRehome (p : Post) (s : State) : Host.Outcome State Fault Refusal := lockAnswer s (perform 0x0443 p (bargeRehomeRule p) s.dev)
/-- BARGE_RELEASE (R256, R275). -/
def execBargeRelease (p : Post) (s : State) : Host.Outcome State Fault Refusal := lockAnswer s (perform 0x0444 p (bargeReleaseRule p) s.dev)

/-! ## Requests (08_serving.md) -/

/-- REQUEST_SUBMIT (R280, R281). -/
def execRequestSubmit (p : Post) (s : State) : Host.Outcome State Fault Refusal := lockAnswer s (perform 0x0500 p (requestSubmitRule p) s.dev)

/-- A held request is admitted when its condition has cleared (R282). -/
def admitRetry (d : Dev) (fn : Fn) (req : W64) : Dev :=
  match getReq d req with
  | some r => if r.fn = fn ∧ r.phase = .held ∧ r.cancelled = none then tryAdmit d req else d
  | none => d

/-- REQUEST_ADMIT_RETRY (R282). -/
def execRequestAdmitRetry (fn : Fn) (request : W64) (s : State) : Host.Outcome State Fault Refusal := lockAnswer s (admitRetry s.dev fn request)
/-- REQUEST_CANCEL (R298). -/
def execRequestCancel (p : Post) (s : State) : Host.Outcome State Fault Refusal := lockAnswer s (perform 0x0501 p (requestCancelRule p) s.dev)

/-- A write to the cancel doorbell (R297): one that names no live request is counted. -/
def cancelWrite (d : Dev) (f : Fn) (v : W64) : Dev :=
  if !barOpen d f then d
  else match doorbellReq d f v with
    | none => { d with badCancels := d.badCancels + 1 }
    | some req => if (getReq d req).any (fun r => r.cancelled.isSome) then d else cancelReq d req rCancel

/-- CANCEL_DOORBELL (R297, R298). -/
def execCancelDoorbell (fn : Fn) (value : W64) (s : State) : Host.Outcome State Fault Refusal := lockAnswer s (cancelWrite s.dev fn value)
/-- REQUEST_MOOR (R303, R304). -/
def execRequestMoor (p : Post) (s : State) : Host.Outcome State Fault Refusal := lockAnswer s (perform 0x0502 p (requestMoorRule p) s.dev)
/-- REQUEST_RESUME (R306). -/
def execRequestResume (p : Post) (s : State) : Host.Outcome State Fault Refusal := lockAnswer s (perform 0x0503 p (requestResumeRule p) s.dev)
/-- BUDGET_SET (R289). -/
def execBudgetSet (p : Post) (s : State) : Host.Outcome State Fault Refusal := lockAnswer s (perform 0x0505 p (budgetSetRule p) s.dev)

/-- USED becomes 0 and the leases that now fit are granted (R290, R291). -/
def windowStart (d : Dev) (fn : Fn) : Dev :=
  match getBudget d fn with
  | none => d
  | some b => grantLeases { d with budgets := tset d.budgets fn.val { b with used := 0 } } fn

/-- BUDGET_WINDOW_START (R290, R291). -/
def execBudgetWindowStart (fn : Fn) (s : State) : Host.Outcome State Fault Refusal := lockAnswer s (windowStart s.dev fn)

/-- The consumer word of an output ring is read again, `consumed` being what the host has written there, and what fits is written (R294). -/
def rereadWord (d : Dev) (fn : Fn) (slot : Nat) (consumed : W32) : Dev :=
  match d.requests.find? (fun e => e.2.fn == fn && e.2.slot == slot) with
  | none => d
  | some (k, r) =>
    if r.waiting.isEmpty || !hostOpen d fn then d
    else
      let req := BitVec.ofNat 64 k
      let word := rqOut r.post + 16 * 2 ^ rqLog2 r.post
      let d1 := setReq { d with host := memWrite d.host word (leBytes consumed.toNat 4) } req { r with consumed := consumed }
      ringSignal (writeOut req (r.waiting.length + 1) d1) req

/-- CONSUMER_WORD_REREAD (R294). -/
def execConsumerWordReread (fn : Fn) (slot : Nat) (consumed : W32) (s : State) : Host.Outcome State Fault Refusal :=
  lockAnswer s (rereadWord s.dev fn slot consumed)

/-! ## Steps -/

/-- STEP_ADMISSION (R286, R287). -/
def execStepAdmission (part : PartId) (s : State) : Host.Outcome State Fault Refusal := lockAnswer s (stepAdmit s.dev part)
/-- STEP_END (R250, R286 to R288, R300 to R302, R307, R308). -/
def execStepEnd (part : PartId) (s : State) : Host.Outcome State Fault Refusal := lockAnswer s (stepFinish s.dev part)
/-- DEADLINE_CHECK (R301, R302). -/
def execDeadlineCheck (request : W64) (s : State) : Host.Outcome State Fault Refusal := lockAnswer s (deadlineAct s.dev request)
/-- MOORING_TTL_EXPIRY (R305); mooring remainders do not count in DORMANT (R537). -/
def execMooringTtlExpiry (request : W64) (s : State) : Host.Outcome State Fault Refusal := lockAnswer s (if s.dev.boot.dormant then s.dev else mooringEnd s.dev request)
/-- WEIR_RETRY (R193). -/
def execWeirRetry (request : W64) (s : State) : Host.Outcome State Fault Refusal := lockAnswer s (weirRetryAct s.dev request)

/-! ## Messages between origin and owner (Table 8.11) -/

/-- OUTPUT (R293): the positions fed beside the records are those by which the history grew without one. -/
def outputIn (d : Dev) (h : LockHdr) (recs : List OutRec) (len : Nat) : Dev :=
  let was := ((getReq d h.request).map (·.historyLen)).getD len
  lockIn d h (.output recs len (len - was - recs.length))

/-- OUTPUT (R293, R296). -/
def execOutput (h : LockHdr) (recs : List OutRec) (historyLen : Nat) (s : State) : Host.Outcome State Fault Refusal :=
  lockAnswer s (outputIn s.dev h recs historyLen)
/-- LEASE_ASK (R291). -/
def execLeaseAsk (h : LockHdr) (tokens : Nat) (s : State) : Host.Outcome State Fault Refusal := lockAnswer s (lockIn s.dev h (.leaseAsk tokens))
/-- LEASE_GRANT (R291). -/
def execLeaseGrant (h : LockHdr) (tokens : Nat) (s : State) : Host.Outcome State Fault Refusal := lockAnswer s (lockIn s.dev h (.leaseGrant tokens))
/-- RING_HOLD (R294). -/
def execRingHold (h : LockHdr) (s : State) : Host.Outcome State Fault Refusal := lockAnswer s (lockIn s.dev h .ringHold)
/-- RING_FREE (R294). -/
def execRingFree (h : LockHdr) (s : State) : Host.Outcome State Fault Refusal := lockAnswer s (lockIn s.dev h .ringFree)
/-- CANCEL (R296, R299, R302). -/
def execCancel (h : LockHdr) (s : State) : Host.Outcome State Fault Refusal := lockAnswer s (lockIn s.dev h .cancel)
/-- REPORT (R271, R283). -/
def execReport (h : LockHdr) (kind : Nat) (status : Status) (detail : W64) (dstOwner dstPages : Option Holder) (s : State) : Host.Outcome State Fault Refusal :=
  lockAnswer s (lockIn s.dev h (.report kind status detail dstOwner dstPages))

end Sys2Proof.Machine
end

