-- ==== Sys2Proof/Machine/PeerLoss.lean ====
section
/-! DEFINITION. The loss of a pod member (10_pod_fabric.md R356, R357; 11_transport.md Table 11.3; 07_barges_locks.md R273 to R275;
14_reliability.md R495, R502, R504): what ends, what the lock-keeper's roles do, grants and admission. -/
namespace Sys2Proof.Machine

/-! ## Grants of the health coordinator (R495) -/

/-- Whether this device is the pod's health coordinator, the lowest-indexed member not marked lost. -/
def isCoordinator (d : Dev) : Bool := coordinator d == (selfDev d).val

/-- The grant of part `i` of device `dev` returned at its coordinator. -/
def grantBack (d : Dev) (dev i : Nat) : Dev :=
  { d with health := { d.health with grants := d.health.grants.filter (fun g => g != (dev, i)) } }

/-- The parts of this device that hold a device-level grant: ports, stacks and the device itself, recommended for expulsion. -/
def ownGrants (d : Dev) : List Nat :=
  (d.health.parts.filter (fun e => e.2.state == .expel && ((decide (72 ≤ e.1) && decide (e.1 < 88)) || decide (168 ≤ e.1)))).map (·.1)

/-- A new coordinator asks every member for the grants it holds before it answers a request; what they hold is theirs to say
(log 60). -/
def collectGrants (d : Dev) : Dev :=
  let others := (liveMembers d).filter (fun i => i != (selfDev d).val)
  let d1 := others.foldl (fun d i => send d (.grantsHeld (devIx i))) d
  { d1 with health := { d1.health with
      grants := (ownGrants d).map (fun i => ((selfDev d).val, i)) ++ others.flatMap (fun m => (Config.farGrants m).map (fun i => (m, i))) } }

/-- Requests for a grant that have no answer are asked again of a coordinator on another device (Table 14.15). -/
def askAgain (d : Dev) : Dev :=
  if isCoordinator d then d else d.health.asks.foldl (fun d i => send d (.grantAsk (devIx (coordinator d)) i)) d

/-! ## Admission (R502 to R504) -/

/-- ADMISSION_ABORT (Table 14.13). -/
def postAbort (d : Dev) (src : W32) (st : Status) : Dev := raise d 0x0804 src (statusCode st).toNat

/-- The partitions of an admission, as a mask (R504). -/
def admitMask (a : AdmSt) : Nat := (dedup (a.pairs.map (fun e => e.1.val))).foldl (fun m i => m + 2 ^ i) 0

/-- The numbers of the items that an admission loads into a partition: pages, bases, layouts, programs. -/
def pageItem (pas : Nat) : Nat := pas
def basisItem (id : Nat) : Nat := 2 ^ 32 + id
def layoutItem (id : Nat) : Nat := 2 ^ 33 + id
def programItem (k : Nat) : Nat := 2 ^ 34 + k

/-- The loaded items of a partition cleared (Table 14.11): bytes of mapped pages, basis slots, layouts, programs. -/
def clearLoaded (has : Nat → Nat → Bool) (d : Dev) (part : Nat) : Dev :=
  let x := getPart d part
  let mine (id : Nat) : Bool := decide (basisBaseOf x ≤ id) && decide (id < basisBaseOf x + basisCountOf x) && has part (basisItem id)
  let lay (k : Nat) : Bool := k / 16 == part && has part (layoutItem (k % 16))
  let d1 := (x.maps.filter (fun m => has part (pageItem m.1))).foldl
    (fun (d : Dev) (m : Nat × PageMap) => { d with hbm := memZeroRange d.hbm (m.2.page * pageSize) pageSize }) d
  let objs := ((d1.layouts.filter (fun l => lay l.1)).filterMap (fun l => l.2.obj)) ++
    ((d1.bases.filter (fun b => mine b.1)).flatMap (fun b => ([b.2.s0, b.2.s1].filter (fun s => s.state != .empty)).map (·.obj)))
  let d2 := objs.foldl (fun d o => heapFree d part o) d1
  { d2 with
    bases := d2.bases.filter (fun b => !mine b.1)
    layouts := d2.layouts.filter (fun l => !lay l.1)
    programs := d2.programs.filter (fun l => !(l.1 / 2 == part && has part (programItem (l.1 % 2)))) }

/-- The admission of this device ends without it: the loaded state is cleared, what had been loaded so far while it loads being free (log
62), and ADMIT completes. -/
def admitEnd (d : Dev) (st : Status) (detail : Nat) : Dev :=
  let a := d.health.admState
  let d1 := { d with health := { d.health with admState := AdmSt.reset } }
  let has := match a.phase with
    | .verify | .barrier => fun _ _ => true
    | .loading => Config.admitLoaded
    | _ => fun _ _ => false
  let d2 := (dedup (a.pairs.map (fun e => e.1.val))).foldl (clearLoaded has) d1
  match a.post with
  | some p => complete d2 p st detail 0
  | none => d2

/-- The barrier ends when every GROUP member that is not lost has arrived: JOIN_GO to each, and the device is admitted. -/
def joinCheck (d : Dev) : Dev :=
  let a := d.health.admState
  let group := (maskList 64 a.group.toNat).filter (fun i => i != (selfDev d).val && !isLost d i)
  if a.phase = .barrier ∧ group.all (fun i => a.arrived.getLsbD i) then
    let d1 := group.foldl (fun d i => send d (.joinGo (devIx i))) d
    let d2 := raise { d1 with health := { d1.health with admState := { AdmSt.reset with phase := .admitted } } } 0x0803 (unitOf 5 0) 0
    match a.post with
    | some p => complete d2 p .ok 0 0
    | none => d2
  else d

/-- The loss of a member during an admission: of the partner while it loads (R504), of the joining device at its partner, of a member of the
group. -/
def admitLost (d : Dev) (i : Nat) : Dev :=
  let a := d.health.admState
  let d1 := if d.health.sessions.any (fun s => s.val == i) then
      postAbort { d with health := { d.health with sessions := d.health.sessions.filter (fun s => s.val != i) } } (unitOf 0x0B i) .targetLost
    else d
  if (a.phase == .loading || a.phase == .verify) && a.partner.val == i then
    admitEnd (postAbort d1 (unitOf 5 0) .stateLost) .stateLost (admitMask a)
  else joinCheck d1

/-! ## The loss -/

/-- The pod operations that wait for a member end with TARGET_LOST, a lift's load with its lift. -/
def podLost (d : Dev) (i : Nat) : Dev :=
  (d.podOps.filter (fun o => o.dst.val == i)).foldl (fun d op =>
    let d1 := podDone d op .targetLost []
    match op.use with
    | .lift part => (match inFlight (getPart d part.val).lift with
      | some q => loadFail d1 part.val q .targetLost (lineDetail 2 op.dst.val (podOff op.addr))
      | none => d1)
    | _ => d1) d

/-- The far legs that wait for a member end with TARGET_LOST (R236). -/
def legsLost (d : Dev) (i : Nat) : Dev :=
  (d.tasks.filter (fun e => e.2.legsLeft != 0 && (match e.2.ents with | l :: _ => hDev l.handle.toNat == i | [] => false))).foldl
    (fun d e => farArrive d e.1 .targetLost (lineDetail 2 i 0) []) d

/-- The queue pairs connected to a system device enter ERROR with TARGET_LOST (Tables 11.3, 11.9). -/
def qpsLost (d : Dev) (sys : Nat) : Dev :=
  (d.qps.filter (fun e => e.2.dev.toNat == sys && (e.2.state == .connected || e.2.state == .draining))).foldl
    (fun d e => qpError d e.1 .targetLost sys) d

/-- The home records learn of the loss (R273); HLT_ORIGIN_LOST counts the barges homed here whose origin it was (R275). -/
def homesLost (d : Dev) (sys : Nat) : Dev :=
  let n := (d.homes.filter (fun e => e.2.originDev.toNat == sys)).length
  let d1 := (d.homes.map (·.1)).foldl (fun d k => homeLose sys d (BitVec.ofNat 64 k)) d
  if n = 0 then d1 else raise d1 0x0309 (unitOf 0x0B (sys % 64)) n

/-- The barges of this device whose home is lost run on with HOME_LOST (R250, R274); one in the lock goes the way of Table 7.14. -/
def bargesHomeLost (d : Dev) (sys : Nat) : Dev :=
  (d.barges.filter (fun e => e.2.hdr.home.toNat == sys && (e.2.state == .moored || e.2.state == .underway) && !e.2.homeLost)).foldl
    (fun d e => delivered (modBarge d e.2.hdr.request (fun b => { b with homeLost := true })) e.2.hdr.request) d

/-- Requests whose home was being asked end with TARGET_LOST (R253). -/
def asksLost (d : Dev) (sys : Nat) : Dev :=
  (d.requests.filter (fun e => e.2.phase == .asking && e.2.home.toNat == sys)).foldl
    (fun d e => finalReq d (BitVec.ofNat 64 e.1) kEnded .targetLost (sys % 64)) d

/-- A COMPOSE that waits for the peer's confirmation of a queue pair to it ends with TARGET_LOST, the old range bound (R184, R356). -/
def composeLost (d : Dev) (sys : Nat) : Dev :=
  (d.composing.filter (fun c => c.missing.any (fun q => match getQp d q with
    | some y => y.dev.toNat == sys
    | none => false))).foldl (fun d c => complete { d with composing := d.composing.erase c } c.post .targetLost 0 0) d

/-- Member `i` is declared lost (R356): FAB_PEER_LOST and LINK_PEER_LOST, every operation that waits for it, the roles of the lock, replicated
regions, grants, admission. -/
def peerLoss (d : Dev) (i : Nat) : Dev :=
  if !isMember d i || i == (selfDev d).val || isLost d i then d
  else
    let sys := selfPod d * 64 + i
    let wasRepl := coordinator d == i
    let d1 := raise { d with peerLost := d.peerLost ||| BitVec.ofNat 64 (2 ^ i), beats := tdel d.beats i } 0x0104 (unitOf 0x0B i) 0
    let d2 := replPeerLost (qpsLost (composeLost (legsLost (podLost d1 i) i) sys) sys) wasRepl i
    let d3 := asksLost (bargesHomeLost (homesLost d2 sys) sys) sys
    let d4 := { d3 with health := { d3.health with grants := d3.health.grants.filter (fun g => g.1 != i) } }
    let d5 := if wasRepl then (if isCoordinator d4 then collectGrants d4 else askAgain d4) else d4
    admitLost d5 i

/-- PEER_LOSS_TIMEOUT (R356): no BEAT from a member for 1,800 µs. -/
def execPeerLossTimeout (member : DevIx) (s : State) : Host.Outcome State Fault Refusal :=
  answer s (settle 4096 (peerLoss s.dev member.val))

end Sys2Proof.Machine
end

