-- ==== Sys2Proof/Machine/Ending.lean ====
section
/-! DEFINITION. How running work ends when what it runs on is gone (14_reliability.md Tables 14.3, 14.6; 15_bringup.md Table 15.2;
13_host.md Table 13.11): tasks, pod operations and queue pairs ended at once, and the loss of a clock domain. -/
namespace Sys2Proof.Machine

/-- A task ends now with a status unless one has been detected before: its work items stop and its output lines hold any mix (R136). -/
def endTaskNow (st : Status) (d : Dev) (n : Nat) : Dev :=
  match tget d.tasks n with
  | none => d
  | some t =>
    let d1 := failTask d n st 0
    if t.tiles.isEmpty then finishTask d1 n else t.tiles.foldl (fun d tile => itemEnd conclude d n tile) d1

/-- The tasks that `p` picks end now. -/
def endTasks (st : Status) (p : TaskSt → Bool) (d : Dev) : Dev :=
  ((d.tasks.filter (fun e => p e.2)).map (·.1)).foldl (endTaskNow st) d

/-- Every pod operation outstanding ends with INTERNAL. -/
def endPodOps (d : Dev) : Dev := d.podOps.foldl (fun d op => podDone d op .internal []) d

/-- Every queue pair with operations outstanding enters ERROR with INTERNAL. -/
def endQps (d : Dev) : Dev := ((d.qps.filter (fun e => !e.2.ops.isEmpty)).map (·.1)).foldl (fun d q => qpError d q .internal 0) d

/-- VDD_AON or TCLK is lost: every operation completes with INTERNAL until device reset (Tables 14.6, 15.2). -/
def loseAon (d : Dev) : Dev :=
  if d.health.aonLost then d
  else endQps (endPodOps (endTasks .internal (fun _ => true) (assertAlert { d with health := { d.health with aonLost := true } })))

/-- What the fence of a domain does to the work of its blocks (Table 15.2), by the domain's number. HCLK is treated where the PCIe link
is. -/
def domainWork (d : Dev) (i : Nat) : Dev :=
  match i with
  | 0 => loseAon d
  | 2 => { d with ports := d.ports.map (fun e => (e.1, { e.2 with frames := [] })) }
  | 3 | 5 => endTasks .internal (fun _ => true) d
  | 4 => endQps (endPodOps d)
  | _ => d

/-- A domain gated and fenced (R482, R519): out of service, ALERT, CLK_LOSS, and the end of its blocks' work. -/
def fenceDomain (d : Dev) (i : Nat) (offFrequency : Bool) : Dev :=
  let b := { d.boot with clkFenced := d.boot.clkFenced ||| bit8 i, clkReleased := d.boot.clkReleased &&& ~~~(bit8 i) }
  let d1 := assertAlert { d with boot := b, health := { d.health with clkTrip := tset d.health.clkTrip i d.tclk } }
  domainWork (raise d1 0x0501 (unitOf 7 i) (b2n offFrequency)) i

end Sys2Proof.Machine
end

