-- ==== Sys2Proof/Machine/Health.lean ====
section
/-! DEFINITION. Health scores and grants, self-test slices, the vote sweep, lockstep and failover, repair and spares
(14_reliability.md R484 to R499). -/
namespace Sys2Proof.Machine

/-! ## Scores and grants (R492 to R495) -/

/-- The kind of a part: 0 tile, 1 port, 2 lane, 3 stack, 4 device. -/
def partKind (i : Nat) : Nat := if i < 72 then 0 else if i < 88 then 1 else if i < 168 then 2 else if i < 180 then 3 else 4

/-- The score of the window that ends: a part's contributions; of the device those of all parts and its own. -/
def windowScore (d : Dev) (i : Nat) : Nat :=
  min 0xFFFFFFFF (if i = partDevice then (d.health.counts.map (·.2)).foldl (· + ·) 0 else tgetD d.health.counts i 0)

/-- HLT_EXPEL of part `i`, asked for by part `asker` (Table 14.13). -/
def postExpel (d : Dev) (i asker : Nat) : Dev := raise d 0x030B (unitOfPart i) (i + asker * 2 ^ 32)

/-- Whether the device itself grants the recommendation of a tile or a lane (R494). -/
def localGrant (d : Dev) (i : Nat) : Bool :=
  if i < 72 then
    let h := i / 36
    decide (((List.range 36).filter (fun s => (getHealth d (h * 36 + s)).state == .expel)).length < (freeSpares d h).length)
  else
    let P := getPort d ((i - 88) / 5)
    !P.laneBad.getLsbD P.spare

/-- Part `i` recommended for expulsion. A port or stack takes the device with it, and the one event names the part that asked (R494; log 64). -/
def expelPart (d : Dev) (i : Nat) (granted : Bool) : Dev :=
  let d1 := setHealth d i { getHealth d i with state := .expel, granted := granted }
  if partKind i = 1 ∨ partKind i = 3 then
    let dv := getHealth d1 partDevice
    postExpel (if dv.state = .fenced then d1 else setHealth d1 partDevice { dv with state := .expel }) partDevice i
  else postExpel d1 i i

/-- No grant: the part is capped to WATCH, with HLT_WATCH on entry. -/
def capPart (d : Dev) (i : Nat) : Dev :=
  let h := getHealth d i
  let d1 := setHealth d i { h with state := .watch, capped := true }
  if h.state = .watch then d1 else raise d1 0x030A (unitOfPart i) (i + 2 ^ 32)

/-- The coordinator's decision on a request from a device about one of its parts, in arrival order. A grant that the same request holds
has been given back, for a part that holds one asks for none (DEDUCED, log 69). -/
def decideGrant (d : Dev) (dev part : Nat) : Bool × Dev :=
  let d1 := grantBack d dev part
  if d1.health.grants.length < cfgField d .podSpares 0 8 then
    (true, { d1 with health := { d1.health with grants := d1.health.grants ++ [(dev, part)] } })
  else (false, d1)

/-- A part whose RUN stands at 3 asks: a tile or lane the device, any other part the pod's coordinator, which may be this device. -/
def askGrant (d : Dev) (i : Nat) : Dev :=
  if partKind i = 0 ∨ partKind i = 2 then (if localGrant d i then expelPart d i false else capPart d i)
  else if isCoordinator d then
    match decideGrant d (selfDev d).val i with
    | (true, d1) => expelPart d1 i true
    | (false, d1) => capPart d1 i
  else send { d with health := { d.health with asks := d.health.asks.filter (· != i) ++ [i] } } (.grantAsk (devIx (coordinator d)) i)

/-- The window's end for one part (Table 14.8). -/
def partWindow (scores : List Nat) (d : Dev) (i : Nat) : Dev :=
  let sc := scores.getD i 0
  let h := { getHealth d i with score := BitVec.ofNat 32 sc }
  let past := decide (cfgField d (.hltThresh (partKind i)) 0 32 < sc)
  match h.state with
  | .expel | .fenced => setHealth d i h
  | .ok | .watch =>
    if !past then
      setHealth { d with health := { d.health with asks := d.health.asks.filter (· != i) } } i { h with state := .ok, run := 0 }
    else
      let d1 := setHealth d i { h with run := min 3 (h.run + 1) }
      if h.run + 1 < 3 then d1 else askGrant d1 i

/-- HEALTH_WINDOW_END (R492, R493): windows run from device ready, and not in DORMANT (R537). -/
def windowEnd (d : Dev) : Dev :=
  if d.boot.phase != .ready || d.boot.dormant then d
  else
    let scores := (List.range 181).map (windowScore d)
    let d1 := (List.range 181).foldl (partWindow scores) d
    { d1 with health := { d1.health with counts := [], tsCorr := [], window := d1.health.window + 1 } }

/-- HEALTH_WINDOW_END. -/
def execHealthWindowEnd (s : State) : Host.Outcome State Fault Refusal := answer s (windowEnd s.dev)

/-- HEALTH_GRANT_REQUEST (R495): answered by the coordinator alone. -/
def execHealthGrantRequest (fromDev : DevIx) (part : Nat) (s : State) : Host.Outcome State Fault Refusal :=
  let d := s.dev
  if !isCoordinator d || !isMember d fromDev.val || isLost d fromDev.val then answer s d
  else
    let (ok, d1) := decideGrant d fromDev.val part
    answer s (send d1 (.grantAnswer fromDev part ok))

/-- EXPEL_GRANT (R495): the answer to a part that asked. A grant that no part waits for any more is returned. -/
def execExpelGrant (part : Nat) (granted : Bool) (s : State) : Host.Outcome State Fault Refusal :=
  let d := s.dev
  if !d.health.asks.contains part then
    answer s (if granted && !(getHealth d part).granted then send d (.grantReturn (devIx (coordinator d)) part) else d)
  else
    let d1 := { d with health := { d.health with asks := d.health.asks.filter (· != part) } }
    answer s (match (getHealth d part).state with
      | .ok | .watch => if granted then expelPart d1 part true else capPart d1 part
      | .expel | .fenced => if granted then send d1 (.grantReturn (devIx (coordinator d)) part) else d1)

/-- The grants of some parts of this device returned. -/
def returnGrants (d : Dev) (is : List Nat) : Dev :=
  is.foldl (fun d i =>
    if isCoordinator d then grantBack d (selfDev d).val i else send d (.grantReturn (devIx (coordinator d)) i)) d

/-- A part EXPEL_RECOMMENDED or FENCED back in OK, its grant returned (Table 14.8); the device's flag takes every grant with it (R495). -/
def unflag (d : Dev) (i : Nat) : Dev :=
  let h := getHealth d i
  if h.state = .ok ∨ h.state = .watch then d
  else
    let held := if i = partDevice then (d.health.parts.filter (fun e => e.2.granted)).map (·.1) else if h.granted then [i] else []
    clearPart (returnGrants { d with health := { d.health with
      parts := d.health.parts.map (fun e => if held.contains e.1 then (e.1, { e.2 with granted := false }) else e) } } held) i

/-! ## Self-test slices (R490, R491) -/

/-- The kinds as numbers of the sensors and monitors' blocks: 16 sensors, 10 rails, 8 domains, 80 lanes. -/
def sliceBlocks : SliceKind → Nat
  | .nearLoop | .farLoop => 80
  | .pll => 8
  | .thermal => 16
  | .voltage => 10

/-- Whether a slice belongs to a lane group (R490): a port's lanes, loop-back on the lane held as spare and not bad, far-end loop-back
with the link DOWN; the sensors and PLLs of a half, the rails' monitors in either. -/
def sliceFits (d : Dev) (group : Nat) (sl : Slice) : Bool :=
  decide (sl.block < sliceBlocks sl.kind) && (match sl.kind with
    | .nearLoop => sl.block / 5 == group && (getPort d group).spare == sl.block % 5 && !(getPort d group).laneBad.getLsbD (sl.block % 5)
    | .farLoop => sl.block / 5 == group && (getPort d group).link == .down
    | .thermal => group == 16 + sl.block / 8
    | .pll | .voltage => decide (16 ≤ group))

/-- SELFTEST_SLICE_START (R490). The distance of slices in time is left out. -/
def execSelftestSliceStart (group : Fin 18) (sl : Slice) (s : State) : Host.Outcome State Fault Refusal :=
  let d := s.dev
  if d.boot.phase != .ready || d.boot.dormant || !sliceEn d || (tget d.health.slices group.val).isSome || !sliceFits d group.val sl then
    answer s d
  else answer s { d with health := { d.health with slices := tset d.health.slices group.val sl } }

/-- The number of the part that a slice's block belongs to: its lane, or the device. -/
def slicePart (sl : Slice) : Nat :=
  match sl.kind with
  | .nearLoop | .farLoop => partOfLane sl.block
  | _ => partDevice

/-- The block of a failing slice fenced: a lane is marked bad, a PLL's domain is gated, a sensor or monitor leaves its twin alone. -/
def fenceBlock (d : Dev) (sl : Slice) : Dev :=
  match sl.kind with
  | .nearLoop | .farLoop => markLane d (sl.block / 5) (sl.block % 5) 3
  | .pll => fenceDomain d sl.block true
  | .thermal => assertAlert { d with health := { d.health with sensorFence := d.health.sensorFence ||| BitVec.ofNat 16 (2 ^ sl.block) } }
  | .voltage => assertAlert { d with health := { d.health with railFence := d.health.railFence ||| BitVec.ofNat 10 (2 ^ sl.block) } }

/-- SELFTEST_SLICE_END (R491). -/
def execSelftestSliceEnd (group : Fin 18) (pass : Bool) (s : State) : Host.Outcome State Fault Refusal :=
  let d := s.dev
  match tget d.health.slices group.val with
  | none => answer s d
  | some sl =>
    let d1 := { d with health := { d.health with slices := tdel d.health.slices group.val } }
    answer s (if pass then d1
      else raise (charge (fenceBlock d1 sl) (slicePart sl) wRetrain 1) 0x030C (unitOfPart (slicePart sl)) (Config.sliceCode sl.kind))

/-! ## The vote sweep (R10, R486, R554) -/

/-- One bit of one copy flipped. -/
def flipTri {w : Nat} (t : Tri (BitVec w)) (copy : Fin 3) (bit : Nat) : Tri (BitVec w) :=
  let m := BitVec.ofNat w (2 ^ bit)
  match copy with
  | 0 => { t with a := t.a ^^^ m }
  | 1 => { t with b := t.b ^^^ m }
  | 2 => { t with c := t.c ^^^ m }

def flipBool (t : Tri Bool) (copy : Fin 3) : Tri Bool :=
  match copy with
  | 0 => { t with a := !t.a }
  | 1 => { t with b := !t.b }
  | 2 => { t with c := !t.c }

/-- An upset in a partition's register; a FREE partition has copies of 0 as well. -/
def upsetPart (d : Dev) (n : Nat) (f : PartSt → PartSt) : Dev := if n < 64 then setPart d n (f (getPart d n)) else d

/-- An upset of one copy of a triplicated field. -/
def upset (d : Dev) (u : Upset) : Dev :=
  match u.field with
  | .role => upsetPart d u.index (fun x => { x with role := flipTri x.role u.copy u.bit })
  | .tileMask => upsetPart d u.index (fun x => { x with tiles := flipTri x.tiles u.copy u.bit })
  | .t1Quota => upsetPart d u.index (fun x => { x with t1Quota := flipTri x.t1Quota u.copy u.bit })
  | .t2Quota => upsetPart d u.index (fun x => { x with t2Quota := flipTri x.t2Quota u.copy u.bit })
  | .t3Quota => upsetPart d u.index (fun x => { x with t3Quota := flipTri x.t3Quota u.copy u.bit })
  | .basisBase => upsetPart d u.index (fun x => { x with basisBase := flipTri x.basisBase u.copy u.bit })
  | .basisCount => upsetPart d u.index (fun x => { x with basisCount := flipTri x.basisCount u.copy u.bit })
  | .lockBit => { d with locks := flipTri d.locks u.copy u.bit }
  | .keyEnable =>
    if u.index < 256 ∧ u.bit = 0 then
      let k := getKey d u.index
      { d with keys := tset d.keys u.index { k with enable := flipBool k.enable u.copy } }
    else d

/-- The bits in which three copies disagree. -/
def disagree {w : Nat} (t : Tri (BitVec w)) : List Nat := maskList w ((t.a ^^^ t.b) ||| (t.a ^^^ t.c)).toNat

/-- VOTE_CORRECTED for bits of a field that starts at bit `lo` of the register at an offset, each charged to the device (R554). -/
def postVotes (d : Dev) (off lo : Nat) (bs : List Nat) : Dev :=
  bs.foldl (fun d b => raise (charge d partDevice wVote 1) 0x0600 (unitOf 0x0E (off / 4 + (lo + b) / 32)) ((lo + b) % 32)) d

/-- Three copies that agree again. -/
def healed {w : Nat} (t : Tri (BitVec w)) : Tri (BitVec w) := Tri.same (voteBits t)

/-- A partition's fields swept. -/
def sweepPart (d : Dev) (n : Nat) : Dev :=
  match tget d.parts n with
  | none => d
  | some x =>
    let cfg := regBase (.partCfg n)
    let d1 := postVotes d (regBase (.partStatus n)) 3 (disagree x.role)
    let d2 := postVotes d1 (regBase (.partTiles n)) 0 (disagree x.tiles)
    let d3 := postVotes (postVotes (postVotes d2 cfg 0 (disagree x.t1Quota)) cfg 32 (disagree x.t2Quota)) cfg 64 (disagree x.t3Quota)
    let d4 := postVotes (postVotes d3 cfg 96 (disagree x.basisBase)) cfg 112 (disagree x.basisCount)
    let y := { x with
      role := healed x.role, tiles := healed x.tiles, t1Quota := healed x.t1Quota, t2Quota := healed x.t2Quota
      t3Quota := healed x.t3Quota, basisBase := healed x.basisBase, basisCount := healed x.basisCount }
    if y = PartSt.reset then { d4 with parts := tdel d4.parts n } else setPart d4 n y

/-- A key slot's ENABLE swept. -/
def sweepKey (d : Dev) (n : Nat) : Dev :=
  match tget d.keys n with
  | none => d
  | some k =>
    let v := voteBool k.enable
    if k.enable.a = k.enable.b ∧ k.enable.b = k.enable.c then d
    else
      let y := { k with enable := Tri.same v }
      let d1 := postVotes d (regBase (.secSlot n)) 0 [0]
      { d1 with keys := if y = KeySlot.reset then tdel d1.keys n else tset d1.keys n y }

/-- VOTE_SWEEP (R486): the upsets since the last sweep, then the vote of every triplicated field. -/
def voteSweep (d : Dev) (us : List Upset) : Dev :=
  let d1 := us.foldl upset d
  let d2 := (List.range 64).foldl sweepPart (postVotes d1 (regBase .glbLock) 0 (disagree d1.locks))
  (List.range 256).foldl sweepKey { d2 with locks := healed d2.locks }

/-- VOTE_SWEEP. -/
def execVoteSweep (upsets : List Upset) (s : State) : Host.Outcome State Fault Refusal := answer s (voteSweep s.dev upsets)

/-! ## Lockstep and failover (R484, R485) -/

/-- The requests that have not been admitted end with INTERNAL, as descriptors that have not completed. -/
def endUnadmitted (d : Dev) : Dev :=
  (d.requests.filter (fun e => e.2.phase != .live)).foldl (fun d e => finalReq d (BitVec.ofNat 64 e.1) kEnded .internal 0) d

/-- The standby pair takes over: every descriptor fetched and not completed completes with INTERNAL, tasks at their next chunk end; queued ones
are not performed, and a suspension or a resumption under way is undone (log 70). Admitted requests live on, and so does the rest of
what the region holds. -/
def failover (d0 : Dev) : Dev :=
  let dA := endUnadmitted d0
  let d := if dA.health.admState.post.isSome then admitEnd dA .internal 0 else dA
  let live (f : Fn) (r i : Nat) : Bool := d.requests.any (fun e => match e.2.post.src with | .ring g q j => g == f && q == r && j == i | .step .. => false)
  let posts := d.fns.flatMap (fun e => e.2.rings.flatMap (fun r => r.2.flight.map (fun x => (fnId e.1, r.1, x))))
  let running : List (Fn × Nat × Nat) := d.tasks.filterMap (fun e => match e.2.post.src with | .ring f r i => some (f, r, i) | .step .. => none)
  let gone := posts.filter (fun x => !running.contains (x.1, x.2.1, x.2.2.idx) && !live x.1 x.2.1 x.2.2.idx)
  let d1 := (d.tasks.map (·.1)).foldl (fun d n => failTask d n .internal 0) d
  let d2 := gone.foldl (fun d x => completeRing d x.1 x.2.1 x.2.2.idx x.2.2.tag x.2.2.tag x.2.2.flags .internal 0 0) d1
  let waits (p : Post) : Bool := match p.src with | .ring .. => true | .step .. => false
  { d2 with
    health := { d2.health with failingOver := true, halted := false, standbyOk := false, pairB := !d2.health.pairB }
    fns := d2.fns.map (fun e => (e.1, { e.2 with rings := e.2.rings.map (fun r => (r.1, { r.2 with queue := [], stalls := [], qpWait := none })) }))
    parts := d2.parts.map (fun e => (e.1, { e.2 with
      held := e.2.held.filter (fun p => !waits p), resuming := none
      state := if e.2.state = .suspending then .active else if e.2.state = .resuming then .suspended else e.2.state
      suspend := none
      lift := { e.2.lift with loads := e.2.lift.loads.map (fun l => { l with
        readers := l.readers.filter (fun p => !waits p || d2.tasks.any (fun t => t.2.post == p)), waiting := l.waiting.filter (fun p => !waits p) }) } }))
    bases := d2.bases.map (fun e => (e.1, { e.2 with waiting := none }))
    tableHeld := d2.tableHeld.filter (fun p => !waits p)
    composing := [], fences := [], replPosts := [], qpDestroys := []
    podOps := d2.podOps.filter (fun o => match o.use with | .atomic _ => false | _ => true)
    qps := d2.qps.map (fun e => (e.1, { e.2 with ops := e.2.ops.map (fun o => { o with post := none }) }))
    requests := d2.requests.map (fun e => (e.1, { e.2 with asks := [] })) }

/-- LKP_FAILOVER.GO or LKP_AUTO (R485): only while STANDBY_OK is 1 and no failover is under way. -/
def startFailover (d : Dev) : Dev :=
  if !d.health.standbyOk || d.health.dead || d.health.failingOver || d.boot.phase != .ready then d else failover d

/-- LKP_FAILOVER_GO (R485). -/
def execLkpFailoverGo (s : State) : Host.Outcome State Fault Refusal := answer s (startFailover s.dev)

/-- The number of the pair in service. -/
def activePair (d : Dev) : Nat := b2n d.health.pairB

/-- LOCKSTEP_MISMATCH (R484, R485): the pair in service halts; a second mismatch, or one in the standby pair, ends the lock-keeper until
device reset. -/
def lockstep (d : Dev) (count : W64) : Dev :=
  if !lockstepEn d || d.health.halted || d.health.dead || !d.boot.lkpStarted then d
  else
    let second := !d.health.standbyOk
    let h := { d.health with halted := true, dead := second, failingOver := false }
    let d1 := raise (assertAlert { d with health := h }) 0x0305 (unitOf 9 (activePair d)) count.toNat
    if lkpAuto d then startFailover d1 else d1

/-- LOCKSTEP_MISMATCH. -/
def execLockstepMismatch (count : W64) (s : State) : Host.Outcome State Fault Refusal := answer s (lockstep s.dev count)

/-- FAILOVER_RESUME (R485): the standby pair fetches; HLT_FAILOVER names it. -/
def execFailoverResume (s : State) : Host.Outcome State Fault Refusal :=
  let d := s.dev
  if d.health.failingOver then
    answer s (raise { d with health := { d.health with failingOver := false } } 0x0306 (unitOf 9 (activePair d)) 0)
  else answer s d

/-! ## HBM lanes (R497, R498) -/

/-- A lane of a stack's channel repaired with a redundant lane, when one remains. -/
def substHbmLane (d : Dev) (stack channel lane : Nat) : Option (Dev × Nat) :=
  let used := tgetD d.health.hbmLanes stack []
  if Config.hbmSpareLanes ≤ (used.filter (fun x => x / 256 == channel)).length then none
  else some ({ d with health := { d.health with hbmLanes := tset d.health.hbmLanes stack (used ++ [channel * 256 + lane]) } },
    (used.filter (fun x => x / 256 == channel)).length)

/-- HBM_LANE_FAILING (R498): with HBM_AUTO the lane is repaired. -/
def execHbmLaneFailing (stack : Fin 12) (channel lane : Nat) (s : State) : Host.Outcome State Fault Refusal :=
  let d := s.dev
  answer s (if !hbmAuto d || decide (32 ≤ channel) || decide (256 ≤ lane) then d
    else match substHbmLane d stack.val channel lane with
      | some (d1, n) => postSpared d1 (unitOf 4 stack.val) n
      | none => d)

/-! ## HLT_REPAIR (R496 to R499) -/

def hrAction (p : Post) : Nat := dNat p 16 1
def hrKind (p : Post) : Nat := dNat p 17 1
def hrIndex (p : Post) : Nat := dNat p 18 2
def hrSub (p : Post) : Nat := dNat p 20 4

/-- The part index of a unit that the health score keeps. -/
def partOfUnit (kind ix : Nat) : Option Nat :=
  match kind with
  | 1 => if ix < 72 then some ix else none
  | 2 => if ix < 16 then some (72 + ix) else none
  | 3 => if ix < 80 then some (88 + ix) else none
  | 4 => if ix < 12 then some (168 + ix) else none
  | 5 => if ix = 0 then some 180 else none
  | _ => none

/-- The logical tile that a physical tile carries. -/
def logicalOf (d : Dev) (phys : Nat) : Option Nat := (List.range 64).find? (fun t => physOf d t == phys)

/-- Whether a unit is fenced and HLT_REPAIR may take it out of its fence (Table 14.3, R496). -/
def unfenceable (d : Dev) (kind ix : Nat) : Bool :=
  let h := d.health
  match kind with
  | 1 => h.spareFence.contains ix || (logicalOf d ix).any (tileFenced d)
  | 2 => decide (ix < 16) && h.portFence.getLsbD ix
  | 3 => decide (ix < 80) && h.laneFence.getLsbD ix
  | 4 => decide (ix < 12) && h.stackFence.getLsbD ix
  | 7 => (ix == 2 || ix == 5 || ix == 7) && d.boot.clkFenced.getLsbD ix
  | 8 => decide (ix < 10) && h.railFence.getLsbD ix
  | 0x0F => decide (ix < 16) && h.sensorFence.getLsbD ix
  | _ => false

/-- The rails whose excursion fences a unit (Table 14.6). -/
def railsOf (kind ix : Nat) : List Nat :=
  match kind with
  | 1 => [ix / 36, 2]
  | 2 => [ix / 8, 3, 4]
  | 4 => [ix / 6, 5, 6, 7]
  | _ => []

/-- 1 ms of TCLK. -/
def msTclk : Nat := 1000000

/-- Whether a rail or clock that fenced a unit has tripped within the last millisecond (R496). -/
def unsettled (d : Dev) (kind ix : Nat) : Bool :=
  let late (t : Tab W64) (k : Nat) : Bool := match tget t k with | some v => decide ((d.tclk - v).toNat < msTclk) | none => false
  (railsOf kind ix).any (late d.health.railTrip) || (kind == 7 && late d.health.clkTrip ix) || (kind == 8 && late d.health.railTrip ix)

/-- SUBSTITUTE (R497), by unit kind. -/
def repairSubst (p : Post) (d : Dev) : Res :=
  let ix := hrIndex p
  let sub := hrSub p
  let take (r : Option (Dev × Nat)) : Res := match r with | none => .plain .quotaExceeded d | some (d1, n) => .done .ok n 0 d1
  match hrKind p with
  | 1 =>
    let held := d.parts.any (fun e => holdsTiles e.2 && (tilesOf e.2).testBit ix)
    if decide (64 ≤ ix) || sub != 0 || !(tileFenced d ix || ((getHealth d (physOf d ix)).state == .expel && !held)) ||
        unsettled d 1 (physOf d ix) then .plain .badDescriptor d
    else take (substTile d ix)
  | 0x0C =>
    if decide (72 ≤ ix) then .plain .badDescriptor d
    else if sub.testBit 31 then
      let bank := sub % 2 ^ 31
      let used := tgetD d.health.tsBanks ix []
      if decide (16 ≤ bank) then .plain .badDescriptor d
      else if !used.isEmpty then .plain .quotaExceeded d
      else .done .ok 0 0 { d with health := { d.health with tsBanks := tset d.health.tsBanks ix [bank] } }
    else if decide (16384 ≤ sub) then .plain .badDescriptor d
    else take (substTsRow d ix sub)
  | 0x0A => if decide (32 ≤ ix) || decide (8192 ≤ sub) then .plain .badDescriptor d else take (substCamRow d ix sub)
  | 4 =>
    if decide (12 ≤ ix) || decide (2 ^ 16 ≤ sub) || bits sub 5 3 != 0 then .plain .badDescriptor d
    else take (substHbmLane d ix (sub % 32) (sub / 256))
  | _ => .plain .badDescriptor d

/-- A unit out of its fence (Table 14.3): a port may train again, a stack retrains, a domain is released under R517 with its blocks
reinitialised (Table 15.2). -/
def unfence (d : Dev) (kind ix : Nat) : Dev :=
  let h := d.health
  match kind with
  | 1 =>
    let d1 := { d with health := { h with spareFence := h.spareFence.filter (· != ix) } }
    match logicalOf d ix with
    | some t => setTile d1 t { getTile d1 t with fenced := false }
    | none => d1
  | 2 => { d with health := { h with portFence := h.portFence &&& ~~~(BitVec.ofNat 16 (2 ^ ix)) } }
  | 3 => { d with health := { h with laneFence := h.laneFence &&& ~~~(BitVec.ofNat 80 (2 ^ ix)) } }
  | 4 => { d with health := { h with stackFence := h.stackFence &&& ~~~(BitVec.ofNat 12 (2 ^ ix)) } }
  | 7 =>
    let b := { d.boot with
      clkFenced := d.boot.clkFenced &&& ~~~(bit8 ix), clkLocked := d.boot.clkLocked ||| bit8 ix, clkReleased := d.boot.clkReleased ||| bit8 ix }
    if ix = 5 then { d with boot := b, ts := [], tsBad := [] } else { d with boot := b }
  | 8 => { d with health := { h with railFence := h.railFence &&& ~~~(BitVec.ofNat 10 (2 ^ ix)) } }
  | 0x0F => { d with health := { h with sensorFence := h.sensorFence &&& ~~~(BitVec.ofNat 16 (2 ^ ix)) } }
  | _ => d

/-- UNFENCE (R496). -/
def repairUnfence (p : Post) (d : Dev) : Res :=
  let kind := hrKind p
  let ix := hrIndex p
  if hrSub p != 0 || !unfenceable d kind ix || unsettled d kind ix then .plain .badDescriptor d
  else
    let d1 := unfence d kind ix
    match partOfUnit kind ix with
    | some i => .done .ok i 0 (unflag d1 i)
    | none => .done .ok (Config.noPart (kind + 256 * ix)) 0 d1

/-- CLEAR_FLAG (R493, Table 14.8); a part that carries no flag keeps its state. -/
def repairClear (p : Post) (d : Dev) : Res :=
  match partOfUnit (hrKind p) (hrIndex p) with
  | none => .plain .badDescriptor d
  | some i => if hrSub p != 0 then .plain .badDescriptor d else .done .ok i 0 (unflag d i)

/-- Whether the full self-test may run (R499, R500): no partition holds a task, runs its lift, or is SUSPENDING or RESUMING. -/
def selftestOpen (d : Dev) : Bool :=
  !d.parts.any (fun e => hasTasks d e.1 || e.2.lift.run || e.2.state == .suspending || e.2.state == .resuming)

/-- A part that failed the full self-test fenced and reported (R499). -/
def failPart (d : Dev) (i : Nat) : Dev :=
  let d1 :=
    if i < 72 then (match logicalOf d i with
      | some t => if tileFenced d t then d else fenceTile d t
      | none => fencePart { d with health := { d.health with spareFence := i :: d.health.spareFence.filter (· != i) } } i)
    else if i < 88 then
      fencePart (setPort { d with health := { d.health with portFence := d.health.portFence ||| BitVec.ofNat 16 (2 ^ (i - 72)) } } (i - 72)
        (portDown (getPort d (i - 72)))) i
    else if i < 168 then laneFail d (i - 88) 3
    else if i < 180 then fencePart { d with health := { d.health with stackFence := d.health.stackFence ||| BitVec.ofNat 12 (2 ^ (i - 168)) } } i
    else fencePart d partDevice
  raise d1 0x030C (unitOfPart i) (Config.selftestCode i)

/-- The full self-test with the parts that fail it: they are fenced, and tile store is left cleared. -/
def fullTest (d : Dev) (failed : List Nat) : Dev :=
  let d1 := (dedup (failed.filter (· < 181))).foldl failPart d
  { d1 with ts := [], tsBad := [] }

/-- FULL_SELFTEST (R499). -/
def repairTest (failed : List Nat) (p : Post) (d : Dev) : Res :=
  if hrKind p != 0 || hrSub p != 0 || !selftestOpen d then .plain .badDescriptor d
  else .done .ok (dedup (failed.filter (· < 181))).length 0 (fullTest d failed)

/-- HLT_REPAIR (Table 14.9): ACTION decides. -/
def repairRule (failed : List Nat) (p : Post) (d : Dev) : Res :=
  if (poster d p).val != 0 || !dZero p 8 8 || !dZero p 24 40 then .plain .badDescriptor d
  else match hrAction p with
    | 1 => repairSubst p d
    | 2 => repairUnfence p d
    | 3 => repairClear p d
    | 4 => repairTest failed p d
    | _ => .plain .badDescriptor d

/-- HLT_REPAIR SUBSTITUTE (R497). -/
def execHltRepairSubstitute (p : Post) (s : State) : Host.Outcome State Fault Refusal :=
  answer s (perform 0x04A1 p (repairRule [] p) s.dev)
/-- HLT_REPAIR UNFENCE (R496). -/
def execHltRepairUnfence (p : Post) (s : State) : Host.Outcome State Fault Refusal :=
  answer s (perform 0x04A1 p (repairRule [] p) s.dev)
/-- HLT_REPAIR CLEAR_FLAG (R493). -/
def execHltRepairClearFlag (p : Post) (s : State) : Host.Outcome State Fault Refusal :=
  answer s (perform 0x04A1 p (repairRule [] p) s.dev)
/-- HLT_REPAIR FULL_SELFTEST (R499): `failed` are the parts that fail. -/
def execHltRepairFullSelftest (p : Post) (failed : List Nat) (s : State) : Host.Outcome State Fault Refusal :=
  answer s (perform 0x04A1 p (repairRule failed p) s.dev)

end Sys2Proof.Machine
end

