-- ==== Sys2Proof/Machine/Admission.lean ====
section
/-! DEFINITION. Admission of a device to its pod (14_reliability.md R500 to R504, Tables 14.10, 14.11): the joining device, its
partner, and the members that take part in the join barrier. -/
namespace Sys2Proof.Machine

/-! ## ADMIT (R500) -/

def adPartner (p : Post) : Nat := dNat p 16 1
def adPairs (p : Post) : Nat := dNat p 17 1
def adBarrier (p : Post) : Nat := dNat p 20 4

/-- The partition pairs that the descriptor names, local partition first; a number above 63 names no partition. -/
def admitPairs (p : Post) : List (Nat × Nat) := (List.range (adPairs p)).map (fun i => (leAt p.arg (2 * i) 1, leAt p.arg (2 * i + 1) 1))

/-- Whether a link to a pod member is QUARANTINED. -/
def linkQuarantine (d : Dev) (i : Nat) : Bool :=
  d.ports.any (fun e => e.2.link == .quarantined && e.2.peerDev == i && e.2.peerPod == selfPod d)

/-- What a pair must match in: role and tile count, basis range, the mapped T1 pages (R500). -/
def shapeOf (d : Dev) (part : Nat) : Nat × Nat × Nat × Nat × List Nat :=
  let x := getPart d part
  (roleOf x, tileCount x, basisBaseOf x, basisCountOf x, x.maps.map (·.1))

/-- The device with its admission set. -/
def setAdmit (d : Dev) (a : AdmSt) : Dev := { d with health := { d.health with admState := a } }

/-- An accepted ADMIT (Table 14.11): the full self-test, whose first failing part ends it, then ADMIT_OPEN. -/
def admitStart (p : Post) (failed : List Nat) (d : Dev) : Res :=
  let pairs : List (PartId × PartId) := (admitPairs p).map (fun e => (partId e.1, partId e.2))
  let d1 := fullTest (raise d 0x0801 (unitOf 5 0) (adPartner p)) failed
  match failed.filter (· < 181) with
  | i :: _ => .done .internal i 0 (setAdmit d1 AdmSt.reset)
  | [] =>
    let a : AdmSt :=
      { phase := .loading, post := some p, partner := devIx (adPartner p), pairs := pairs, barrier := adBarrier p
        group := BitVec.ofNat 64 (dNat p 24 8), arrived := 0, bytes := 0 }
    .later (send (setAdmit d1 a) (.admitOpen a.partner pairs (pairs.map (fun e => shapeOf d e.1.val))))

/-- ADMIT (R500), checked in the order of R572. A second one while an admission is under way is BAD_DESCRIPTOR, DEDUCED (log 71). -/
def admitRule (failed : List Nat) (p : Post) (d : Dev) : Res :=
  let a := d.health.admState.phase
  if (poster d p).val != 0 || !dZero p 8 8 || !dZero p 18 2 || !dZero p 40 24 || decide (63 < adPartner p) then .plain .badDescriptor d
  else if adPairs p = 0 ∨ adBarrier p = 0 then .plain .badLength d
  else if decide (64 < adPairs p) || decide (adBarrier p < 100) || decide (1000000 < adBarrier p) then .plain .badDescriptor d
  else if !(a == .idle || a == .admitted) || !isMember d (adPartner p) || !selftestOpen d ||
      !(admitPairs p).all (fun e => decide (e.1 < 64) && decide (e.2 < 64) && (getPart d e.1).state == .active) then .plain .badDescriptor d
  else if linkQuarantine d (adPartner p) then .plain .configMismatch d
  else admitStart p failed d

/-- ADMIT (R500): `failed` are the parts that fail the self-test, in the order in which they fail. -/
def execAdmitDevice (p : Post) (failed : List Nat) (s : State) : Host.Outcome State Fault Refusal :=
  answer s (perform 0x04A8 p (admitRule failed p) s.dev)

/-! ## The partner (R500, R501) -/

/-- The bytes of a page that are not 0, by their offset. -/
def pageCells (d : Dev) (pg : Nat) : List (Nat × Byte) :=
  (d.hbm.filter (fun c => decide (pg * pageSize ≤ c.1) && decide (c.1 < (pg + 1) * pageSize))).map (fun c => (c.1 - pg * pageSize, c.2))

/-- The number of a slot's state in the stream. -/
def slotCode : SlotSt → Nat
  | .empty => 0 | .current => 1 | .previous => 2 | .draining => 3

/-- The state of partition `src` that the stream copies, named by the partition `dst` of the joining device (R501). -/
def admitParts (d : Dev) (dst : PartId) (src : Nat) : List AdmitPart :=
  let x := getPart d src
  let slots (id : Nat) : List AdmitPart :=
    ([false, true].filter (fun k => (slotOf (getBasis d id) k).state != .empty)).map (fun k =>
      let t := slotOf (getBasis d id) k
      .basis dst (id - basisBaseOf x) k (slotCode t.state) t.gen t.rank t.columns t.v)
  x.maps.map (fun m => .page dst m.1 (pageCells d m.2.page)) ++
    (List.range (basisCountOf x)).flatMap (fun i => slots (basisBaseOf x + i)) ++
    (List.range 16).filterMap (fun k => (getLayout d src k).map (fun l => .layout dst k l.fields l.proj)) ++
    [false, true].filterMap (fun k => (tget d.programs (src * 2 + b2n k)).map (fun pr =>
      .program dst k pr.batch pr.chunk (pr.temps.map (fun t => (t.desc, t.patch, t.arg)))))

/-- The lines of a partition's mapped pages that cannot be read. -/
def admitBad (d : Dev) (part : Nat) : List Nat := (getPart d part).maps.flatMap (fun m => hbmBadIn d (m.2.page * pageSize) pageSize)

/-- ADMIT_OPEN at the partner: refused unless every pair matches; else a session opens and the copy is sent. A line that cannot be read ends
the session, DEDUCED (log 72). -/
def admitOpenIn (d : Dev) (j : DevIx) (pairs : List (PartId × PartId)) (shapes : List (Nat × Nat × Nat × Nat × List Nat)) : Dev :=
  if !keeperRuns d || !isMember d j.val then d
  else if pairs.isEmpty || shapes.length != pairs.length || !(pairs.zip shapes).all (fun e => shapeOf d e.1.2.val == e.2) then
    send d (.admitRefuse j)
  else
    let d1 := { d with health := { d.health with sessions := d.health.sessions.filter (· != j) ++ [j] } }
    match pairs.flatMap (fun e => admitBad d e.2.val) with
    | l :: _ =>
      let d2 := { d1 with health := { d1.health with sessions := d.health.sessions.filter (· != j) } }
      send (postAbort (postUncorrectable d2 (lineDetail 1 0 l)) (unitOf 0x0B j.val) .memUncorrectable) (.admitClose j)
    | [] =>
      let parts := pairs.flatMap (fun e => admitParts d e.1 e.2.val)
      send d1 (.admitData j parts (sha256 (Config.encodeAdmit parts)))

/-- ADMIT_OPEN (R500, R501). -/
def execAdmitOpen (fromDev : DevIx) (pairs : List (PartId × PartId)) (shapes : List (Nat × Nat × Nat × Nat × List Nat)) (s : State) :
    Host.Outcome State Fault Refusal := answer s (admitOpenIn s.dev fromDev pairs shapes)

/-! ## Loading and verifying -/

/-- The state of a slot by its number. -/
def slotOfCode (n : Nat) : SlotSt := match n with | 1 => .current | 2 => .previous | 3 => .draining | _ => .empty

/-- A page loaded. -/
def loadPage (d : Dev) (part pas : Nat) (cells : List (Nat × Byte)) : Option Dev :=
  (tget (getPart d part).maps pas).map (fun m =>
    let base := m.page * pageSize
    let d1 := { d with
      hbm := memZeroRange d.hbm base pageSize
      hbmBad := d.hbmBad.filter (fun l => !(decide (base ≤ l) && decide (l < base + pageSize))) }
    { d1 with hbm := (cells.filter (fun c => decide (c.1 < pageSize))).foldl (fun m c => memPut m (base + c.1) c.2) d1.hbm })

/-- A basis slot loaded into storage of the partition's quota. -/
def loadBasis (d : Dev) (part i : Nat) (second : Bool) (t : BasisSlot) : Option Dev :=
  let x := getPart d part
  let id := basisBaseOf x + i
  if basisCountOf x ≤ i then none
  else
    let old := slotOf (getBasis d id) second
    let d0 := if old.state = .empty then d else heapFree d part old.obj
    let (o, d1) := freshObj d0
    match heapAlloc d1 part .basis o (2 * t.v.length) with
    | .lacks _ => none
    | .ok d2 _ => some (setBasis d2 id (setSlot (getBasis d2 id) second { t with obj := o }))

/-- A layout loaded, its projections in the partition's quota. -/
def loadLayout (d : Dev) (part id : Nat) (fields : BitVec 304) (proj : List W16) : Option Dev :=
  let d0 := dropLayout d part id
  if 16 ≤ id then none
  else if proj.isEmpty then some { d0 with layouts := tset d0.layouts (part * 16 + id) ⟨fields, [], none⟩ }
  else
    let (o, d1) := freshObj d0
    match heapAlloc d1 part .state o (2 * proj.length) with
    | .lacks _ => none
    | .ok d2 _ => some { d2 with layouts := tset d2.layouts (part * 16 + id) ⟨fields, proj, some o⟩ }

/-- One part of the stream loaded; none when it belongs to no pair of the admission or has no room. -/
def loadPart (pairs : List (PartId × PartId)) (d : Dev) (a : AdmitPart) : Option Dev :=
  let mine (p : PartId) : Bool := pairs.any (fun e => e.1 == p)
  match a with
  | .page p pas cells => if mine p then loadPage d p.val pas cells else none
  | .basis p i second st gen rank cols v =>
    if mine p then loadBasis d p.val i second ⟨slotOfCode st, gen, rank, cols, v, 0, 0⟩ else none
  | .layout p id fields proj => if mine p then loadLayout d p.val id fields proj else none
  | .program p k batch chunk ts =>
    if mine p then some { d with programs := tset d.programs (p.val * 2 + b2n k) ⟨ts.map (fun t => ⟨t.1, t.2.1, t.2.2⟩), batch, chunk⟩ }
    else none

/-- The parts loaded one by one, with those that could be. -/
def loadParts (pairs : List (PartId × PartId)) : List AdmitPart → Dev → List AdmitPart × Dev
  | [], d => ([], d)
  | a :: as, d =>
    match loadPart pairs d a with
    | some d1 => let (l, d2) := loadParts pairs as d1; (a :: l, d2)
    | none => loadParts pairs as d

/-- The members of the join barrier. -/
def barrierGroup (d : Dev) (a : AdmSt) : List Nat := (maskList 64 a.group.toNat).filter (fun i => i != (selfDev d).val)

/-- Every section received (Table 14.11): the digests compared, then JOIN_CALL to GROUP or the end of the admission. -/
def admitVerify (d : Dev) (parts : List AdmitPart) (digest : BitVec 256) : Dev :=
  let a := d.health.admState
  if a.phase ≠ .loading then d
  else
    let (got, d1) := loadParts a.pairs parts d
    let code := Config.encodeAdmit got
    if sha256 code ≠ digest then admitEnd (setAdmit d1 { a with phase := .verify }) .configMismatch 0
    else
      let b := { a with phase := .barrier, bytes := code.length }
      let d2 := raise (setAdmit d1 b) 0x0802 (unitOf 5 0) code.length
      joinCheck (((barrierGroup d2 b).filter (fun i => !isLost d2 i)).foldl (fun d i => send d (.joinCall (devIx i) a.barrier)) d2)

/-- ADMIT_LOAD_DONE (R501, Table 14.11). -/
def execAdmitLoadDone (parts : List AdmitPart) (digest : BitVec 256) (s : State) : Host.Outcome State Fault Refusal :=
  answer s (admitVerify s.dev parts digest)

/-- The admission ends while it loads (R504): the partner is lost or aborts, or no stream made progress for BARRIER_TO. -/
def loadStall (d : Dev) (partnerAborts : Bool) : Dev :=
  let a := d.health.admState
  if a.phase ≠ .loading then d
  else if partnerAborts || isLost d a.partner.val then
    admitEnd (postAbort d (unitOf 5 0) .stateLost) .stateLost (admitMask a)
  else admitEnd (send (postAbort d (unitOf 5 0) .remoteTimeout) (.admitClose a.partner)) .remoteTimeout (admitMask a)

/-- ADMIT_STALL_TIMEOUT (R504). -/
def execAdmitStallTimeout (partnerAborts : Bool) (s : State) : Host.Outcome State Fault Refusal := answer s (loadStall s.dev partnerAborts)

/-- The partner refuses, before any copy (Table 14.11). -/
def partnerRefuses (d : Dev) : Dev :=
  let a := d.health.admState
  if a.phase ≠ .loading then d else admitEnd (setAdmit d { a with phase := .selftest }) .badDescriptor 0

/-- ADMIT_PARTNER_REFUSE (R500). -/
def execAdmitPartnerRefuse (s : State) : Host.Outcome State Fault Refusal := answer s (partnerRefuses s.dev)

/-! ## The join barrier (R503) -/

/-- JOIN_CALL at a member: the running steps end, no further one is admitted, and JOIN_ARRIVE goes out once none runs. -/
def joinCalled (d : Dev) (j : DevIx) : Dev :=
  if !isMember d j.val then d
  else joinAnswer { d with health := { d.health with
    joinHold := d.health.joinHold.filter (· != j) ++ [j], joinOwed := d.health.joinOwed.filter (· != j) ++ [j] } }

/-- JOIN_CALL (R503). BARRIER_TO runs on this member's own counter until JOIN_BARRIER_TIMEOUT. -/
def execJoinCall (joiner : DevIx) (_barrierTo : Nat) (s : State) : Host.Outcome State Fault Refusal := answer s (joinCalled s.dev joiner)

/-- JOIN_ARRIVE at the joining device. -/
def joinArrived (d : Dev) (i : DevIx) : Dev :=
  let a := d.health.admState
  if a.phase ≠ .barrier then d
  else joinCheck (setAdmit d { a with arrived := a.arrived ||| BitVec.ofNat 64 (2 ^ i.val) })

/-- JOIN_ARRIVE (R503). -/
def execJoinArrive (fromDev : DevIx) (s : State) : Host.Outcome State Fault Refusal := answer s (joinArrived s.dev fromDev)

/-- Steps are no longer held for a joining device. -/
def joinFree (d : Dev) (j : DevIx) : Dev :=
  { d with health := { d.health with joinHold := d.health.joinHold.filter (· != j), joinOwed := d.health.joinOwed.filter (· != j) } }

/-- JOIN_GO (R503, R357): the joining device is no longer marked lost; its partner closes the session. -/
def joinGoes (d : Dev) (j : DevIx) : Dev :=
  let d1 := joinFree d j
  { d1 with
    peerLost := d1.peerLost &&& ~~~(BitVec.ofNat 64 (2 ^ j.val))
    health := { d1.health with sessions := d1.health.sessions.filter (· != j) } }

/-- JOIN_GO (R503). -/
def execJoinGo (joiner : DevIx) (s : State) : Host.Outcome State Fault Refusal := answer s (joinGoes s.dev joiner)

/-- JOIN_CANCEL (R503). -/
def execJoinCancel (joiner : DevIx) (s : State) : Host.Outcome State Fault Refusal :=
  let d := joinFree s.dev joiner
  answer s { d with health := { d.health with sessions := d.health.sessions.filter (· != joiner) } }

/-- BARRIER_TO passes: at the joining device the admission ends; at a member the hold that has stood longest does (log 73). -/
def barrierOver (d : Dev) : Dev :=
  let a := d.health.admState
  if a.phase = .barrier then
    admitEnd (((barrierGroup d a).filter (fun i => !isLost d i)).foldl (fun d i => send d (.joinCancel (devIx i))) d) .remoteTimeout 0
  else match d.health.joinHold with
    | j :: _ => joinFree d j
    | [] => d

/-- JOIN_BARRIER_TIMEOUT (R503, Table 14.11). -/
def execJoinBarrierTimeout (s : State) : Host.Outcome State Fault Refusal := answer s (barrierOver s.dev)

end Sys2Proof.Machine
end

