-- ==== Sys2Proof/Machine/Fetch.lean ====
section
/-! DEFINITION. Fetching descriptors (13_host.md R456, R460, R462, R464, R475; 09_memory.md R341). -/
namespace Sys2Proof.Machine

/-! ## Opcodes -/

/-- The opcodes that name an operation (the tables of 03 to 15). -/
def opcodeList : List Nat :=
  (List.range 12).map (· + 0x0101) ++ [0x0110, 0x0111, 0x0112, 0x0113, 0x0120, 0x0121, 0x0122] ++
    [0x0400, 0x0401, 0x0402, 0x0403, 0x0404, 0x0405, 0x0408, 0x0410, 0x0411, 0x0420, 0x0421] ++
    [0x0430, 0x0431, 0x0432, 0x0433, 0x0434, 0x0435, 0x0436, 0x0440, 0x0441, 0x0442, 0x0443, 0x0444, 0x0450] ++
    [0x0460, 0x0461, 0x0462, 0x0463, 0x0470, 0x0480, 0x0481, 0x0482, 0x0483, 0x0490, 0x0491, 0x0492, 0x0493, 0x0494] ++
    [0x04A1, 0x04A8, 0x04B0, 0x04B1, 0x04B2, 0x04B3, 0x04B4, 0x0500, 0x0501, 0x0502, 0x0503, 0x0504, 0x0505] ++
    [0x0600, 0x0601, 0x0602, 0x0610, 0x0611, 0x0612, 0x0613, 0x0614]

/-- Whether a fetched descriptor's opcode is one that its ring's kind does not accept, or names no operation (R456, R137). -/
def badOpcode (R : RingSt) (p : Post) : Bool := !kindAccepts R.kind (opcode p) || !opcodeList.contains (opcode p)

/-- The refusal of those that may start: BAD_DESCRIPTOR with DETAIL 0. No row of the block performs them. -/
def rejectBad (f : Fn) (r : Nat) (d : Dev) : Dev :=
  ((getRing d f r).queue.filter (badOpcode (getRing d f r))).foldl (fun d p => perform 0xFFFF p (fun d => .plain .badDescriptor d) d) d

/-! ## Limits and stalls -/

/-- How many descriptors of a function have been fetched and not completed. -/
def fnFlight (d : Dev) (f : Fn) : Nat := (((getFn d f).rings.map (fun e => e.2.flight.length))).foldl (· + ·) 0

/-- How many POD_ATOMIC of a function's transfer rings are in flight. -/
def atomicsFlying (d : Dev) (f : Fn) : Nat :=
  (((getFn d f).rings.filter (fun e => e.2.kind == 1)).map (fun e => (e.2.flight.filter (fun x => x.op == 0x0600)).length)).foldl (· + ·) 0

/-- Whether a descriptor of a ring waits under FENCE, WAIT or CHAIN (R462). -/
def flagWaits (d : Dev) (f : Fn) (r : Nat) : Bool := (getRing d f r).queue.any (fun p => !startable d p)

/-- Whether a ring fetches now (R460, R462, R464, R474, R475): it is active, its function is served and may read host memory, nothing
stalls it, no record waits at its completion ring, and the function is below its limit. -/
def fetchOpen (d : Dev) (f : Fn) (r : Nat) : Bool :=
  let R := getRing d f r
  R.enable && kindSubmission R.kind && decide (r < ringCount f) && R.held != R.fetched && serving d f && hostOpen d f &&
    R.stalls.isEmpty && R.qpWait.isNone && (getRing d f R.cplRing.toNat).waiting.isEmpty && !flagWaits d f r &&
    decide (fnFlight d f < 4096)

/-! ## One descriptor -/

/-- The host address of the ring's next descriptor. -/
def entryAddr (R : RingSt) : Nat := R.base.toNat + 64 * (R.fetched.toNat % ringEntries R)

/-- The first 64-byte line of a range of host memory that cannot be read (R341). -/
def hostLineBad (d : Dev) (a n : Nat) : Option Nat := d.hostBad.find? (fun l => decide (a < l + 64) && decide (l < a + n))

/-- The descriptor of the ring's next entry; of an entry whose line cannot be read nothing is used but that it is there. -/
def nextDesc (d : Dev) (R : RingSt) : BitVec 512 :=
  if (hostLineBad d (entryAddr R) 64).isSome then 0 else BitVec.ofNat 512 (leNat (memRead d.host (entryAddr R) 64))

/-- What of a descriptor and of what it names cannot be read. -/
def fetchBad (d : Dev) (R : RingSt) (desc : BitVec 512) : Option Nat :=
  (hostLineBad d (entryAddr R) 64).or
    ((hostLineBad d (argBlock desc).1 (argBlock desc).2).or (hostLineBad d (rowBlock desc).1 (rowBlock desc).2))

/-- One descriptor fetched: FETCHED and the counts advance and it joins the queue. One that cannot be read, with what it names,
completes with MEM_UNCORRECTABLE at TIER 3 (Table 9.12, R341); the TAG of a descriptor that is itself unread is open (log 76). -/
def fetchOne (d : Dev) (f : Fn) (r : Nat) : Dev :=
  let R := getRing d f r
  let F := getFn d f
  let desc := nextDesc d R
  let p := fetchPost d (.ring f r R.fetchNo) desc
  let entryBad := (hostLineBad d (entryAddr R) 64).isSome
  let tag : W32 := if entryBad then Config.lostTag R.fetchNo else dTag p
  let bad := fetchBad d R desc
  let d1 := setRing d f r { R with
    fetched := R.fetched + 1, fetchNo := R.fetchNo + 1
    queue := if bad.isSome then R.queue else R.queue ++ [p]
    flight := R.flight ++ [⟨R.fetchNo, F.fetchSeq, BitVec.ofNat 16 (opcode p), dFlags p, tag⟩] }
  let d2 := setFn d1 f { getFn d1 f with fetchSeq := F.fetchSeq + 1 }
  match bad with
  | none => d2
  | some l =>
    match chainFailed d2 p with
    | some t => completeRing d2 f r R.fetchNo tag t (dFlags p) .cancelled (BitVec.setWidth 64 t) 0
    | none => completeRing d2 f r R.fetchNo tag tag (dFlags p) .memUncorrectable (BitVec.ofNat 64 (lineDetail 3 0 l))
        (BitVec.ofNat 64 (if entryBad then 0 else stopExtra (opcode p)))

/-- Up to `n` descriptors fetched in ring order. A POD_ATOMIC past the 32 in flight is not fetched (R460). -/
def fetchMany (f : Fn) (r : Nat) : Nat → Dev → Dev
  | 0, d => d
  | n + 1, d =>
    if !fetchOpen d f r then d
    else if nextDesc d (getRing d f r) % 65536 == 0x0600 && (getRing d f r).kind == 1 && decide (32 ≤ atomicsFlying d f) then d
    else fetchMany f r n (fetchOne d f r)

/-- DESCRIPTOR_FETCH (R460): at most 8 descriptors in one read. `poison` are addresses of host memory whose reads return poisoned data
or an error from now on until the host writes them (R341). -/
def execDescriptorFetch (fn : Fn) (ring : Nat) (poison : List Nat) (s : State) : Host.Outcome State Fault Refusal :=
  let d := s.dev
  let d1 := { d with hostBad := poison.foldl (fun b a => if b.contains (a / 64 * 64) then b else b ++ [a / 64 * 64]) d.hostBad }
  answer s (rejectBad fn ring (fetchMany fn ring 8 (rejectBad fn ring d1)))

end Sys2Proof.Machine
end

