-- ==== Sys2Proof/Machine/Flr.lean ====
section
/-! DEFINITION. Function resets (13_host.md R455, R469 to R473, Table 13.11; 07_barges_locks.md R277, Table 7.17; 03_lowrank.md R109;
12_sluice.md R446). A reset's steps act in one step of the model, so IN_RESET is 1 only within it; the clearing of pages
goes on until VF_PAGE_CLEAR_DONE. -/
namespace Sys2Proof.Machine

/-! ## Tasks and waiting descriptors (steps 1 to 4) -/

/-- The partitions that a function owns. -/
def ownedParts (d : Dev) (f : Fn) : List Nat := (d.parts.filter (fun e => e.2.state != .free && e.2.owner == f)).map (·.1)

/-- Whether a post comes from a ring of a function. -/
def fromFn (f : Fn) (p : Post) : Bool := match p.src with | .ring g _ _ => g == f | .step .. => false

/-- A task ends with FUNCTION_RESET, which outranks every other status (R136); nothing of it is left outstanding. -/
def resetTask (d : Dev) (n : Nat) : Dev :=
  match tget d.tasks n with
  | none => d
  | some t =>
    let d1 := endTaskNow .functionReset { d with tasks := tmod d.tasks n (fun t => { t with fail := some (.functionReset, 0) }) } n
    let d2 := liftDone d1 t.part.val t.post
    finishTask { d2 with podOps := d2.podOps.filter (fun o => match o.use with | .taskLoad k | .taskStore k => k != n | _ => true) } n

/-- The tasks that a reset of function `f` ends: those that it posted and those of the partitions `mine` (step 3). -/
def resetTasks (f : Fn) (mine : List Nat) (d : Dev) : Dev :=
  ((d.tasks.filter (fun e => fromFn f e.2.post || mine.contains e.2.part.val)).map (·.1)).foldl resetTask d

/-- The descriptors waiting somewhere that the reset ends, by what they wait for. -/
def waitingPosts (f : Fn) (mine : List Nat) (d : Dev) : List Post :=
  let own := fromFn f
  d.parts.flatMap (fun e =>
    let sel (p : Post) : Bool := own p || mine.contains e.1
    (e.2.held.filter sel) ++ (e.2.lift.loads.flatMap (fun l => l.readers.filter sel ++ l.waiting.filter sel)) ++
      ((e.2.suspend.map (·.post)).toList.filter sel) ++ (e.2.resuming.toList.filter sel)) ++
    (d.composing.filter (fun c => own c.post || mine.contains c.next.src.val)).map (·.post) ++
    (d.bases.filterMap (fun (b : Nat × BasisSt) => b.2.waiting)).filter (fun p => own p || mine.contains (bPart p)) ++
    d.tableHeld.filter (fun p => own p || mine.contains (dNat p 17 1)) ++
    (d.requests.flatMap (fun e => e.2.asks)).filter own

/-- A partition in which a suspension or a resumption that the reset ends is undone; what it holds of others starts again once it is
ACTIVE. -/
def unsuspend (sel : Post → Bool) (d : Dev) (n : Nat) : Dev :=
  let x := getPart d n
  let stop := (x.suspend.map (·.post)).any sel
  let back := x.resuming.any sel
  let y := { x with
    held := x.held.filter (fun p => !sel p)
    suspend := if stop then none else x.suspend
    resuming := if back then none else x.resuming
    state := if stop then .active else if back then .suspended else x.state
    lift := { x.lift with loads := x.lift.loads.map (fun l => { l with
      readers := l.readers.filter (fun p => !sel p), waiting := l.waiting.filter (fun p => !sel p) }) } }
  let d1 := setPart d n y
  if stop then startHeld d1 n else d1

/-- The waiting descriptors of a reset end with FUNCTION_RESET; a function in reset is told nothing (R470). -/
def resetWaiting (f : Fn) (mine : List Nat) (d : Dev) : Dev :=
  let own := fromFn f
  let ps := waitingPosts f mine d
  let d1 := { d with
    composing := d.composing.filter (fun c => !(own c.post || mine.contains c.next.src.val))
    bases := d.bases.map (fun (b : Nat × BasisSt) => (b.1, { b.2 with waiting := b.2.waiting.filter (fun p => !(own p || mine.contains (bPart p))) }))
    tableHeld := d.tableHeld.filter (fun p => !(own p || mine.contains (dNat p 17 1)))
    fences := d.fences.filter (fun w => !own w.post)
    replPosts := d.replPosts.filter (fun e => !own e.2)
    qpDestroys := d.qpDestroys.filter (fun e => !own e.1)
    requests := d.requests.map (fun (e : Nat × ReqSt) => (e.1, { e.2 with asks := e.2.asks.filter (fun p => !own p) })) }
  let d2 := (d1.parts.map (fun e => e.1)).foldl (unsuspend (fun p => own p)) d1
  let d3 := if d2.health.admState.post.any own then admitEnd d2 .functionReset 0 else d2
  ps.foldl (fun d p => complete d p .functionReset 0 0) d3

/-- Queue pairs of the function become FREE, their operations end, and the peers receive nothing (Table 11.3); what the function posted on
others is nobody's any more. -/
def resetQps (f : Fn) (d : Dev) : Dev :=
  let own := fromFn f
  let mine := d.qps.filter (fun e => e.2.owner == f)
  let outs := mine.flatMap (fun e => e.2.ops.filterMap (·.post))
  let d1 := outs.foldl (fun d p => complete d p .functionReset 0 0) d
  let d2 := mine.foldl (fun (d : Dev) (e : Nat × QpSt) => freeQp d e.1 .functionReset) d1
  { d2 with qps := d2.qps.map (fun e => (e.1, { e.2 with ops := e.2.ops.map (fun o => if o.post.any own then { o with post := none } else o) })) }

/-- Pod operations of the function are forgotten: what still arrives for them is discarded (step 2, R367). -/
def resetPod (f : Fn) (mine : List Nat) (d : Dev) : Dev :=
  { d with podOps := d.podOps.filter (fun o => o.fn != f && (match o.use with
      | .atomic p => !fromFn f p
      | .lift part => !mine.contains part.val
      | _ => true)) }

/-! ## Requests and barges (step 5, Table 7.17) -/

/-- A request whose origin is the function ends with FUNCTION_RESET, and its home is told. -/
def resetRequest (d : Dev) (req : W64) : Dev :=
  match getReq d req with
  | none => d
  | some r =>
    let d1 := finalReq (endAsks d req .functionReset rReset) req kEnded .functionReset 0
    if r.phase = .live then lockTell d1 (lockHdr d1 req r.epoch 0 rReset 0xFF 5 r.home) .release [r.home.toNat] else d1

/-- A barge owned, or paged, in a partition of the function. -/
def resetBarge (d : Dev) (req : W64) : Dev :=
  match getBarge d req with
  | none => d
  | some b => match b.src with
    | none => releaseBarge d b rReset
    | some x =>
      if x.frozen then
        releaseBarge (if (getHome d req).any (fun r => r.state == .drain) then sendDrain d b x 0 else d) b rReset
      else
        let d1 := srcAbort d b x rReset
        match getBarge d1 req with
        | some b1 => releaseBarge d1 b1 rReset
        | none => d1

/-- A table in a partition of the function whose barge another device owns: RELEASE to the home, after ABORT in FILL. -/
def resetPages (d : Dev) (k : Nat) (t : TableSt) : Dev :=
  let req := t.request
  let home := sysIx (homeSys d req)
  let hdr (h : LockHdr) : LockHdr := { h with reason := BitVec.ofNat 16 rReset }
  let (d1, h) := match tget d.pageSrcs req.toNat with
    | some q =>
      let h := hdr (pageHdr d q)
      (pageSrcGone (if q.src.frozen then d else lockTell d h .abort [q.hdr.home.toNat, q.hdr.sender.toNat]) req, h)
    | none => (d, lockHdr d req 0 0 rReset t.part 1 home)
  lockTell (destroyTable d1 k) h .release [h.home.toNat]

/-- What a reset does to requests, barges, tables and destinations of transfers. -/
def resetBarges (f : Fn) (mine : List Nat) (d : Dev) : Dev :=
  let d1 := settle 4096 (((d.requests.filter (fun e => e.2.fn == f)).map (·.1)).foldl (fun d k => resetRequest d (BitVec.ofNat 64 k)) d)
  let paged (b : Barge) : Bool := (bargeTable d1 b).any (fun t => mine.contains t.2.part || mine.contains t.2.hold)
  let bs := (d1.barges.filter (fun e => mine.contains e.2.part.val || paged e.2)).map (fun e => e.2.hdr.request)
  let d2 := (d1.dsts.filter (fun x => mine.contains x.part.val)).foldl (fun (d : Dev) (x : DstSt) => dstDrop (dstRefuse d x rReset) x) d1
  let d3 := settle 4096 (bs.foldl resetBarge d2)
  let ts := d3.tables.filter (fun e => e.2.live && e.2.request != 0 && (mine.contains e.2.part || mine.contains e.2.hold))
  settle 4096 (ts.foldl (fun (d : Dev) (e : Nat × TableSt) => resetPages d e.1 e.2) d3)

/-! ## Partitions (step 6) -/

/-- The device pages of a partition. -/
def partPages (x : PartSt) : List Nat :=
  x.maps.map (fun m => m.2.page) ++ x.heap.flatMap (fun h => (List.range h.run).map (fun i => h.page + i))

/-- A partition of the function becomes FREE: its tables and its step end, its slices are cleared, its pages wait to be cleared
(R471). -/
def resetPart (f : Fn) (d : Dev) (n : Nat) : Dev :=
  let mine (t : TableSt) : Bool := t.part == n || t.hold == n
  let d1 := ((d.tables.filter (fun e => mine e.2)).map (·.1)).foldl destroyTable d
  let x := getPart d1 n
  let pages := partPages x
  let d2 := freePart (setPart d1 n { x with maps := [], heap := [] }) n
  rerunHeld { d2 with
    tables := d2.tables.filter (fun e => !mine e.2)
    links := d2.links.filter (fun e => e.2.src.val != n)
    steps := tdel d2.steps n
    stepResults := d2.stepResults.filter (fun r => r.part.val != n)
    staging := memZeroRange d2.staging (n * 2 ^ 56) (2 ^ 56)
    clearPages := pages.foldl (fun t p => tset t p f.val) d2.clearPages }

/-! ## Keys, policers, classes, registers (steps 7 and 8) -/

/-- The key slots of the function zeroed (R109). -/
def resetKeys (f : Fn) (d : Dev) : Dev :=
  { d with keys := d.keys.map (fun e => if e.2.owner = f then
      (e.1, { e.2 with enable := Tri.same false, loaded := false, key := 0 }) else e) }

/-- The policers of the function refilled, their counters zeroed (R446). -/
def resetPolicers (f : Fn) (d : Dev) : Dev :=
  { d with policers := d.policers.map (fun e => if e.2.owner = f then
      (e.1, { e.2 with tc := e.2.cbs * packetUnits, tx := e.2.xbs * packetUnits, green := 0, yellow := 0, red := 0 }) else e) }

/-- The request classes of the function unconfigured. -/
def resetClasses (f : Fn) (d : Dev) : Dev := { d with classes := d.classes.filter (fun e => e.1 / 16 != f.val) }

/-- The function's rings, vectors and BAR at their reset values; CLEARING stays while pages are left to clear. -/
def resetRegs (f : Fn) (d : Dev) : Dev :=
  { setFn d f { FnSt.reset with clearing := d.clearPages.any (fun e => e.2 == f.val) } with ended := d.ended.filter (fun e => e.1 != f) }

/-- Steps 1 to 5. -/
def resetWork (f : Fn) (mine : List Nat) (d : Dev) : Dev :=
  let F := getFn d f
  let d1 := setFn d f { F with inReset := true, pendVec := [], events := [], rings := F.rings.map (fun r => (r.1, { r.2 with queue := [], waiting := [] })) }
  resetBarges f mine (resetQps f (resetPod f mine (resetWaiting f mine (resetTasks f mine d1))))

/-- VF function reset (R469, Table 13.11). -/
def vfReset (d : Dev) (v : Fn) : Dev :=
  let mine := ownedParts d v
  let d1 := resetWork v mine d
  let d2 := mine.foldl (resetPart v) d1
  joinAnswer (resetRegs v (resetClasses v (resetPolicers v (resetKeys v d2))))

/-- VF_FLR (R469). -/
def execVfFlr (v : Fn) (s : State) : Host.Outcome State Fault Refusal :=
  answer s (if v.val == 0 || !fnExists s.dev v then s.dev else vfReset s.dev v)

/-- The VFs that exist. -/
def liveVfs (d : Dev) : List Fn := (List.finRange 64).filter (fun v => v.val != 0 && fnExists d v)

/-- PF function reset (R473). -/
def pfReset (d : Dev) : Dev :=
  let d1 := (liveVfs d).foldl vfReset d
  resetRegs 0 (resetWork 0 [] { d1 with vfEnable := false })

/-- PF_FLR (R473). -/
def execPfFlr (s : State) : Host.Outcome State Fault Refusal := answer s (pfReset s.dev)

/-- PCIE_HOT_RESET (R473). -/
def execPcieHotReset (s : State) : Host.Outcome State Fault Refusal := answer s (pfReset s.dev)

/-- The PCIe link leaves DL_Active (R473); the endpoint answers again when training has ended again. -/
def linkLost (d : Dev) : Dev :=
  let d1 := pfReset d
  { d1 with boot := { d1.boot with endpoint := false } }

/-- PCIE_LINK_DOWN (R473). -/
def execPcieLinkDown (s : State) : Host.Outcome State Fault Refusal := answer s (linkLost s.dev)

/-- A write of VF Enable and NumVFs (R455): each VF that ceases to exist is reset first. More than 63 VFs is no value of NumVFs. -/
def vfWrite (d : Dev) (enable : Bool) (n : Nat) : Dev :=
  let num := if n ≤ 63 then n else d.numVfs
  let gone := (liveVfs d).filter (fun v => !(enable && decide (v.val ≤ num)))
  { gone.foldl vfReset d with vfEnable := enable, numVfs := num }

/-- VF_ENABLE_WRITE (R455). -/
def execVfEnableWrite (enable : Bool) (numVfs : Nat) (s : State) : Host.Outcome State Fault Refusal :=
  answer s (vfWrite s.dev enable numVfs)

/-- The pages that a VF's reset released are cleared and free again (R471). -/
def clearDone (d : Dev) (v : Fn) : Dev :=
  let mine := d.clearPages.filter (fun e => e.2 == v.val)
  let d1 := mine.foldl (fun d e => clearRun d e.1 1) d
  let d2 := { d1 with clearPages := d1.clearPages.filter (fun e => e.2 != v.val) }
  if (getFn d2 v).clearing then setFn d2 v { getFn d2 v with clearing := false } else d2

/-- VF_PAGE_CLEAR_DONE (R471). -/
def execVfPageClearDone (v : Fn) (s : State) : Host.Outcome State Fault Refusal := answer s (clearDone s.dev v)

end Sys2Proof.Machine
end

