-- ==== Sys2Proof/Machine/Power.lean ====
section
/-! DEFINITION. Device ready, the clock, supply and thermal monitors, and the power states (15_bringup.md R515 to R519, R536 to R538;
14_reliability.md R482, R487, R488, Table 14.6; 12_sluice.md R438). -/
namespace Sys2Proof.Machine

/-! ## Device ready (R515) -/

/-- DEVICE_READY: the digest is set up, STAGE reads READY, and HELLO goes out on every port whose link exchanges it. -/
def execDeviceReady (s : State) : Host.Outcome State Fault Refusal :=
  let d := s.dev
  if d.boot.phase != .region then answer s d
  else
    let d1 := { d with boot := { d.boot with phase := .ready } }
    let d2 := { d1 with health := { d1.health with digest := configDigest d1 } }
    answer s (((List.range 16).filter (helloOpen d2)).foldl (fun d n => sendHello d (portNo n)) d2)

/-! ## Clocks (R516, R519, R488) -/

/-- Whether bring-up has begun and not ended. -/
def bringingUp (d : Dev) : Bool := d.boot.phase != .held && d.boot.phase != .ready

/-- A domain lost after device ready: gated and fenced; without HCLK the PCIe link leaves DL_Active (Table 15.2). -/
def loseDomain (d : Dev) (i : Nat) (offFrequency : Bool) : Dev :=
  if d.boot.clkFenced.getLsbD i then d
  else
    let d1 := fenceDomain d i offFrequency
    if i = 6 then linkLost d1 else d1

/-- A PLL loses lock: in reset only TCLK's matters, whose loss clears the time counters (R513); before device ready it is a reset event
(R516), in which TCLK keeps nothing when it is the domain lost; afterwards the domain is gated and fenced (R519). -/
def lockLoss (d : Dev) (i : Nat) : Dev :=
  let b := { d.boot with clkLocked := d.boot.clkLocked &&& ~~~(bit8 i) }
  if !d.boot.clkLocked.getLsbD i then d
  else if d.boot.phase == .held then
    { d with boot := { b with clkReleased := b.clkReleased &&& ~~~(bit8 i) }, tclk := if i = 0 then 0 else d.tclk }
  else if bringingUp d then resetEvent { d with boot := b }
  else loseDomain { d with boot := b } i (Config.lockLossCause i)

/-- PLL_LOCK_LOSS (R516, R519). -/
def execPllLockLoss (dom : Domain) (s : State) : Host.Outcome State Fault Refusal := answer s (lockLoss s.dev (domainBit dom))

/-- CLOCK_MONITOR_TRIP (R488, R519): only after device ready does a clock monitor fence, and only while MON_EN is 1. -/
def execClockMonitorTrip (dom : Domain) (offFrequency : Bool) (s : State) : Host.Outcome State Fault Refusal :=
  let d := s.dev
  answer s (if d.boot.phase == .ready && monEn d then loseDomain d (domainBit dom) offFrequency else d)

/-! ## Supplies (R487, R512, Table 14.6) -/

/-- The physical tiles `ts` fenced by a supply; a tile without its supply cannot be substituted by a spare without it. Their tasks
end. -/
def fenceTiles (d : Dev) (ts : List Nat) : Dev :=
  let spares := ts.filter (fun t => (logicalOf d t).isNone)
  let logical := ts.filterMap (logicalOf d)
  let hit (t : TaskSt) : Bool := t.tiles.any (fun l => logical.contains l)
  let d1 := { d with health := { d.health with spareFence := d.health.spareFence.filter (fun t => !spares.contains t) ++ spares } }
  let d2 := spares.foldl fencePart d1
  endTasks .internal hit (logical.foldl (fun d l => if tileFenced d l then d else fenceTile d l) d2)

/-- Whether a task works on T1 bytes or on page-cache frames that a fence bars. -/
def taskBarred (d : Dev) (t : TaskSt) : Bool :=
  let p := t.post
  let op := opcode p
  let x := getPart d t.part.val
  let os := taskOpds p
  let k := if op / 16 = 0x12 then kAttn d op p os t.part.val else kindOf op p os x
  (shaped k os).any (fun e => e.2.tier == 1 && (taskRanges op p e.1 e.2).any (fun r => t1Barred d x r.1 r.2)) ||
    t.ents.any (fun e => tableBarred d e.handle.toNat)

/-- Stacks fenced by a supply: operations on them complete with INTERNAL (Table 14.3). -/
def fenceStacks (d : Dev) (ss : List Nat) : Dev :=
  let d1 := ss.foldl (fun (d : Dev) s =>
    fencePart { d with health := { d.health with stackFence := d.health.stackFence ||| BitVec.ofNat 12 (2 ^ s) } } (partOfStack s)) d
  endTasks .internal (taskBarred d1) d1

/-- Ports fenced by a supply: the link is DOWN, its cells are discarded (Table 14.3). -/
def fencePorts (d : Dev) (ps : List Nat) : Dev :=
  ps.foldl (fun (d : Dev) n =>
    let was := (getPort d n).link
    let d1 := { d with health := { d.health with portFence := d.health.portFence ||| BitVec.ofNat 16 (2 ^ n) } }
    let d2 := fencePart (setPort d1 n (portDown (getPort d1 n))) (partOfPort n)
    if was == .down then d2 else linkDown d2 n 5) d

/-- The numbers `n * k` to `n * k + k - 1`. -/
def block (n k : Nat) : List Nat := (List.range k).map (fun i => n * k + i)

/-- The units of Table 14.6 fenced. -/
def fenceRail (d : Dev) (rail : Nat) : Dev :=
  match rail with
  | 0 | 1 => fencePorts (fenceStacks (fenceTiles d (block rail 36)) (block rail 6)) (block rail 8)
  | 2 => fenceTiles d (List.range 72)
  | 3 | 4 => linkLost (fencePorts d (List.range 16))
  | 5 | 6 | 7 => fenceStacks d (List.range 12)
  | 8 => assertAlert { d with health := { d.health with ioFence := true } }
  | _ => loseAon d

/-- A supply monitor trips: after device ready its units are fenced and HLT_SUPPLY posted (R487); before, it is a reset event, and supplies
are not good until they have been judged again (R512). It acts while MON_EN is 1, which is its value after reset. -/
def supplyTrip (d : Dev) (rail : Nat) (mV : W16) : Dev :=
  let d0 := { d with pins := { d.pins with rails := d.pins.rails.set rail mV } }
  if !monEn d then d0
  else if d.boot.phase == .ready then
    let d1 := { d0 with health := { d0.health with railTrip := tset d0.health.railTrip rail d0.tclk } }
    fenceRail (raise d1 0x0307 (unitOf 8 rail) mV.toNat) rail
  else
    let d1 := resetEvent d0
    { d1 with boot := { d1.boot with supplies := false } }

/-- SUPPLY_MONITOR_TRIP (R487, R512). -/
def execSupplyMonitorTrip (rail : Fin 10) (mV : W16) (s : State) : Host.Outcome State Fault Refusal :=
  answer s (supplyTrip s.dev rail.val mV)

/-! ## Thermal sensors (R438, R561) -/

/-- A sensor's reading in 0.1 °C. -/
def sensorAt (d : Dev) (i : Nat) : Int := (d.pins.sensors.getD i 0).toInt

/-- The sensors of half `h` that a sample takes: those not fenced, and not the one that a self-test slice examines. -/
def liveSensors (d : Dev) (h : Nat) : List Nat :=
  let busy := match tget d.health.slices (16 + h) with
    | some sl => if sl.kind = .thermal then some sl.block else none
    | none => none
  (block h 8).filter (fun i => !d.health.sensorFence.getLsbD i && busy != some i)

/-- The one of some sensors with the highest reading, the lowest-numbered of equal ones. -/
def hottest (d : Dev) : List Nat → Option Nat
  | [] => none
  | i :: t => match hottest d t with
    | none => some i
    | some j => if sensorAt d i < sensorAt d j then some j else some i

/-- THROTTLE after a reading (R438): 0 full, 1 half, 2 quarter rate. -/
def throttleNext (old : Nat) (r : Int) : Nat :=
  if 1050 < r then 2
  else if old = 2 ∧ 1020 ≤ r then 2
  else if 950 < r then 1
  else if old = 0 ∨ r < 920 then 0
  else 1

/-- A half's CAM. -/
def camThrottle (d : Dev) (h : Nat) : Nat := if h = 0 then d.camW.throttle else d.camE.throttle
def setThrottle (d : Dev) (h v : Nat) : Dev :=
  if h = 0 then { d with camW := { d.camW with throttle := v } } else { d with camE := { d.camE with throttle := v } }

/-- A sample of half `h`: the search rate's step, THERM_STEP on its change, THERM_LIMIT when the highest reading rises above 105 °C, and
SMB_ALERT_N with it. -/
def thermalSample (d : Dev) (h : Nat) (readings : List (BitVec 16)) : Dev :=
  let hot0 := hottest d (liveSensors d h)
  let was : Int := match hot0 with | some i => sensorAt d i | none => 0
  let at8 (i : Nat) (v : BitVec 16) : BitVec 16 := if i / 8 = h then readings.getD (i % 8) v else v
  let limit0 := d.pins.sensors.any (fun v => decide (1050 < v.toInt))
  let d1 := { d with pins := { d.pins with sensors := d.pins.sensors.zipIdx.map (fun e => at8 e.2 e.1) } }
  let limit1 := d1.pins.sensors.any (fun v => decide (1050 < v.toInt))
  let d2 := if limit1 && !limit0 then { d1 with pins := { d1.pins with smbReleased := false } } else d1
  match hottest d2 (liveSensors d2 h) with
  | none => d2
  | some i =>
    if !d.boot.clkReleased.getLsbD 2 then d2
    else
      let r := sensorAt d2 i
      let old := camThrottle d2 h
      let new := throttleNext old r
      let d3 := if new = old then d2 else raise (setThrottle d2 h new) 0x0401 (unitOf 0x0F i) new
      if 1050 < r ∧ was ≤ 1050 then raise d3 0x0402 (unitOf 0x0F i) r.toNat else d3

/-- THERMAL_SAMPLE (R438). -/
def execThermalSample (h : Half) (readings : List (BitVec 16)) (s : State) : Host.Outcome State Fault Refusal :=
  answer s (thermalSample s.dev (halfNo h) readings)

/-! ## Power states (R536 to R538) -/

/-- The conditions of R536. -/
def mayDormant (d : Dev) : Bool :=
  let holds (b : BState) : Bool := b == .underway || b == .inLock
  let owned := d.barges.any (fun e => holds e.2.state)
  let paged := !d.pageSrcs.isEmpty || d.tables.any (fun e => e.2.live && e.2.request != 0 && (getBarge d e.2.request).isNone &&
    farField e.2.request 0 1 == 0)
  d.parts.all (fun e => e.2.state == .free || e.2.state == .suspended) && d.qps.all (fun e => e.2.ops.isEmpty) && !owned && !paged

/-- Every barge's remainders brought up to now. -/
def tickAll (d : Dev) : Dev := { d with barges := d.barges.map (fun e => (e.1, tickBarge d e.2)) }

/-- DORMANT entered: the lanes are off. -/
def enterDormant (d : Dev) : Dev :=
  let d1 := tickAll d
  { d1 with boot := { d1.boot with dormant := true }, ports := d1.ports.map (fun e => (e.1, portDown e.2)) }

/-- DORMANT left: tile store is cleared, the lanes retrain. -/
def leaveDormant (d : Dev) : Dev :=
  let d1 := tickAll d
  let d2 := { d1 with boot := { d1.boot with dormant := false, byD3hot := false }, ts := [], tsBad := [] }
  (List.range 16).foldl startTraining d2

/-- PWR_STATE's rules (R536, Table 15.6): ARG 0 ACTIVE, 2 DORMANT. -/
def pwrState (p : Post) (d : Dev) : Res :=
  let arg := dNat p 16 1
  if !flashHead d p [] || (arg != 0 && arg != 2) then .plain .badDescriptor d
  else if (arg == 2) == d.boot.dormant then .plain .ok d
  else if arg == 0 then .plain .ok (leaveDormant d)
  else if mayDormant d then .plain .ok (enterDormant d)
  else .plain .badDescriptor d

/-- PWR_STATE DORMANT (R536). -/
def execPwrStateDormant (p : Post) (s : State) : Host.Outcome State Fault Refusal := answer s (perform 0x04B4 p (pwrState p) s.dev)
/-- PWR_STATE ACTIVE (R537). -/
def execPwrStateActive (p : Post) (s : State) : Host.Outcome State Fault Refusal := answer s (perform 0x04B4 p (pwrState p) s.dev)

/-- D3HOT_ENTRY (R538). -/
def execD3hotEntry (s : State) : Host.Outcome State Fault Refusal :=
  let d := s.dev
  if d.boot.d3hot then answer s d
  else
    let d1 := { d with boot := { d.boot with d3hot := true } }
    if d.boot.phase == .ready && !d.boot.dormant && mayDormant d then
      let d2 := enterDormant d1
      answer s { d2 with boot := { d2.boot with byD3hot := true } }
    else answer s d1

/-- The pending messages of a function's unmasked vectors sent, when it may write memory (R475). -/
def sendPending (d : Dev) (f : Fn) : Dev :=
  let F := getFn d f
  if !hostOpen d f then d
  else
    let go := F.pendVec.filter (fun v => F.unmasked.contains v)
    go.foldl (fun d v => fireVector d f v) (setFn d f { F with pendVec := F.pendVec.filter (fun v => !F.unmasked.contains v) })

/-- D0_ENTRY (R538): a DORMANT that D3hot started is left, and what waited for the host's memory goes. -/
def execD0Entry (s : State) : Host.Outcome State Fault Refusal :=
  let d := s.dev
  if !d.boot.d3hot then answer s d
  else
    let d1 := { d with boot := { d.boot with d3hot := false } }
    let d2 := if d1.boot.byD3hot then leaveDormant d1 else d1
    answer s ((d2.fns.map (fun e => fnId e.1)).foldl sendPending d2)

end Sys2Proof.Machine
end

