-- ==== Sys2Proof/Machine/ReplRegion.lean ====
section
/-! DEFINITION. The definition of replicated regions (10_pod_fabric.md R368), and what a change of a setting under the configuration digest
sets off (14_reliability.md R506). -/
namespace Sys2Proof.Machine

/-- The digest computed again; when it has changed HELLO goes out on every pod-mode link and every TOWPATH queue pair (R506, R355,
R418). Before device ready there is none yet (R514 step 10). -/
def podDigest (d : Dev) : Dev :=
  if d.boot.phase != .ready || configDigest d == d.health.digest then d
  else
    let d1 := refreshDigest d
    ((d1.qps.filter (fun e => e.2.towpath && e.2.state == .connected)).map (·.1)).foldl towHelloOut d1

/-- Whether a run of pages crosses from one half to the other. -/
def crossesHalf (pg n : Nat) : Bool := decide (pg < halfPages) && decide (halfPages < pg + n)

/-- Whether a partition maps a page of a run. -/
def runMapped (d : Dev) (pg n : Nat) : Bool :=
  d.parts.any (fun e => e.2.maps.any (fun m => decide (pg ≤ m.2.page) && decide (m.2.page < pg + n)))

/-- REPL_REGION's rules (R368). REMOVE of a region that is not defined completes with BAD_DESCRIPTOR, DEDUCED (log 30). -/
def replRegionRule (p : Post) (d : Dev) : Res :=
  let r := dNat p 16 1
  let remove := (dNat p 17 1).testBit 0
  let n := dNat p 20 4
  let o := dNat p 24 8
  let pg := o / pageSize
  let head := poster d p != 0 || lockPart d || !dZero p 8 8 || decide (15 < r) || decide (1 < dNat p 17 1) || !dZero p 18 2 ||
    !dZero p 32 32 || (!remove && o % pageSize != 0)
  if head then .plain .badDescriptor d
  else if remove then
    match tget d.repl r with
    | none => .plain .badDescriptor d
    | some g =>
      if runMapped d (g.offset / pageSize) g.count then .plain .badDescriptor d
      else .plain .ok (podDigest { d with repl := tdel d.repl r })
  else if n == 0 then .plain .badLength d
  else if decide (65536 < n) || decide (devicePages < pg + n) || (tget d.repl r).isSome ||
      !runClear (takenRuns d) pg n || crossesHalf pg n then .plain .badDescriptor d
  else .plain .ok (podDigest { d with
    repl := tset d.repl r ⟨o, n⟩, replVer := tset d.replVer r 0
    hbm := memZeroRange d.hbm o (n * pageSize) })

/-- REPL_REGION (R368). -/
def execReplRegion (p : Post) (s : State) : Host.Outcome State Fault Refusal :=
  answer s (perform 0x0470 p (replRegionRule p) s.dev)

/-- REPL_REGION with REMOVE (R368). -/
def execReplRegionRemove (p : Post) (s : State) : Host.Outcome State Fault Refusal :=
  answer s (perform 0x0470 p (replRegionRule p) s.dev)

end Sys2Proof.Machine
end

