-- ==== Sys2Proof/Machine/RegWrite.lean ====
section
/-! DEFINITION. Writes to the BARs (16_registers.md R541 to R552, 13_host.md R453, R455, Table 13.2, 03_lowrank.md R106): what a write of
each register sets off, the 4- and 8-byte accesses, the bit-alias window, a VF's BAR. -/
namespace Sys2Proof.Machine

/-! ## Lock bits (Table 16.2) -/

/-- Lock bits set, in all three copies (R549, R553): a write of 0 changes nothing. -/
def setLocks (d : Dev) (m : BitVec 5) : Dev := { d with locks := ⟨d.locks.a ||| m, d.locks.b ||| m, d.locks.c ||| m⟩ }

/-- A lock row: the PF's BAR answers. -/
def lockRow (bit : Nat) (s : State) : Host.Outcome State Fault Refusal :=
  answer s (if barOpen s.dev 0 then setLocks s.dev (BitVec.ofNat 5 (2 ^ bit)) else s.dev)

/-- LOCK_OPT_SET (R552, Table 16.2). -/
def execLockOptSet (s : State) : Host.Outcome State Fault Refusal := lockRow 0 s
/-- LOCK_PART_SET. -/
def execLockPartSet (s : State) : Host.Outcome State Fault Refusal := lockRow 1 s
/-- LOCK_ROUTE_SET. -/
def execLockRouteSet (s : State) : Host.Outcome State Fault Refusal := lockRow 2 s
/-- LOCK_KEYS_SET. -/
def execLockKeysSet (s : State) : Host.Outcome State Fault Refusal := lockRow 3 s
/-- LOCK_DEBUG_SET. -/
def execLockDebugSet (s : State) : Host.Outcome State Fault Refusal := lockRow 4 s

/-! ## Keys (R105, R106, Table 3.7) -/

/-- A write to SEC_SLOT_n: MODE and OWNER keep their value while ENABLE is 1; LOAD_REFUSED clears on a 1. -/
def secSlotPut (d : Dev) (n : Nat) (mask val : BitVec 128) : Dev :=
  let k := getKey d n
  let on := voteBool k.enable
  let free := !lockKeys d && !on
  let m := mask &&& val
  let own := (BitVec.ofNat 6 k.owner.val &&& ~~~(mask.extractLsb' 8 6)) ||| (val.extractLsb' 8 6 &&& mask.extractLsb' 8 6)
  let y : KeySlot := { k with
    enable := if mask.getLsbD 0 && !lockKeys d then Tri.same (val.getLsbD 0) else k.enable
    gcm := if mask.getLsbD 1 && free then val.getLsbD 1 else k.gcm
    owner := if free then fnId own.toNat else k.owner
    refused := k.refused && !m.getLsbD 17 }
  { d with keys := if y = KeySlot.reset then tdel d.keys n else tset d.keys n y }

/-- Whether a load of the key data into a slot is refused (R106). -/
def keyRefused (d : Dev) (n : Nat) : Bool :=
  let k := getKey d n
  voteBool k.enable || lockKeys d || (!k.gcm && d.keyData.extractLsb' 0 256 == d.keyData.extractLsb' 256 256)

/-- A write of SEC_KEY_CMD: the key data go into the slot, 64 bytes of XTS and 32 of GCM, or the refusal is marked; the window is cleared
in either case (DEDUCED, log 77). -/
def keyCmd (d : Dev) (n : Nat) : Dev :=
  let k := getKey d n
  let y : KeySlot := if keyRefused d n then { k with refused := true }
    else { k with loaded := true, key := if k.gcm then (d.keyData.extractLsb' 0 256).setWidth 512 else d.keyData }
  { d with keys := tset d.keys n y, keyData := 0 }

/-- SEC_KEY_CMD (R106). -/
def execSecKeyCmd (slot : Fin 256) (s : State) : Host.Outcome State Fault Refusal :=
  answer s (if barOpen s.dev 0 then keyCmd s.dev slot.val else s.dev)

/-- `n` bytes written into the key data window at byte `b`. -/
def keyDataPut (d : Dev) (b n : Nat) (v : W64) : Dev :=
  let m : BitVec 512 := BitVec.ofNat 512 ((2 ^ (8 * n) - 1) * 2 ^ (8 * b))
  { d with keyData := (d.keyData &&& ~~~m) ||| (BitVec.ofNat 512 (v.toNat * 2 ^ (8 * b)) &&& m) }

/-! ## XPT_IP_n (R543) -/

/-- A write to XPT_IP_n: one to the lower half is held; one to the upper half makes both halves take effect. Ignored under LOCK_ROUTE. -/
def ipPut (d : Dev) (n : Nat) (mask val : BitVec 128) : Dev :=
  let cur := cfgGet d (.xptIp n)
  let low := tgetD d.ipHeld n (cur.extractLsb' 0 64)
  if lockRoute d then d
  else if mask.extractLsb' 64 64 = 0 then
    let m := mask.extractLsb' 0 64
    if m = 0 then d else { d with ipHeld := tset d.ipHeld n ((low &&& ~~~m) ||| (val.extractLsb' 0 64 &&& m)) }
  else
    let m := mask.extractLsb' 64 64
    let high := (cur.extractLsb' 64 64 &&& ~~~m) ||| (val.extractLsb' 64 64 &&& m)
    { cfgSet d (.xptIp n) (high ++ low) with ipHeld := tdel d.ipHeld n }

/-- XPT_IP_LOW_WRITE (R543). -/
def execXptIpLowWrite (n : PortNo) (value : W64) (s : State) : Host.Outcome State Fault Refusal :=
  answer s (if barOpen s.dev 0 then ipPut s.dev n.val (maskOf 0 64) (value.setWidth 128) else s.dev)

/-- XPT_IP_HIGH_WRITE (R543). -/
def execXptIpHighWrite (n : PortNo) (value : W64) (s : State) : Host.Outcome State Fault Refusal :=
  answer s (if barOpen s.dev 0 then ipPut s.dev n.val (maskOf 64 64) (value ++ (0 : W64)) else s.dev)

/-! ## ALERT (R483) -/

/-- ALERT cleared and ALERT_N deasserted. -/
def clearAlert (d : Dev) : Dev :=
  { d with health := { d.health with alert := false }, pins := { d.pins with alert := false } }

/-- ALERT_CLEAR (R483): a write that coincides with a new fence leaves ALERT set. -/
def execAlertClear (newFence : Bool) (s : State) : Host.Outcome State Fault Refusal :=
  answer s (if barOpen s.dev 0 && !newFence then clearAlert s.dev else s.dev)

/-! ## What a write sets off, by register -/

/-- HLT_PROMISE when PROMISE has changed (R479). -/
def promiseChanged (d d1 : Dev) : Dev :=
  if promise d == promise d1 then d1 else raise d1 0x030E (unitOf 5 0) (b2n (promise d1))

/-- A write to FAB_PORT_CTL_n (Table 10.1): AUTOSPARE and SPARE_PHYS, then MODE, then RETRAIN. -/
def portCtlPut (d : Dev) (n : Nat) (mask val : BitVec 128) : Dev :=
  let fields := mask &&& ~~~(3 : BitVec 128)
  let d1 := cfgSet d (.portCtl n) (fieldsWritten d (.portCtl n) fields val)
  let m := mask &&& 3
  let mode := (((cfgGet d1 (.portCtl n)) &&& ~~~m) ||| (val &&& m)).toNat % 4
  let d2 := if m = 0 then d1 else writeMode d1 n mode
  if (mask &&& val).getLsbD 6 then writeRetrain d2 n else d2

/-- Whether a range of queue pairs may be given to function `f`: it ends by 16,777,215 and meets no other function's (Table 11.12). -/
def qpRangeOk (d : Dev) (f b c : Nat) : Bool :=
  decide (b + c ≤ 2 ^ 24) && (List.range 64).all (fun g => g == f ||
    (let b1 := cfgField d (.qpRange g) 0 24
     let c1 := cfgField d (.qpRange g) 32 25
     c == 0 || c1 == 0 || decide (b + c ≤ b1) || decide (b1 + c1 ≤ b)))

/-- A write to XPT_QP_RANGE_n. -/
def qpRangePut (d : Dev) (f : Nat) (mask val : BitVec 128) : Dev :=
  let v := fieldsWritten d (.qpRange f) mask val
  if qpRangeOk d f (bits v.toNat 0 24) (bits v.toNat 32 25) then cfgSet d (.qpRange f) v else d

/-- A write to SLU_DEFAULT_n, ignored as a whole when it polices by a policer that TENANT does not own (R439). -/
def sluDefaultPut (d : Dev) (n : Nat) (mask val : BitVec 128) : Dev :=
  let v := (fieldsWritten d (.sluDefault n) mask val).toNat
  if v.testBit 11 && (getPolicer d (bits v 1 10)).owner.val != bits v 12 6 then d
  else cfgSet d (.sluDefault n) (BitVec.ofNat 128 v)

/-- A write of `val` to the bits `mask` of a register (R8, R9, R549), with what it sets off. A field that the device keeps ignores it. -/
def regPut (d : Dev) (r : RegName) (mask val : BitVec 128) : Dev :=
  let m := mask &&& val
  match r with
  | .glbLock => setLocks d (m.extractLsb' 0 5)
  | .hltStat => if m.getLsbD 3 then clearAlert d else d
  | .lkpFailover => if m.getLsbD 0 then startFailover d else d
  | .secSlot n => secSlotPut d n mask val
  | .secKeyCmd => if mask.extractLsb' 0 8 = 0 then d else keyCmd d (m.toNat % 256)
  | .portCtl n => portCtlPut d n mask val
  | .camCfg h => camCfgPut d h mask val
  | .sluDefault n => sluDefaultPut d n mask val
  | .qpRange f => qpRangePut d f mask val
  | .xptIp n => ipPut d n mask val
  | .hltCtl | .dredgeCtl => promiseChanged d (cfgSet d r (fieldsWritten d r mask val))
  | .fabSelf | .members | .homeMap _ | .tcMap | .xptCtl | .lockTo => podDigest (cfgSet d r (fieldsWritten d r mask val))
  | .ringBase i => ringBaseWrite d 0 i (mask.setWidth 64) (val.setWidth 64)
  | .ringCtl i => ringCtlWrite d 0 i (mask.setWidth 64) (val.setWidth 64)
  | .ringMod i => ringModWrite d 0 i (mask.setWidth 64) (val.setWidth 64)
  | _ => if (regFields r).isEmpty then d else cfgSet d r (fieldsWritten d r mask val)

/-! ## Accesses to PF BAR0 (R541, R542, R547 to R550) -/

/-- `n` bytes written at byte `b` of a register. -/
def regBytesPut (d : Dev) (r : RegName) (b n : Nat) (v : W64) : Dev :=
  match r with
  | .secKeyData => keyDataPut d b n v
  | _ => regPut d r (maskOf (8 * b) (8 * n)) (BitVec.ofNat 128 (v.toNat % 2 ^ (8 * n) * 2 ^ (8 * b)))

/-- A 4-byte write; an unassigned offset ignores it (R7). -/
def writeWord (d : Dev) (o : Nat) (v : W32) : Dev :=
  match regAt o with
  | some (r, b) => regBytesPut d r b 4 (v.setWidth 64)
  | none => d

/-- A write to the registers: 8 bytes of a wide register are one change, else two 4-byte writes, lower address first (R542). -/
def writeRegs (d : Dev) (o : Nat) (eight : Bool) (v : W64) : Dev :=
  if !eight then writeWord d o (v.setWidth 32)
  else
    let both := writeWord (writeWord d o (v.extractLsb' 0 32)) (o + 4) (v.extractLsb' 32 32)
    match regAt o with
    | some (r, b) => if 8 ≤ regBytes r then regBytesPut d r b 8 v else both
    | none => both

/-- One bit written through the bit-alias window at offset `a` within it (R547 to R550). -/
def aliasBit (d : Dev) (a : Nat) (on : Bool) : Dev :=
  let o := a / 4 / 32 * 4
  let bit := a / 4 % 32
  match regAt o with
  | none => d
  | some (r, b) =>
    match r with
    | .secKeyData => d
    | _ => regPut d r (maskOf (8 * b + bit) 1) (BitVec.ofNat 128 (b2n on * 2 ^ (8 * b + bit)))

/-- A write in the bit-alias window: 8 bytes are two 4-byte writes, lower address first (R548). -/
def writeAlias (d : Dev) (a : Nat) (eight : Bool) (v : W64) : Dev :=
  let d1 := aliasBit d a (v.getLsbD 0)
  if eight then aliasBit d1 (a + 4) (v.getLsbD 32) else d1

/-- A write in a doorbell page (Table 13.6): only whole 8-byte writes are doorbells (R459). -/
def writeDoorbell (d : Dev) (f : Fn) (o : Nat) (eight : Bool) (v : W64) : Dev :=
  if !eight then d
  else if o = 0xFF8 then (if keeperRuns d then settle 4096 (cancelWrite d f v) else d)
  else doorbell d f (o / 8) v

/-- A write to PF BAR0 (Table 13.2). -/
def writePf (d : Dev) (o : Nat) (eight : Bool) (v : W64) : Dev :=
  if o < 0x40000 then writeRegs d o eight v
  else if 0x1000000 ≤ o ∧ o < 0x1800000 then writeAlias d (o - 0x1000000) eight v
  else if 0x2000000 ≤ o ∧ o < 0x2001000 then writeDoorbell d 0 (o - 0x2000000) eight v
  else d

/-! ## VF BAR0 (R546, Table 13.2) -/

/-- A write of `val` to the bits `mask` of a ring's block of registers at offset `o` within it. -/
def ringBlockPut (d : Dev) (f : Fn) (r o : Nat) (mask val : W64) : Dev :=
  match o / 8 with
  | 0 => ringBaseWrite d f r mask val
  | 1 => ringCtlWrite d f r mask val
  | 2 => ringModWrite d f r mask val
  | _ => d

/-- The mask bit of a vector written (R466). The address and the data of a message are not modelled. -/
def maskVector (d : Dev) (f : Fn) (vec : Nat) (masked : Bool) : Dev :=
  let F := getFn d f
  if masked then setFn d f { F with unmasked := F.unmasked.filter (· != vec) }
  else if F.unmasked.contains vec then d
  else
    let d1 := setFn d f { F with unmasked := F.unmasked ++ [vec], pendVec := F.pendVec.erase vec }
    if F.pendVec.contains vec then fireVector d1 f vec else d1

/-- A write to VF BAR0: ring blocks, the MSI-X table's mask bits, the doorbell page. The read-only view ignores it. -/
def writeVf (d : Dev) (f : Fn) (o : Nat) (eight : Bool) (v : W64) : Dev :=
  if 0x1000 ≤ o ∧ o < 0x2000 then
    let k := o - 0x1000
    let sh := if eight then 0 else 8 * (o % 8)
    let mask : W64 := if eight then BitVec.allOnes 64 else (BitVec.allOnes 32).setWidth 64 <<< sh
    ringBlockPut d f (k / 64) (k % 64) mask ((v <<< sh) &&& mask)
  else if 0xE000 ≤ o ∧ o < 0xE400 then
    if eight then (if o % 16 = 8 then maskVector d f ((o - 0xE000) / 16) (v.getLsbD 32) else d)
    else if o % 16 = 12 then maskVector d f ((o - 0xE000) / 16) (v.getLsbD 0) else d
  else if 0xF000 ≤ o ∧ o < 0x10000 then writeDoorbell d f (o - 0xF000) eight v
  else d

/-! ## The commands -/

/-- Whether an access has a size and an alignment that a BAR accepts (R453). -/
def accessOk (o size : Nat) : Bool := (size == 4 || size == 8) && o % size == 0

/-- An access that a BAR does not accept: a write is discarded and a read completed with Unsupported Request, and AER logs it (R453). -/
def badAccess (d : Dev) (f : Fn) (o size : Nat) (isWrite : Bool) : Dev :=
  let d1 := { d with aer := d.aer ++ [⟨f, o, size, isWrite⟩] }
  if isWrite then d1 else send d1 (.unsupported f o)

/-- A write to a function's BAR0. -/
def barWrite (d : Dev) (f : Fn) (o : Nat) (eight : Bool) (v : W64) : Dev :=
  if !barOpen d f then d
  else if !accessOk o (if eight then 8 else 4) then badAccess d f o (if eight then 8 else 4) true
  else if f.val = 0 then writePf d o eight v
  else writeVf d f o eight v

/-- REGISTER_WRITE (R8, R542, R544, R546). -/
def execRegisterWrite (fn : Fn) (offset : Nat) (eight : Bool) (value : W64) (s : State) : Host.Outcome State Fault Refusal :=
  answer s (barWrite s.dev fn offset eight value)

/-- BAR_INVALID_ACCESS (R453). -/
def execBarInvalidAccess (fn : Fn) (offset size : Nat) (isWrite : Bool) (s : State) : Host.Outcome State Fault Refusal :=
  answer s (if barOpen s.dev fn && !accessOk offset size then badAccess s.dev fn offset size isWrite else s.dev)

/-- BIT_ALIAS_WRITE (R547 to R550): `offset` is the write's offset in PF BAR0. -/
def execBitAliasWrite (offset : Nat) (eight : Bool) (value : W64) (s : State) : Host.Outcome State Fault Refusal :=
  answer s (if 0x1000000 ≤ offset ∧ offset < 0x1800000 then barWrite s.dev 0 offset eight value else s.dev)

end Sys2Proof.Machine
end

