-- ==== Sys2Proof/Machine/Views.lean ====
section
/-! DEFINITION. What the registers read as (16_registers.md R541 to R548, Tables 16.1, 16.5, 16.6 and the tables they name). A read changes
nothing, and the block has no command for it beside those of the SMBus. -/
namespace Sys2Proof.Machine

/-! ## Identity, reset, clocks -/

/-- GLB_ID (Table 16.6). -/
def glbId (d : Dev) : Nat :=
  0x7E48 + 0xA0 * 2 ^ 16 + 1 * 2 ^ 24 + d.boot.fwFamily.toNat * 2 ^ 32 + d.boot.fwVersion.toNat * 2 ^ 48

/-- RST_STAT (Table 15.8). -/
def rstStat (d : Dev) : Nat :=
  let b := d.boot
  stageCode b.phase + b.refBad.toNat * 2 ^ 3 + b2n b.imgAFail * 2 ^ 6 + b2n b.imgBFail * 2 ^ 7 + b2n b.imgUsed * 2 ^ 8 +
    b2n b.pufFail * 2 ^ 9 + b2n b.por * 2 ^ 10 + b.stackFail.toNat * 2 ^ 11 + b.resets.toNat * 2 ^ 32

/-- OPT_STAT (Table 15.5). -/
def optStat (d : Dev) : Nat :=
  let b := d.boot
  b2n b.optDef + b2n b.optCopyB * 2 + b2n b.aBad * 2 ^ 2 + b2n b.bBad * 2 ^ 3 + b.fieldDef.toNat * 2 ^ 8 + b.optSeq.toNat * 2 ^ 32

/-- CLK_STAT (Table 16.6). -/
def clkStat (d : Dev) : Nat :=
  d.boot.clkLocked.toNat + d.boot.clkReleased.toNat * 2 ^ 8 + d.boot.clkFenced.toNat * 2 ^ 16

/-- HLT_STAT (Table 14.2). -/
def hltStat (d : Dev) : Nat :=
  b2n (promise d) + b2n d.health.pairB * 2 + b2n d.health.standbyOk * 2 ^ 2 + b2n d.health.alert * 2 ^ 3 +
    b2n (d.health.halted || d.health.dead) * 2 ^ 4

/-! ## Partitions and tiles -/

/-- The state code of a partition (Table 5.6). -/
def pstateCode : PState → Nat
  | .free => 0 | .active => 1 | .suspending => 2 | .suspended => 3 | .resuming => 4

/-- Whether a partition holds pages or a basin of a request on the weir path (Table 5.6). -/
def holdsWeir (d : Dev) (n : Nat) : Bool :=
  d.tables.any (fun e => e.2.live && (e.2.part == n || e.2.hold == n) && (e.2.part != e.2.hold || (getBarge d e.2.request).any (·.hdr.weir)))

/-- PART_STATUS_n (Table 5.6). -/
def partStatus (d : Dev) (n : Nat) : Nat :=
  let x := getPart d n
  pstateCode x.state + roleOf x * 2 ^ 3 + b2n x.lift.run * 2 ^ 5 + b2n x.lift.halted * 2 ^ 6 + b2n (holdsWeir d n) * 2 ^ 7 +
    x.owner.val * 2 ^ 8 + popcount 64 (tilesOf x) * 2 ^ 16

/-- PART_USE_n and PART_USE3_n (Table 9.5). -/
def partUse (d : Dev) (n : Nat) : Nat := t1Charge (getPart d n) + (getPart d n).grants2.length * 2 ^ 32
def partUse3 (d : Dev) (n : Nat) : Nat := t3Charge (getPart d n)

/-- PART_CFG_n (Table 16.6). -/
def partCfg (d : Dev) (n : Nat) : Nat :=
  let x := getPart d n
  t1QuotaOf x + t2QuotaOf x * 2 ^ 32 + t3QuotaOf x * 2 ^ 64 + basisBaseOf x * 2 ^ 96 + basisCountOf x * 2 ^ 112

/-- TILE_MAP_n (Table 16.6). -/
def tileMapView (d : Dev) (n : Nat) : Nat :=
  let t := getTile d n
  t.phys + b2n t.fenced * 2 ^ 6 + b2n t.spared * 2 ^ 7

/-- TILE_FREE_h (Table 16.6). -/
def tileFreeView (d : Dev) (h : Nat) : Nat := (freeSpares d h).foldl (fun v s => v + 2 ^ s) 0

/-- The passes that every one of `ks` has completed (Table 9.11). -/
def allPasses (t : Tab Nat) : List Nat → Nat
  | [] => 0
  | k :: ks => ks.foldl (fun m k => min m (tgetD t k 0)) (tgetD t k 0)

/-- HBM_DREDGE_STAT (Table 9.11): the stacks in service, and the slices of the tiles of partitions. -/
def dredgeStat (d : Dev) : Nat :=
  let tstacks := (List.range 12).filter (fun s => !d.health.stackFence.getLsbD s)
  let tiles := (List.range 64).filter (fun t => d.parts.any (fun e => holdsTiles e.2 && (tilesOf e.2).testBit t))
  allPasses d.dredge.hbmPasses tstacks % 2 ^ 32 + allPasses d.dredge.tsPasses tiles % 2 ^ 32 * 2 ^ 32

/-! ## Fabric, transport, sluice -/

/-- LINK of FAB_PORT_STAT_n (Table 10.1). -/
def linkCode : LinkPhase → Nat
  | .down => 0 | .training => 1 | .hello => 2 | .up => 3 | .quarantined => 4 | .retraining => 5

/-- FAB_PORT_STAT_n. -/
def portStat (d : Dev) (n : Nat) : Nat :=
  let P := getPort d n
  linkCode P.link + P.laneBad.toNat * 2 ^ 3 + P.peerDev * 2 ^ 16 + P.peerPod * 2 ^ 22 + P.replays.toNat * 2 ^ 32

/-- SLU_DROP_n (Table 12.7). -/
def sluDrop (d : Dev) (n : Nat) : Nat := (getPort d n).qfull.toNat + (getPort d n).dropped.toNat * 2 ^ 32

/-- CAM_STAT_h (Table 12.2). -/
def camStat (d : Dev) (h : Nat) : Nat :=
  let c := getCam d h
  c.loc.length + c.cls.length * 2 ^ 32 + c.throttle * 2 ^ 62

/-! ## Rings (Tables 13.4, 13.5) -/

/-- PCI_RING_CTL_r and PCI_RING_MOD_r. -/
def ringCtlView (R : RingSt) : Nat :=
  b2n R.enable + R.kind.toNat * 2 + R.log2.toNat * 2 ^ 4 + R.cplRing.toNat * 2 ^ 10 + R.vector.toNat * 2 ^ 32
def ringModView (R : RingSt) : Nat := R.modCount.toNat + R.modUsec.toNat * 2 ^ 16

/-- STALL: of several reasons the one of the lowest code, DESIGN CHOICE (log 78). -/
def stallCode (d : Dev) (f : Fn) (r : Nat) : Nat :=
  let R := getRing d f r
  if !kindSubmission R.kind || !R.enable then 0
  else if !(getRing d f R.cplRing.toNat).waiting.isEmpty then 1
  else if R.stalls.contains .basis then 2
  else if R.stalls.contains .partition then 3
  else if R.stalls.contains .qpLimit then 4
  else if R.qpWait.isSome then 5
  else if flagWaits d f r then 6
  else if 4096 ≤ fnFlight d f ∨ !hostOpen d f then 7
  else 0

/-- PCI_RING_STAT_r. -/
def ringStat (d : Dev) (f : Fn) (r : Nat) : Nat :=
  let R := getRing d f r
  R.fetched.toNat + (if R.stalls.contains .basis then 0x42 else 0) * 2 ^ 32 + stallCode d f r * 2 ^ 48 + b2n R.enable * 2 ^ 51 +
    b2n (!R.enable && R.flight.isEmpty) * 2 ^ 52

/-- PCI_RING_ERR_r; LOST is the function's event ring's. -/
def ringErr (d : Dev) (f : Fn) (r : Nat) : Nat :=
  let R := getRing d f r
  R.setupErr.toNat + R.dbBad.toNat * 2 ^ 16 + (if kindEvent R.kind then (getFn d f).evLost.toNat else 0) * 2 ^ 32

/-- PCI_VF_RESET and PCI_VF_CLEAR (R473). -/
def vfBits (d : Dev) (p : FnSt → Bool) : Nat := (d.fns.filter (fun e => e.1 != 0 && p e.2)).foldl (fun v e => v + 2 ^ (e.1 % 64)) 0

/-! ## Keys, health -/

/-- SEC_SLOT_n (Table 3.7). -/
def secSlotView (d : Dev) (n : Nat) : Nat :=
  let k := getKey d n
  b2n (voteBool k.enable) + b2n k.gcm * 2 + k.owner.val * 2 ^ 8 + b2n k.loaded * 2 ^ 16 + b2n k.refused * 2 ^ 17

/-- STATE of HLT_SCORE_i (Table 14.2). -/
def hstateCode : HState → Nat
  | .ok => 0 | .watch => 1 | .expel => 2 | .fenced => 3

/-- HLT_SCORE_i. -/
def hltScore (d : Dev) (i : Nat) : Nat :=
  let h := getHealth d i
  h.score.toNat + hstateCode h.state * 2 ^ 32 + h.run * 2 ^ 34 + b2n h.capped * 2 ^ 36

/-- HLT_DIGEST_j: j = 0 holds the digest's first 8 bytes (Table 14.2). -/
def hltDigest (d : Dev) (j : Nat) : Nat := leNat (slice (beBytes d.health.digest.toNat 32) (8 * j) 8)

/-! ## Every register -/

/-- What a register of Table 16.5 reads as. Write-only fields read 0. -/
def regRead (d : Dev) (r : RegName) : Nat :=
  match r with
  | .glbId => glbId d
  | .glbLock => (voteBits d.locks).toNat
  | .rstStat => rstStat d
  | .optStat => optStat d
  | .clkStat => clkStat d
  | .partStatus n => partStatus d n
  | .partUse n => partUse d n
  | .partUse3 n => partUse3 d n
  | .partTiles n => tilesOf (getPart d n)
  | .partCfg n => partCfg d n
  | .tileMap n => tileMapView d n
  | .tileFree h => tileFreeView d h
  | .stallCyc n => (tgetD d.stallCyc n 0).toNat
  | .stallCnt n => (tgetD d.stallCnt n 0).toNat
  | .dredgeStat => dredgeStat d
  | .portStat n => portStat d n
  | .peerLost => d.peerLost.toNat
  | .replVer n => (tgetD d.replVer n 0).toNat
  | .xptMiss h => (xptGetCount d 0 h).toNat
  | .xptCwait h => (xptGetCount d 1 h).toNat
  | .xptDrop h => (xptGetCount d 2 h).toNat
  | .xptRetx h => (xptGetCount d 3 h).toNat
  | .sluDrop n => sluDrop d n
  | .camStat h => camStat d h
  | .ringBase i => (getRing d 0 i).base.toNat
  | .ringCtl i => ringCtlView (getRing d 0 i)
  | .ringMod i => ringModView (getRing d 0 i)
  | .ringStat i => ringStat d 0 i
  | .ringCnt i => (getRing d 0 i).done.toNat
  | .ringErr i => ringErr d 0 i
  | .vfReset => vfBits d (·.inReset)
  | .vfClear => vfBits d (·.clearing)
  | .lkpRegion => d.boot.opts.regionPages
  | .lkpFailover => 0
  | .secSlot n => secSlotView d n
  | .secKeyCmd => 0
  | .secKeyData => 0
  | .hltStat => hltStat d
  | .hltWindow => d.health.window.toNat
  | .hltDigest j => hltDigest d j
  | .hltScore i => hltScore d i
  | r => (cfgGet d r).toNat

/-- A 4-byte read of PF BAR0's registers; an unassigned offset reads 0 (R541). -/
def readWord (d : Dev) (o : Nat) : W32 :=
  match regAt o with
  | some (r, b) => BitVec.ofNat 32 (regRead d r / 2 ^ (8 * b))
  | none => 0

/-- A 4-byte read in the bit-alias window at offset `a` within it (R548). -/
def readAlias (d : Dev) (a : Nat) : W32 := BitVec.ofNat 32 (b2n ((readWord d (a / 4 / 32 * 4)).getLsbD (a / 4 % 32)))

/-- A 4-byte read of a VF's BAR0 (R546, Table 16.1), while it is not in reset. -/
def readVfWord (d : Dev) (f : Fn) (o : Nat) : W32 :=
  let mine (n : Nat) : Bool := (getPart d n).owner == f && (getPart d n).state != .free
  let at8 (v : Nat) : W32 := BitVec.ofNat 32 (v / 2 ^ (8 * (o % 8)))
  if !barOpen d f then 0
  else if o < 8 then at8 (glbId d)
  else if o < 16 then at8 f.val
  else if o < 24 then at8 (cfgGet d (.qpRange f.val)).toNat
  else if 0x100 ≤ o ∧ o < 0x200 then (let n := (o - 0x100) / 4; if mine n then BitVec.ofNat 32 (partStatus d n) else 0)
  else if 0x200 ≤ o ∧ o < 0x400 then (let n := (o - 0x200) / 8; if mine n then at8 (partUse d n) else 0)
  else if 0x1000 ≤ o ∧ o < 0x2000 then
    let R := getRing d f ((o - 0x1000) / 64)
    match o % 64 / 8 with
    | 0 => at8 R.base.toNat
    | 1 => at8 (ringCtlView R)
    | 2 => at8 (ringModView R)
    | 3 => at8 (ringStat d f ((o - 0x1000) / 64))
    | 4 => at8 R.done.toNat
    | 5 => at8 (ringErr d f ((o - 0x1000) / 64))
    | _ => 0
  else 0

end Sys2Proof.Machine
end

