-- ==== Sys2Proof/Machine/Mgmt.lean ====
section
/-! DEFINITION. The management ports: the SMBus target and JTAG (17_package.md R558 to R562, Table 17.3). -/
namespace Sys2Proof.Machine

/-! ## SMBus (R560, R561) -/

/-- Whether the SMBus port answers: from the end of the option load (R560), while VDD_IO is not fenced (Table 14.6). -/
def smbOpen (d : Dev) : Bool := d.boot.optLoaded && !d.health.ioFence

/-- A Block Read answered with its bytes, least significant first (Table 17.3); before the option load nothing is acknowledged. -/
def smbAnswer (bs : Dev → List Byte) (s : State) : Host.Outcome State Fault Refusal :=
  answer s (if smbOpen s.dev then send s.dev (.smb (bs s.dev)) else s.dev)

/-- SMB_READ_GLB_ID: code 0x01, 8 bytes. -/
def execSmbReadGlbId (s : State) : Host.Outcome State Fault Refusal := smbAnswer (fun d => leBytes (glbId d) 8) s
/-- SMB_READ_RST_STAT: code 0x02, 8 bytes. -/
def execSmbReadRstStat (s : State) : Host.Outcome State Fault Refusal := smbAnswer (fun d => leBytes (rstStat d) 8) s
/-- SMB_READ_OPT_STAT: code 0x03, 8 bytes. -/
def execSmbReadOptStat (s : State) : Host.Outcome State Fault Refusal := smbAnswer (fun d => leBytes (optStat d) 8) s
/-- SMB_READ_HLT_STAT: code 0x04, 4 bytes. -/
def execSmbReadHltStat (s : State) : Host.Outcome State Fault Refusal := smbAnswer (fun d => leBytes (hltStat d) 4) s

/-- The highest reading of a half, as its 16 bits. -/
def highest (d : Dev) (h : Nat) : Nat := match hottest d (block h 8) with | some i => (d.pins.sensors.getD i 0).toNat | none => 0

/-- SMB_READ_TEMPERATURE: code 0x05, the highest reading of W and of E, 16 bits each. -/
def execSmbReadTemperature (s : State) : Host.Outcome State Fault Refusal :=
  smbAnswer (fun d => leBytes (highest d 0) 2 ++ leBytes (highest d 1) 2) s

/-- SMB_READ_RAILS: code 0x06, the ten rails' readings in mV. -/
def execSmbReadRails (s : State) : Host.Outcome State Fault Refusal :=
  smbAnswer (fun d => (List.range 10).flatMap (fun i => leBytes (d.pins.rails.getD i 0).toNat 2)) s

/-- Whether SMB_ALERT_N is asserted (R561). -/
def smbAlert (d : Dev) : Bool :=
  smbOpen d && !d.pins.smbReleased && (d.health.alert || d.pins.sensors.any (fun v => decide (1050 < v.toInt)))

/-- SMB_ALERT_RESPONSE (R561): SMB_ADDR, and SMB_ALERT_N is released until the next new condition. A device that asserts no alert does
not answer the Alert Response Address (PRESUMED, log 79). -/
def execSmbAlertResponse (s : State) : Host.Outcome State Fault Refusal :=
  let d := s.dev
  answer s (if smbAlert d then
    send { d with pins := { d.pins with smbReleased := true } } (.smbAlertAddr d.boot.opts.smbAddr) else d)

/-! ## JTAG (R562) -/

/-- The instruction codes that the model keeps in the instruction register; only BYPASS, all ones, is IEEE 1149.1's own (log 6). -/
def irBypass : Byte := 0xFF
def irSample : Byte := 0x02
def irExtest : Byte := 0x00
def irIdcode : Byte := 0x01

/-- JTAG_BYPASS: the bypass register, one bit that captures 0. -/
def execJtagBypass (s : State) : Host.Outcome State Fault Refusal :=
  answer s (send { s.dev with pins := { s.dev.pins with jtagIr := irBypass } } (.tdo [false]))

/-- JTAG_SAMPLE_PRELOAD: what the chain held is shifted out and the new contents are shifted in; no pin changes. -/
def execJtagSamplePreload (preload : List Bool) (s : State) : Host.Outcome State Fault Refusal :=
  let d := s.dev
  answer s (send { d with pins := { d.pins with jtagIr := irSample, boundary := preload } } (.tdo d.pins.boundary))

/-- JTAG_EXTEST: the pins are driven from the boundary-scan chain. -/
def execJtagExtest (s : State) : Host.Outcome State Fault Refusal :=
  let d := s.dev
  answer s { d with pins := { d.pins with jtagIr := irExtest, driven := d.pins.boundary } }

/-- IDCODE: [31:28] 0, [27:12] 0x7E48, [11:1] the JEP106 identity, [0] 1. -/
def idcode : Nat := 0x7E48 * 2 ^ 12 + Config.jep106.toNat * 2 + 1

/-- JTAG_IDCODE: its 32 bits are shifted out, the least significant first. -/
def execJtagIdcode (s : State) : Host.Outcome State Fault Refusal :=
  answer s (send { s.dev with pins := { s.dev.pins with jtagIr := irIdcode } }
    (.tdo ((List.range 32).map (fun i => idcode.testBit i))))

/-- TRST_N_LOW: the TAP is in Test-Logic-Reset, where IDCODE is the instruction and the pins belong to the device (IEEE 1149.1,
PRESUMED, log 6). -/
def execTrstNLow (s : State) : Host.Outcome State Fault Refusal :=
  answer s { s.dev with pins := { s.dev.pins with jtagIr := irIdcode, driven := [] } }

/-- JTAG_PRIVATE_INSTRUCTION: guarded by LOCK_DEBUG, under which it does nothing; while LOCK_DEBUG is 0 the spec names no instruction
and no effect. -/
def execJtagPrivateInstruction (_code : Byte) (s : State) : Host.Outcome State Fault Refusal :=
  if lockDebug s.dev then answer s s.dev else Host.Outcome.refused Refusal.jtagPrivate

end Sys2Proof.Machine
end

