-- ==== Sys2Proof/Machine/Dispatch.lean ====
section
/-! DEFINITION. The meaning of every command of the block: one arm per constructor of Instr. -/
namespace Sys2Proof.Machine

def exec (i : Instr) (s : State) : Host.Outcome State Fault Refusal :=
  match i with
  | .powerOnDetect => Sys2Proof.Machine.execPowerOnDetect s
  | .sysRstNLow => Sys2Proof.Machine.execSysRstNLow s
  | .pwrOkLow => Sys2Proof.Machine.execPwrOkLow s
  | .resetRelease => Sys2Proof.Machine.execResetRelease s
  | .referenceCheck sysref fref peRefclk => Sys2Proof.Machine.execReferenceCheck sysref fref peRefclk s
  | .optionLoad => Sys2Proof.Machine.execOptionLoad s
  | .pllLock d => Sys2Proof.Machine.execPllLock d s
  | .domainRelease d => Sys2Proof.Machine.execDomainRelease d s
  | .imageVerify => Sys2Proof.Machine.execImageVerify s
  | .endpointReady => Sys2Proof.Machine.execEndpointReady s
  | .hbmTrainingDone failed => Sys2Proof.Machine.execHbmTrainingDone failed s
  | .hbmClearDone => Sys2Proof.Machine.execHbmClearDone s
  | .deviceReady => Sys2Proof.Machine.execDeviceReady s
  | .pllLockLoss d => Sys2Proof.Machine.execPllLockLoss d s
  | .clockMonitorTrip d offFrequency => Sys2Proof.Machine.execClockMonitorTrip d offFrequency s
  | .supplyMonitorTrip rail mV => Sys2Proof.Machine.execSupplyMonitorTrip rail mV s
  | .thermTrip => Sys2Proof.Machine.execThermTrip s
  | .thermalSample h readings => Sys2Proof.Machine.execThermalSample h readings s
  | .pwrStateDormant p => Sys2Proof.Machine.execPwrStateDormant p s
  | .pwrStateActive p => Sys2Proof.Machine.execPwrStateActive p s
  | .d3hotEntry => Sys2Proof.Machine.execD3hotEntry s
  | .d0Entry => Sys2Proof.Machine.execD0Entry s
  | .optWrite p readBackOk => Sys2Proof.Machine.execOptWrite p readBackOk s
  | .fwWrite p img => Sys2Proof.Machine.execFwWrite p img s
  | .attest p => Sys2Proof.Machine.execAttest p s
  | .jrnlRead p => Sys2Proof.Machine.execJrnlRead p s
  | .journalCommit entries => Sys2Proof.Machine.execJournalCommit entries s
  | .registerWrite fn offset eight value => Sys2Proof.Machine.execRegisterWrite fn offset eight value s
  | .barInvalidAccess fn offset size isWrite => Sys2Proof.Machine.execBarInvalidAccess fn offset size isWrite s
  | .bitAliasWrite offset eight value => Sys2Proof.Machine.execBitAliasWrite offset eight value s
  | .lockOptSet => Sys2Proof.Machine.execLockOptSet s
  | .lockPartSet => Sys2Proof.Machine.execLockPartSet s
  | .lockRouteSet => Sys2Proof.Machine.execLockRouteSet s
  | .lockKeysSet => Sys2Proof.Machine.execLockKeysSet s
  | .lockDebugSet => Sys2Proof.Machine.execLockDebugSet s
  | .secKeyCmd slot => Sys2Proof.Machine.execSecKeyCmd slot s
  | .xptIpLowWrite n value => Sys2Proof.Machine.execXptIpLowWrite n value s
  | .xptIpHighWrite n value => Sys2Proof.Machine.execXptIpHighWrite n value s
  | .camCfgWrite h value => Sys2Proof.Machine.execCamCfgWrite h value s
  | .fabPortMode n mode => Sys2Proof.Machine.execFabPortMode n mode s
  | .fabPortRetrain n => Sys2Proof.Machine.execFabPortRetrain n s
  | .alertClear newFence => Sys2Proof.Machine.execAlertClear newFence s
  | .lkpFailoverGo => Sys2Proof.Machine.execLkpFailoverGo s
  | .vfEnableWrite enable numVfs => Sys2Proof.Machine.execVfEnableWrite enable numVfs s
  | .busMasterEnable fn on => Sys2Proof.Machine.execBusMasterEnable fn on s
  | .msixUnmask fn vec => Sys2Proof.Machine.execMsixUnmask fn vec s
  | .vfFlr v => Sys2Proof.Machine.execVfFlr v s
  | .pfFlr => Sys2Proof.Machine.execPfFlr s
  | .pcieHotReset => Sys2Proof.Machine.execPcieHotReset s
  | .pcieLinkDown => Sys2Proof.Machine.execPcieLinkDown s
  | .vfPageClearDone v => Sys2Proof.Machine.execVfPageClearDone v s
  | .ringEnable fn ring ctl => Sys2Proof.Machine.execRingEnable fn ring ctl s
  | .ringDisable fn ring => Sys2Proof.Machine.execRingDisable fn ring s
  | .producedDoorbell fn ring value wrote => Sys2Proof.Machine.execProducedDoorbell fn ring value wrote s
  | .consumedDoorbell fn ring value => Sys2Proof.Machine.execConsumedDoorbell fn ring value s
  | .cancelDoorbell fn value => Sys2Proof.Machine.execCancelDoorbell fn value s
  | .descriptorFetch fn ring poison => Sys2Proof.Machine.execDescriptorFetch fn ring poison s
  | .completionRecordWrite fn ring => Sys2Proof.Machine.execCompletionRecordWrite fn ring s
  | .eventPost fn => Sys2Proof.Machine.execEventPost fn s
  | .ringModTimer fn ring => Sys2Proof.Machine.execRingModTimer fn ring s
  | .matmul p => Sys2Proof.Machine.execMatmul p s
  | .groupedMatmul p => Sys2Proof.Machine.execGroupedMatmul p s
  | .route p => Sys2Proof.Machine.execRoute p s
  | .norm p => Sys2Proof.Machine.execNorm p s
  | .elementwise p => Sys2Proof.Machine.execElementwise p s
  | .softmax p => Sys2Proof.Machine.execSoftmax p s
  | .gather p => Sys2Proof.Machine.execGather p s
  | .sample p => Sys2Proof.Machine.execSample p s
  | .convert p => Sys2Proof.Machine.execConvert p s
  | .compress p => Sys2Proof.Machine.execCompress p s
  | .reduce p => Sys2Proof.Machine.execReduce p s
  | .copy p => Sys2Proof.Machine.execCopy p s
  | .gradWeight p => Sys2Proof.Machine.execGradWeight p s
  | .actBwd p => Sys2Proof.Machine.execActBwd p s
  | .normBwd p => Sys2Proof.Machine.execNormBwd p s
  | .optimAdamw p => Sys2Proof.Machine.execOptimAdamw p s
  | .kvAppend p => Sys2Proof.Machine.execKvAppend p s
  | .attend p => Sys2Proof.Machine.execAttend p s
  | .kvVerify p => Sys2Proof.Machine.execKvVerify p s
  | .appendSlotWaitEnd part => Sys2Proof.Machine.execAppendSlotWaitEnd part s
  | .farLegQuery q => Sys2Proof.Machine.execFarLegQuery q s
  | .partialRecords task fromDev status detail recs => Sys2Proof.Machine.execPartialRecords task fromDev status detail recs s
  | .farLegTimeout task => Sys2Proof.Machine.execFarLegTimeout task s
  | .tileBoundary tile => Sys2Proof.Machine.execTileBoundary tile s
  | .chunkEnd tile mismatch => Sys2Proof.Machine.execChunkEnd tile mismatch s
  | .workItemComplete task tile => Sys2Proof.Machine.execWorkItemComplete task tile s
  | .basisReplace p => Sys2Proof.Machine.execBasisReplace p s
  | .basisRetire p => Sys2Proof.Machine.execBasisRetire p s
  | .basisDrainDone id => Sys2Proof.Machine.execBasisDrainDone id s
  | .partCreate p => Sys2Proof.Machine.execPartCreate p s
  | .partDestroy p => Sys2Proof.Machine.execPartDestroy p s
  | .partRole p => Sys2Proof.Machine.execPartRole p s
  | .partSuspend p => Sys2Proof.Machine.execPartSuspend p s
  | .partResume p => Sys2Proof.Machine.execPartResume p s
  | .partSwitch p => Sys2Proof.Machine.execPartSwitch p s
  | .passAbandonTimeout part => Sys2Proof.Machine.execPassAbandonTimeout part s
  | .partSaveComplete part => Sys2Proof.Machine.execPartSaveComplete part s
  | .partRestoreComplete part => Sys2Proof.Machine.execPartRestoreComplete part s
  | .compose p => Sys2Proof.Machine.execCompose p s
  | .composeRemove p => Sys2Proof.Machine.execComposeRemove p s
  | .composeConfirmTimeout compId link => Sys2Proof.Machine.execComposeConfirmTimeout compId link s
  | .liftStart p => Sys2Proof.Machine.execLiftStart p s
  | .liftStop p => Sys2Proof.Machine.execLiftStop p s
  | .liftLoadComplete part => Sys2Proof.Machine.execLiftLoadComplete part s
  | .liftLoadFailure part lost addr => Sys2Proof.Machine.execLiftLoadFailure part lost addr s
  | .liftFenceTimeout part => Sys2Proof.Machine.execLiftFenceTimeout part s
  | .weirRetry request => Sys2Proof.Machine.execWeirRetry request s
  | .kvLayout p => Sys2Proof.Machine.execKvLayout p s
  | .kvLayoutRemove p => Sys2Proof.Machine.execKvLayoutRemove p s
  | .kvPolicy p => Sys2Proof.Machine.execKvPolicy p s
  | .ptCreate p => Sys2Proof.Machine.execPtCreate p s
  | .ptFork p => Sys2Proof.Machine.execPtFork p s
  | .ptTruncate p => Sys2Proof.Machine.execPtTruncate p s
  | .ptDestroy p => Sys2Proof.Machine.execPtDestroy p s
  | .ptQuery p => Sys2Proof.Machine.execPtQuery p s
  | .lockMove p => Sys2Proof.Machine.execLockMove p s
  | .lockResolve p => Sys2Proof.Machine.execLockResolve p s
  | .bargeQuery p => Sys2Proof.Machine.execBargeQuery p s
  | .bargeRehome p => Sys2Proof.Machine.execBargeRehome p s
  | .bargeRelease p => Sys2Proof.Machine.execBargeRelease p s
  | .fillOpen h pay => Sys2Proof.Machine.execFillOpen h pay s
  | .ready h => Sys2Proof.Machine.execReady h s
  | .fillData h sec chunk content => Sys2Proof.Machine.execFillData h sec chunk content s
  | .fillRoundEnd request => Sys2Proof.Machine.execFillRoundEnd request s
  | .seal h chunks digest => Sys2Proof.Machine.execSeal h chunks digest s
  | .accept h handle => Sys2Proof.Machine.execAccept h handle s
  | .refuse h => Sys2Proof.Machine.execRefuse h s
  | .commit h owner pages handle => Sys2Proof.Machine.execCommit h owner pages handle s
  | .abort h => Sys2Proof.Machine.execAbort h s
  | .drainDone h => Sys2Proof.Machine.execDrainDone h s
  | .homeQuery h => Sys2Proof.Machine.execHomeQuery h s
  | .homeReply h answer => Sys2Proof.Machine.execHomeReply h answer s
  | .resolve h dest owner pages parties => Sys2Proof.Machine.execResolve h dest owner pages parties s
  | .resolved h owner pages => Sys2Proof.Machine.execResolved h owner pages s
  | .release h => Sys2Proof.Machine.execRelease h s
  | .loss h detail => Sys2Proof.Machine.execLoss h detail s
  | .token h position tokens => Sys2Proof.Machine.execToken h position tokens s
  | .tokenAck h historyLen => Sys2Proof.Machine.execTokenAck h historyLen s
  | .tokenAckTimeout request => Sys2Proof.Machine.execTokenAckTimeout request s
  | .gateTimerExpiry request => Sys2Proof.Machine.execGateTimerExpiry request s
  | .fillReadyTimeout request => Sys2Proof.Machine.execFillReadyTimeout request s
  | .partyQueryTimeout request => Sys2Proof.Machine.execPartyQueryTimeout request s
  | .drainResendTimeout request => Sys2Proof.Machine.execDrainResendTimeout request s
  | .queryReplyTimeout request => Sys2Proof.Machine.execQueryReplyTimeout request s
  | .requestSubmit p => Sys2Proof.Machine.execRequestSubmit p s
  | .requestAdmitRetry fn request => Sys2Proof.Machine.execRequestAdmitRetry fn request s
  | .requestCancel p => Sys2Proof.Machine.execRequestCancel p s
  | .requestMoor p => Sys2Proof.Machine.execRequestMoor p s
  | .requestResume p => Sys2Proof.Machine.execRequestResume p s
  | .reqClass p => Sys2Proof.Machine.execReqClass p s
  | .budgetSet p => Sys2Proof.Machine.execBudgetSet p s
  | .stepProgram p => Sys2Proof.Machine.execStepProgram p s
  | .stepAdmission part => Sys2Proof.Machine.execStepAdmission part s
  | .stepEnd part => Sys2Proof.Machine.execStepEnd part s
  | .deadlineCheck request => Sys2Proof.Machine.execDeadlineCheck request s
  | .mooringTtlExpiry request => Sys2Proof.Machine.execMooringTtlExpiry request s
  | .budgetWindowStart fn => Sys2Proof.Machine.execBudgetWindowStart fn s
  | .output h recs historyLen => Sys2Proof.Machine.execOutput h recs historyLen s
  | .consumerWordReread fn slot consumed => Sys2Proof.Machine.execConsumerWordReread fn slot consumed s
  | .outputModTimer fn slot => Sys2Proof.Machine.execOutputModTimer fn slot s
  | .leaseAsk h tokens => Sys2Proof.Machine.execLeaseAsk h tokens s
  | .leaseGrant h tokens => Sys2Proof.Machine.execLeaseGrant h tokens s
  | .ringHold h => Sys2Proof.Machine.execRingHold h s
  | .ringFree h => Sys2Proof.Machine.execRingFree h s
  | .cancel h => Sys2Proof.Machine.execCancel h s
  | .report h kind status detail dstOwner dstPages => Sys2Proof.Machine.execReport h kind status detail dstOwner dstPages s
  | .memMap p => Sys2Proof.Machine.execMemMap p s
  | .memUnmap p => Sys2Proof.Machine.execMemUnmap p s
  | .memModePool p => Sys2Proof.Machine.execMemModePool p s
  | .memModeNormal p => Sys2Proof.Machine.execMemModeNormal p s
  | .memHeap p => Sys2Proof.Machine.execMemHeap p s
  | .hbmDredgeTick stack found => Sys2Proof.Machine.execHbmDredgeTick stack found s
  | .tsDredgeTick tile found => Sys2Proof.Machine.execTsDredgeTick tile found s
  | .podAtomic p => Sys2Proof.Machine.execPodAtomic p s
  | .podFence p => Sys2Proof.Machine.execPodFence p s
  | .replRegion p => Sys2Proof.Machine.execReplRegion p s
  | .replRegionRemove p => Sys2Proof.Machine.execReplRegionRemove p s
  | .replicateUpdate p => Sys2Proof.Machine.execReplicateUpdate p s
  | .replCoordinatorUpdate fromDev tag region offset bytes => Sys2Proof.Machine.execReplCoordinatorUpdate fromDev tag region offset bytes s
  | .replMemberAck member region version => Sys2Proof.Machine.execReplMemberAck member region version s
  | .laneFailure lane cause => Sys2Proof.Machine.execLaneFailure lane cause s
  | .trainingLock n => Sys2Proof.Machine.execTrainingLock n s
  | .trainingTimeout n => Sys2Proof.Machine.execTrainingTimeout n s
  | .helloTimer n => Sys2Proof.Machine.execHelloTimer n s
  | .hello n m => Sys2Proof.Machine.execHello n m s
  | .helloTimeout n => Sys2Proof.Machine.execHelloTimeout n s
  | .retrainLock n => Sys2Proof.Machine.execRetrainLock n s
  | .retrainTimeout n => Sys2Proof.Machine.execRetrainTimeout n s
  | .cellCrcFailure n => Sys2Proof.Machine.execCellCrcFailure n s
  | .nak n lack => Sys2Proof.Machine.execNak n lack s
  | .idle n c => Sys2Proof.Machine.execIdle n c s
  | .routerForward n c => Sys2Proof.Machine.execRouterForward n c s
  | .load n c => Sys2Proof.Machine.execLoad n c s
  | .store n c => Sys2Proof.Machine.execStore n c s
  | .atomic n c => Sys2Proof.Machine.execAtomic n c s
  | .loadRsp n c => Sys2Proof.Machine.execLoadRsp n c s
  | .storeAck n c => Sys2Proof.Machine.execStoreAck n c s
  | .atomicRsp n c => Sys2Proof.Machine.execAtomicRsp n c s
  | .podCompletionTimeout engine txn => Sys2Proof.Machine.execPodCompletionTimeout engine txn s
  | .beatSend => Sys2Proof.Machine.execBeatSend s
  | .beat fromDev => Sys2Proof.Machine.execBeat fromDev s
  | .peerLossTimeout member => Sys2Proof.Machine.execPeerLossTimeout member s
  | .aqueductCrcFailure => Sys2Proof.Machine.execAqueductCrcFailure s
  | .qpCreate p => Sys2Proof.Machine.execQpCreate p s
  | .qpConnect p => Sys2Proof.Machine.execQpConnect p s
  | .qpDestroy p => Sys2Proof.Machine.execQpDestroy p s
  | .qpQuery p => Sys2Proof.Machine.execQpQuery p s
  | .xptPut p => Sys2Proof.Machine.execXptPut p s
  | .xptGet p => Sys2Proof.Machine.execXptGet p s
  | .xptAtomic p => Sys2Proof.Machine.execXptAtomic p s
  | .xptSignal p => Sys2Proof.Machine.execXptSignal p s
  | .qpWait p => Sys2Proof.Machine.execQpWait p s
  | .qpWaitSatisfied fn ring => Sys2Proof.Machine.execQpWaitSatisfied fn ring s
  | .qpWaitTimeout fn ring => Sys2Proof.Machine.execQpWaitTimeout fn ring s
  | .data k bytes ce tagOk => Sys2Proof.Machine.execData k bytes ce tagOk s
  | .getReq k dest length ce tagOk => Sys2Proof.Machine.execGetReq k dest length ce tagOk s
  | .atomicReq k operand compare aop ce tagOk => Sys2Proof.Machine.execAtomicReq k operand compare aop ce tagOk s
  | .atomicRspPacket k former ce tagOk => Sys2Proof.Machine.execAtomicRspPacket k former ce tagOk s
  | .signal k value ce tagOk => Sys2Proof.Machine.execSignal k value ce tagOk s
  | .tow k msgClass body bytes => Sys2Proof.Machine.execTow k msgClass body bytes s
  | .ack k cack msnDone sacks => Sys2Proof.Machine.execAck k cack msnDone sacks s
  | .msgNak k detail resend => Sys2Proof.Machine.execMsgNak k detail resend s
  | .contextWait k backoff => Sys2Proof.Machine.execContextWait k backoff s
  | .backoffEnd qp => Sys2Proof.Machine.execBackoffEnd qp s
  | .ackTimer qp => Sys2Proof.Machine.execAckTimer qp s
  | .rtoExpiry qp => Sys2Proof.Machine.execRtoExpiry qp s
  | .contextFetchDone qp => Sys2Proof.Machine.execContextFetchDone qp s
  | .frameReceive n f => Sys2Proof.Machine.execFrameReceive n f s
  | .frameClassify n => Sys2Proof.Machine.execFrameClassify n s
  | .classifyInsert p => Sys2Proof.Machine.execClassifyInsert p s
  | .classifyRemove p => Sys2Proof.Machine.execClassifyRemove p s
  | .policerSet p => Sys2Proof.Machine.execPolicerSet p s
  | .policerQuery p => Sys2Proof.Machine.execPolicerQuery p s
  | .policerCreditTick => Sys2Proof.Machine.execPolicerCreditTick s
  | .locateScan p => Sys2Proof.Machine.execLocateScan p s
  | .camShadowCheck h locate row mismatch => Sys2Proof.Machine.execCamShadowCheck h locate row mismatch s
  | .egressServe n => Sys2Proof.Machine.execEgressServe n s
  | .voteSweep upsets => Sys2Proof.Machine.execVoteSweep upsets s
  | .lockstepMismatch count => Sys2Proof.Machine.execLockstepMismatch count s
  | .failoverResume => Sys2Proof.Machine.execFailoverResume s
  | .selftestSliceStart group sl => Sys2Proof.Machine.execSelftestSliceStart group sl s
  | .selftestSliceEnd group pass => Sys2Proof.Machine.execSelftestSliceEnd group pass s
  | .healthWindowEnd => Sys2Proof.Machine.execHealthWindowEnd s
  | .healthGrantRequest fromDev part => Sys2Proof.Machine.execHealthGrantRequest fromDev part s
  | .hltRepairSubstitute p => Sys2Proof.Machine.execHltRepairSubstitute p s
  | .hltRepairUnfence p => Sys2Proof.Machine.execHltRepairUnfence p s
  | .hltRepairClearFlag p => Sys2Proof.Machine.execHltRepairClearFlag p s
  | .hltRepairFullSelftest p failed => Sys2Proof.Machine.execHltRepairFullSelftest p failed s
  | .admitDevice p failed => Sys2Proof.Machine.execAdmitDevice p failed s
  | .admitOpen fromDev pairs shapes => Sys2Proof.Machine.execAdmitOpen fromDev pairs shapes s
  | .admitLoadDone parts digest => Sys2Proof.Machine.execAdmitLoadDone parts digest s
  | .admitStallTimeout partnerAborts => Sys2Proof.Machine.execAdmitStallTimeout partnerAborts s
  | .joinCall joiner barrierTo => Sys2Proof.Machine.execJoinCall joiner barrierTo s
  | .joinArrive fromDev => Sys2Proof.Machine.execJoinArrive fromDev s
  | .joinGo joiner => Sys2Proof.Machine.execJoinGo joiner s
  | .joinCancel joiner => Sys2Proof.Machine.execJoinCancel joiner s
  | .joinBarrierTimeout => Sys2Proof.Machine.execJoinBarrierTimeout s
  | .smbReadGlbId => Sys2Proof.Machine.execSmbReadGlbId s
  | .smbReadRstStat => Sys2Proof.Machine.execSmbReadRstStat s
  | .smbReadOptStat => Sys2Proof.Machine.execSmbReadOptStat s
  | .smbReadHltStat => Sys2Proof.Machine.execSmbReadHltStat s
  | .smbReadTemperature => Sys2Proof.Machine.execSmbReadTemperature s
  | .smbReadRails => Sys2Proof.Machine.execSmbReadRails s
  | .smbAlertResponse => Sys2Proof.Machine.execSmbAlertResponse s
  | .jtagBypass => Sys2Proof.Machine.execJtagBypass s
  | .jtagSamplePreload preload => Sys2Proof.Machine.execJtagSamplePreload preload s
  | .jtagExtest => Sys2Proof.Machine.execJtagExtest s
  | .jtagIdcode => Sys2Proof.Machine.execJtagIdcode s
  | .trainingRestart n => Sys2Proof.Machine.execTrainingRestart n s
  | .suppliesGood => Sys2Proof.Machine.execSuppliesGood s
  | .composePeerConfirm compId link qp => Sys2Proof.Machine.execComposePeerConfirm compId link qp s
  | .expelGrant part granted => Sys2Proof.Machine.execExpelGrant part granted s
  | .admitPartnerRefuse => Sys2Proof.Machine.execAdmitPartnerRefuse s
  | .hbmLaneFailing stack channel lane => Sys2Proof.Machine.execHbmLaneFailing stack channel lane s
  | .trstNLow => Sys2Proof.Machine.execTrstNLow s
  | .jtagPrivateInstruction code => Sys2Proof.Machine.execJtagPrivateInstruction code s

end Sys2Proof.Machine
end

