-- ==== Sys2Proof/Safety.lean ====
section
/-! DEFINITION. What a safe run is: no step of it is refused. The block has no machine fault (Machine/State.lean's Fault has
no constructor), so a run ends only at a refused command. And the words in which the claims speak of a descriptor: when its own rules
are reached, and what its completion leaves. -/
namespace Sys2Proof.Machine

/-- Every one of the next `k` steps answers a next state. -/
def safeFor : Nat → State → Prop
  | 0, _ => True
  | k + 1, s => ∃ t, step s = .next t ∧ safeFor k t

/-- The device performs the descriptor `p` now as opcode `op` and reaches the operation's own rules: its ring serves it (R456, R462, R474,
R475), no chain or QP_WAIT cancels it (R462, R403), its header is well formed (R6, R456, R461), and neither a lost AON rail, a
fenced clock domain (Table 15.2) nor DORMANT (R537) bars it. -/
def ready (d : Dev) (p : Post) (op : Nat) : Bool :=
  performable d p && opcode p == op && (chainFailed d p).isNone && !skipped d p && headerOk d p op && !d.health.aonLost &&
    !clockBars d op && !(d.boot.dormant && needsPower op)

/-- The answer of a descriptor that completes: it leaves its ring's queue, the device changes by `f`, and its completion with the status,
DETAIL and the record's bytes 24 to 31 follows (R463). -/
def completes (s : State) (p : Post) (f : Dev → Dev) (st : Status) (detail extra : Nat) : Host.Outcome State Fault Refusal :=
  .next { s with dev := complete (f (takePost s.dev p)) p st detail extra }

/-- The answer of a descriptor that starts and completes later: it leaves its ring's queue and the device changes by `f`. -/
def starts (s : State) (p : Post) (f : Dev → Dev) : Host.Outcome State Fault Refusal :=
  .next { s with dev := f (takePost s.dev p) }

/-- The answer of a command that changes the device by `f` and nothing else. -/
def becomes (s : State) (f : Dev → Dev) : Host.Outcome State Fault Refusal := .next { s with dev := f s.dev }

/-- The answer of a command of the lock or of serving while a lock-keeper runs: the device changes by `f`, and the messages that it
sends to itself have been taken. -/
def kept (s : State) (f : Dev → Dev) : Host.Outcome State Fault Refusal := .next { s with dev := settle 4096 (f s.dev) }

/-- What every step keeps: the byte memories (host memory, HBM, the tile stores, staging) are in canonical form, and NumVFs is at most 63
(R455). -/
def devOk (d : Dev) : Bool :=
  Memory.wf d.host && Memory.wf d.hbm && Memory.wf d.ts && Memory.wf d.staging && decide (d.numVfs ≤ 63)

/-- The registers that host software sets and the device only uses: a write changes their fields and sets nothing else off. -/
def plainReg : RegName → Bool
  | .cplTo | .partTc _ | .route _ | .xptDscp | .xptMac _ | .xptNh _ | .xptTow _ | .clsW _ | .tenW _ | .hltThresh _ | .hltWeight
  | .podSpares | .spareCtl => true
  | _ => false

end Sys2Proof.Machine
end

