-- ==== Sys2Proof/Certificates/Slice0/Obligations.lean ====
section
/-! DEFINITION. The statements for the provers: what each command does to the block's state, over all states and operands. Each name
says what its statement says; OBLIGATIONS.json gives the sections of spec/ it rests on. -/
section
open Sys2Proof Sys2Proof.Machine

/-- A step takes the command at the front of the queue and answers what its meaning answers on the device and the rest of the queue; on
an empty queue the block idles (the idle tick is the model's choice, log 2). -/
def Obligations.StepPerformsFrontCommand : Prop :=
  (∀ (c : Instr) (s : State), step { s with pending := c :: s.pending } = exec c s) ∧
    ∀ s : State, s.pending = [] → step s = .next (idleTick s)

/-- R457, R458, R459: RING_ENABLE, RING_DISABLE, PRODUCED_DOORBELL and CONSUMED_DOORBELL act on their ring (and the first doorbell on the
host memory that the host wrote before it) and on nothing else. -/
def Obligations.RingRegistersAct : Prop :=
  (∀ (s : State) (fn : Fn) (ring : Nat) (ctl : W64) (R : RingSt),
    barOpen s.dev fn = true → ring < ringCount fn → (getRing s.dev fn ring).enable = false →
    R = { getRing s.dev fn ring with
      kind := ctl.extractLsb' 1 3, log2 := ctl.extractLsb' 4 5, cplRing := ctl.extractLsb' 10 9, vector := ctl.extractLsb' 32 12 } →
    (setupStatus s.dev fn ring R = .ok →
      exec (.ringEnable fn ring ctl) s = becomes s (fun d => setRing d fn ring { R with
        enable := true, setupErr := 0, fetched := 0, held := 0, done := 0, modPend := 0, modTimer := false, stalls := [],
        fails := [] })) ∧
    (setupStatus s.dev fn ring R ≠ .ok →
      exec (.ringEnable fn ring ctl) s = becomes s (fun d => setRing d fn ring { R with
        enable := false, setupErr := statusCode (setupStatus s.dev fn ring R) }))) ∧
  (∀ (s : State) (fn : Fn) (ring : Nat),
    barOpen s.dev fn = true → ring < ringCount fn → (getRing s.dev fn ring).enable = true →
    (kindCompletion (getRing s.dev fn ring).kind = true → cplBusy s.dev fn ring = false) →
    exec (.ringDisable fn ring) s =
      becomes s (fun d => setRing d fn ring { getRing d fn ring with enable := false })) ∧
  (∀ (s : State) (fn : Fn) (ring : Nat) (value : W64) (wrote : List (Nat × Byte)),
    barOpen s.dev fn = true → ring < ringCount fn → (getRing s.dev fn ring).enable = true →
    kindSubmission (getRing s.dev fn ring).kind = true → value.toNat < 2 ^ 32 →
    (value.setWidth 32 - (getRing s.dev fn ring).fetched).toNat ≤ ringEntries (getRing s.dev fn ring) →
    ((getRing s.dev fn ring).held - (getRing s.dev fn ring).fetched).toNat ≤
      (value.setWidth 32 - (getRing s.dev fn ring).fetched).toNat →
    exec (.producedDoorbell fn ring value wrote) s =
      becomes s (fun d => setRing { d with
        host := wrote.foldl (fun m c => memPut m c.1 c.2) d.host
        hostBad := d.hostBad.filter (fun l => !wrote.any (fun c => c.1 / 64 * 64 == l)) } fn ring
          { getRing d fn ring with held := value.setWidth 32 })) ∧
  (∀ (s : State) (fn : Fn) (ring : Nat) (value : W64),
    barOpen s.dev fn = true → ring < ringCount fn → (getRing s.dev fn ring).enable = true →
    kindSubmission (getRing s.dev fn ring).kind = false → value.toNat < 2 ^ 32 →
    ((getRing s.dev fn ring).fetched - value.setWidth 32).toNat ≤ ringEntries (getRing s.dev fn ring) →
    ((getRing s.dev fn ring).fetched - value.setWidth 32).toNat ≤
      ((getRing s.dev fn ring).fetched - (getRing s.dev fn ring).held).toNat →
    exec (.consumedDoorbell fn ring value) s =
      becomes s (fun d => setRing d fn ring { getRing d fn ring with held := value.setWidth 32 }))

/-- R463 to R467, R475: what COMPLETION_RECORD_WRITE, EVENT_POST, RING_MOD_TIMER, MSIX_UNMASK and BUS_MASTER_ENABLE do, and to nothing
else. -/
def Obligations.RecordsAndInterruptsAct : Prop :=
  (∀ (s : State) (fn : Fn) (ring : Nat) (c : CplRec) (rest : List CplRec),
    (getRing s.dev fn ring).waiting = c :: rest → (getRing s.dev fn ring).enable = true →
    kindCompletion (getRing s.dev fn ring).kind = true → hostOpen s.dev fn = true → hasRoom (getRing s.dev fn ring) = true →
    exec (.completionRecordWrite fn ring) s = becomes s (fun d =>
      let R := getRing d fn ring
      let d1 := setRing { d with host := memWrite d.host (recordAddr R R.fetched) (cplBytes d R c) } fn ring
        { R with fetched := R.fetched + 1, waiting := rest }
      moderate (setRing d1 fn c.ring { getRing d1 fn c.ring with done := (getRing d1 fn c.ring).done + 1 }) fn ring c.irq)) ∧
  (∀ (s : State) (fn : Fn) (e : EventRec) (rest : List EventRec) (r : Nat) (R : RingSt),
    (getFn s.dev fn).events = e :: rest → eventRing s.dev fn = some (r, R) → hostOpen s.dev fn = true →
    (hasRoom R = true →
      exec (.eventPost fn) s = becomes s (fun d =>
        let d1 := setFn { d with host := memWrite d.host (recordAddr R R.fetched) (eventBytes d R e (getFn d fn).evMark) } fn
          { getFn d fn with events := rest, evMark := false }
        moderate (setRing d1 fn r { R with fetched := R.fetched + 1 }) fn r false)) ∧
    (hasRoom R = false →
      exec (.eventPost fn) s = becomes s (fun d => setFn d fn { getFn d fn with
        events := rest, evMark := true,
        evLost := if (getFn d fn).evLost = 0xFFFF then 0xFFFF else (getFn d fn).evLost + 1 }))) ∧
  (∀ (s : State) (fn : Fn) (e : EventRec) (rest : List EventRec),
    (getFn s.dev fn).events = e :: rest → eventRing s.dev fn = none →
    exec (.eventPost fn) s = becomes s (fun d => setFn d fn { getFn d fn with
      events := rest, evMark := true,
      evLost := if (getFn d fn).evLost = 0xFFFF then 0xFFFF else (getFn d fn).evLost + 1 })) ∧
  (∀ (s : State) (fn : Fn) (ring : Nat),
    (getRing s.dev fn ring).modTimer = true → (getRing s.dev fn ring).enable = true →
    exec (.ringModTimer fn ring) s = becomes s (fun d =>
      fireVector (setRing d fn ring { getRing d fn ring with modPend := 0, modTimer := false }) fn
        (getRing d fn ring).vector.toNat)) ∧
  (∀ (s : State) (fn : Fn) (vec : Nat),
    vec < vecCount fn → fnExists s.dev fn = true → (getFn s.dev fn).unmasked.contains vec = false →
    exec (.msixUnmask fn vec) s = becomes s (fun d =>
      let d1 := setFn d fn { getFn d fn with
        unmasked := (getFn d fn).unmasked ++ [vec], pendVec := (getFn d fn).pendVec.erase vec }
      if (getFn d fn).pendVec.contains vec then fireVector d1 fn vec else d1)) ∧
  (∀ (s : State) (fn : Fn), fnExists s.dev fn = true → (getFn s.dev fn).inReset = false →
    exec (.busMasterEnable fn false) s = becomes s (fun d => setFn d fn { getFn d fn with busMaster := false }) ∧
    exec (.busMasterEnable fn true) s = becomes s (fun d =>
      ((getFn d fn).pendVec.filter (fun v => (getFn d fn).unmasked.contains v)).foldl (fun d v => fireVector d fn v)
        (setFn d fn { getFn d fn with
          busMaster := true, pendVec := (getFn d fn).pendVec.filter (fun v => !(getFn d fn).unmasked.contains v) })))

/-- R509, R511 to R513, R566 with Table 15.10: the reset events and the release. What is kept outside the listed fields is at
`Dev.reset`, whose values that the spec does not give are the model's (logs 3 to 6). -/
def Obligations.ResetEventsResetTheDevice : Prop :=
  (∀ s : State, exec .powerOnDetect s = becomes s (fun d => { Dev.reset with
    flash := d.flash, host := d.host, hostBad := d.hostBad, out := d.out
    pins := { PinSt.reset with sensors := d.pins.sensors, rails := d.pins.rails }
    boot := { BootSt.reset with resets := 1 } })) ∧
  (∀ s : State, s.dev.boot.phase ≠ .held →
    ∃ b : BootSt, b = { BootSt.reset with
        por := false, resets := s.dev.boot.resets + 1, supplies := s.dev.boot.supplies
        clkLocked := if tclkRuns s.dev then 0x81 else 0, clkReleased := if tclkRuns s.dev then 0x81 else 0 } ∧
      ∃ n : Dev, n = { Dev.reset with
        tclk := if tclkRuns s.dev then s.dev.tclk else 0
        flash := s.dev.flash, host := s.dev.host, hostBad := s.dev.hostBad, out := s.dev.out, boot := b
        pins := { PinSt.reset with
          thermTrip := s.dev.pins.thermTrip, sensors := s.dev.pins.sensors, rails := s.dev.pins.rails } } ∧
      exec .sysRstNLow s = becomes s (fun _ => n) ∧
      exec .pwrOkLow s = becomes s (fun _ => { n with boot := { b with supplies := false } })) ∧
  (∀ s : State, s.dev.boot.phase = .held →
    exec .sysRstNLow s = .next s ∧
    exec .pwrOkLow s = becomes s (fun d => { d with boot := { d.boot with supplies := false } })) ∧
  (∀ s : State, exec .suppliesGood s = becomes s (fun d => { d with boot := { d.boot with supplies := true } })) ∧
  (∀ s : State, s.dev.boot.phase = .held → s.dev.boot.supplies = true →
    exec .resetRelease s = becomes s (fun d => { d with boot := { d.boot with phase := .refCheck } }))

/-- R514 to R517, R521, R522, R527, R529, R569: the commands of bring-up in the phase in which they act. -/
def Obligations.BringUpStepsAdvance : Prop :=
  (∀ s : State, s.dev.boot.phase = .refCheck → exec (.referenceCheck true true true) s = becomes s (fun d => { d with
    boot := { d.boot with refBad := 0, phase := .optLoad, clkLocked := d.boot.clkLocked ||| 0x81,
                          clkReleased := d.boot.clkReleased ||| 0x81 } })) ∧
  (∀ (s : State) (a b c : Bool), s.dev.boot.phase = .refCheck → (a && b && c) = false →
    exec (.referenceCheck a b c) s = becomes s (fun d => { d with
      boot := { d.boot with refBad := BitVec.ofNat 3 (b2n (!a) + 2 * b2n (!b) + 4 * b2n (!c)) } })) ∧
  (∀ s : State, s.dev.boot.phase = .optLoad → (optGood s.dev.flash.optA = true ∨ optGood s.dev.flash.optB = true) →
    exec .optionLoad s = becomes s (fun d =>
      let useB := optUseB d.flash.optA d.flash.optB
      let bs := if useB then d.flash.optB else d.flash.optA
      { d with boot := { d.boot with
        phase := .clkRelease, optLoaded := true, opts := (optParse bs).1, fieldDef := (optParse bs).2,
        optDef := (optParse bs).2 != 0, optCopyB := useB, aBad := !optGood d.flash.optA, bBad := !optGood d.flash.optB,
        optSeq := BitVec.ofNat 32 (leAt bs 8 4) } })) ∧
  (∀ s : State, s.dev.boot.phase = .optLoad → optGood s.dev.flash.optA = false → optGood s.dev.flash.optB = false →
    exec .optionLoad s = becomes s (fun d => { d with boot := { d.boot with
      phase := .clkRelease, optLoaded := true, opts := OptVals.factory, fieldDef := 0, optDef := true, optCopyB := false,
      aBad := true, bBad := true, optSeq := 0 } })) ∧
  (∀ (s : State) (m : Domain), s.dev.boot.phase = .clkRelease →
    exec (.pllLock m) s = becomes s (fun d => { d with boot := { d.boot with
      clkLocked := d.boot.clkLocked ||| bit8 (domainBit m) } }) ∧
    (mayRelease s.dev.boot m = true → exec (.domainRelease m) s = becomes s (fun d => { d with boot := { d.boot with
      clkReleased := d.boot.clkReleased ||| bit8 (domainBit m), phase := if m = .hclk then .boot else .clkRelease } }))) ∧
  (∀ (s : State) (okA okB : Bool), s.dev.boot.phase = .boot → okA = slotPasses s.dev.boot.opts s.dev.flash.imgA →
    okB = slotPasses s.dev.boot.opts s.dev.flash.imgB →
    exec .imageVerify s = becomes s (fun d =>
      let useB := if d.boot.opts.bootPref then okB else !okA
      let img := if useB then d.flash.imgB else d.flash.imgA
      let b := { d.boot with
        imgAFail := if d.boot.opts.bootPref then !okB && !okA else !okA
        imgBFail := if d.boot.opts.bootPref then !okB else !okA && !okB
        pufFail := !d.flash.pufA && !d.flash.pufB }
      { d with boot := if !okA && !okB then { b with phase := .bootFailed } else { b with
        phase := .hbmTrain, imgUsed := useB, lkpStarted := true,
        fwFamily := (img.map (·.family)).getD 0, fwVersion := (img.map (·.version)).getD 0 } })) ∧
  (∀ s : State, s.dev.boot.clkReleased.getLsbD 6 = true →
    exec .endpointReady s = becomes s (fun d => { d with boot := { d.boot with endpoint := true } })) ∧
  (∀ s : State, s.dev.boot.phase = .hbmTrain →
    exec (.hbmTrainingDone 0) s = becomes s (fun d => { d with boot := { d.boot with phase := .hbmClear, stackFail := 0 } }) ∧
    ∀ failed : BitVec 12, failed ≠ 0 → exec (.hbmTrainingDone failed) s = becomes s (fun d => { d with
      boot := { d.boot with phase := .hbmClear, stackFail := failed }
      health := { d.health with stackFence := d.health.stackFence ||| failed, alert := true }
      pins := { d.pins with alert := true, smbReleased := false } })) ∧
  (∀ s : State, s.dev.boot.phase = .hbmClear →
    exec .hbmClearDone s = becomes s (fun d => { d with
      hbm := [], hbmBad := [], ts := [], tsBad := [], boot := { d.boot with phase := .region } })) ∧
  (∀ s : State, s.dev.boot.phase = .region → exec .deviceReady s = becomes s (fun d =>
    let d1 := { d with boot := { d.boot with phase := .ready } }
    let d2 := { d1 with health := { d1.health with digest := configDigest d1 } }
    ((List.range 16).filter (helloOpen d2)).foldl (fun d n => sendHello d (portNo n)) d2)) ∧
  (∀ s : State, exec .thermTrip s = becomes s (fun d => { d with pins := { d.pins with thermTrip := true } }))

/-- R513, R516, R519, R487, R488, R438: the monitors. Whether a lost lock shows as off frequency is the model's free value
`Config.lockLossCause` (log 13); the thermal limit's once-per-crossing is the model's (log 75), MON_EN before ready too (log 74). -/
def Obligations.MonitorsFenceOrReset : Prop :=
  (∀ (s : State) (m : Domain), s.dev.boot.clkLocked.getLsbD (domainBit m) = true →
    (s.dev.boot.phase = .ready → s.dev.boot.clkFenced.getLsbD (domainBit m) = false →
      exec (.pllLockLoss m) s = becomes s (fun d =>
        let d1 := fenceDomain { d with boot := { d.boot with clkLocked := d.boot.clkLocked &&& ~~~(bit8 (domainBit m)) } }
          (domainBit m) (Config.lockLossCause (domainBit m))
        if m = .hclk then linkLost d1 else d1)) ∧
    (s.dev.boot.phase ≠ .ready → s.dev.boot.phase ≠ .held →
      exec (.pllLockLoss m) s = becomes s (fun d =>
        deviceReset { d with boot := { d.boot with clkLocked := d.boot.clkLocked &&& ~~~(bit8 (domainBit m)) } }))) ∧
  (∀ (s : State) (m : Domain) (off : Bool), s.dev.boot.phase = .ready → monEn s.dev = true →
    s.dev.boot.clkFenced.getLsbD (domainBit m) = false →
    exec (.clockMonitorTrip m off) s = becomes s (fun d =>
      if m = .hclk then linkLost (fenceDomain d (domainBit m) off) else fenceDomain d (domainBit m) off)) ∧
  (∀ (s : State) (rail : Fin 10) (mV : W16), monEn s.dev = true →
    (s.dev.boot.phase = .ready → exec (.supplyMonitorTrip rail mV) s = becomes s (fun d =>
      fenceRail (raise { d with
        pins := { d.pins with rails := d.pins.rails.set rail.val mV }
        health := { d.health with railTrip := tset d.health.railTrip rail.val d.tclk } } 0x0307 (unitOf 8 rail.val) mV.toNat)
        rail.val)) ∧
    (s.dev.boot.phase ≠ .ready → s.dev.boot.phase ≠ .held →
      exec (.supplyMonitorTrip rail mV) s = becomes s (fun d =>
        let d1 := deviceReset { d with pins := { d.pins with rails := d.pins.rails.set rail.val mV } }
        { d1 with boot := { d1.boot with supplies := false } }))) ∧
  (∀ (s : State) (h : Half) (readings : List (BitVec 16)) (sensors : List (BitVec 16)) (d1 : Dev) (i : Nat),
    sensors = s.dev.pins.sensors.zipIdx.map (fun e => if e.2 / 8 = halfNo h then readings.getD (e.2 % 8) e.1 else e.1) →
    d1 = { s.dev with pins := { s.dev.pins with
      sensors := sensors
      smbReleased := if sensors.any (fun v => decide (1050 < v.toInt)) && !s.dev.pins.sensors.any (fun v => decide (1050 < v.toInt))
        then false else s.dev.pins.smbReleased } } →
    hottest d1 (liveSensors d1 (halfNo h)) = some i → s.dev.boot.clkReleased.getLsbD 2 = true →
    exec (.thermalSample h readings) s = becomes s (fun d =>
      let r := sensorAt d1 i
      let new := throttleNext (camThrottle d (halfNo h)) r
      let d2 := if new = camThrottle d (halfNo h) then d1 else raise (setThrottle d1 (halfNo h) new) 0x0401 (unitOf 0x0F i) new
      if 1050 < r ∧ (match hottest d (liveSensors d (halfNo h)) with | some j => sensorAt d j | none => 0) ≤ 1050
      then raise d2 0x0402 (unitOf 0x0F i) r.toNat else d2))

/-- R536 to R538: the two power states. A write of the present mode completes OK (the model's reading). -/
def Obligations.PowerStatesChange : Prop :=
  (∀ (s : State) (p : Post), ready s.dev p 0x04B4 = true → flashHead s.dev p [] = true → dNat p 16 1 = 2 →
    s.dev.boot.dormant = false → mayDormant s.dev = true →
    exec (.pwrStateDormant p) s = completes s p enterDormant .ok 0 0) ∧
  (∀ (s : State) (p : Post), ready s.dev p 0x04B4 = true → flashHead s.dev p [] = true → dNat p 16 1 = 0 →
    s.dev.boot.dormant = true →
    exec (.pwrStateActive p) s = completes s p leaveDormant .ok 0 0) ∧
  (∀ d : Dev, (enterDormant d).boot = { d.boot with dormant := true } ∧
    (enterDormant d).ports = d.ports.map (fun e => (e.1, portDown e.2)) ∧
    (enterDormant d).hbm = d.hbm ∧ (enterDormant d).ts = d.ts ∧ (enterDormant d).fns = d.fns) ∧
  (∀ s : State, s.dev.boot.d3hot = false → s.dev.boot.phase = .ready → s.dev.boot.dormant = false →
    (mayDormant s.dev = true → exec .d3hotEntry s = becomes s (fun d =>
      let d2 := enterDormant { d with boot := { d.boot with d3hot := true } }
      { d2 with boot := { d2.boot with byD3hot := true } })) ∧
    (mayDormant s.dev = false → exec .d3hotEntry s = becomes s (fun d => { d with boot := { d.boot with d3hot := true } }))) ∧
  (∀ s : State, s.dev.boot.d3hot = true → exec .d0Entry s = becomes s (fun d =>
    let d1 := { d with boot := { d.boot with d3hot := false } }
    let d2 := if d.boot.byD3hot then leaveDormant d1 else d1
    (d2.fns.map (fun e => fnId e.1)).foldl sendPending d2))

/-- R525, R526, R529, R530, R533 to R535: OPT_WRITE, FW_WRITE, ATTEST, JOURNAL_COMMIT and JRNL_READ. The identity's signature and key and
the image signature's check are free values of Config (log 10); the first sequence number is the model's (log 15). -/
def Obligations.FlashDescriptorsComplete : Prop :=
  (∀ (s : State) (p : Post), ready s.dev p 0x04B2 = true → flashOpen s.dev = true → flashHead s.dev p [32] = true →
    dNat p 20 4 = 256 → lockOpt s.dev = false → optGood p.arg = true → s.dev.boot.optSeq.toNat < leAt p.arg 8 4 →
    exec (.optWrite p true) s = completes s p (fun d => { d with
      flash := if d.boot.optCopyB then { d.flash with optA := p.arg } else { d.flash with optB := p.arg } }) .ok 0 0) ∧
  (∀ (s : State) (p : Post) (img : Image), ready s.dev p 0x04B3 = true → flashOpen s.dev = true →
    flashHead s.dev p [32] = true → dNat p 16 1 = (if s.dev.boot.imgUsed then 0 else 1) → 0 < dNat p 20 4 →
    dNat p 20 4 ≤ 0x400000 → dNat p 20 4 % 256 = 0 → lockOpt s.dev = false →
    exec (.fwWrite p img) s =
      (let v := { img with length := dNat p 20 4 }
       let good := imagePasses s.dev.boot.opts v
       completes s p (fun d => { d with flash :=
         if d.boot.imgUsed then { d.flash with imgA := if good then some v else none }
         else { d.flash with imgB := if good then some v else none } }) (if good then .ok else .badDescriptor) 0 0)) ∧
  (∀ (s : State) (p : Post), ready s.dev p 0x04B0 = true → flashHead s.dev p [32, 40] = true → s.dev.boot.pufFail = false →
    exec (.attest p) s = completes s p (fun d => { d with
      host := memWrite d.host (dNat p 40 8)
        (attestBody d p.arg ++ beBytes (Config.identitySign (sha256 (attestBody d p.arg))).toNat 64) }) .ok 0 0) ∧
  (∀ (s : State) (entries : List JEntry), s.dev.boot.lkpStarted = true → flashOpen s.dev = true →
    (∀ e ∈ entries, 1 ≤ e.kind ∧ e.kind ≤ 3 ∧ e.payload.length ≤ 4080) →
    4 * jSize (journal s.dev ++ jNumber (jNext (journal s.dev)) (entries ++ [⟨4, []⟩])) < 3 * jCap s.dev →
    exec (.journalCommit entries) s = becomes s (fun d => { d with
      flash := jSet d.flash (journal d ++ jNumber (jNext (journal d)) (entries ++ [⟨4, []⟩])) })) ∧
  (∀ (s : State) (p : Post) (l : List JRec), ready s.dev p 0x04B1 = true → flashOpen s.dev = true →
    flashHead s.dev p [40] = true → 0 < dNat p 20 4 →
    l = jFit (dNat p 20 4) ((journal s.dev).filter (fun r => decide (dNat p 24 4 ≤ r.seq.toNat))) →
    exec (.jrnlRead p) s = completes s p (fun d => { d with host := memWrite d.host (dNat p 40 8) (l.flatMap jrecBytes) })
      .ok l.length (match l.getLast? with | some r => (r.seq + 1).toNat | none => dNat p 24 4))

/-- R549, R552, R543, R106, R483: the register writes that the table lists as rows of their own. -/
def Obligations.LocksKeysAndAlertAct : Prop :=
  (∀ (s : State) (i : Fin 5) (c : Instr), barOpen s.dev 0 = true →
    c = (match i with | 0 => .lockOptSet | 1 => .lockPartSet | 2 => .lockRouteSet | 3 => .lockKeysSet | 4 => .lockDebugSet) →
    ∃ t : State, exec c s = .next t ∧ locked t.dev i.val = true ∧ (∀ j, locked s.dev j = true → locked t.dev j = true) ∧
      t = { s with dev := { s.dev with locks :=
        ⟨s.dev.locks.a ||| BitVec.ofNat 5 (2 ^ i.val), s.dev.locks.b ||| BitVec.ofNat 5 (2 ^ i.val),
         s.dev.locks.c ||| BitVec.ofNat 5 (2 ^ i.val)⟩ } }) ∧
  (∀ (s : State) (n : Fin 256), barOpen s.dev 0 = true →
    (keyRefused s.dev n.val = true → exec (.secKeyCmd n) s = becomes s (fun d => { d with
      keys := tset d.keys n.val { getKey d n.val with refused := true }, keyData := 0 })) ∧
    (keyRefused s.dev n.val = false → exec (.secKeyCmd n) s = becomes s (fun d => { d with
      keys := tset d.keys n.val { getKey d n.val with
        loaded := true
        key := if (getKey d n.val).gcm then (d.keyData.extractLsb' 0 256).setWidth 512 else d.keyData }
      keyData := 0 }))) ∧
  (∀ (s : State) (n : PortNo) (v : W64), barOpen s.dev 0 = true → lockRoute s.dev = false →
    exec (.xptIpLowWrite n v) s = becomes s (fun d => { d with ipHeld := tset d.ipHeld n.val v }) ∧
    exec (.xptIpHighWrite n v) s = becomes s (fun d =>
      let low := tgetD d.ipHeld n.val ((cfgGet d (.xptIp n.val)).extractLsb' 0 64)
      { cfgSet d (.xptIp n.val) (v ++ low) with ipHeld := tdel d.ipHeld n.val })) ∧
  (∀ (s : State) (n : PortNo) (v : W64), barOpen s.dev 0 = true → lockRoute s.dev = true →
    exec (.xptIpLowWrite n v) s = .next s ∧ exec (.xptIpHighWrite n v) s = .next s) ∧
  (∀ s : State, barOpen s.dev 0 = true →
    exec (.alertClear false) s = becomes s (fun d => { d with
      health := { d.health with alert := false }, pins := { d.pins with alert := false } }) ∧
    exec (.alertClear true) s = .next s)

/-- R541, R542, R547 to R549, R453, R9, R16: REGISTER_WRITE, BAR_INVALID_ACCESS and BIT_ALIAS_WRITE. -/
def Obligations.RegisterWritesChangeFields : Prop :=
  (∀ (s : State) (o b : Nat) (r : RegName) (v : W64), barOpen s.dev 0 = true → o < 0x40000 → o % 4 = 0 →
    regAt o = some (r, b) → plainReg r = true →
    exec (.registerWrite 0 o false v) s = becomes s (fun d =>
      cfgSet d r (fieldsWritten d r (maskOf (8 * b) 32) (BitVec.ofNat 128 (v.toNat % 2 ^ 32 * 2 ^ (8 * b)))))) ∧
  (∀ (s : State) (o : Nat) (r : RegName) (v : W64), barOpen s.dev 0 = true → o < 0x40000 → o % 8 = 0 →
    regAt o = some (r, 0) → plainReg r = true → regBytes r = 8 →
    exec (.registerWrite 0 o true v) s = becomes s (fun d =>
      cfgSet d r (fieldsWritten d r (maskOf 0 64) (v.setWidth 128)))) ∧
  (∀ (s : State) (o : Nat) (v : W64), barOpen s.dev 0 = true → o < 0x40000 → o % 4 = 0 → regAt o = none →
    exec (.registerWrite 0 o false v) s = .next s) ∧
  (∀ (s : State) (f : Fn) (o : Nat) (v : W64), barOpen s.dev f = true → o % 8 ≠ 0 →
    exec (.registerWrite f o true v) s = becomes s (fun d => { d with aer := d.aer ++ [⟨f, o, 8, true⟩] })) ∧
  (∀ (s : State) (f : Fn) (o size : Nat), barOpen s.dev f = true → ((size ≠ 4 ∧ size ≠ 8) ∨ o % size ≠ 0) →
    exec (.barInvalidAccess f o size true) s = becomes s (fun d => { d with aer := d.aer ++ [⟨f, o, size, true⟩] }) ∧
    exec (.barInvalidAccess f o size false) s = becomes s (fun d => { d with
      aer := d.aer ++ [⟨f, o, size, false⟩], out := d.out ++ [.unsupported f o] })) ∧
  (∀ (s : State) (o a b : Nat) (r : RegName) (v : W64), barOpen s.dev 0 = true → o = 0x1000000 + a → a < 0x800000 →
    a % 4 = 0 → regAt (a / 128 * 4) = some (r, b) → plainReg r = true →
    exec (.bitAliasWrite o false v) s = becomes s (fun d =>
      cfgSet d r (fieldsWritten d r (maskOf (8 * b + a / 4 % 32) 1)
        (BitVec.ofNat 128 (b2n (v.getLsbD 0) * 2 ^ (8 * b + a / 4 % 32))))))

/-- R560 to R562 with Table 17.3: the management port and the TAP. The codes kept for the JTAG instructions but BYPASS are the model's
(log 6), and that an Alert Response is answered only while the alert is asserted (log 79). -/
def Obligations.ManagementPortsAnswer : Prop :=
  (∀ s : State, smbOpen s.dev = true →
    exec .smbReadGlbId s = becomes s (fun d => send d (.smb (leBytes (glbId d) 8))) ∧
    exec .smbReadRstStat s = becomes s (fun d => send d (.smb (leBytes (rstStat d) 8))) ∧
    exec .smbReadOptStat s = becomes s (fun d => send d (.smb (leBytes (optStat d) 8))) ∧
    exec .smbReadHltStat s = becomes s (fun d => send d (.smb (leBytes (hltStat d) 4))) ∧
    exec .smbReadTemperature s = becomes s (fun d => send d (.smb (leBytes (highest d 0) 2 ++ leBytes (highest d 1) 2))) ∧
    exec .smbReadRails s = becomes s (fun d =>
      send d (.smb ((List.range 10).flatMap (fun i => leBytes (d.pins.rails.getD i 0).toNat 2))))) ∧
  (∀ s : State, smbAlert s.dev = true →
    exec .smbAlertResponse s = becomes s (fun d =>
      send { d with pins := { d.pins with smbReleased := true } } (.smbAlertAddr d.boot.opts.smbAddr))) ∧
  (∀ (s : State) (pre : List Bool),
    exec .jtagBypass s = becomes s (fun d =>
      { d with pins := { d.pins with jtagIr := irBypass }, out := d.out ++ [.tdo [false]] }) ∧
    exec (.jtagSamplePreload pre) s = becomes s (fun d =>
      { d with pins := { d.pins with jtagIr := irSample, boundary := pre }, out := d.out ++ [.tdo d.pins.boundary] }) ∧
    exec .jtagExtest s = becomes s (fun d => { d with pins := { d.pins with jtagIr := irExtest, driven := d.pins.boundary } }) ∧
    exec .jtagIdcode s = becomes s (fun d =>
      { d with pins := { d.pins with jtagIr := irIdcode }, out := d.out ++ [.tdo ((List.range 32).map (fun i => idcode.testBit i))] }) ∧
    exec .trstNLow s = becomes s (fun d => { d with pins := { d.pins with jtagIr := irIdcode, driven := [] } })) ∧
  (∀ (s : State) (code : Byte),
    (lockDebug s.dev = true → exec (.jtagPrivateInstruction code) s = .next s) ∧
    (lockDebug s.dev = false → exec (.jtagPrivateInstruction code) s = .refused .jtagPrivate))

/-- R343, R344, R355 and Table 10.8: the events of a link. -/
def Obligations.LinkEventsMovePorts : Prop :=
  (∀ (s : State) (n : PortNo) (mode : BitVec 2) (v : BitVec 128), lockRoute s.dev = false → mode.toNat ≠ 3 → mode.toNat ≠ portMode s.dev n.val →
    v = (cfgGet s.dev (.portCtl n.val) &&& ~~~(3 : BitVec 128)) ||| BitVec.ofNat 128 mode.toNat →
    exec (.fabPortMode n mode) s = becomes s (fun d =>
      let d1 := cfgSet d (.portCtl n.val) v
      let d2 := setPort d1 n.val { portDown (getPort d n.val) with laneBad := 0 }
      if mode.toNat = 0 then (if (getPort d n.val).link = .down then d2 else raise d2 0x0101 (unitOf 2 n.val) 4)
      else startTraining d2 n.val)) ∧
  (∀ (s : State) (n : PortNo),
    ((getPort s.dev n.val).link = .up → exec (.fabPortRetrain n) s = becomes s (fun d =>
      charge (setPort d n.val { getPort d n.val with link := .retraining }) (partOfPort n.val) wRetrain 1)) ∧
    ((getPort s.dev n.val).link = .down → portFenced s.dev n.val = false → portMode s.dev n.val ≠ 0 →
      s.dev.boot.dormant = false →
      ∀ c, c = Instr.fabPortRetrain n ∨ c = Instr.trainingRestart n → exec c s = becomes s (fun d =>
        setPort d n.val { portDown (getPort d n.val) with
          link := .training, spare := cfgField d (.portCtl n.val) 3 3 }))) ∧
  (∀ (s : State) (n : PortNo), (getPort s.dev n.val).link = .training →
    (portMode s.dev n.val = 1 → exec (.trainingLock n) s = becomes s (fun d =>
      sendHello (setPort d n.val { getPort d n.val with link := .hello, credits := [16, 0, 0, 0] }) n)) ∧
    (portMode s.dev n.val = 2 → exec (.trainingLock n) s = becomes s (fun d =>
      raise (setPort d n.val { getPort d n.val with link := .up }) 0x0102 (unitOf 2 n.val) 0)) ∧
    exec (.trainingTimeout n) s = becomes s (fun d =>
      raise (setPort d n.val (portDown (getPort d n.val))) 0x0101 (unitOf 2 n.val) 0)) ∧
  (∀ (s : State) (n : PortNo), helloOpen s.dev n.val = true → (getPort s.dev n.val).peerSeen = false →
    exec (.helloTimer n) s = becomes s (fun d => send d (.hello n.val (helloOf d n)))) ∧
  (∀ (s : State) (n : PortNo), (getPort s.dev n.val).link = .hello →
    exec (.helloTimeout n) s = becomes s (fun d =>
      raise (setPort d n.val (portDown (getPort d n.val))) 0x0101 (unitOf 2 n.val) 1)) ∧
  (∀ (s : State) (n : PortNo) (m : Hello) (P : PortSt), helloOpen s.dev n.val = true →
    P = { getPort s.dev n.val with
      seen := true, peerSeen := (getPort s.dev n.val).peerSeen || m.seen, peerDev := m.dev.val, peerPod := m.pod.toNat } →
    (helloCheck s.dev m = 0 → m.seen = true → (getPort s.dev n.val).link ≠ .up →
      exec (.hello n m) s = becomes s (fun d =>
        raise (setPort d n.val { P with link := .up, credits := [P.credits.getD 0 0, 160, 160, 224] }) 0x0102 (unitOf 2 n.val)
          (m.dev.val + 64 * m.pod.toNat))) ∧
    (helloCheck s.dev m ≠ 0 → (getPort s.dev n.val).link ≠ .quarantined →
      exec (.hello n m) s = becomes s (fun d =>
        raise (setPort d n.val { P with
          link := .quarantined, credits := [P.credits.getD 0 0, 0, 0, 0]
          queue := P.queue.filter (fun q => match q.item with | .cell c => c.vc == 0 | .frame _ => true) }) 0x0103
          (unitOf 2 n.val) (helloCheck s.dev m)))) ∧
  (∀ (s : State) (n : PortNo), (getPort s.dev n.val).link = .retraining →
    exec (.retrainLock n) s = becomes s (fun d =>
      replayAll (setPort d n.val { getPort d n.val with link := .up, tries := 0 }) n.val) ∧
    exec (.retrainTimeout n) s = becomes s (fun d =>
      raise (setPort d n.val (portDown (getPort d n.val))) 0x0101 (unitOf 2 n.val) 2)) ∧
  (∀ (s : State) (lane : Fin 80) (cause : Nat), (getPort s.dev (lane.val / 5)).link = .up →
    (getPort s.dev (lane.val / 5)).spare ≠ lane.val % 5 → cfgField s.dev (.portCtl (lane.val / 5)) 2 1 = 0 →
    exec (.laneFailure lane cause) s = becomes s (fun d =>
      let d1 := markLane d (lane.val / 5) (lane.val % 5) cause
      raise (setPort d1 (lane.val / 5) (portDown (getPort d1 (lane.val / 5)))) 0x0101 (unitOf 2 (lane.val / 5)) 3))

/-- R348, R351, R353, R358, R361, R363, R364, R366: the cells. -/
def Obligations.CellsArePerformedOrForwarded : Prop :=
  (∀ (s : State) (n : PortNo) (c : Cell) (P : PortSt), cellsOpen s.dev n.val = true → (getPort s.dev n.val).link = .up →
    c.lseq.toNat = ((getPort s.dev n.val).rxSeq + 1) % 4096 → cellValid c = true → isLost s.dev c.src.val = false →
    P = { linkIn (getPort s.dev n.val) c with
      rxSeq := c.lseq.toNat, skip := false
      owed := listMod (linkIn (getPort s.dev n.val) c).owed c.vc.toNat (· + 1) } →
    (c.dst = selfDev s.dev →
      (c.kind = 1 → exec (.load n c) s = becomes s (fun d => requestIn 1 (setPort d n.val P) c)) ∧
      (c.kind = 2 → exec (.store n c) s = becomes s (fun d => requestIn 2 (setPort d n.val P) c)) ∧
      (c.kind = 3 → exec (.atomic n c) s = becomes s (fun d => requestIn 3 (setPort d n.val P) c)) ∧
      (c.kind = 4 → exec (.loadRsp n c) s = becomes s (fun d => responseIn (setPort d n.val P) c)) ∧
      (c.kind = 5 → exec (.storeAck n c) s = becomes s (fun d => responseIn (setPort d n.val P) c)) ∧
      (c.kind = 6 → exec (.atomicRsp n c) s = becomes s (fun d => responseIn (setPort d n.val P) c))) ∧
    (∀ port key : Nat, c.dst ≠ selfDev s.dev → c.kind ≠ 0 → c.kind ≠ 7 → c.hops.toNat < 3 →
      key = (if c.vc = 2 then c.txn.toNat else c.addr.toNat % 2 ^ 46 / 64) →
      pickPort (setPort s.dev n.val P) c.dst.val c.src.val c.engine.toNat c.tc.toNat key = some port →
      exec (.routerForward n c) s = becomes s (fun d =>
        egPush (setPort d n.val P) port c.tc.toNat 64 (.cell { c with hops := c.hops + 1 })))) ∧
  (∀ (d : Dev) (kind : Nat) (c : Cell), requestIn kind d c =
    respond (homePerform d kind c).2.2 kind c (homePerform d kind c).1 (homePerform d kind c).2.1) ∧
  (∀ (s : State) (n : PortNo) (c : Cell), cellsOpen s.dev n.val = true → c.kind = 0 → cellValid c = true →
    exec (.idle n c) s = becomes s (fun d => setPort d n.val (linkIn (getPort d n.val) c))) ∧
  (∀ (s : State) (n : PortNo), cellsOpen s.dev n.val = true →
    ((getPort s.dev n.val).skip = false → exec (.cellCrcFailure n) s = becomes s (fun d =>
      send (setPort d n.val { getPort d n.val with skip := true }) (.nak n.val (getPort d n.val).rxSeq))) ∧
    ((getPort s.dev n.val).skip = true → exec (.cellCrcFailure n) s = .next s)) ∧
  (∀ (s : State) (n : PortNo) (lack : BitVec 12) (P : PortSt), cellsOpen s.dev n.val = true →
    P = ackCells (getPort s.dev n.val) lack.toNat →
    (P.replay = [] → exec (.nak n lack) s = becomes s (fun d => setPort d n.val P)) ∧
    (P.replay ≠ [] → P.tries < 15 → exec (.nak n lack) s = becomes s (fun d =>
      replayAll (setPort d n.val { P with tries := P.tries + 1 }) n.val)))

/-- R356, R489, R35, R447, R448, R362, R365 to R367. That AQUEDUCT_CRC_FAILURE commands follow one another in a row is the model's
(log 28). -/
def Obligations.FabricServicesAct : Prop :=
  (∀ s : State, s.dev.boot.dormant = false → s.dev.boot.clkFenced.getLsbD 4 = false → exec .beatSend s = becomes s (fun d =>
    { d with out := d.out ++ ((otherMembers d).filter (fun i => !(routePorts d i).isEmpty)).map (fun i => .beat (devIx i)) })) ∧
  (∀ (s : State) (m : DevIx), isMember s.dev m.val = true → isLost s.dev m.val = false →
    exec (.beat m) s = becomes s (fun d => { d with beats := tset d.beats m.val d.tclk })) ∧
  (∀ s : State, s.dev.health.aqFence = false →
    (s.dev.health.aqRetries < 15 → exec .aqueductCrcFailure s = becomes s (fun d =>
      charge { d with health := { d.health with aqRetries := d.health.aqRetries + 1 } } partDevice wAqRetry 1)) ∧
    (s.dev.health.aqRetries = 15 → exec .aqueductCrcFailure s = becomes s (fun d =>
      let d1 := charge { d with health := { d.health with aqRetries := 16 } } partDevice wAqRetry 1
      raise (assertAlert { d1 with health := { d1.health with aqFence := true } }) 0x0304 (unitOf 6 0) 16))) ∧
  (∀ (s : State) (n : PortNo) (P : PortSt) (cls t : Nat) (q : QItem), P = getPort s.dev n.val →
    pickClass P.sched (eligible P) = some cls → pickTenant P.sched (eligible P) cls = some t →
    (eligible P).find? (fun q => q.cls == cls && q.tenant == t) = some q →
    exec (.egressServe n) s = becomes s (fun d =>
      let rest := P.queue.erase q
      let x := schedServe d n.val P.sched cls t (rest.any (fun e => e.cls == cls)) (rest.any (fun e => e.cls == cls && e.tenant == t))
      let d1 := setPort d n.val { P with queue := rest, sched := x }
      match q.item with
      | .cell c => cellOut d1 n.val c
      | .frame f => send d1 (.link n.val (.frame f)))) ∧
  (∀ (s : State) (engine txn : W16) (op : PodOp), findOp s.dev engine.toNat txn.toNat = some op →
    exec (.podCompletionTimeout engine txn) s = becomes s (fun d =>
      raise (podDone d op .targetLost []) 0x0105 (unitOf 0x0B op.dst.val) op.addr)) ∧
  (∀ (s : State) (p : Post) (d : Dev), ready s.dev p 0x0600 = true → d = takePost s.dev p →
    dZero p 8 8 = true → dZero p 18 6 = true → dZero p 48 16 = true → mayName d (poster d p) (dNat p 16 1) = true →
    aopOk (dNat p 17 1) = true → (dNat p 17 1 ≠ 7 → dZero p 40 8 = true) → dNat p 24 8 % 8 = 0 →
    podCheck d (getPart d (dNat p 16 1)) (dNat p 24 8) 8 true = none →
    exec (.podAtomic p) s = starts s p (fun d => podIssue d (poster d p) (engXfer (poster d p)) (reqTc d (dNat p 16 1)) ckAtomic
      (dNat p 24 8) 16 (dNat p 17 1) (leBytes (dNat p 32 8) 8 ++ leBytes (dNat p 40 8) 8) (.atomic p))) ∧
  (∀ (s : State) (p : Post) (ops : List PodOp), ready s.dev p 0x0601 = true → dZero p 8 56 = true →
    ops = s.dev.podOps.filter (fun o => o.fn == poster s.dev p && (o.kind == ckStore || o.kind == ckAtomic)) →
    (ops = [] → exec (.podFence p) s = completes s p id .ok 0 0) ∧
    (ops ≠ [] → exec (.podFence p) s = starts s p (fun d =>
      { d with fences := d.fences ++ [⟨p, ops.map (fun o => (o.engine, o.txn)), none⟩] })))

/-- R368, R370, R371: replicated regions. That one row stands for the poster's update and the coordinator's write is the model's (log 31);
REMOVE of an undefined region fails (log 30). -/
def Obligations.ReplicatedRegionsAct : Prop :=
  (∀ (s : State) (p : Post) (d : Dev), ready s.dev p 0x0470 = true → d = takePost s.dev p → poster d p = 0 → lockPart d = false →
    dZero p 8 8 = true → dNat p 16 1 ≤ 15 → dZero p 18 2 = true → dZero p 32 32 = true →
    (dNat p 17 1 = 0 → dNat p 24 8 % pageSize = 0 → 0 < dNat p 20 4 → dNat p 20 4 ≤ 65536 →
      dNat p 24 8 / pageSize + dNat p 20 4 ≤ devicePages → tget d.repl (dNat p 16 1) = none →
      runClear (takenRuns d) (dNat p 24 8 / pageSize) (dNat p 20 4) = true →
      crossesHalf (dNat p 24 8 / pageSize) (dNat p 20 4) = false →
      exec (.replRegion p) s = completes s p (fun d => podDigest { d with
        repl := tset d.repl (dNat p 16 1) ⟨dNat p 24 8, dNat p 20 4⟩, replVer := tset d.replVer (dNat p 16 1) 0
        hbm := memZeroRange d.hbm (dNat p 24 8) (dNat p 20 4 * pageSize) }) .ok 0 0) ∧
    (∀ g : ReplReg, dNat p 17 1 = 1 → tget d.repl (dNat p 16 1) = some g → runMapped d (g.offset / pageSize) g.count = false →
      exec (.replRegionRemove p) s =
        completes s p (fun d => podDigest { d with repl := tdel d.repl (dNat p 16 1) }) .ok 0 0)) ∧
  (∀ (s : State) (p : Post) (d : Dev) (x : PartSt) (g : ReplReg) (bytes : List Byte), ready s.dev p 0x0602 = true →
    d = takePost s.dev p → x = getPart d (dNat p 18 1) → dZero p 8 8 = true → dNat p 16 1 ≤ 15 → dZero p 17 1 = true →
    mayName d (poster d p) (dNat p 18 1) = true → (dNat p 19 1 = 1 ∨ dNat p 19 1 = 3) → 0 < dNat p 20 4 →
    dNat p 20 4 ≤ 16777216 → dNat p 20 4 % 64 = 0 → dNat p 24 8 % 64 = 0 → dNat p 32 8 % 64 = 0 → dZero p 40 24 = true →
    tget d.repl (dNat p 16 1) = some g → dNat p 24 8 + dNat p 20 4 ≤ g.count * pageSize →
    rangeOk d x (dNat p 19 1) (dNat p 32 8) (dNat p 20 4) false true = true →
    badIn d x (dNat p 19 1) (dNat p 32 8) (dNat p 20 4) = [] →
    bytes = tierBytes d x [] (dNat p 19 1) (dNat p 32 8) (dNat p 20 4) →
    exec (.replicateUpdate p) s = starts s p (fun d =>
      let d1 := { d with replTag := d.replTag + 1, replPosts := d.replPosts ++ [(d.replTag, p)] }
      if coordinator d = (selfDev d).val then replPush d1 (selfDev d) d.replTag (dNat p 16 1) (dNat p 24 8) bytes
      else send d1 (.replUpdate (devIx (coordinator d)) d.replTag (dNat p 16 1) (dNat p 24 8) bytes))) ∧
  (∀ (s : State) (m : DevIx) (tag offset : Nat) (region : Fin 16) (bytes : List Byte), isMember s.dev m.val = true →
    isLost s.dev m.val = false → (tget s.dev.repl region.val).isSome = true →
    (coordinator s.dev = (selfDev s.dev).val → exec (.replCoordinatorUpdate m tag region offset bytes) s =
      becomes s (fun d => replPush d m tag region.val offset bytes)) ∧
    (coordinator s.dev ≠ (selfDev s.dev).val → coordinator s.dev = m.val →
      exec (.replCoordinatorUpdate m tag region offset bytes) s = becomes s (fun d =>
        send (writeCopy d region.val offset bytes tag) (.replAck m region.val tag)))) ∧
  (∀ (s : State) (m : DevIx) (region : Fin 16) (v : W64) (u : ReplUpd) (rest : List ReplUpd),
    coordinator s.dev = (selfDev s.dev).val → s.dev.replQueue = u :: rest → u.region = region.val → u.version = some v.toNat →
    exec (.replMemberAck m region v) s = becomes s (fun d => replNext d m.val false)) ∧
  (∀ (s : State) (m : DevIx) (region : Fin 16) (v : W64) (tag : Nat) (p : Post) (rest : List (Nat × Post)),
    coordinator s.dev ≠ (selfDev s.dev).val → coordinator s.dev = m.val → s.dev.replPosts = (tag, p) :: rest →
    exec (.replMemberAck m region v) s = becomes s (fun d =>
      replFinish d tag v.toNat ((List.range 64).filter (fun i => isMember d i && isLost d i))))

/-- R379, R380, R382, R384: the control descriptors of queue pairs. -/
def Obligations.QueuePairControlActs : Prop :=
  (∀ (s : State) (p : Post) (d : Dev), ready s.dev p 0x0480 = true → d = takePost s.dev p →
    dZero p 11 5 = true → dZero p 24 8 = true → dZero p 40 24 = true → dNat p 17 1 ≤ 63 → dNat p 18 1 ≤ 1 → dNat p 19 1 = 0 →
    (dNat p 18 1 = 0 → dZero p 32 8 = true) → dNat p 32 8 % 256 = 0 → ((poster d p).val = 0 ∨ dNat p 17 1 = (poster d p).val) →
    dNat p 16 1 ≤ 63 → 0 < dNat p 20 4 → dNat p 20 4 ≤ 65536 → qpInRange d (fnId (dNat p 17 1)) (qpOf p) (dNat p 20 4) = true →
    (∀ e ∈ d.qps, ¬ (qpOf p ≤ e.1 ∧ e.1 < qpOf p + dNat p 20 4)) → (getPart d (dNat p 16 1)).state ≠ .free →
    (getPart d (dNat p 16 1)).owner = fnId (dNat p 17 1) →
    (dNat p 18 1 = 0 → regionFits d (256 * dNat p 20 4) = true) →
    exec (.qpCreate p) s = completes s p (fun d => (List.range (dNat p 20 4)).foldl (fun d i => setQp d (qpOf p + i)
      (QpSt.fresh (partId (dNat p 16 1)) (fnId (dNat p 17 1))
        (if dNat p 18 1 = 1 then some (BitVec.ofNat 64 (dNat p 32 8 + 256 * i)) else none) false)) d) .ok 0 0) ∧
  (∀ (part : PartId) (owner : Fn) (host : Option W64), (QpSt.fresh part owner host false).state = .idle ∧
    (QpSt.fresh part owner host false).ccount = 0 ∧ (QpSt.fresh part owner host false).acount = 0 ∧
    (QpSt.fresh part owner host false).part = part ∧ (QpSt.fresh part owner host false).owner = owner) ∧
  (∀ (s : State) (p : Post) (d : Dev) (q : QpSt), ready s.dev p 0x0481 = true → d = takePost s.dev p →
    connectHead d p = true → 0 < dNat p 50 2 → getQp d (qpOf p) = some q → q.towpath = false → connectRanges d p q = true →
    (q.state = .idle ∨ q.state = .error ∨ (q.state = .connected ∧ q.ops = [])) →
    exec (.qpConnect p) s = completes s p (fun d => setQp d (qpOf p) { q with
      state := .connected, dev := BitVec.ofNat 14 (dNat p 16 2), lport := dNat p 18 1, keyEn := (dNat p 19 1).testBit 0
      peer := BitVec.ofNat 24 (dNat p 20 3), tc := BitVec.ofNat 3 (dNat p 23 1), txPsn := BitVec.ofNat 32 (dNat p 24 4)
      rxPsn := BitVec.ofNat 32 (dNat p 28 4), ip := BitVec.ofNat 128 (dNat p 32 16), mtu := dNat p 48 1, keySlot := dNat p 49 1
      winInit := dNat p 50 2, window := dNat p 50 2, rto := dNat p 52 2, retryMax := dNat p 54 1, ackEvery := dNat p 55 1
      txMsn := 0, rxMsn := 0, pkts := [], msgs := [], marked := [], ops := [], waiting := [], err := .ok, errDet := 0
      winAck := 0, noHalve := none, retries := 0, rtoMul := 1, backoff := false, unacked := 0, ece := false, inj := none
      redHeld := [] }) .ok 0 0) ∧
  (∀ (s : State) (p : Post) (d d1 : Dev) (qs : List Nat), ready s.dev p 0x0482 = true → d = takePost s.dev p →
    dZero p 11 9 = true → dZero p 24 40 = true → 0 < dNat p 20 4 → dNat p 20 4 ≤ 65536 →
    qpInRange d (poster d p) (qpOf p) (dNat p 20 4) = true → qs = (List.range (dNat p 20 4)).map (fun i => qpOf p + i) →
    (∀ i ∈ qs, (getQp d i).isSome = true ∧ linkNames d i = false ∧ towNames d i = false) →
    d1 = qs.foldl qpDestroyOne d →
    ((∀ i ∈ qs, getQp d1 i = none) → exec (.qpDestroy p) s = completes s p (fun _ => d1) .ok 0 0) ∧
    ((∃ i ∈ qs, (getQp d1 i).isSome = true) → exec (.qpDestroy p) s =
      starts s p (fun _ => { d1 with qpDestroys := d1.qpDestroys ++ [(p, qpOf p, dNat p 20 4)] }))) ∧
  (∀ (s : State) (p : Post) (d : Dev), ready s.dev p 0x0483 = true → d = takePost s.dev p → dZero p 11 29 = true →
    dZero p 48 16 = true → dNat p 40 8 % 64 = 0 → qpInRange d (poster d p) (qpOf p) 1 = true →
    exec (.qpQuery p) s = completes s p (fun d => hostWrite d (dNat p 40 8) (qpRecord d (qpOf p))) .ok 0 0)

/-- R394 to R398, R403: PUT, GET, ATOMIC, SIGNAL, QP_WAIT and the two ends of a wait. -/
def Obligations.TransportOperationsStart : Prop :=
  (∀ (s : State) (op : Nat) (c : Instr) (p : Post) (d : Dev) (q : QpSt) (x : PartSt) (o : XOp),
    (op, c) ∈ [(0x0610, Instr.xptPut p), (0x0611, .xptGet p), (0x0612, .xptAtomic p), (0x0613, .xptSignal p)] →
    ready s.dev p op = true → d = takePost s.dev p → xFieldsOk op p = true → qpInRange d (poster d p) (qpOf p) 1 = true →
    getQp d (qpOf p) = some q → x = getPart d q.part.val → q.owner = poster d p → q.part.val = dNat p 16 1 →
    xLocalOk d op p x = true → xLen p ≤ 2 ^ 30 → q.state = .connected →
    (q.ops.filter (fun o => o.post.isSome)).length < 256 → (q.keyEn = true → keyUsable d (.line q.keySlot) = true) →
    q.txMsn < 2 ^ 56 → q.dev.toNat ≠ selfSys d → o = xMessage d op p x → o.result = none →
    exec c s = starts s p (fun d => settleQp (pump (wantCtx (touchQp (pushOp d (qpOf p) o) (qpOf p)) (qpOf p)) (qpOf p)) (qpOf p))) ∧
  (∀ (d : Dev) (op : Nat) (p : Post) (x : PartSt), (xMessage d op p x).post = some p ∧
    (op = 0x0611 → xLen p ≠ 0 → (xMessage d op p x).kind = .getReq ∧
      (xMessage d op p x).bytes = leBytes (xLocal p) 8 ++ leBytes (xLen p) 4 ++ leBytes 0 4) ∧
    (op = 0x0612 → (xMessage d op p x).kind = .atomicReq) ∧ (op = 0x0613 → (xMessage d op p x).kind = .signal)) ∧
  (∀ (s : State) (p : Post) (d : Dev) (q : QpSt), ready s.dev p 0x0614 = true → d = takePost s.dev p → xFieldsOk 0x0614 p = true →
    qpInRange d (poster d p) (waitQp p) 1 = true → waitSource p < 2 → getQp d (waitQp p) = some q → q.owner = poster d p →
    (q.state = .connected ∨ q.state = .idle) →
    (dNat p 40 8 ≤ waitCount d (poster d p) p → exec (.qpWait p) s = completes s p id .ok 0 0) ∧
    (∀ f r idx, p.src = .ring f r idx → waitCount d (poster d p) p < dNat p 40 8 →
      exec (.qpWait p) s = starts s p (fun d => setRing d f r { getRing d f r with
        qpWait := some ⟨p, idx⟩, stalls := .qpWait :: (getRing d f r).stalls }))) ∧
  (∀ (s : State) (fn : Fn) (ring : Nat) (w : QpWaitSt), (getRing s.dev fn ring).qpWait = some w →
    (dNat w.post 40 8 ≤ waitCount s.dev fn w.post →
      exec (.qpWaitSatisfied fn ring) s = becomes s (fun d => endWait d fn ring w .ok)) ∧
    (dNat w.post 56 4 ≠ 0 →
      exec (.qpWaitTimeout fn ring) s = becomes s (fun d => endWait d fn ring w .remoteTimeout))) ∧
  (∀ (d : Dev) (f : Fn) (r : Nat) (w : QpWaitSt) (st : Status), endWait d f r w st =
    complete (setRing d f r { getRing d f r with
      qpWait := none, stalls := (getRing d f r).stalls.erase .qpWait
      skip := if statusGood st then (getRing d f r).skip else (w.idx + 1, w.idx + 1 + waitSkip w.post) }) w.post st 0 0)

/-- R400, R401, R406 to R409, R412, R413, R415: the packets of Table 11.6 and the timers. -/
def Obligations.PacketsReachTheirQueuePair : Prop :=
  (∀ (s : State) (k : PktHdr) (bytes : List Byte) (dest operand compare former : W64) (len value : W32) (aop : BitVec 4)
      (cls : Nat) (ce tagOk : Bool) (qn : Nat) (q q' : QpSt) (kind : PKind) (pay : List Byte) (tag : Bool) (con : Bool) (c : Instr),
    (c, kind, pay, con, tag) ∈
      [(Instr.data k bytes ce tagOk, PKind.data, bytes, ce, tagOk),
       (.getReq k dest len ce tagOk, .getReq, leBytes dest.toNat 8 ++ leBytes len.toNat 4 ++ leBytes 0 4, ce, tagOk),
       (.atomicReq k operand compare aop ce tagOk, .atomicReq,
         leBytes operand.toNat 8 ++ leBytes compare.toNat 8 ++ leBytes aop.toNat 1 ++ leBytes 0 7, ce, tagOk),
       (.atomicRspPacket k former ce tagOk, .atomicRsp, leBytes former.toNat 8, ce, tagOk),
       (.signal k value ce tagOk, .signal, leBytes value.toNat 4 ++ leBytes 0 4, ce, tagOk),
       (.tow k cls none bytes, .tow, leBytes cls 1 ++ bytes.drop 1, false, true)] →
    qn = k.dstQp.toNat → fromPeer s.dev k = some q → q.resident = true →
    (q.keyEn = true → keyUsable s.dev (.line q.keySlot) = true) → getQp (touchQp s.dev qn) qn = some q' →
    exec c s = becomes s (fun d => messageIn (touchQp d qn) qn q' ⟨⟨kind, k, pay⟩, con, tag, none⟩)) ∧
  (∀ (d : Dev) (qn : Nat) (q : QpSt) (r : RxPkt),
    (2 ^ 31 ≤ (r.pkt.hdr.psn - q.rxPsn).toNat ∨ q.marked.contains r.pkt.hdr.psn = true →
      messageIn d qn q r = sendAck (setQp d qn { q with ece := q.ece || r.ce }) qn) ∧
    (4096 ≤ (r.pkt.hdr.psn - q.rxPsn).toNat → (r.pkt.hdr.psn - q.rxPsn).toNat < 2 ^ 31 → q.marked.contains r.pkt.hdr.psn = false →
      messageIn d qn q r = sendAck (xptAdd (setQp d qn { q with ece := q.ece || r.ce }) 2 (qpHalf qn)) qn)) ∧
  (∀ (s : State) (k : PktHdr) (cack : W32) (done : BitVec 56) (sacks : List (W32 × W32)) (detail : W64) (resend : Bool) (w : W32)
      (qn : Nat) (q q' : QpSt), qn = k.dstQp.toNat → fromPeer s.dev k = some q → q.resident = true →
    getQp (touchQp s.dev qn) qn = some q' →
    (∀ b : List Byte, b = leBytes cack.toNat 4 ++ leBytes done.toNat 7 ++ leBytes (sacks.take 4).length 1 ++
        slice ((sacks.take 4).flatMap (fun r => leBytes r.1.toNat 4 ++ leBytes r.2.toNat 4)) 0 32 ++ leBytes 0 4 →
      exec (.ack k cack done sacks) s = becomes s (fun d => ackIn (touchQp d qn) qn q' k.ece (BitVec.ofNat 32 (leAt b 0 4)) (leAt b 4 7)
        ((List.range (min 4 (leAt b 11 1))).map
          (fun i => (BitVec.ofNat 32 (leAt b (12 + 8 * i) 4), BitVec.ofNat 32 (leAt b (16 + 8 * i) 4)))))) ∧
    (∀ b : List Byte, b = leBytes detail.toNat 8 ++ leBytes (b2n resend) 1 ++ leBytes 0 7 →
      exec (.msgNak k detail resend) s = becomes s (fun d =>
        nakIn (touchQp d qn) qn q' k.msn.toNat (statusOf k.status) (leAt b 0 8) ((leAt b 8 1).testBit 0))) ∧
    exec (.contextWait k w) s = becomes s (fun d => setQp (touchQp d qn) qn { q' with
      backoff := true, cwaits := if q'.cwaits = 0xFFFFFFFF then q'.cwaits else q'.cwaits + 1
      pkts := q'.pkts.map (fun x => if !x.sacked && decide ((x.pkt.hdr.psn - k.psn).toNat < 2 ^ 31) then { x with held := true }
        else x) })) ∧
  (∀ (s : State) (qp : BitVec 24) (q : QpSt), getQp s.dev qp.toNat = some q →
    (q.backoff = true → exec (.backoffEnd qp) s = becomes s (fun d =>
      pump ((q.pkts.filter (·.held)).foldl (fun d p => resendPkt d qp.toNat p.pkt.hdr.psn)
        (setQp d qp.toNat { q with backoff := false })) qp.toNat)) ∧
    (0 < q.unacked → exec (.ackTimer qp) s = becomes s (fun d => sendAck d qp.toNat)) ∧
    (∀ (p : SentPkt) (rest : List SentPkt), q.pkts = p :: rest → q.backoff = false → q.redHeld.contains p.pkt.hdr.psn = false →
      (q.retries < q.retryMax → exec (.rtoExpiry qp) s = becomes s (fun d =>
        resendPkt (setQp d qp.toNat { q with retries := q.retries + 1, rtoMul := min 64 (2 * q.rtoMul) }) qp.toNat p.pkt.hdr.psn)) ∧
      (q.retries = q.retryMax → exec (.rtoExpiry qp) s = becomes s (fun d =>
        qpError d qp.toNat .remoteTimeout p.pkt.hdr.psn.toNat))) ∧
    (∀ d1 : Dev, q.fetching = true → makeRoom s.dev (qpHalf qp.toNat) = some d1 →
      exec (.contextFetchDone qp) s = becomes s (fun _ =>
        pump (q.waiting.foldl (fun d r => packetIn d qp.toNat r) (touchQp (setQp d1 qp.toNat
          { classifyQp d1 { q with inj := none } qp.toNat with resident := true, fetching := false, waiting := [] }) qp.toNat))
          qp.toNat)))

/-- R427, R431, R435, R439, R440, R445: the sluice's descriptors; R440, R443: the credit tick; R422, R424: the CAM; R389, R436, R437: frames. -/
def Obligations.SluiceCommands : Prop :=
  (∀ (s : State) (p : Post) (d : Dev) (hs : List Nat), ready s.dev p 0x0490 = true → d = takePost s.dev p → (poster s.dev p).val = 0 →
    dZero p 8 8 = true → dNat p 16 1 ≤ 3 → dZero p 17 3 = true → clsId p < 2 ^ 17 → dZero p 28 4 = true → dNat p 32 8 % 64 = 0 →
    dZero p 40 24 = true → hs = clsHalves p → hs.isEmpty = false →
    hs.any (fun h => holdsEntry (getCam d h) (clsId p) || !entryOk d h p.arg) = false →
    hs.any (fun h => decide (clsCapacity d h ≤ (getCam d h).cls.length)) = false →
    exec (.classifyInsert p) s = completes s p (fun d => (hs.foldl (putEntry (clsEntry p)) (d, 0)).1) .ok
      (hs.foldl (putEntry (clsEntry p)) (d, 0)).2 0) ∧
  (∀ (s : State) (p : Post) (d : Dev) (hs : List Nat), ready s.dev p 0x0491 = true → d = takePost s.dev p → (poster s.dev p).val = 0 →
    dZero p 8 8 = true → dNat p 16 1 ≤ 3 → dZero p 17 3 = true → clsId p < 2 ^ 17 → dZero p 24 40 = true →
    hs = clsHalves p → hs.isEmpty = false → hs.any (fun h => !holdsEntry (getCam d h) (clsId p)) = false →
    exec (.classifyRemove p) s = completes s p (fun d => hs.foldl (dropEntry (clsId p)) d) .ok 0 0) ∧
  (∀ (s : State) (p : Post) (n own m : Nat), ready s.dev p 0x0492 = true → (poster s.dev p).val = 0 →
    n = dNat p 16 2 → own = dNat p 18 1 → m = dNat p 19 1 → dZero p 8 8 = true → n ≤ 1023 → own ≤ 63 → (m % 4 = 1 ∨ m % 4 = 2) →
    bits m 3 2 ≠ 3 → m < 64 → dZero p 36 28 = true → (m % 4 = 1 → dZero p 24 4 = true) →
    0 < dNat p 20 4 → (m % 4 = 2 → dNat p 20 4 ≤ dNat p 24 4) →
    0 < dNat p 28 4 → dNat p 28 4 ≤ 2 ^ 24 → 0 < dNat p 32 4 → dNat p 32 4 ≤ 2 ^ 24 →
    exec (.policerSet p) s = completes s p (fun d => setPolicer d n { getPolicer d n with
      owner := fnId own, mode := BitVec.ofNat 8 m, cir := dNat p 20 4, pir := dNat p 24 4, cbs := dNat p 28 4, xbs := dNat p 32 4
      tc := dNat p 28 4 * packetUnits, tx := dNat p 32 4 * packetUnits, remC := 0, remX := 0 }) .ok 0 0) ∧
  (∀ (s : State) (p : Post) (n : Nat), ready s.dev p 0x0493 = true → (poster s.dev p).val = 0 → n = dNat p 16 2 → dZero p 8 8 = true →
    n ≤ 1023 → dZero p 18 22 = true → dZero p 48 16 = true → dNat p 40 8 % 64 = 0 →
    exec (.policerQuery p) s = completes s p (fun d => hostWrite d (dNat p 40 8) (policerRecord (getPolicer d n))) .ok 0 0) ∧
  (∀ (s : State) (p : Post) (d : Dev) (n sm : Nat) (found : List (Nat × W64)), ready s.dev p 0x0494 = true → d = takePost s.dev p →
    (poster s.dev p).val = 0 → n = dNat p 20 4 → sm = dNat p 18 1 → dZero p 8 8 = true → dNat p 16 1 ≤ 63 → dNat p 17 1 ≤ 63 → sm ≤ 3 →
    dZero p 19 1 = true → dZero p 24 8 = true → dNat p 32 8 % 8 = 0 → dZero p 40 24 = true → n % 8 = 0 →
    found = (d.camW.loc ++ d.camE.loc).filter (locHit d sm (dNat p 16 1) (dNat p 17 1)) →
    (0 < n → exec (.locateScan p) s = completes s p (fun d =>
      hostWrite d (dNat p 32 8) ((found.take (n / 8)).flatMap (fun e => leBytes e.2.toNat 8))) .ok found.length 0) ∧
    (n = 0 → exec (.locateScan p) s = completes s p id .ok 0 0)) ∧
  (∀ s : State, exec .policerCreditTick s = becomes s (fun d =>
    (d.qps.map (·.1)).foldl offerAgain { d with policers := d.policers.map (fun e => (e.1, credited e.2)) })) ∧
  (∀ (s : State) (h : Half) (value : W32) (old v : BitVec 128), barOpen s.dev 0 = true → old = cfgGet s.dev (.camCfg (halfNo h)) →
    v = fieldsWritten s.dev (.camCfg (halfNo h)) (maskOf 0 32) (value.setWidth 128) →
    (v ≠ old → bits v.toNat 5 2 ≠ 3 → bits v.toNat 7 3 ≤ 4 → 0 < bits v.toNat 0 5 → bits v.toNat 0 5 ≤ 16 →
      bits v.toNat 0 5 % 2 ^ bits v.toNat 5 2 = 0 →
      (bits v.toNat 0 5 = bits old.toNat 0 5 ∨ (getCam s.dev (halfNo h)).loc.isEmpty = true) →
      exec (.camCfgWrite h value) s = becomes s (fun d =>
        reclassify (setCam (cfgSet d (.camCfg (halfNo h)) v) (halfNo h) { getCam d (halfNo h) with cls := [] }) (halfNo h))) ∧
    (bits v.toNat 0 5 = 0 → exec (.camCfgWrite h value) s = becomes s id)) ∧
  (∀ (s : State) (h : Half) (row : Nat) (d1 d2 : Dev) (bank n : Nat),
    exec (.camShadowCheck h true row false) s = becomes s id ∧
    (bank = halfNo h * 16 + row / 8192 → d1 = raise (charge s.dev partDevice wVote 1) 0x0308 (unitOf 0x0A bank) (row % 8192) →
      (camAuto s.dev = false → exec (.camShadowCheck h true row true) s = becomes s (fun _ => d1)) ∧
      (camAuto s.dev = true → substCamRow d1 bank (row % 8192) = some (d2, n) →
        exec (.camShadowCheck h true row true) s = becomes s (fun _ => postSpared d2 (unitOf 0x0A bank) n)))) ∧
  (∀ (s : State) (n : PortNo) (f : Frame), portMode s.dev n.val = 2 → (getPort s.dev n.val).link = .up →
    (frameOk s.dev n.val f = false → exec (.frameReceive n f) s = becomes s (fun d => xptAdd d 2 (n.val / 8))) ∧
    (frameOk s.dev n.val f = true →
      (256 ≤ (getPort s.dev n.val).frames.length → exec (.frameReceive n f) s = becomes s (fun d => countSluice d n.val true)) ∧
      ((getPort s.dev n.val).frames.length < 256 → exec (.frameReceive n f) s = becomes s (fun d =>
        setPort d n.val { getPort d n.val with frames := (getPort d n.val).frames ++ [f] })))) ∧
  (∀ (s : State) (n : PortNo) (f : Frame) (rest : List Frame) (d1 : Dev) (c : BitVec 128), (getPort s.dev n.val).frames = f :: rest →
    d1 = setPort s.dev n.val { getPort s.dev n.val with frames := rest } → c = cfgGet s.dev (.sluDefault n.val) →
    (∀ r, camSearch (getCam s.dev (n.val / 8)) (frameKey n.val f) = some r →
      exec (.frameClassify n) s = becomes s (fun _ => frameJudge d1 n.val f (resDiscard r) (resPolicer r) (resColour r))) ∧
    (camSearch (getCam s.dev (n.val / 8)) (frameKey n.val f) = none →
      exec (.frameClassify n) s = becomes s (fun _ =>
        frameJudge d1 n.val f (c.getLsbD 0) (if c.getLsbD 11 then some (bits c.toNat 1 10) else none) 0)))

/-- R119 to R136: the start and the end of the tasks of Table 4.6. -/
def Obligations.TasksStartAndEnd : Prop :=
  (∀ (s : State) (p : Post) (c : Post → Instr) (op : Nat) (d : Dev) (x : PartSt) (os : List Opd) (k : Kind) (n : Nat)
      (rd : List (Nat × Nat)) (pins : List (Nat × Bool)) (t : TaskSt),
    (c, op) ∈ [(Instr.matmul, 0x0101), (.groupedMatmul, 0x0102), (.route, 0x0103), (.norm, 0x0104), (.elementwise, 0x0105),
      (.softmax, 0x0106), (.gather, 0x0107), (.sample, 0x0108), (.convert, 0x0109), (.compress, 0x010A), (.reduce, 0x010B),
      (.copy, 0x010C), (.gradWeight, 0x0110), (.actBwd, 0x0111), (.normBwd, 0x0112), (.optimAdamw, 0x0113)] →
    ready s.dev p op = true → d = takePost s.dev p → x = getPart d (dNat p 17 1) → os = taskOpds p → k = kindOf op p os x →
    acceptTask d op p os k = .go → partHolds x = false →
    bindTask d (dNat p 17 1) p (tileRanges op p (shaped k os)) = .free → taskClockDown d = false →
    (shaped k os).any (fun e => e.2.tier == 1 && (taskRanges op p e.1 e.2).any (fun r => t1Barred d x r.1 r.2)) = false →
    rd = podReads d x op p os → podRefusal d x rd (podWrites op p os) = none →
    n = d.taskNo → pins = (basisIds d x op p os).flatMap (pinsOf d) →
    t = { newTask d (partId (dNat p 17 1)) p (workTiles d x) pins (if k.mixes then 0 else tM p)
      (if k.mixes then [] else rowOwners p (tM p)) with podLeft := (rd.flatMap (fun r => podPieces r.1 r.2)).length } →
    exec (c p) s = starts s p (fun d =>
      podLoads (addPins (setTask (stageIn { d with taskNo := n + 1 } p) n t) pins (workTiles d x).length) x.owner
        (engTile ((workTiles d x).headD 0)) (if op = 0x010C then bulkTc d (dNat p 17 1) else reqTc d (dNat p 17 1)) rd (.taskLoad n))) ∧
  (∀ (s : State) (n : Nat) (tile : TileId) (t t1 : TaskSt), tget s.dev.tasks n = some t → itemStands s.dev t = false →
    t.tiles.contains tile.val = true → t1 = { t with tiles := t.tiles.erase tile.val } →
    (t1.tiles.isEmpty = false → exec (.workItemComplete n tile) s = becomes s (fun d => dropPins (setTask d n t1) t.pins)) ∧
    (t1.tiles.isEmpty = true → t.podLeft = 0 → t.legsLeft = 0 → t.appendAt = none →
      exec (.workItemComplete n tile) s = becomes s (fun d => dropPins (conclude (setTask d n t1) n t1) t.pins))) ∧
  (∀ (d : Dev) (n : Nat) (t : TaskSt) (o : TaskOut), isAttn (opcode t.post) = false →
    (t.fail = none → allSquashed t = true → conclude d n t = finishTask (liftDone d t.part.val t.post) n) ∧
    (t.fail = none → allSquashed t = false →
      o = computeTask (taskCtx d t) (opcode t.post) t.post (taskOpds t.post) t.seeds t.squashed →
      conclude d n t = applyOut d n t o ∧
      (o.fails ++ writeFails d (getPart d t.part.val) (liveWrites o.writes t.squashed) = [] →
        (liveWrites o.writes t.squashed).filter (fun w => w.tier == 2) = [] →
        conclude d n t = finishTask (liftDone (commitWrites
          (setTask d n { t with flags := t.flags ||| rowFlags o.flags t.squashed, computed := true })
          (getPart d t.part.val) (liveWrites o.writes t.squashed)) t.part.val t.post) n) ∧
      (∀ st detail, o.fails = [(st, detail)] → writeFails d (getPart d t.part.val) (liveWrites o.writes t.squashed) = [] →
        conclude d n t = failOut (failTask
          (setTask d n { t with flags := t.flags ||| rowFlags o.flags t.squashed, computed := true }) n st detail) n o.writes))) ∧
  (∀ (d : Dev) (n : Nat) (t : TaskSt) (st : Status) (detail : Nat), tget d.tasks n = some t → taskStatus t = (st, detail) →
    finishTask d n = complete { taskReport d st detail with tasks := tdel d.tasks n } t.post st detail (taskExtra t)) ∧
  (∀ (s : State) (tile : TileId), exec (.tileBoundary tile) s = becomes s (fun d =>
    (tasksOn d tile.val).foldl (boundaryTask tile.val) d)) ∧
  (∀ (s : State) (tile : TileId) (n : Nat) (ns : List Nat) (t : TaskSt), tasksOn s.dev tile.val = n :: ns → tget s.dev.tasks n = some t →
    (t.fail = none → exec (.chunkEnd tile none) s = becomes s id) ∧
    (t.fail.isSome = true → exec (.chunkEnd tile none) s = becomes s (fun d => itemEnd conclude d n tile.val)) ∧
    (∀ r : Residue, exec (.chunkEnd tile (some r)) s = becomes s (fun d =>
      fenceTile ((n :: ns).foldl (fun d n => itemEnd conclude (failTask d n .residueMismatch (residueDetail tile.val r)) n tile.val)
        (raise d 0x0301 (unitOf 1 (physOf d tile.val)) (residueDetail tile.val r))) tile.val)))

/-- R214, R221, R225 to R229, R235, R236: the attention tasks. -/
def Obligations.AttentionTasksStart : Prop :=
  (∀ (s : State) (p : Post) (c : Post → Instr) (op part n : Nat) (d : Dev) (x : PartSt) (os : List Opd) (k : Kind) (es : List LenEntry)
      (maps : List (List Byte)) (pins : List (Nat × Bool)) (t : TaskSt),
    (c, op) ∈ [(Instr.kvAppend, 0x0120), (.attend, 0x0121), (.kvVerify, 0x0122)] →
    ready s.dev p op = true → d = stageIn (takePost s.dev p) p → part = dNat p 17 1 → x = getPart d part → os = taskOpds p →
    k = kAttn d op p os part → acceptTask d op p os k = .go → es = taskEntries d x p os → attnHeld d op p es = false →
    partHolds x = false → bindTask d part p (tileRanges op p (shaped k os)) = .free → taskClockDown d = false →
    ((shaped k os).any (fun e => e.2.tier == 1 && (taskRanges op p e.1 e.2).any (fun r => t1Barred d x r.1 r.2)) ||
      es.any (fun e => tableBarred d e.handle.toNat)) = false →
    lengthsBad d x p os = [] → (op = 0x0121 → readMaps d x es = .inr maps) → (op ≠ 0x0121 → maps = []) → n = d.taskNo →
    pins = (if taskPlace d part es = .here then (attnIds op (taskLayout d es) (aLayer p)).flatMap (pinsOf d) else []) →
    t = { newTask d (partId part) p (workTiles d x) pins (tM p) (rowOwners p (tM p)) with ents := es, maps := maps } →
    (∀ dv q, taskPlace d part es = .far dv q → exec (c p) s = starts s p (fun d =>
      farStart (addPins (setTask (stageIn { stageIn d p with taskNo := n + 1 } p) n t) pins (workTiles (stageIn d p) x).length) n dv)) ∧
    (taskPlace d part es = .here → exec (c p) s = starts s p (fun d =>
      if op = 0x0121 then
        attendPhase (addPins (setTask (stageIn { stageIn d p with taskNo := n + 1 } p) n t) pins (workTiles (stageIn d p) x).length) n
      else addPins (setTask (stageIn { stageIn d p with taskNo := n + 1 } p) n t) pins (workTiles (stageIn d p) x).length))) ∧
  (∀ (s : State) (q : FarQuery),
    (farAnswer s.dev q = none → exec (.farLegQuery q) s = becomes s (fun d => { d with farWait := d.farWait ++ [q] })) ∧
    (∀ st detail recs d1, farAnswer s.dev q = some (st, detail, recs, d1) → q.fromDev ≠ selfDev s.dev →
      exec (.farLegQuery q) s = becomes s (fun _ => send d1 (.partials q.fromDev q.task st (BitVec.ofNat 64 detail) recs)))) ∧
  (∀ (s : State) (task : Nat) (fromDev : DevIx) (st : Status) (detail : W64) (recs : List Partial) (t : TaskSt) (e : LenEntry)
      (es : List LenEntry), tget s.dev.tasks task = some t → t.legsLeft ≠ 0 →
    (t.ents = e :: es → hDev e.handle.toNat = fromDev.val → exec (.partialRecords task fromDev st detail recs) s = becomes s (fun d =>
      if statusGood st then setTask d task { t with legsLeft := 0, recs := recs }
      else failTask (setTask d task { t with legsLeft := 0, recs := recs }) task st detail.toNat)) ∧
    exec (.farLegTimeout task) s = becomes s (fun d =>
      failTask (setTask d task { t with legsLeft := 0, recs := [] }) task .remoteTimeout 0)) ∧
  (∀ (s : State) (part : PartId), exec (.appendSlotWaitEnd part) s = becomes s (fun d =>
    retryFar (((d.tasks.filter (fun e => e.2.part == part && e.2.appendAt.isSome)).map (·.1)).foldl retryAppend d)))

/-- R97 to R100: bases; R199, R200, R242: layouts; R205 to R208: tables. -/
def Obligations.BasesLayoutsAndTables : Prop :=
  (∀ (s : State) (p : Post) (d d1 d2 d3 d4 : Dev) (b : BasisSt) (obj off detail : Nat) (st : Status) (second : Bool),
    ready s.dev p 0x0410 = true → d = takePost s.dev p → b = getBasis d (bId p) → b.waiting = none → replaceCheck d p = none →
    second = targetSlot b → freshObj d = (obj, d1) →
    d2 = (if (slotOf b second).state = .empty then d1 else heapFree d1 (bPart p) (slotOf b second).obj) →
    heapAlloc d2 (bPart p) .basis obj (vBytes p) = .ok d3 off →
    ((slotOf b second).pins = 0 →
      publish (setBasis d3 (bId p) (setSlot b second { slotOf b second with obj := obj })) p second = (st, detail, d4) →
      exec (.basisReplace p) s = completes s p (fun _ => d4) st detail 0) ∧
    ((slotOf b second).pins ≠ 0 → exec (.basisReplace p) s = becomes s (fun _ =>
      keepPost (setBasis d3 (bId p) { setSlot b second { slotOf b second with obj := obj, state := .draining } with
        waiting := some p }) p .basis))) ∧
  (∀ (s : State) (p : Post) (d d1 : Dev), ready s.dev p 0x0411 = true → d = takePost s.dev p → (getBasis d (bId p)).waiting = none →
    dZero p 8 8 = true → dZero p 18 1 = true → dZero p 20 44 = true → basisNamed d p = true → d1 = retireSlots d (bPart p) (bId p) →
    (bothEmpty d1 (bId p) = true → exec (.basisRetire p) s = completes s p (fun d => retireSlots d (bPart p) (bId p)) .ok 0 0) ∧
    (bothEmpty d1 (bId p) = false → exec (.basisRetire p) s = becomes s (fun _ =>
      keepPost (setBasis d1 (bId p) { getBasis d1 (bId p) with waiting := some p }) p .basis))) ∧
  (∀ (s : State) (id : Nat) (b : BasisSt), b = getBasis s.dev id →
    (b.waiting = none → exec (.basisDrainDone id) s = becomes s (fun d => drainSlots d (basisOwner d id) id)) ∧
    (∀ (p : Post) (st : Status) (detail : Nat) (d1 : Dev), b.waiting = some p → opcode p = 0x0410 → dNat p 40 1 = 0 →
      b.s0.state = .draining → b.s0.pins = 0 → (b.s1.state ≠ .draining ∨ b.s1.pins ≠ 0) →
      publish (takePost s.dev p) p false = (st, detail, d1) →
      exec (.basisDrainDone id) s = becomes s (fun _ => complete d1 p st detail 0)) ∧
    (∀ p : Post, b.waiting = some p → opcode p = 0x0411 → bothEmpty (drainSlots s.dev (bPart p) id) id = true →
      exec (.basisDrainDone id) s = becomes s (fun d =>
        complete (setBasis (takePost (drainSlots d (bPart p) id) p) id BasisSt.reset) p .ok 0 0))) ∧
  (∀ (s : State) (p : Post) (d : Dev) (l : KvLayout) (part id : Nat), ready s.dev p 0x0430 = true → d = takePost s.dev p →
    part = dNat p 16 1 → id = dNat p 17 1 →
    (l = ⟨BitVec.ofNat 304 (dNat p 18 38), [], none⟩ → (dNat p 31 1).testBit 7 = false → layoutHead d p l part = true →
      layoutSized l = true → layoutRanges l = true → layoutUsed d part id = false → kvDigest l = false →
      exec (.kvLayout p) s = completes s p (fun d =>
        { dropLayout d part id with layouts := tset (dropLayout d part id).layouts (part * 16 + id) l }) .ok 0 0) ∧
    (dNat p 31 1 = 128 → dZero p 8 8 = true → mayName d (poster s.dev p) part = true → id ≤ 15 → dZero p 18 13 = true →
      dZero p 32 32 = true → (getLayout d part id).isSome = true → layoutUsed d part id = false →
      exec (.kvLayoutRemove p) s = completes s p (fun d => dropLayout d part id) .ok 0 0)) ∧
  (∀ (s : State) (p : Post), ready s.dev p 0x0431 = true → dZero p 8 8 = true → dZero p 18 46 = true →
    mayName (takePost s.dev p) (poster s.dev p) (dNat p 16 1) = true → dNat p 17 1 ≤ 1 →
    exec (.kvPolicy p) s = completes s p (fun d =>
      setPart d (dNat p 16 1) { getPart d (dNat p 16 1) with dropMoored := dNat p 17 1 == 1 }) .ok 0 0) ∧
  (∀ (s : State) (p : Post) (d d1 : Dev) (part id k : Nat) (l : KvLayout) (t : TableSt), ready s.dev p 0x0432 = true →
    d = takePost s.dev p → part = dNat p 16 1 → id = dNat p 17 1 → mayName d (poster s.dev p) part = true → dNat p 18 1 ≤ 1 →
    dZero p 19 1 = true → dZero p 28 36 = true → id ≤ 15 → getLayout d part id = some l →
    (dNat p 18 1 = 0 → dNat p 20 4 = 0 ∧ dNat p 24 4 = 0) →
    (dNat p 18 1 = 1 → 2 ≤ dNat p 20 4 ∧ dNat p 20 4 ≤ 4096 ∧ 0 < dNat p 24 4 ∧ dNat p 24 4 ≤ dNat p 20 4 * kvPage l) →
    makeTable d part id l (dHandle p) (dNat p 18 1 == 1) (dNat p 20 4) (dNat p 24 4) = .ok k d1 → tget d1.tables k = some t →
    exec (.ptCreate p) s = completes s p (fun _ => d1) .ok (handleOf t) 0) ∧
  (∀ (s : State) (p : Post) (d d1 : Dev) (n k k1 : Nat) (t u : TableSt) (es : Tab PtEntry), ready s.dev p 0x0433 = true →
    d = takePost s.dev p → n = dNat p 20 4 → dZero p 16 4 = true → dZero p 24 40 = true → findTable d (dNat p 8 8) = some (k, t) →
    t.dev = (selfDev d).val → mayName d (poster s.dev p) t.part = true → tableWaits d t.request .read = false →
    (n = 0 → exec (.ptFork p) s = completes s p id .ok 0 0) ∧
    (0 < n → t.isRing = false → t.atHost = false → es = t.entries.filter (fun e => decide (e.1 < n)) → es.length = n →
      es.any (fun e => !allDone t.layout e.2 || (!e.2.dropped && ownFrame d e.2 && decide (65535 ≤ shareCount d e.2.frame))) = false →
      es.filter (fun e => e.2.dropped) = [] → forkTable d t n = .ok k1 d1 → tget d1.tables k1 = some u →
      exec (.ptFork p) s = completes s p (fun _ => d1) .ok (handleOf u) 0)) ∧
  (∀ (s : State) (p : Post) (d : Dev) (k : Nat) (t : TableSt), d = takePost s.dev p → findTable d (dNat p 8 8) = some (k, t) →
    t.dev = (selfDev d).val → mayName d (poster s.dev p) t.part = true →
    (ready s.dev p 0x0434 = true → dZero p 16 8 = true → dZero p 28 36 = true → tableWaits d t.request .edit = false →
      truncateOk t (dNat p 24 4) = true →
      exec (.ptTruncate p) s = completes s p (fun d => truncateTable d k (dNat p 24 4)) .ok 0 0) ∧
    (ready s.dev p 0x0435 = true → dZero p 16 48 = true → tableWaits d t.request .destroy = false →
      exec (.ptDestroy p) s = completes s p (fun d => destroyTable d k) .ok 0 0) ∧
    (ready s.dev p 0x0436 = true → dZero p 16 8 = true → dZero p 28 4 = true → dZero p 40 24 = true → dNat p 32 8 % 64 = 0 →
      64 ≤ dNat p 24 4 → dNat p 24 4 % 8 = 0 →
      exec (.ptQuery p) s = completes s p (fun d => hostWrite d (dNat p 32 8) ((tableRecord d t).take (dNat p 24 4))) .ok 0 0))

/-- R319 to R338: memory; R185 to R191: the lift. -/
def Obligations.MemoryAndLift : Prop :=
  (∀ (s : State) (p : Post) (d : Dev) (x : PartSt) (part n pg : Nat), ready s.dev p 0x0460 = true → d = takePost s.dev p →
    part = dNat p 16 1 → x = getPart d part → n = mmCount p → mapHead d p = true → 0 < n → mapState d p x = true →
    regionFits d (8 * n) = true →
    (mmTier p = 1 → (d.pool.isSome = true ∨ t1Charge x + n ≤ t1QuotaOf x) →
      (if mmLowest p then freeRun d n 0 devicePages else some (mmTarget p / pageSize)) = some pg →
      exec (.memMap p) s = completes s p (fun d => mapT1 d p part pg) .ok (pg * pageSize) 0) ∧
    (mmTier p = 2 → x.grants2.length + n ≤ t2QuotaOf x →
      exec (.memMap p) s = completes s p (fun d => setPart d part { x with grants2 := grantPages p x.grants2 }) .ok 0 0) ∧
    (mmTier p = 3 → x.grants3.length + n ≤ t3QuotaOf x →
      exec (.memMap p) s = completes s p (fun d => setPart d part { x with grants3 := grantPages p x.grants3 }) .ok 0 0)) ∧
  (∀ (s : State) (p : Post) (d : Dev) (x : PartSt) (part : Nat) (pages : List Nat), ready s.dev p 0x0461 = true → d = takePost s.dev p →
    part = dNat p 16 1 → x = getPart d part → (poster s.dev p).val = 0 → dZero p 8 8 = true → part ≤ 63 → dZero p 18 2 = true →
    0 < mmCount p → mmCount p ≤ 65536 → dZero p 24 8 = true → mmPas p % pageSize = 0 → mmTarget p % pageSize = 0 →
    dZero p 48 16 = true → pages = mmPages (if mmTier p = 1 then mmPas p else mmTarget p) (mmCount p) →
    (mmTier p = 1 → pages.all (fun pg => (tget x.maps pg).isSome) = true →
      exec (.memUnmap p) s = completes s p (fun d => setPart (((x.maps.filter (fun m => pages.contains m.1)).map (fun m => m.2.page)).foldl
        (fun d pg => clearRun d pg 1) d) part { x with maps := x.maps.filter (fun m => !pages.contains m.1) }) .ok 0 0) ∧
    (mmTier p = 2 → mmPas p = 0 → pages.all (fun pg => (tget x.grants2 pg).isSome) = true →
      exec (.memUnmap p) s = completes s p (fun d =>
        setPart d part { x with grants2 := x.grants2.filter (fun m => !pages.contains m.1) }) .ok 0 0) ∧
    (mmTier p = 3 → mmPas p = 0 → pages.all (fun pg => (tget x.grants3 pg).isSome) = true →
      exec (.memUnmap p) s = completes s p (fun d =>
        setPart d part { x with grants3 := x.grants3.filter (fun m => !pages.contains m.1) }) .ok 0 0)) ∧
  (∀ (s : State) (p : Post) (d : Dev), ready s.dev p 0x0462 = true → d = takePost s.dev p → (poster s.dev p).val = 0 →
    dZero p 8 8 = true → dZero p 17 3 = true → dZero p 24 8 = true → dZero p 40 24 = true → dNat p 32 8 % pageSize = 0 →
    (dNat p 16 1 = 1 → 0 < dNat p 20 4 → dNat p 20 4 ≤ 16777215 → d.pool = none →
      exec (.memModePool p) s = completes s p (fun d => { d with pool := some (dNat p 32 8 / pageSize, dNat p 20 4) }) .ok 0 0) ∧
    (dNat p 16 1 = 0 → dNat p 20 4 = 0 → dZero p 32 8 = true → d.pool.isSome = true → overQuota d = none → spillInUse d = false →
      exec (.memModeNormal p) s = completes s p (fun d => { d with pool := none }) .ok 0 0)) ∧
  (∀ (s : State) (p : Post) (d : Dev) (x : PartSt) (part : Nat), ready s.dev p 0x0463 = true → d = takePost s.dev p → part = dNat p 16 1 →
    x = getPart d part → dZero p 8 8 = true → dNat p 17 1 ≤ 1 → (dNat p 17 1 = 0 → dNat p 18 1 = 0) → dZero p 19 45 = true →
    mayName d (poster s.dev p) part = true → (dNat p 17 1 = 1 → xtsSlotOk d x.owner (dNat p 18 1) = true) → x.heap = [] →
    x.spill = [] → exec (.memHeap p) s = completes s p (fun d =>
      setPart d part { x with heapKey := if dNat p 17 1 = 1 then some (dNat p 18 1) else none }) .ok 0 0) ∧
  (∀ (s : State) (k : Fin 12) (line : Nat) (d1 : Dev), hbmEn s.dev = true → awake s.dev = true → s.dev.boot.clkFenced.getLsbD 3 = false →
    line = stackOffset k.val (tgetD s.dev.dredge.hbmPos k.val 0 * 64) → s.dev.hbmBad.contains line = false →
    d1 = { s.dev with dredge := { s.dev.dredge with
      hbmPos := (dredgeNext s.dev.dredge.hbmPos s.dev.dredge.hbmPasses k.val stackLines).1
      hbmPasses := (dredgeNext s.dev.dredge.hbmPos s.dev.dredge.hbmPasses k.val stackLines).2 } } →
    exec (.hbmDredgeTick k .clean) s = becomes s (fun _ => d1) ∧
    exec (.hbmDredgeTick k .corrected) s = becomes s (fun _ => charge d1 (partOfStack k.val) wHbmSym 1) ∧
    exec (.hbmDredgeTick k .uncorrectable) s = becomes s (fun d =>
      raise { d1 with hbmBad := line :: d.hbmBad } 0x0303 (unitOf 4 k.val) (lineDetail 1 0 line))) ∧
  (∀ (s : State) (t : TileId) (d1 : Dev), tsEn s.dev = true → awake s.dev = true →
    s.dev.parts.any (fun e => e.2.state != .free && (tilesOf e.2).testBit t.val) = true → tileFenced s.dev t.val = false →
    s.dev.tsBad = [] → d1 = { s.dev with dredge := { s.dev.dredge with
      tsPos := (dredgeNext s.dev.dredge.tsPos s.dev.dredge.tsPasses t.val sliceRows).1
      tsPasses := (dredgeNext s.dev.dredge.tsPos s.dev.dredge.tsPasses t.val sliceRows).2 } } →
    exec (.tsDredgeTick t .clean) s = becomes s (fun _ => d1) ∧
    exec (.tsDredgeTick t .corrected) s = becomes s (fun d =>
      tsCorrected d1 (physOf d t.val) (tgetD d.dredge.tsPos t.val 0))) ∧
  (∀ (s : State) (p : Post) (d : Dev) (x : PartSt) (part n : Nat) (es : List (LayerEnt × Bool)), ready s.dev p 0x0420 = true →
    d = takePost s.dev p → part = dNat p 16 1 → x = getPart d part → n = dNat p 20 4 → partBusy d part = false →
    dZero p 8 8 = true → mayName d (poster s.dev p) part = true → dNat p 18 1 ≤ 1 → dZero p 19 1 = true → dZero p 56 8 = true →
    dNat p 32 8 % 4096 = 0 → 0 < dNat p 17 1 → dNat p 17 1 ≤ 8 → dNat p 24 4 < n → n ≤ 65536 → 0 < dNat p 28 4 →
    dNat p 28 4 ≤ 1000000 → 0 < dNat p 40 4 → dNat p 40 4 % 4096 = 0 → x.state = .active → x.lift.run = false →
    rangeOk d x 0 (dNat p 32 8) (dNat p 17 1 * dNat p 40 4) true true = true → rangeOk d x 1 (dNat p 48 8) (32 * n) false true = true →
    dNat p 44 4 < ringCount x.owner → (getRing d x.owner (dNat p 44 4)).enable = true → (getRing d x.owner (dNat p 44 4)).kind = 0 →
    badIn d x 1 (dNat p 48 8) (32 * n) = [] →
    es = (List.range n).map (fun i => layerEnt (tierBytes d x [] 1 (dNat p 48 8 + 32 * i) 32)) →
    es.any (fun e => e.1.uses == 0) = false → es.all (fun e => e.2 && layerOk d x (dNat p 40 4) e.1) = true →
    exec (.liftStart p) s = completes s p (fun d => liftNext (setLift d part { LiftSt.reset with
      run := true, depth := dNat p 17 1, loop := (dNat p 18 1).testBit 0, first := dNat p 24 4, limit := dNat p 28 4
      slotBase := dNat p 32 8, slotSize := dNat p 40 4, feedRing := dNat p 44 4, layers := es.map (·.1) }) part) .ok 0 0) ∧
  (∀ (s : State) (p : Post) (d : Dev) (part : Nat), ready s.dev p 0x0421 = true → d = takePost s.dev p → part = dNat p 16 1 →
    partBusy d part = false → dZero p 8 8 = true → mayName d (poster s.dev p) part = true → dZero p 17 47 = true →
    (getPart d part).lift.loads.any (fun l => !l.readers.isEmpty) = false →
    exec (.liftStop p) s = completes s p (fun d => setLift (dropLoads d part) part LiftSt.reset) .ok 0 0) ∧
  (∀ (s : State) (part : PartId) (x : PartSt), x = getPart s.dev part.val → partHolds x = false →
    (x.lift.halted = false → (lateReaders x.lift).isEmpty = false →
      exec (.liftFenceTimeout part) s = becomes s (fun d => liftHalt d part.val (fun _ _ => none))) ∧
    (∀ q, inFlight x.lift = some q →
      (∀ (lost : Bool) (addr : W64), exec (.liftLoadFailure part lost addr) s = becomes s (fun d =>
        loadFail d part.val q (if lost then .targetLost else .memUncorrectable) addr.toNat)) ∧
      (x.lift.podLeft = 0 → exec (.liftLoadComplete part) s = becomes s (fun d =>
        refetchLoads (loadDone d part.val q) part.val))))

/-- R163 to R184: the life of a partition. -/
def Obligations.PartitionLife : Prop :=
  (∀ (s : State) (p : Post) (d : Dev) (fl : Nat), ready s.dev p 0x0400 = true → d = takePost s.dev p → partBusy d (ptNo p) = false →
    fl = dNat p 19 1 → createHead d p = true → 0 < pcMask p → 0 < pcCount p → 0 < dNat p 20 4 → (fl.testBit 1 = true → 0 < dNat p 24 4) →
    (fl.testBit 2 = true → 0 < dNat p 28 4) →
    (maskList 64 (pcMask p)).any (fun t => tileFenced d t || tileTaken d (ptNo p) t) = false → dNat p 20 4 ≤ pagesLeft d →
    exec (.partCreate p) s = completes s p (fun d => setPart (clearSlices d (maskList 64 (pcMask p))) (ptNo p) { PartSt.reset with
      state := .active, role := Tri.same (BitVec.ofNat 2 (dNat p 18 1)), tiles := Tri.same (BitVec.ofNat 64 (pcMask p))
      t1Quota := Tri.same (BitVec.ofNat 19 (dNat p 20 4)), t2Quota := Tri.same (BitVec.ofNat 25 (dNat p 24 4))
      t3Quota := Tri.same (BitVec.ofNat 24 (dNat p 28 4)), basisBase := Tri.same (BitVec.ofNat 14 (pcBase p))
      basisCount := Tri.same (BitVec.ofNat 15 (pcCount p)), owner := fnId (ptArg p), roleByOwner := fl.testBit 0
      t2En := fl.testBit 1, t3En := fl.testBit 2 }) .ok 0 0) ∧
  (∀ (s : State) (p : Post) (d : Dev) (x : PartSt), d = takePost s.dev p → partBusy d (ptNo p) = false → x = getPart d (ptNo p) →
    ptNo p ≤ 63 → dZero p 8 8 = true → (x.state = .active ∨ x.state = .suspended) → holdsState d (ptNo p) = false →
    linkSource d (ptNo p) = false →
    (ready s.dev p 0x0401 = true → (poster s.dev p).val = 0 → lockPart d = false → dZero p 17 47 = true → hasTasks d (ptNo p) = false →
      x.lift.run = false → exec (.partDestroy p) s = completes s p (fun d => freePart d (ptNo p)) .ok 0 0) ∧
    (ready s.dev p 0x0402 = true → dZero p 18 46 = true → 0 < ptArg p → ptArg p ≤ 3 →
      ((poster s.dev p).val = 0 ∨ (x.owner = poster s.dev p ∧ x.roleByOwner = true)) →
      exec (.partRole p) s = completes s p (fun d =>
        setPart d (ptNo p) { x with role := Tri.same (BitVec.ofNat 2 (ptArg p)) }) .ok 0 0)) ∧
  (∀ (s : State) (p : Post) (d : Dev) (x : PartSt), d = takePost s.dev p → partBusy d (ptNo p) = false → x = getPart d (ptNo p) →
    suspendFields p = true → mayName d (poster s.dev p) (ptNo p) = true → 0 < dNat p 48 4 → dNat p 48 4 ≤ 2 ^ 20 → dNat p 24 4 ≤ 4096 →
    x.state = .active → rangeOk d x 1 (dNat p 40 8) (4096 * dNat p 48 4) true true = true → saveMapOk p x = true →
    (ready s.dev p 0x0403 = true → ptArg p = 0 → exec (.partSuspend p) s = starts s p (fun d => setPart d (ptNo p) { x with
      state := .suspending
      suspend := some { post := p, map := saveMap p, saveAddr := dNat p 40 8, saveLen := 4096 * dNat p 48 4, incoming := none } })) ∧
    (ready s.dev p 0x0405 = true → partBusy d (ptArg p) = false → mayName d (poster s.dev p) (ptArg p) = true →
      (getPart d (ptArg p)).state = .suspended →
      (tileList (getPart d (ptArg p))).any (fun t => tileTaken d (ptNo p) t && !(tilesOf x).testBit t) = false →
      exec (.partSwitch p) s = starts s p (fun d => setPart d (ptNo p) { x with
        state := .suspending
        suspend := some { post := p, map := saveMap p, saveAddr := dNat p 40 8, saveLen := 4096 * dNat p 48 4
                          incoming := some (partId (ptArg p)) } }))) ∧
  (∀ (s : State) (p : Post) (d : Dev), ready s.dev p 0x0404 = true → d = takePost s.dev p → partBusy d (ptNo p) = false →
    dZero p 8 8 = true → dZero p 17 47 = true → mayName d (poster s.dev p) (ptNo p) = true → (getPart d (ptNo p)).state = .suspended →
    tileBarred d (ptNo p) = none → exec (.partResume p) s = starts s p (fun d => startResume d (ptNo p) p)) ∧
  (∀ (s : State) (part : PartId) (x : PartSt) (u : Suspend) (rs : List (Nat × Nat)) (need : Nat) (d2 : Dev), x = getPart s.dev part.val →
    x.suspend = some u → saveNeeds s.dev part.val u = (rs, need) →
    d2 = setPart (clearSlices (tierWrite s.dev x 1 u.saveAddr ((List.range need).map (Config.saveByte part.val))) (tileList x)) part.val
      { x with state := .suspended, suspend := none, saved := some { addr := u.saveAddr, bytes := need
                                                                     cells := s.dev.ts.filter (fun c => rs.any (fun r => decide (r.1 ≤ c.1) && decide (c.1 < r.1 + r.2))) } } →
    (u.saveLen < need → exec (.partSaveComplete part) s = becomes s (fun d =>
      complete (setPart d part.val { x with state := .active, suspend := none }) u.post .quotaExceeded need 0)) ∧
    (need ≤ u.saveLen → u.incoming = none → exec (.partSaveComplete part) s = becomes s (fun _ => complete d2 u.post .ok need 0)) ∧
    (∀ i, need ≤ u.saveLen → u.incoming = some i → tileBarred d2 i.val = none →
      exec (.partSaveComplete part) s = becomes s (fun _ => startResume d2 i.val u.post))) ∧
  (∀ (s : State) (part : PartId), exec (.passAbandonTimeout part) s = becomes s id) ∧
  (∀ (s : State) (part : PartId) (x : PartSt) (p : Post) (v : Saved) (d2 : Dev), x = getPart s.dev part.val → x.resuming = some p →
    x.saved = some v → badIn s.dev x 1 v.addr v.bytes = [] → opcode p = 0x0404 →
    d2 = retryFar (startHeld (liftRefetch (setPart { s.dev with ts := v.cells.foldl (fun m c => memPut m c.1 c.2) s.dev.ts } part.val
      { x with state := .active, resuming := none, saved := none }) part.val) part.val) →
    exec (.partRestoreComplete part) s = becomes s (fun _ => complete d2 p .ok 0 0)) ∧
  (∀ (s : State) (p : Post) (d : Dev) (l : LinkSt), ready s.dev p 0x0408 = true → d = takePost s.dev p → partBusy d (coSrc p) = false →
    composeHead d p = true →
    ((coFlags p).testBit 1 = false → 0 < coCount p → coCount p ≤ 256 →
      roleOf (getPart d (coSrc p)) = (if coLink p = 2 then 2 else 1) →
      (∀ q ∈ (List.range (min (coCount p) 256)).map (fun i => coBase p + i), ∃ y, getQp d q = some y ∧ y.owner = poster s.dev p ∧
        y.state = .connected) → farPairs d (coBase p) (coCount p) = [] →
      exec (.compose p) s = completes s p (fun d => bindLink d (coComp p) (coLink p)
        { src := partId (coSrc p), weir := (coFlags p).testBit 0, qpBase := coBase p, qpCount := coCount p }) .ok 0 0) ∧
    ((coFlags p).testBit 1 = true → getLink d (coComp p) (coLink p) = some l → l.src.val = coSrc p →
      exec (.composeRemove p) s = completes s p (fun d =>
        { d with links := tdel d.links (linkKey (coComp p) (coLink p)) }) .ok 0 0)) ∧
  (∀ (s : State) (comp : Byte) (link : Fin 3) (c : ComposeSt) (qp : BitVec 24), waitingCompose s.dev comp.toNat link.val = some c →
    ((c.missing.filter (fun q => q != qp.toNat)).isEmpty = true → exec (.composePeerConfirm comp link qp) s = becomes s (fun d =>
      complete (bindLink { d with composing := d.composing.erase c } c.comp c.link c.next) c.post .ok 0 0)) ∧
    ((c.missing.filter (fun q => q != qp.toNat)).isEmpty = false → exec (.composePeerConfirm comp link qp) s = becomes s (fun d =>
      { d with composing := d.composing.map (fun e => if e = c then { c with missing := c.missing.filter (fun q => q != qp.toNat) } else e) })) ∧
    exec (.composeConfirmTimeout comp link) s = becomes s (fun d =>
      complete { d with composing := d.composing.erase c } c.post .remoteTimeout 0 0))

/-- R250, R259, R265 to R272, Table 7.13: the home. -/
def Obligations.HomeAnswersEachMessage : Prop :=
  ∀ (s : State) (h : LockHdr) (r : HomeRec), keeperRuns s.dev = true → h.home.toNat = selfSys s.dev → getHome s.dev h.request = some r →
    exec (.homeQuery h) s = kept s (fun d => homeTell d h.request r.epoch r.xfer 0 [h.sender.toNat]
      (.homeReply ⟨homeCode r.state, BitVec.ofNat 64 r.epoch, r.owner, r.pages, BitVec.ofNat 32 r.xfer⟩)) ∧
    (∀ (pos : Nat) (toks : List W32), r.state ≠ .sunk → h.epoch.toNat = r.epoch → h.sender = r.owner.dev → pos ≤ r.history.length →
      exec (.token h pos toks) s = kept s (fun d =>
        homeTell (setHome d h.request { r with history := r.history.take pos ++ toks }) h.request r.epoch 0 0 [h.sender.toNat]
          (.tokenAck (r.history.take pos ++ toks).length))) ∧
    (∀ pay : FillOpenPay, h.party = 0 → r.state = .idle → h.epoch.toNat = r.epoch → h.sender = r.owner.dev →
      h.senderPart.toNat = r.owner.part.val →
      exec (.fillOpen h pay) s = kept s (fun d => pageOpen (dstOpen (setHome d h.request { homeClear r with
        state := .fill, xfer := h.xfer.toNat, dstOwner := pay.dstOwner, dstPages := pay.dstPages }) h pay) h pay)) ∧
    (∀ (cs : List Nat) (g : BitVec 256), h.party = 0 → r.state = .fill → homeMatch r h = true → r.refused = none →
      exec (.seal h cs g) s = kept s (fun d => setHome d h.request { r with state := .gate })) ∧
    (∀ (handle : W64) (r1 : HomeRec), r.state = .gate → homeMatch r h = true →
      r1 = { r with accepts := h.party.toNat :: r.accepts.filter (· != h.party.toNat), handle := if h.party.toNat = 3 then handle else r.handle } →
      ((homeNeeds r).all (fun q => r1.accepts.contains (q + 2)) = true →
        exec (.accept h handle) s = kept s (fun d => homeCommit d h.request r1)) ∧
      ((homeNeeds r).all (fun q => r1.accepts.contains (q + 2)) = false →
        exec (.accept h handle) s = kept s (fun d => setHome d h.request r1))) ∧
    (r.state = .gate → homeMatch r h = true → 2 ≤ h.party.toNat →
      exec (.refuse h) s = kept s (fun d => originRefuse (srcRefuse (homeAbort d h.request r h.reason.toNat) h) h)) ∧
    (r.state = .drain → h.party.toNat ≠ 4 → h.xfer.toNat = r.xfer → h.epoch.toNat + 1 = r.epoch →
      exec (.drainDone h) s = kept s (fun d =>
        homeDrained (setHome d h.request { r with drained := h.party.toNat :: r.drained }) h.request)) ∧
    (r.state = .idle → h.party.toNat ≠ 4 → exec (.release h) s = kept s (fun d =>
      homeTell (homeDrop d h.request) h.request r.epoch r.xfer h.reason.toNat
        [holderDev r.owner, holderDev r.pages, r.originDev.toNat] .release)) ∧
    (∀ (dest : Bool) (owner pages : Holder) (parties : List (BitVec 14)), r.state ≠ .sunk →
      exec (.resolve h dest owner pages parties) s = kept s (fun d =>
        homeTell (setHome d h.request { homeClear r with epoch := h.epoch.toNat + 2, owner := owner, pages := pages }) h.request
          (h.epoch.toNat + 2) r.xfer 0 (h.sender.toNat :: parties.map (·.toNat) ++ homeParties r) (.resolved owner pages))) ∧
    (r.state = .gate → r.srcLost = false →
      exec (.gateTimerExpiry h.request) s = kept s (fun d => homeAbort d h.request r rTimeout)) ∧
    (r.state = .drain → exec (.drainResendTimeout h.request) s = kept s (fun d =>
      homeTell d h.request r.epoch r.xfer 0
        (((homeNeeds r).filter (fun p => !r.drained.contains p)).map (fun p => holderDev (if p = 0 then r.oldOwner else r.oldPages)))
        (.commit r.owner r.pages r.handle)))

/-- R250, R260 to R273, Table 7.14: the parties of a transfer. -/
def Obligations.PartiesAnswerEachMessage : Prop :=
  (∀ (s : State) (h : LockHdr) (b : Barge) (x : SrcSt), keeperRuns s.dev = true → getBarge s.dev h.request = some b → b.src = some x →
    (∀ x1 : SrcSt, x.frozen = false → h.xfer.toNat = x.xfer → h.epoch.toNat = b.epoch → 2 ≤ h.party.toNat → allReady x = false →
      x1 = { x with ready := h.party.toNat :: x.ready } →
      (allReady x1 = true → exec (.ready h) s = kept s (fun d => pageReady (lockTell
        (srcStream (setBarge d { b with src := some x1 }) b x1) (ownerHdr d b x.xfer 0) .ready (farPageDev d b x)) h)) ∧
      (allReady x1 = false → exec (.ready h) s = kept s (fun d => pageReady (setBarge d { b with src := some x1 }) h))) ∧
    (∀ (owner pages : Holder) (handle : W64) (d1 : Dev), x.frozen = true → h.xfer.toNat = x.xfer → h.epoch.toNat = b.epoch + 1 →
      b.state ≠ .adrift →
      d1 = orphanPages (pageCommit (srcCommit s.dev b x h.epoch.toNat pages handle) h) h.request pages →
      d1.dsts.any (fun x => x.hdr.request == h.request && x.party == 2) = false →
      exec (.commit h owner pages handle) s = kept s (fun _ => originCommit (dstCommit d1 h pages handle) h owner pages)) ∧
    (srcMatch b x h = true → h.party.toNat = 4 → exec (.abort h) s = kept s (fun d =>
      originAbort (homeAbortIn (dstAbort (pageAbort (afterFirst (some b) (srcRestore d b x) h.request) h) h) h) h)) ∧
    (∀ a : HomeAnswer, getReq s.dev h.request = none → s.dev.dsts = [] → x.querying = true → b.state ≠ .adrift →
      (a.state = 1 ∨ a.state = 2 ∨ a.state = 3) → a.xfer.toNat = x.xfer → a.epoch.toNat ≠ b.epoch + 1 →
      ∀ d1 : Dev, d1 = pageReply (afterFirst (some b) (setBarge s.dev { b with src := some { x with querying := false } }) h.request) h a →
      d1.dsts = [] → exec (.homeReply h a) s = kept s (fun _ => dstReply d1 h a))) ∧
  (∀ (s : State) (h : LockHdr) (sec : SecNo) (chunk : Nat) (c : FillSec) (x x1 : DstSt), keeperRuns s.dev = true →
    s.dev.dsts.find? (fun x => dstMatch x h && dstCovers x sec.val) = some x → x.verified = false →
    x1 = { x with chunks := x.chunks.filter (fun e => !(e.1 == sec.val && e.2.1 == chunk)) ++ [(sec.val, chunk, c)], querying := false } →
    exec (.fillData h sec chunk c) s = kept s (fun d => dstCheck (dstSet d x1) x1)) ∧
  (∀ (s : State) (h : LockHdr) (r r1 : ReqSt) (owner pages : Holder), keeperRuns s.dev = true → getReq s.dev h.request = some r →
    (getBarge s.dev h.request = none → tget s.dev.pageSrcs h.request.toNat = none → s.dev.dsts = [] → r.phase = .live →
      h.epoch.toNat = r.epoch + 2 →
      r1 = { r with epoch := r.epoch + 2, adrift := none, dstOwner := none, dstPages := none, owner := owner, pages := pages } →
      exec (.resolved h owner pages) s = kept s (fun d => endOps (setReq d h.request r1) h.request 0x0441 .ok r1.epoch 0)) ∧
    (∀ detail : W64, r.cancelled = none → exec (.loss h detail) s = kept s (fun d =>
      finalReq (endAsks d h.request .stateLost rLost) h.request kLost .stateLost detail.toNat))) ∧
  (∀ (s : State) (h : LockHdr) (b : Barge) (len : Nat), keeperRuns s.dev = true → getBarge s.dev h.request = some b →
    h.epoch.toNat = b.epoch → b.state ≠ .adrift →
    (b.unacked = [] → exec (.tokenAck h len) s = kept s (fun d => setBarge d { b with homeLen := len })) ∧
    (b.unacked ≠ [] → exec (.tokenAck h len) s = kept s (fun d => delivered d h.request))) ∧
  (∀ (s : State) (req : W64) (b : Barge), keeperRuns s.dev = true → getBarge s.dev req = some b →
    (b.unacked ≠ [] → b.homeLost = false → exec (.tokenAckTimeout req) s = kept s (fun d =>
      delivered (setBarge d { b with homeLost := true }) req)) ∧
    (∀ x : SrcSt, b.src = some x →
      (∀ x1 : SrcSt, x.frozen = false → allReady x = true → x.sealPend = false → x1 = { x with rounds := x.rounds + 1 } →
        (8 ≤ x1.rounds ∨ srcDirty s.dev b x1 ≤ 4194304) →
        (b.inStep = true → exec (.fillRoundEnd req) s = kept s (fun d => setBarge d { b with src := some { x1 with sealPend := true } })) ∧
        (b.inStep = false → exec (.fillRoundEnd req) s = kept s (fun d => doSeal d b x1))) ∧
      (x.frozen = false → b.state ≠ .adrift → exec (.fillReadyTimeout req) s = kept s (fun d =>
        afterFirst (some b) (srcAbort d b x rTimeout) req)) ∧
      (∀ d1 : Dev, x.frozen = true → x.querying = false → b.state ≠ .adrift →
        d1 = lockSend (setBarge s.dev { b with src := some { x with querying := true } }) (ownerHdr s.dev b x.xfer 0) .homeQuery b.hdr.home.toNat →
        tget d1.pageSrcs req.toNat = none → exec (.partyQueryTimeout req) s = kept s (fun _ => dstQuery d1 req)))) ∧
  (∀ (s : State) (req : W64), keeperRuns s.dev = true →
    (getReq s.dev req = none → exec (.queryReplyTimeout req) s = kept s (fun d => goAdrift d req)) ∧
    (∀ r : ReqSt, getReq s.dev req = some r →
      (r.phase = .asking → exec (.queryReplyTimeout req) s = kept s (fun d =>
        finalReq d req kEnded .targetLost (r.home.toNat % 64))) ∧
      (r.phase ≠ .asking → exec (.queryReplyTimeout req) s = kept s (fun d =>
        endOps (goAdrift d req) req 0x0441 .remoteTimeout 0 0))))

/-- R256, R257, R272, R274, R275, R279, R281, R289, R298, R304, R306: the descriptors of locks and serving. That BARGE_RELEASE ends a
live request with CANCELLED is the model's choice (log 54). -/
def Obligations.LockAndServingDescriptors : Prop :=
  (∀ (s : State) (p : Post) (d : Dev) (r : ReqSt), keeperRuns s.dev = true → d = takePost s.dev p → ctlReq d p = some r →
    (ready s.dev p 0x0440 = true → moveFields p r = false → moveKnown d r p = false →
      exec (.lockMove p) s = kept s (fun d => passOn (takePost d p) (dHandle p) r p [])) ∧
    (ready s.dev p 0x0440 = true → (moveFields p r = true ∨ moveKnown d r p = true) →
      exec (.lockMove p) s = kept s (fun d => complete (takePost d p) p .badDescriptor 0 0)) ∧
    (∀ (v : W64) (own pgs : Holder) (parties : List (BitVec 14)) (r1 : ReqSt), ready s.dev p 0x0441 = true → dNat p 16 1 ≤ 1 →
      dZero p 17 47 = true → r.adrift = some v →
      (dNat p 16 1 = 0 → v.getLsbD 32 = true ∧ own = r.owner ∧ pgs = r.pages) →
      (dNat p 16 1 = 1 → v.getLsbD 33 = true ∧ own = r.dstOwner.getD r.owner ∧ pgs = r.dstPages.getD r.pages) →
      parties = ([some r.owner, some r.pages, r.dstOwner, r.dstPages].filterMap id).map (fun x => x.dev) →
      (canReach d (holderDev own) = false → exec (.lockResolve p) s = kept s (fun d => complete (takePost d p) p .targetLost 0 0)) ∧
      (canReach d (holderDev own) = true → canReach d (holderDev pgs) = true →
        r1 = { r with home := sysIx (homeSys d (dHandle p)), asks := r.asks ++ [p] } →
        exec (.lockResolve p) s = kept s (fun d => lockSend (setReq (takePost d p) (dHandle p) r1)
          (lockHdr (takePost d p) (dHandle p) r.epoch 0 0 0xFF 5 r1.home) (.resolve (dNat p 16 1 == 1) own pgs parties) r1.home.toNat))) ∧
    (ready s.dev p 0x0442 = true → dZero p 16 24 = true → dZero p 48 16 = true → dNat p 40 8 % 64 = 0 →
      canReach d r.home.toNat = true → exec (.bargeQuery p) s = kept s (fun d =>
        complete (hostWrite (takePost d p) (dNat p 40 8) (queryRecord (takePost d p) (dHandle p) r)) p .ok 0 0)) ∧
    (∀ (b : Barge) (r1 : ReqSt) (len : Nat), ready s.dev p 0x0443 = true → (poster s.dev p).val = 0 → dZero p 16 48 = true →
      r.adrift = none → canReach d r.home.toNat = false → homeRefusal d (dHandle p) = none → getBarge d (dHandle p) = some b →
      homeSys d (dHandle p) = selfSys d → len = b.history.length + b.hdr.tokensLeft → homeFull d (dHandle p) len = false →
      r1 = { r with home := sysIx (selfSys d) } → exec (.bargeRehome p) s = kept s (fun d =>
        complete (toOwner (homeEnter (setReq (takePost d p) (dHandle p) r1) (dHandle p)
          (newHome r.epoch r.owner r.pages b.history len (sysIx (selfSys (takePost d p))) r.fn)) (dHandle p) r1 (.order p.desc []) 0)
          p .ok 0 0)) ∧
    (ready s.dev p 0x0502 = true → dNat p 16 1 ≤ 2 → dZero p 17 7 = true → dZero p 28 36 = true → dNat p 24 4 ≠ 0 → r.adrift = none →
      exec (.requestMoor p) s = kept s (fun d => passOn (takePost d p) (dHandle p) r p [])) ∧
    (ready s.dev p 0x0503 = true → resumeFields p = false →
      (dNat p 32 4 = 0 → dNat p 24 4 = 0 → (dNat p 17 1).testBit 0 = false →
        exec (.requestResume p) s = kept s (fun d => complete (takePost d p) p .ok 0 0)) ∧
      (∀ bs : List Byte, 0 < dNat p 32 4 → r.historyLen + dNat p 32 4 + dNat p 24 4 ≤ 16777216 → r.adrift = none →
        resumeRoom d (dHandle p) (dNat p 32 4 + dNat p 24 4) = true → bs = memRead d.host (dNat p 40 8) (4 * dNat p 32 4) →
        exec (.requestResume p) s = kept s (fun d => passOn (takePost d p) (dHandle p) r { p with arg := bs }
          ((List.range (dNat p 32 4)).map (fun i => BitVec.ofNat 32 (leAt bs (4 * i) 4))))))) ∧
  (∀ (s : State) (p : Post) (d : Dev), keeperRuns s.dev = true → d = takePost s.dev p →
    (∀ r : ReqSt, ready s.dev p 0x0444 = true → (poster s.dev p).val = 0 → dZero p 16 48 = true → getReq d (dHandle p) = some r →
      r.cancelled = none → exec (.bargeRelease p) s = kept s (fun d => complete (finalReq (endAsks
        (lockSend (takePost d p) (lockHdr (takePost d p) (dHandle p) r.epoch 0 rCancel 0xFF 5 r.home) .release r.home.toNat)
        (dHandle p) .cancelled rCancel) (dHandle p) kEnded .cancelled 0) p .ok 0 0)) ∧
    (ready s.dev p 0x0500 = true → submitBad d (poster s.dev p) p = none →
      ((rqPrompt p = 0 ∨ rqMax p = 0) → exec (.requestSubmit p) s = kept s (fun d =>
        complete { takePost d p with ended := (poster s.dev p, rqId p) :: (takePost d p).ended.filter (fun e => e != (poster s.dev p, rqId p)) }
          p .ok 0 earlyExtra)) ∧
      (∀ (f : Fn) (ring ix : Nat) (part : PartId) (c : ClassCfg), 0 < rqPrompt p → 0 < rqMax p → d.requests.length < 1048576 →
        getBudget d (poster s.dev p) = none → homeRefusal d (rqId p) = none → getReq d (rqId p) = none →
        homeIx d (rqId p) = (selfDev d).val → getHome d (rqId p) = none → p.src = .ring f ring ix →
        compPart d (poster s.dev p) (rqComp p) = some part → getClass d (poster s.dev p) (rqClass p) = some c →
        exec (.requestSubmit p) s = kept s (fun d =>
          enterHome (setReq { takePost d p with ended := (takePost d p).ended.filter (fun e => e != (poster s.dev p, rqId p)) } (rqId p)
            (newReq (takePost d p) p (poster s.dev p) ring part c)) (rqId p)))) ∧
    (ready s.dev p 0x0501 = true → dZero p 16 48 = true →
      (∀ r : ReqSt, getReq d (dHandle p) = some r → r.fn = poster s.dev p →
        (r.cancelled = none → exec (.requestCancel p) s = kept s (fun d =>
          complete (cancelReq (takePost d p) (dHandle p) rCancel) p .ok 0 0)) ∧
        (r.cancelled ≠ none → exec (.requestCancel p) s = kept s (fun d => complete (takePost d p) p .ok 1 0))) ∧
      (getReq d (dHandle p) = none → d.ended.contains (poster s.dev p, dHandle p) = true →
        exec (.requestCancel p) s = kept s (fun d => complete (takePost d p) p .ok 1 0))) ∧
    (∀ (f : Nat) (old nb : Budget), ready s.dev p 0x0505 = true → (poster s.dev p).val = 0 → dZero p 8 8 = true → f = dNat p 16 1 → f ≤ 63 →
      dZero p 28 36 = true →
      old = tgetD d.budgets f { metered := false, weight := 0, window := 0, limit := 0, used := 0, reserved := 0 } →
      (dNat p 17 1 = 0 → exec (.budgetSet p) s = kept s (fun d => complete
        (grantLeases { takePost d p with budgets := tset (takePost d p).budgets f { old with metered := false } } (fnId f)) p .ok 0 0)) ∧
      (dNat p 17 1 = 1 → dNat p 24 4 ≠ 0 → 10000 ≤ dNat p 20 4 → dNat p 20 4 ≤ 10000000 →
        nb = { metered := true, weight := dNat p 18 2, window := dNat p 20 4, limit := dNat p 24 4, used := 0, reserved := old.reserved } →
        exec (.budgetSet p) s = kept s (fun d => complete
          (grantLeases { takePost d p with budgets := tset (takePost d p).budgets f nb } (fnId f)) p .ok 0 0))))

/-- R282, R283, R286, R290 to R298, R302, R305, R307: origin, owner and the timers of serving. -/
def Obligations.ServingMessagesAndTimers : Prop :=
  (∀ (s : State) (h : LockHdr) (r : ReqSt), keeperRuns s.dev = true → getReq s.dev h.request = some r → r.phase = .live →
    h.epoch.toNat = r.epoch → r.cancelled = none →
    (∀ (recs : List OutRec) (len : Nat),
      (len ≤ r.historyLen + recs.length → exec (.output h recs len) s = kept s (fun d =>
        emitRecs (setReq d h.request { r with historyLen := len }) h.request recs)) ∧
      (r.historyLen + recs.length < len → exec (.output h recs len) s = kept s (fun d =>
        emitRecs (chargePositions (setReq d h.request { r with historyLen := len }) h.request (len - r.historyLen - recs.length)) h.request recs))) ∧
    (∀ (n : Nat) (d1 : Dev), 0 < n → d1 = setReq s.dev h.request { r with leaseAsk := n } →
      (budgetFits d1 r.fn (256 * n) = true → exec (.leaseAsk h n) s = kept s (fun _ => grantLease d1 h.request)) ∧
      (budgetFits d1 r.fn (256 * n) = false → holdReport r.classFlags = false →
        exec (.leaseAsk h n) s = kept s (fun _ => toOwner d1 h.request r (.leaseGrant 0) 0)) ∧
      (budgetFits d1 r.fn (256 * n) = false → holdReport r.classFlags = true →
        exec (.leaseAsk h n) s = kept s (fun _ => reqNote (toOwner d1 h.request r (.leaseGrant 0) 0) r kHeld .budgetHeld 0))) ∧
    (∀ (st : Status) (v : W64) (o g : Option Holder), r.ending = none →
      exec (.report h kMoored .ok v o g) s = kept s (fun d => endOps (reqNote d r kMoored .ok v.toNat) h.request 0x0502 .ok 0 0) ∧
      (r.waiting = [] → exec (.report h kEnded st v o g) s = kept s (fun d =>
        finalReq (endAsks d h.request st 0) h.request kEnded st v.toNat)) ∧
      (r.waiting ≠ [] → exec (.report h kEnded st v o g) s = kept s (fun d =>
        setReq d h.request { r with ending := some (st, v) })))) ∧
  (∀ (s : State) (h : LockHdr) (b : Barge), keeperRuns s.dev = true → getBarge s.dev h.request = some b → h.epoch.toNat = b.epoch →
    b.state ≠ .adrift →
    (∀ n : Nat, 0 < n → exec (.leaseGrant h n) s = kept s (fun d =>
      setBarge d { b with holdBudget := false, asked := false, hdr := { b.hdr with lease := b.hdr.lease + n } })) ∧
    exec (.leaseGrant h 0) s = kept s (fun d => setBarge d { b with holdBudget := true }) ∧
    exec (.ringHold h) s = kept s (fun d => setBarge d { b with holdRing := true }) ∧
    exec (.ringFree h) s = kept s (fun d => setBarge d { b with holdRing := false }) ∧
    (h.party.toNat ≠ 0 → b.src = none → exec (.cancel h) s = kept s (fun d => ownerCancelNow d b h.reason.toNat))) ∧
  (∀ (s : State) (fn : Fn) (req : W64) (r : ReqSt), keeperRuns s.dev = true → getReq s.dev req = some r → r.fn = fn → r.cancelled = none →
    (r.phase = .held → exec (.requestAdmitRetry fn req) s = kept s (fun d => tryAdmit d req)) ∧
    (∀ v : W64, barOpen s.dev fn = true → doorbellReq s.dev fn v = some req →
      exec (.cancelDoorbell fn v) s = kept s (fun d => cancelReq d req rCancel)) ∧
    (r.phase = .held → getBarge s.dev req = none → cancelOnLate r.classFlags = true →
      r.left.any (fun n => decide (n ≤ (s.dev.tclk - r.since).toNat)) = true →
      exec (.deadlineCheck req) s = kept s (fun d => cancelReq d req rLate))) ∧
  (∀ (s : State) (fn : Fn), keeperRuns s.dev = true →
    (∀ v : W64, barOpen s.dev fn = true → doorbellReq s.dev fn v = none →
      exec (.cancelDoorbell fn v) s = kept s (fun d => { d with badCancels := d.badCancels + 1 })) ∧
    (∀ (b b1 : Budget), getBudget s.dev fn = some b → b1 = { b with used := 0 } → exec (.budgetWindowStart fn) s = kept s (fun d =>
      grantLeases { d with budgets := tset d.budgets fn.val b1 } fn)) ∧
    (∀ (slot k : Nat) (consumed : W32) (r : ReqSt) (d1 : Dev),
      s.dev.requests.find? (fun e => e.2.fn == fn && e.2.slot == slot) = some (k, r) → r.waiting.isEmpty = false → hostOpen s.dev fn = true →
      d1 = { s.dev with host := memWrite s.dev.host (rqOut r.post + 16 * 2 ^ rqLog2 r.post) (leBytes consumed.toNat 4) } →
      exec (.consumerWordReread fn slot consumed) s = kept s (fun _ =>
        ringSignal (writeOut (BitVec.ofNat 64 k) (r.waiting.length + 1) (setReq d1 (BitVec.ofNat 64 k) { r with consumed := consumed }))
          (BitVec.ofNat 64 k)))) ∧
  (∀ (s : State) (part : PartId) (pr : Program) (d1 : Dev) (rows rs : List StepRow) (bytes : Nat) (cands : List Barge)
      (posts : List Post) (st : StepSt), keeperRuns s.dev = true →
    tget s.dev.programs (part.val * 2) = some pr → (getPart s.dev part.val).state = .active → roleOf (getPart s.dev part.val) = 1 →
    tget s.dev.steps part.val = none → s.dev.boot.dormant = false → s.dev.health.joinHold.isEmpty = true →
    cands = ((s.dev.barges.map (fun e => e.2)).filter (mayStep s.dev part.val)).mergeSort
      (fun a b => decide (stepKey (tickBarge s.dev a) ≤ stepKey (tickBarge s.dev b))) →
    pr.temps.any (fun t => patchDstate t.patch) = false →
    fillStep false (pr.temps.any (fun t => patchEmit t.patch)) false pr cands s.dev pr.batch 0 [] = (d1, rows, bytes) →
    (rows = [] → exec (.stepAdmission part) s = kept s (fun _ => d1)) ∧
    (rows ≠ [] → rs = rows.mergeSort (fun a b => decide (a.request.toNat ≤ b.request.toNat)) → posts = stepPosts d1 part rs pr.temps →
      st = ⟨false, rs, posts, posts.length, emitPlace pr.temps, bytes, false⟩ →
      exec (.stepAdmission part) s = kept s (fun _ => { d1 with steps := tset d1.steps part.val st }))) ∧
  (∀ (s : State) (part : PartId) (y : StepSt) (res : List StepRes) (d1 d2 : Dev), keeperRuns s.dev = true →
    tget s.dev.steps part.val = some y → res = s.dev.stepResults.filter (fun r => r.part == part) → y.posts = [] → y.count ≤ res.length →
    d1 = { s.dev with stepResults := s.dev.stepResults.filter (fun r => r.part != part), steps := tdel s.dev.steps part.val } →
    (∀ r : StepRes, res.find? resFailed = some r →
      d2 = y.rows.foldl (fun d q => failRow d y.rows r.status r.detail.toNat q) d1 → exec (.stepEnd part) s = kept s (fun _ =>
        joinAnswer { d2 with staging := memZeroRange d2.staging (part.val * 2 ^ 56) (2 ^ 56) })) ∧
    (res.find? resFailed = none →
      d2 = (rowPlaces s.dev y.rows 0 0).foldl (fun d q => commitRow d part.val y q.1 q.2.1 q.2.2) d1 →
      exec (.stepEnd part) s = kept s (fun _ =>
        joinAnswer { d2 with staging := memZeroRange d2.staging (part.val * 2 ^ 56) (2 ^ 56) }))) ∧
  (∀ (s : State) (req : W64) (b : Barge), keeperRuns s.dev = true → getBarge s.dev req = some b →
    (∀ b1 : Barge, b1 = tickBarge s.dev b → b1.holdRing = true → b1.state = .underway → deadlineGone b1 = true → b1.cancelled = none →
      cancelOnLate b1.hdr.classFlags = true →
      ∀ d1 : Dev, d1 = sendLate (setBarge s.dev { b1 with hdr := { b1.hdr with late := true } }) b1 → getReq d1 req = none →
        exec (.deadlineCheck req) s = kept s (fun _ => d1)) ∧
    (s.dev.boot.dormant = false → b.state = .moored → exec (.mooringTtlExpiry req) s = kept s (fun d =>
      releaseBarge (setBarge d { b with hdr := { b.hdr with ttl := 0 } }) b 0)) ∧
    (b.holdWeir = true → b.state = .underway → b.src = none → b.inStep = false →
      exec (.weirRetry req) s = kept s (fun d => firstXfer d b)))

/-- R284, R285, R295, R341, R356, R460: classes, programs, fetch, moderation, loss of a peer. -/
def Obligations.ClassesProgramsFetchAndLoss : Prop :=
  (∀ (s : State) (p : Post) (c1 : ClassCfg), ready s.dev p 0x0504 = true → dZero p 8 8 = true → dNat p 16 1 ≤ 15 → dNat p 17 1 ≤ 15 →
    dZero p 18 2 = true → dZero p 24 40 = true →
    (dNat p 20 4 = 0 → exec (.reqClass p) s = completes s p id .badLength 0 0) ∧
    (dNat p 20 4 ≠ 0 → c1 = ⟨BitVec.ofNat 8 (dNat p 17 1), dNat p 20 4⟩ → exec (.reqClass p) s = completes s p (fun d =>
      { d with classes := tset d.classes ((poster s.dev p).val * 16 + dNat p 16 1) c1 }) .ok 0 0)) ∧
  (∀ (s : State) (p : Post) (d : Dev) (ts : List Template) (pr : Program), ready s.dev p 0x0450 = true → d = takePost s.dev p →
    dZero p 8 8 = true → dNat p 17 1 ≤ 1 → dZero p 18 2 = true → dZero p 28 4 = true → dZero p 40 24 = true → spPart p ≤ 63 →
    mayName d (poster s.dev p) (spPart p) = true → 0 < spCount p → spCount p ≤ 1024 → 0 < spBatch p → spBatch p ≤ 4096 →
    (dNat p 17 1 = 0 → roleOf (getPart d (spPart p)) = 1 ∧ 16 ≤ spChunk p ∧ spChunk p ≤ 16384) →
    (dNat p 17 1 = 1 → roleOf (getPart d (spPart p)) = 2 ∧ 0 < spChunk p ∧ spChunk p ≤ 256 ∧
      ts.filter (fun t => patchEmit t.patch) ≠ []) →
    ts = templatesOf d p → patchResv p = false → (ts.filter (fun t => patchEmit t.patch)).length ≤ 1 →
    (ts.filter (fun t => patchEmit t.patch)).any (fun t => fNat t.desc 0 2 != 0x0108) = false →
    firstBad (ts.map (templateBad d (partId (spPart p)))) = none → pr = ⟨ts, spBatch p, spChunk p⟩ →
    exec (.stepProgram p) s = completes s p (fun d => { d with programs := tset d.programs (spPart p * 2 + dNat p 17 1) pr }) .ok 0 0) ∧
  (∀ (s : State) (f : Fn) (r : Nat) (poison : List Nat) (d1 : Dev),
    d1 = rejectBad f r { s.dev with
      hostBad := poison.foldl (fun b a => if b.contains (a / 64 * 64) then b else b ++ [a / 64 * 64]) s.dev.hostBad } →
    exec (.descriptorFetch f r poison) s = becomes s (fun _ => rejectBad f r (fetchMany f r 8 d1)) ∧
    (fetchOpen d1 f r = false → exec (.descriptorFetch f r poison) s = becomes s (fun _ => rejectBad f r d1))) ∧
  (∀ (d : Dev) (f : Fn) (r n : Nat) (R R1 : RingSt) (desc : BitVec 512) (p : Post) (d2 : Dev), fetchOpen d f r = true → R = getRing d f r →
    desc = nextDesc d R → desc % 65536 ≠ 0x0600 → p = fetchPost d (.ring f r R.fetchNo) desc →
    R1 = { R with
      fetched := R.fetched + 1, fetchNo := R.fetchNo + 1
      queue := if (fetchBad d R desc).isSome then R.queue else R.queue ++ [p]
      flight := R.flight ++ [⟨R.fetchNo, (getFn d f).fetchSeq, BitVec.ofNat 16 (opcode p), dFlags p,
        if (hostLineBad d (entryAddr R) 64).isSome then Config.lostTag R.fetchNo else dTag p⟩] } →
    d2 = setFn (setRing d f r R1) f { getFn (setRing d f r R1) f with fetchSeq := (getFn d f).fetchSeq + 1 } →
    (fetchBad d R desc = none → fetchMany f r (n + 1) d = fetchMany f r n d2) ∧
    (∀ l : Nat, fetchBad d R desc = some l → hostLineBad d (entryAddr R) 64 = none → chainFailed d2 p = none →
      fetchMany f r (n + 1) d = fetchMany f r n (completeRing d2 f r R.fetchNo (dTag p) (dTag p) (dFlags p) .memUncorrectable
        (BitVec.ofNat 64 (lineDetail 3 0 l)) (BitVec.ofNat 64 (stopExtra (opcode p)))))) ∧
  (∀ (s : State) (fn : Fn) (slot : Nat),
    (s.dev.requests.find? (fun e => e.2.fn == fn && e.2.slot == slot) = none → exec (.outputModTimer fn slot) s = becomes s id) ∧
    (∀ (k : Nat) (r : ReqSt), s.dev.requests.find? (fun e => e.2.fn == fn && e.2.slot == slot) = some (k, r) →
      (r.modTimer = false → exec (.outputModTimer fn slot) s = becomes s id) ∧
      (r.modTimer = true → exec (.outputModTimer fn slot) s = becomes s (fun d =>
        fireVector (setReq d (BitVec.ofNat 64 k) { r with modPend := 0, modTimer := false }) fn (rqVector r.post))))) ∧
  (∀ (s : State) (m : DevIx) (sys : Nat) (d1 d2 d3 d4 : Dev), sys = selfPod s.dev * 64 + m.val →
    ((isMember s.dev m.val = false ∨ m = selfDev s.dev ∨ isLost s.dev m.val = true) →
      exec (.peerLossTimeout m) s = becomes s (settle 4096)) ∧
    (isMember s.dev m.val = true → m ≠ selfDev s.dev → isLost s.dev m.val = false → coordinator s.dev ≠ m.val →
      d1 = raise { s.dev with peerLost := s.dev.peerLost ||| BitVec.ofNat 64 (2 ^ m.val), beats := tdel s.dev.beats m.val } 0x0104
        (unitOf 0x0B m.val) 0 →
      d2 = replPeerLost (qpsLost (composeLost (legsLost (podLost d1 m.val) m.val) sys) sys) false m.val →
      d3 = asksLost (bargesHomeLost (homesLost d2 sys) sys) sys →
      d4 = { d3 with health := { d3.health with grants := d3.health.grants.filter (fun g => g.1 != m.val) } } →
      exec (.peerLossTimeout m) s = becomes s (fun _ => settle 4096 (admitLost d4 m.val))))

/-- R484 to R499: health, self-test, votes, lockstep, failover, repair. -/
def Obligations.HealthAndRepair : Prop :=
  (∀ s : State,
    (s.dev.boot.phase ≠ .ready ∨ s.dev.boot.dormant = true → exec .healthWindowEnd s = becomes s id) ∧
    (∀ d1 : Dev, s.dev.boot.phase = .ready → s.dev.boot.dormant = false →
      d1 = (List.range 181).foldl (partWindow ((List.range 181).map (windowScore s.dev))) s.dev →
      exec .healthWindowEnd s = becomes s (fun _ =>
        { d1 with health := { d1.health with counts := [], tsCorr := [], window := d1.health.window + 1 } }))) ∧
  (∀ (s : State) (m : DevIx) (part : Nat) (gs : List (Nat × Nat)), isCoordinator s.dev = true → isMember s.dev m.val = true →
    isLost s.dev m.val = false → gs = s.dev.health.grants.filter (fun g => g != (m.val, part)) →
    (gs.length < cfgField s.dev .podSpares 0 8 → exec (.healthGrantRequest m part) s = becomes s (fun d =>
      send { d with health := { d.health with grants := gs ++ [(m.val, part)] } } (.grantAnswer m part true))) ∧
    (cfgField s.dev .podSpares 0 8 ≤ gs.length → exec (.healthGrantRequest m part) s = becomes s (fun d =>
      send { d with health := { d.health with grants := gs } } (.grantAnswer m part false)))) ∧
  (∀ (s : State) (part : Nat) (d1 : Dev), s.dev.health.asks.contains part = true →
    d1 = { s.dev with health := { s.dev.health with asks := s.dev.health.asks.filter (fun i => i != part) } } →
    (getHealth s.dev part).state = .watch →
    exec (.expelGrant part true) s = becomes s (fun _ => expelPart d1 part true) ∧
    exec (.expelGrant part false) s = becomes s (fun _ => capPart d1 part)) ∧
  (∀ (s : State) (group : Fin 18) (sl : Slice), s.dev.boot.phase = .ready → s.dev.boot.dormant = false → sliceEn s.dev = true →
    sliceFits s.dev group.val sl = true →
    (tget s.dev.health.slices group.val = none → exec (.selftestSliceStart group sl) s = becomes s (fun d =>
      { d with health := { d.health with slices := tset d.health.slices group.val sl } })) ∧
    (tget s.dev.health.slices group.val ≠ none → exec (.selftestSliceStart group sl) s = becomes s id)) ∧
  (∀ (s : State) (group : Fin 18) (sl : Slice) (d1 : Dev), tget s.dev.health.slices group.val = some sl →
    d1 = { s.dev with health := { s.dev.health with slices := tdel s.dev.health.slices group.val } } →
    exec (.selftestSliceEnd group true) s = becomes s (fun _ => d1) ∧
    exec (.selftestSliceEnd group false) s = becomes s (fun _ =>
      raise (charge (fenceBlock d1 sl) (slicePart sl) wRetrain 1) 0x030C (unitOfPart (slicePart sl)) (Config.sliceCode sl.kind))) ∧
  (∀ (s : State) (us : List Upset), ∃ t : Dev, exec (.voteSweep us) s = .next { s with dev := t } ∧ t.locks.a = t.locks.b ∧ t.locks.b = t.locks.c ∧
    voteBits t.locks = voteBits (us.foldl upset s.dev).locks) ∧
  (∀ (s : State) (count : W64),
    (lockstepEn s.dev = false ∨ s.dev.health.halted = true ∨ s.dev.health.dead = true ∨ s.dev.boot.lkpStarted = false →
      exec (.lockstepMismatch count) s = becomes s id) ∧
    (∀ d1 : Dev, lockstepEn s.dev = true → s.dev.health.halted = false → s.dev.health.dead = false → s.dev.boot.lkpStarted = true →
      d1 = { s.dev with health := { s.dev.health with halted := true, dead := !s.dev.health.standbyOk, failingOver := false } } →
      lkpAuto s.dev = false →
      exec (.lockstepMismatch count) s = becomes s (fun _ => raise (assertAlert d1) 0x0305 (unitOf 9 (activePair s.dev)) count.toNat)) ∧
    (s.dev.health.standbyOk = false ∨ s.dev.health.dead = true ∨ s.dev.health.failingOver = true ∨ s.dev.boot.phase ≠ .ready →
      exec .lkpFailoverGo s = becomes s id) ∧
    (s.dev.health.standbyOk = true → s.dev.health.dead = false → s.dev.health.failingOver = false → s.dev.boot.phase = .ready →
      ∃ t : Dev, exec .lkpFailoverGo s = .next { s with dev := t } ∧ t.health.failingOver = true ∧ t.health.halted = false ∧
        t.health.standbyOk = false ∧ t.fns.all (fun e => e.2.rings.all (fun r => r.2.queue.isEmpty)) = true) ∧
    (s.dev.health.failingOver = true → exec .failoverResume s = becomes s (fun d =>
      raise { d with health := { d.health with failingOver := false } } 0x0306 (unitOf 9 (activePair d)) 0)) ∧
    (s.dev.health.failingOver = false → exec .failoverResume s = becomes s id)) ∧
  (∀ (s : State) (stack : Fin 12) (channel lane : Nat) (d1 : Dev) (n : Nat),
    (hbmAuto s.dev = false → exec (.hbmLaneFailing stack channel lane) s = becomes s id) ∧
    (hbmAuto s.dev = true → channel < 32 → lane < 256 → substHbmLane s.dev stack.val channel lane = some (d1, n) →
      exec (.hbmLaneFailing stack channel lane) s = becomes s (fun _ => postSpared d1 (unitOf 4 stack.val) n))) ∧
  (∀ (s : State) (p : Post) (d : Dev), ready s.dev p 0x04A1 = true → d = takePost s.dev p → (poster s.dev p).val = 0 → dZero p 8 8 = true →
    dZero p 24 40 = true →
    (hrAction p = 1 → hrKind p = 1 → hrIndex p < 64 → hrSub p = 0 → tileFenced d (hrIndex p) = true →
      unsettled d 1 (physOf d (hrIndex p)) = false →
      (∀ (d1 : Dev) (n : Nat), substTile d (hrIndex p) = some (d1, n) → exec (.hltRepairSubstitute p) s = completes s p (fun _ => d1) .ok n 0) ∧
      (substTile d (hrIndex p) = none → exec (.hltRepairSubstitute p) s = completes s p id .quotaExceeded 0 0)) ∧
    (∀ i : Nat, hrAction p = 2 → hrSub p = 0 → unfenceable d (hrKind p) (hrIndex p) = true → unsettled d (hrKind p) (hrIndex p) = false →
      partOfUnit (hrKind p) (hrIndex p) = some i →
      exec (.hltRepairUnfence p) s = completes s p (fun d => unflag (unfence d (hrKind p) (hrIndex p)) i) .ok i 0) ∧
    (∀ i : Nat, hrAction p = 3 → hrSub p = 0 → partOfUnit (hrKind p) (hrIndex p) = some i →
      exec (.hltRepairClearFlag p) s = completes s p (fun d => unflag d i) .ok i 0) ∧
    (∀ failed : List Nat, hrAction p = 4 → hrKind p = 0 → hrSub p = 0 → selftestOpen d = true →
      exec (.hltRepairFullSelftest p failed) s = completes s p (fun d => fullTest d failed) .ok
        (dedup (failed.filter (fun i => decide (i < 181)))).length 0) ∧
    (∀ failed : List Nat, hrAction p = 4 → hrKind p = 0 → hrSub p = 0 → selftestOpen d = false →
      exec (.hltRepairFullSelftest p failed) s = completes s p id .badDescriptor 0 0))

/-- R357, R500, R501, R503, R504: admission. -/
def Obligations.AdmissionRuns : Prop :=
  (∀ (s : State) (p : Post) (failed : List Nat) (d d1 : Dev), ready s.dev p 0x04A8 = true → d = takePost s.dev p →
    (poster s.dev p).val = 0 → dZero p 8 8 = true → dZero p 18 2 = true → dZero p 40 24 = true → adPartner p ≤ 63 → 0 < adPairs p →
    adPairs p ≤ 64 → 100 ≤ adBarrier p → adBarrier p ≤ 1000000 → d.health.admState.phase = .idle → isMember d (adPartner p) = true →
    selftestOpen d = true →
    (admitPairs p).all (fun e => decide (e.1 < 64) && decide (e.2 < 64) && (getPart d e.1).state == .active) = true →
    (linkQuarantine d (adPartner p) = true → exec (.admitDevice p failed) s = completes s p id .configMismatch 0 0) ∧
    (linkQuarantine d (adPartner p) = false → d1 = fullTest (raise d 0x0801 (unitOf 5 0) (adPartner p)) failed →
      (∀ (i : Nat) (is : List Nat), failed.filter (fun i => decide (i < 181)) = i :: is →
        exec (.admitDevice p failed) s = completes s p (fun _ => setAdmit d1 AdmSt.reset) .internal i 0) ∧
      (∀ (pairs : List (PartId × PartId)) (a : AdmSt), failed.filter (fun i => decide (i < 181)) = [] →
        pairs = (admitPairs p).map (fun e => (partId e.1, partId e.2)) →
        a = { phase := .loading, post := some p, partner := devIx (adPartner p), pairs := pairs, barrier := adBarrier p
              group := BitVec.ofNat 64 (dNat p 24 8), arrived := 0, bytes := 0 } →
        exec (.admitDevice p failed) s = starts s p (fun _ =>
          send (setAdmit d1 a) (.admitOpen a.partner pairs (pairs.map (fun e => shapeOf d e.1.val))))))) ∧
  (∀ (s : State) (j : DevIx) (pairs : List (PartId × PartId)) (shapes : List (Nat × Nat × Nat × Nat × List Nat)), keeperRuns s.dev = true →
    isMember s.dev j.val = true → pairs ≠ [] → shapes.length = pairs.length →
    (((pairs.zip shapes).all (fun e => shapeOf s.dev e.1.2.val == e.2)) = false →
      exec (.admitOpen j pairs shapes) s = becomes s (fun d => send d (.admitRefuse j))) ∧
    (∀ (d1 : Dev) (parts : List AdmitPart), ((pairs.zip shapes).all (fun e => shapeOf s.dev e.1.2.val == e.2)) = true →
      d1 = { s.dev with health := { s.dev.health with sessions := s.dev.health.sessions.filter (fun i => i != j) ++ [j] } } →
      pairs.flatMap (fun e => admitBad s.dev e.2.val) = [] → parts = pairs.flatMap (fun e => admitParts s.dev e.1 e.2.val) →
      exec (.admitOpen j pairs shapes) s = becomes s (fun _ => send d1 (.admitData j parts (sha256 (Config.encodeAdmit parts)))))) ∧
  (∀ (s : State) (a : AdmSt), a = s.dev.health.admState → a.phase = .loading →
    (∀ (parts got : List AdmitPart) (digest : BitVec 256) (d1 d2 : Dev), loadParts a.pairs parts s.dev = (got, d1) →
      (sha256 (Config.encodeAdmit got) ≠ digest → exec (.admitLoadDone parts digest) s = becomes s (fun _ =>
        admitEnd (setAdmit d1 { a with phase := .verify }) .configMismatch 0)) ∧
      (∀ b : AdmSt, sha256 (Config.encodeAdmit got) = digest → b = { a with phase := .barrier, bytes := (Config.encodeAdmit got).length } →
        d2 = raise (setAdmit d1 b) 0x0802 (unitOf 5 0) (Config.encodeAdmit got).length →
        exec (.admitLoadDone parts digest) s = becomes s (fun _ => joinCheck
          (((barrierGroup d2 b).filter (fun i => !isLost d2 i)).foldl (fun d i => send d (.joinCall (devIx i) a.barrier)) d2)))) ∧
    (isLost s.dev a.partner.val = true → exec (.admitStallTimeout false) s = becomes s (fun d =>
      admitEnd (postAbort d (unitOf 5 0) .stateLost) .stateLost (admitMask a))) ∧
    exec (.admitStallTimeout true) s = becomes s (fun d => admitEnd (postAbort d (unitOf 5 0) .stateLost) .stateLost (admitMask a)) ∧
    (isLost s.dev a.partner.val = false → exec (.admitStallTimeout false) s = becomes s (fun d =>
      admitEnd (send (postAbort d (unitOf 5 0) .remoteTimeout) (.admitClose a.partner)) .remoteTimeout (admitMask a))) ∧
    exec .admitPartnerRefuse s = becomes s (fun d => admitEnd (setAdmit d { a with phase := .selftest }) .badDescriptor 0)) ∧
  (∀ (s : State) (j : DevIx) (timeout : Nat), isMember s.dev j.val = true → exec (.joinCall j timeout) s = becomes s (fun d =>
    joinAnswer { d with health := { d.health with
      joinHold := d.health.joinHold.filter (fun i => i != j) ++ [j], joinOwed := d.health.joinOwed.filter (fun i => i != j) ++ [j] } })) ∧
  (∀ (s : State) (i : DevIx) (a1 : AdmSt), s.dev.health.admState.phase = .barrier →
    a1 = { s.dev.health.admState with arrived := s.dev.health.admState.arrived ||| BitVec.ofNat 64 (2 ^ i.val) } →
    exec (.joinArrive i) s = becomes s (fun d => joinCheck (setAdmit d a1)) ∧
    exec .joinBarrierTimeout s = becomes s (fun d => admitEnd
      (((barrierGroup d s.dev.health.admState).filter (fun i => !isLost d i)).foldl (fun d i => send d (.joinCancel (devIx i))) d) .remoteTimeout 0)) ∧
  (∀ (s : State) (j : DevIx), ∃ t u : Dev,
    exec (.joinGo j) s = .next { s with dev := t } ∧ exec (.joinCancel j) s = .next { s with dev := u } ∧
    t.health.joinHold.contains j = false ∧ t.health.sessions.contains j = false ∧ isLost t j.val = false ∧
    u.health.joinHold.contains j = false ∧ u.health.sessions.contains j = false ∧ u.peerLost = s.dev.peerLost) ∧
  (∀ (s : State) (j : DevIx) (js : List DevIx), s.dev.health.admState.phase ≠ .barrier → s.dev.health.joinHold = j :: js →
    exec .joinBarrierTimeout s = becomes s (fun d => joinFree d j))

/-- R109, R455, R469 to R471, R473: function resets. -/
def Obligations.FunctionResetsLeave : Prop :=
  (∀ (s : State) (v : Fn), (v.val = 0 ∨ fnExists s.dev v = false) → exec (.vfFlr v) s = becomes s id) ∧
  (∀ (s : State) (v : Fn), v.val ≠ 0 → fnExists s.dev v = true → ∃ (t : Dev) (clearing : Bool), exec (.vfFlr v) s = .next { s with dev := t } ∧
    getFn t v = { FnSt.reset with clearing := clearing } ∧ (clearing = true ↔ ∃ e ∈ t.clearPages, e.2 = v.val) ∧
    (∀ c : Nat, c < 16 → getClass t v c = none) ∧ (∀ e ∈ t.keys, e.2.owner = v → voteBool e.2.enable = false ∧ e.2.loaded = false ∧ e.2.key = 0) ∧
    (∀ e ∈ t.ended, e.1 ≠ v)) ∧
  (∀ s : State, exec .pcieHotReset s = exec .pfFlr s ∧ ∃ t : Dev, exec .pfFlr s = .next { s with dev := t } ∧
    (∃ clearing : Bool, getFn t 0 = { FnSt.reset with clearing := clearing }) ∧
    exec .pcieLinkDown s = .next { s with dev := { t with boot := { t.boot with endpoint := false } } }) ∧
  (∀ (s : State) (enable : Bool) (n : Nat), n ≤ 63 → ∃ t : Dev, exec (.vfEnableWrite enable n) s = .next { s with dev := t } ∧
    t.vfEnable = enable ∧ t.numVfs = n ∧ (∀ v : Fn, 0 < v.val → (fnExists t v = true ↔ enable = true ∧ v.val ≤ n))) ∧
  (∀ (s : State) (gone : List Fn) (enable : Bool) (n : Nat), n ≤ 63 →
    gone = (liveVfs s.dev).filter (fun v => !(enable && decide (v.val ≤ n))) →
    exec (.vfEnableWrite enable n) s = becomes s (fun d => { gone.foldl vfReset d with vfEnable := enable, numVfs := n })) ∧
  (∀ (s : State) (v : Fn), ∃ t : Dev, exec (.vfPageClearDone v) s = .next { s with dev := t } ∧ (∀ e ∈ t.clearPages, e.2 ≠ v.val) ∧
    (getFn t v).clearing = false)

/-- Every step keeps `devOk`: the byte memories stay in canonical form (addresses strictly rising, no byte listed that reads as an unlisted
one, the model's form) and NumVFs stays at most 63 (Table 13.1; a write of more keeps it, log 90). -/
def Obligations.EveryStepKeepsDevice : Prop :=
  ∀ s t : State, devOk s.dev = true → step s = .next t → devOk t.dev = true

/-- What reset leaves: the invariant of `EveryStepKeepsDevice`, and the reset values that Tables 5.6, 13.4, 14.2, 15.8, 16.2 give. -/
def Obligations.ResetMeetsInvariant : Prop :=
  devOk State.reset.dev = true ∧ State.reset.pending = [] ∧
  (∀ b < 5, locked State.reset.dev b = false) ∧
  State.reset.dev.boot.por = true ∧ State.reset.dev.boot.phase = .held ∧ State.reset.dev.boot.clkLocked = 0 ∧
  State.reset.dev.boot.clkReleased = 0 ∧ State.reset.dev.boot.resets = 0 ∧
  (∀ n, (getPart State.reset.dev n).state = .free) ∧
  (∀ (f : Fn) (r : Nat), (getRing State.reset.dev f r).enable = false) ∧
  (∀ n, (getPort State.reset.dev n).link = .down) ∧
  State.reset.dev.health.standbyOk = true ∧ State.reset.dev.health.alert = false ∧ State.reset.dev.health.halted = false ∧
  State.reset.dev.tclk = 0

/-- The laws of the byte memories; R4's byte order is decided by `leBytes` and `leNat`. -/
def Obligations.MemoryReadsBack : Prop :=
  (∀ (m : Mem) (a i : Nat) (bs : List Byte), Memory.wf m = true → i < bs.length →
    memGet (memWrite m a bs) (a + i) = bs.getD i 0) ∧
  (∀ (m : Mem) (a x : Nat) (bs : List Byte), Memory.wf m = true → (x < a ∨ a + bs.length ≤ x) →
    memGet (memWrite m a bs) x = memGet m x) ∧
  (∀ (m : Mem) (a : Nat) (bs : List Byte), Memory.wf m = true → Memory.wf (memWrite m a bs) = true) ∧
  (∀ v n : Nat, leNat (leBytes v n) = v % 256 ^ n)

/-- R30: the stack of an offset and the address within it. Stacks 0 to 5 are W's, 6 to 11 E's. -/
def Obligations.StacksInterleave : Prop :=
  ∀ h a : Nat, h < 2 → a < 0x4800000000 →
    stackOf (h * 0x4800000000 + a) = h * 6 + a / 4096 % 6 ∧
    stackOffset (h * 6 + a / 4096 % 6) (a / 24576 * 4096 + a % 4096) = h * 0x4800000000 + a

/-- R435, with what both outcomes leave of the two halves. -/
def Obligations.ClassifyRemoveFrees : Prop :=
  ∀ (s : State) (p : Post) (hs : List Nat), ready s.dev p 0x0491 = true → (poster s.dev p).val = 0 → dZero p 8 8 = true →
    dNat p 16 1 ≤ 3 → dZero p 17 3 = true → clsId p < 2 ^ 17 → dZero p 24 40 = true → hs = clsHalves p → hs.isEmpty = false →
    (hs.any (fun h => !holdsEntry (getCam s.dev h) (clsId p)) = false → ∃ d,
      exec (.classifyRemove p) s = .next { s with dev := complete d p .ok 0 0 } ∧
      ∀ h < 2, (getCam d h).loc = (getCam s.dev h).loc ∧
        (getCam d h).cls = if hs.contains h then (getCam s.dev h).cls.filter (fun e => e.id != clsId p) else (getCam s.dev h).cls) ∧
    (hs.any (fun h => !holdsEntry (getCam s.dev h) (clsId p)) = true →
      exec (.classifyRemove p) s = completes s p id .badDescriptor 0 0 ∧
      ∀ h < 2, getCam (takePost s.dev p) h = getCam s.dev h)

/-- R445; the record's bytes are those of Table 12.10. -/
def Obligations.PolicerQueryReports : Prop :=
  (∀ (s : State) (p : Post) (n : Nat), ready s.dev p 0x0493 = true → n = dNat p 16 2 → n ≤ 1023 → dZero p 8 8 = true →
    dZero p 18 22 = true → dZero p 48 16 = true → dNat p 40 8 % 64 = 0 →
    (((poster s.dev p).val = 0 ∨ poster s.dev p = (getPolicer s.dev n).owner) → exec (.policerQuery p) s =
      completes s p (fun d => hostWrite d (dNat p 40 8) (policerRecord (getPolicer s.dev n))) .ok 0 0) ∧
    ((poster s.dev p).val ≠ 0 → poster s.dev p ≠ (getPolicer s.dev n).owner → exec (.policerQuery p) s = completes s p id .badDescriptor 0 0)) ∧
  ∀ x : Policer, policerRecord x = leBytes x.green.toNat 8 ++ leBytes x.yellow.toNat 8 ++ leBytes x.red.toNat 8 ++
    leBytes (x.tc / 2 ^ 20) 4 ++ leBytes (x.tx / 2 ^ 20) 4 ++ [x.mode] ++ leBytes x.owner.val 1 ++ List.replicate 30 0

/-- R524 for the five descriptors of Table 15.6; a flash descriptor waits while the flash's clock is fenced (Table 15.2). -/
def Obligations.FlashDescriptorsFromPf : Prop :=
  (∀ (s : State) (p : Post), (poster s.dev p).val ≠ 0 → flashOpen s.dev = true →
    (ready s.dev p 0x04B0 = true → exec (.attest p) s = completes s p id .badDescriptor 0 0) ∧
    (ready s.dev p 0x04B1 = true → exec (.jrnlRead p) s = completes s p id .badDescriptor 0 0) ∧
    (∀ ok, ready s.dev p 0x04B2 = true → exec (.optWrite p ok) s = completes s p id .badDescriptor 0 0) ∧
    (∀ img, ready s.dev p 0x04B3 = true → exec (.fwWrite p img) s = completes s p id .badDescriptor 0 0) ∧
    (ready s.dev p 0x04B4 = true → exec (.pwrStateDormant p) s = completes s p id .badDescriptor 0 0) ∧
    (ready s.dev p 0x04B4 = true → exec (.pwrStateActive p) s = completes s p id .badDescriptor 0 0)) ∧
  (∀ (s : State) (p : Post), flashHead s.dev p [32] = true → dNat p 20 4 = 0 → flashOpen s.dev = true →
    (∀ ok, ready s.dev p 0x04B2 = true → exec (.optWrite p ok) s = completes s p id .ok 0 0) ∧
    (∀ img, dNat p 16 1 ≤ 1 → ready s.dev p 0x04B3 = true → exec (.fwWrite p img) s = completes s p id .ok 0 0))

/-- R191. -/
def Obligations.LiftStopStops : Prop :=
  ∀ (s : State) (p : Post) (part : Nat), ready s.dev p 0x0421 = true → part = dNat p 16 1 → dZero p 8 8 = true → dZero p 17 47 = true →
    mayName s.dev (poster s.dev p) part = true → partBusy s.dev part = false →
    ((getPart s.dev part).lift.loads.any (fun l => !l.readers.isEmpty) = true →
      exec (.liftStop p) s = completes s p id .badDescriptor 0 0) ∧
    ((getPart s.dev part).lift.loads.any (fun l => !l.readers.isEmpty) = false → ∃ d,
      exec (.liftStop p) s = .next { s with dev := complete d p .ok 0 0 } ∧
      (getPart d part).lift.run = false ∧ (getPart d part).lift.halted = false ∧ (getPart d part).lift.loads = [] ∧
      (∀ o ∈ d.podOps, ∀ q, o.use = .lift q → q.val ≠ part) ∧ d.ts = s.dev.ts)

/-- R543. -/
def Obligations.WideRegisters : Prop :=
  ∀ r : RegName, regBytes r = 16 ↔ (∃ n, r = .xptIp n) ∨ ∃ n, r = .partCfg n

/-- R64: one addition, and a whole sum of the products that two INT8 operands can give. -/
def Obligations.Int32Saturates : Prop :=
  (∀ a b : Int × NumFlags,
    (2147483647 < a.1 + b.1 → satAdd a b = (2147483647, a.2 ||| b.2 ||| fISAT)) ∧
    (a.1 + b.1 < -2147483647 → satAdd a b = (-2147483647, a.2 ||| b.2 ||| fISAT)) ∧
    (-2147483647 ≤ a.1 + b.1 → a.1 + b.1 ≤ 2147483647 → satAdd a b = (a.1 + b.1, a.2 ||| b.2))) ∧
  ∀ l : List Int, (∀ x ∈ l, -16384 ≤ x ∧ x ≤ 16384) → -2147483647 ≤ (reduceInt l).1 ∧ (reduceInt l).1 ≤ 2147483647

/-- R48, for the five formats that have a NaN. -/
def Obligations.NansAreCanonical : Prop :=
  (∀ neg : Bool, enc32 (.nan neg) = 0x7FC00000 ∧ (convElem 0x01 (.nan neg)).1 = 0x7FC00000 ∧ (convElem 0x02 (.nan neg)).1 = 0x7E00 ∧
    (convElem 0x03 (.nan neg)).1 = 0x7FC0 ∧ (convElem 0x04 (.nan neg)).1 = 0x7F ∧ (convElem 0x05 (.nan neg)).1 = 0x7E) ∧
  (∀ x : Nat, isNan (dec32 x) = true → enc32 (dec32 x) = 0x7FC00000) ∧
  (∀ x y : Nat, isNan (dec32 x) = true → isNan (dec32 y) = true → signOf (dec32 x) = signOf (dec32 y) → dec32 x = dec32 y) ∧
  (∀ a b : Machine.Num, isNan a.v = true ∨ isNan b.v = true → (nadd a b).v = .nan false ∧ (nmul a b).v = .nan false)

end
end

