-- ==== Sys2Proof/Laws/Table.lean ====
section
/-! SUPPORT. The laws of tables: what a set, a delete and a filter leave to be read. -/
namespace Sys2Proof.Machine

/-- What is set is read. -/
@[simp] theorem tget_tset_same {α : Type} (t : Tab α) (k : Nat) (v : α) : tget (tset t k v) k = some v := by
  induction t with
  | nil => simp [tset, tget]
  | cons e t ih =>
    obtain ⟨j, w⟩ := e
    unfold tset
    split
    · simp [tget]
    · split
      · simp [tget]
      · rename_i h; simp [tget, Ne.symm h, ih]

/-- A set leaves every other key alone. -/
theorem tget_tset_other {α : Type} (t : Tab α) {k i : Nat} (v : α) (h : i ≠ k) : tget (tset t k v) i = tget t i := by
  induction t with
  | nil => simp [tset, tget, h.symm]
  | cons e t ih =>
    obtain ⟨j, w⟩ := e
    unfold tset
    split
    · simp [tget, h.symm]
    · split
      · rename_i h1; subst h1; simp [tget, h.symm]
      · simp only [tget, ih]

@[simp] theorem tgetD_tset_same {α : Type} (t : Tab α) (k : Nat) (v x : α) : tgetD (tset t k v) k x = v := by simp [tgetD]

/-- A key that no entry has is not found. -/
theorem tget_none {α : Type} {t : Tab α} {k : Nat} (h : ∀ e ∈ t, e.1 ≠ k) : tget t k = none := by
  induction t with
  | nil => rfl
  | cons e t ih =>
    obtain ⟨j, w⟩ := e
    simp only [tget]
    rw [if_neg (h (j, w) (by simp)), ih (fun e he => h e (by simp [he]))]

/-- A function's state that is set is read. -/
@[simp] theorem getFn_setFn_same (d : Dev) (f : Fn) (x : FnSt) : getFn (setFn d f x) f = x := by simp [getFn, setFn]

end Sys2Proof.Machine
end

