-- ==== Sys2Proof/Laws/Memory.lean ====
section
/-! SUPPORT. The laws of the byte memories: a write keeps the canonical form, is read back, and leaves every other byte alone. -/
namespace Sys2Proof.Machine

/-! ## The canonical form -/

/-- A table's keys rise exactly when its tail's do and its first key lies below them. -/
theorem tabWf_cons {α : Type} (e : Nat × α) (t : Tab α) : tabWf (e :: t) = true ↔ (∀ x ∈ t, e.1 < x.1) ∧ tabWf t = true := by
  induction t generalizing e with
  | nil => simp [tabWf]
  | cons y t ih =>
    obtain ⟨j, w⟩ := e
    obtain ⟨k, v⟩ := y
    simp only [tabWf, Bool.and_eq_true, decide_eq_true_eq, List.mem_cons, forall_eq_or_imp]
    constructor
    · rintro ⟨h1, h2⟩
      exact ⟨⟨h1, fun x hx => Nat.lt_trans h1 ((ih (k, v)).1 h2 |>.1 x hx)⟩, h2⟩
    · rintro ⟨⟨h1, -⟩, h2⟩; exact ⟨h1, h2⟩

theorem mem_tset {α : Type} {t : Tab α} {k : Nat} {v : α} {x : Nat × α} (h : x ∈ tset t k v) : x = (k, v) ∨ x ∈ t := by
  induction t with
  | nil => simpa [tset] using h
  | cons e t ih =>
    obtain ⟨j, w⟩ := e
    unfold tset at h
    split at h
    · rcases List.mem_cons.1 h with h | h
      · exact .inl h
      · exact .inr h
    · split at h
      · rcases List.mem_cons.1 h with h | h
        · exact .inl h
        · exact .inr (List.mem_cons_of_mem _ h)
      · rcases List.mem_cons.1 h with h | h
        · exact .inr (h ▸ List.mem_cons_self ..)
        · rcases ih h with h | h
          · exact .inl h
          · exact .inr (List.mem_cons_of_mem _ h)

theorem tabWf_tset {α : Type} (t : Tab α) (k : Nat) (v : α) (h : tabWf t = true) : tabWf (tset t k v) = true := by
  induction t with
  | nil => rfl
  | cons e t ih =>
    obtain ⟨j, w⟩ := e
    obtain ⟨h1, h2⟩ := (tabWf_cons (j, w) t).1 h
    unfold tset
    split
    · rename_i hk
      refine (tabWf_cons _ _).2 ⟨?_, h⟩
      intro x hx
      rcases List.mem_cons.1 hx with hx | hx
      · subst hx; exact hk
      · exact Nat.lt_trans hk (h1 x hx)
    · split
      · rename_i hk; subst hk; exact (tabWf_cons _ _).2 ⟨h1, h2⟩
      · rename_i hk1 hk2
        refine (tabWf_cons _ _).2 ⟨?_, ih h2⟩
        intro x hx
        rcases mem_tset hx with hx | hx
        · subst hx; simp only; omega
        · exact h1 x hx

theorem tabWf_filter {α : Type} (t : Tab α) (p : Nat × α → Bool) (h : tabWf t = true) : tabWf (t.filter p) = true := by
  induction t with
  | nil => rfl
  | cons e t ih =>
    obtain ⟨h1, h2⟩ := (tabWf_cons e t).1 h
    simp only [List.filter_cons]
    split
    · exact (tabWf_cons _ _).2 ⟨fun x hx => h1 x (List.mem_filter.1 hx).1, ih h2⟩
    · exact ih h2

theorem wf_nil : Memory.wf [] = true := rfl

theorem wf_filter {m : Mem} (p : Nat × Byte → Bool) (h : Memory.wf m = true) : Memory.wf (m.filter p) = true := by
  simp only [Memory.wf, Bool.and_eq_true, List.all_eq_true] at h ⊢
  exact ⟨tabWf_filter m p h.1, fun x hx => h.2 x (List.mem_filter.1 hx).1⟩

/-- Writing a byte keeps the canonical form. -/
theorem wf_memPut {m : Mem} (a : Nat) (b : Byte) (h : Memory.wf m = true) : Memory.wf (memPut m a b) = true := by
  unfold memPut
  split
  · exact wf_filter _ h
  · rename_i hb
    simp only [Memory.wf, Bool.and_eq_true, List.all_eq_true] at h ⊢
    refine ⟨tabWf_tset m a b h.1, fun x hx => ?_⟩
    rcases mem_tset hx with hx | hx
    · subst hx; simpa using hb
    · exact h.2 x hx

/-- Writing bytes keeps the canonical form. -/
theorem wf_memWrite {m : Mem} (a : Nat) (bs : List Byte) (h : Memory.wf m = true) : Memory.wf (memWrite m a bs) = true := by
  induction bs generalizing m a with
  | nil => exact h
  | cons b bs ih => exact ih (a + 1) (wf_memPut a b h)

/-- Clearing bytes keeps the canonical form. -/
theorem wf_memZero {m : Mem} (p : Nat → Bool) (h : Memory.wf m = true) : Memory.wf (memZero m p) = true := wf_filter _ h

theorem wf_memZeroRange {m : Mem} (a n : Nat) (h : Memory.wf m = true) : Memory.wf (memZeroRange m a n) = true := wf_memZero _ h

/-- Writing many cells keeps the canonical form. -/
theorem wf_foldl {α : Type} (f : Mem → α → Mem) (hf : ∀ m x, Memory.wf m = true → Memory.wf (f m x) = true) (l : List α) {m : Mem}
    (h : Memory.wf m = true) : Memory.wf (l.foldl f m) = true := by
  induction l generalizing m with
  | nil => exact h
  | cons x l ih => exact ih (hf m x h)

/-! ## What is read -/

theorem tget_tdel_same {α : Type} (t : Tab α) (k : Nat) : tget (tdel t k) k = none :=
  tget_none (fun e he => by simpa [tdel] using (List.mem_filter.1 he).2)

theorem tget_tdel_other {α : Type} (t : Tab α) {k i : Nat} (h : i ≠ k) : tget (tdel t k) i = tget t i := by
  induction t with
  | nil => rfl
  | cons e t ih =>
    obtain ⟨j, w⟩ := e
    unfold tdel at ih ⊢
    simp only [List.filter_cons]
    split
    · simp only [tget, ih]
    · rename_i hj
      have : j = k := by simpa using hj
      subst this; simp only [tget, if_neg (Ne.symm h), ih]

/-- A byte that is written is read. -/
theorem memGet_memPut_same (m : Mem) (a : Nat) (b : Byte) : memGet (memPut m a b) a = b := by
  unfold memGet memPut
  split
  · rename_i h; simp [tgetD, tget_tdel_same, h]
  · simp

/-- A write leaves every other byte alone. -/
theorem memGet_memPut_other (m : Mem) {a i : Nat} (b : Byte) (h : i ≠ a) : memGet (memPut m a b) i = memGet m i := by
  unfold memGet memPut
  split
  · simp only [tgetD, tget_tdel_other m h]
  · simp only [tgetD, tget_tset_other m b h]

/-- Bytes outside a write are read as before. -/
theorem memGet_memWrite_other (m : Mem) (bs : List Byte) {a i : Nat} (h : i < a ∨ a + bs.length ≤ i) : memGet (memWrite m a bs) i = memGet m i := by
  induction bs generalizing m a with
  | nil => rfl
  | cons b bs ih =>
    simp only [List.length_cons] at h
    simp only [memWrite]
    rw [ih (memPut m a b) (a := a + 1) (by omega), memGet_memPut_other m b (by omega)]

/-- Bytes that are cleared read as zero. -/
theorem memGet_memZero (m : Mem) (p : Nat → Bool) (i : Nat) : memGet (memZero m p) i = if p i then 0 else memGet m i := by
  unfold memZero memGet tgetD
  induction m with
  | nil => simp [tget]
  | cons e m ih =>
    obtain ⟨j, w⟩ := e
    simp only [List.filter_cons]
    by_cases hj : j = i
    · subst hj
      by_cases hp : p j
      · simp only [hp, Bool.not_true, Bool.false_eq_true, if_false, if_true] at ih ⊢; exact ih
      · simp [hp, tget]
    · split
      · simp only [tget, if_neg hj]; exact ih
      · simp only [tget, if_neg hj]; exact ih

end Sys2Proof.Machine
end

