-- ==== Sys2Proof/Laws/Keep.lean ====
section
/-! SUPPORT. The invariant of Safety.lean said of every kind of value that carries a device, and how an equation hands it on. -/
namespace Sys2Proof.Machine

/-- The device meets the invariant. -/
def keptD (d : Dev) : Prop := devOk d = true
def keptO : Option Dev → Prop | none => True | some d => keptD d
def keptOF {α : Type} : Option (Dev × α) → Prop | none => True | some p => keptD p.1
def keptOS {α : Type} : Option (α × Dev) → Prop | none => True | some p => keptD p.2
def keptF {α : Type} (p : Dev × α) : Prop := keptD p.1
def keptS {α : Type} (p : α × Dev) : Prop := keptD p.2
def keptM {α β : Type} (p : α × Dev × β) : Prop := keptD p.2.1
def keptSS {α β : Type} (p : α × β × Dev) : Prop := keptD p.2.2
def keptSSS {α β γ : Type} (p : α × β × γ × Dev) : Prop := keptD p.2.2.2
def keptOSSS {α β γ : Type} : Option (α × β × γ × Dev) → Prop | none => True | some p => keptD p.2.2.2
def keptR {α : Type} : Sum α Dev → Prop | .inl _ => True | .inr d => keptD d
def keptRes : Res → Prop | .done _ _ _ d => keptD d | .later d => keptD d | .wait _ d => keptD d
def keptORes : Option Res → Prop | none => True | some r => keptRes r
def keptAlloc : Alloc → Prop | .ok d _ => keptD d | .lacks _ => True
def keptGot : Got → Prop | .ok d => keptD d | .lacks _ d => keptD d
def keptMade : Made → Prop | .ok _ d => keptD d | .lacks _ d => keptD d
def keptApp : Appended → Prop | .ok d _ => keptD d | .fail _ _ d => keptD d
def keptAppSt (a : AppSt) : Prop := keptD a.d
def keptOut : Host.Outcome State Fault Refusal → Prop | .next t => keptD t.dev | .fault _ => True | .refused _ => True

theorem keptO_some {r : Option Dev} {d : Dev} (e : r = some d) (h : keptO r) : keptD d := by subst e; exact h
theorem keptOF_some {α : Type} {r : Option (Dev × α)} {d : Dev} {a : α} (e : r = some (d, a)) (h : keptOF r) : keptD d := by subst e; exact h
theorem keptOS_some {α : Type} {r : Option (α × Dev)} {d : Dev} {a : α} (e : r = some (a, d)) (h : keptOS r) : keptD d := by subst e; exact h
theorem keptOF_of {α : Type} {r : Option (Dev × α)} {p : Dev × α} (e : r = some p) (h : keptOF r) : keptD p.1 := by subst e; exact h
theorem keptOS_of {α : Type} {r : Option (α × Dev)} {p : α × Dev} (e : r = some p) (h : keptOS r) : keptD p.2 := by subst e; exact h
theorem keptF_mk {α : Type} {r : Dev × α} {d : Dev} {a : α} (e : r = (d, a)) (h : keptF r) : keptD d := by subst e; exact h
theorem keptS_mk {α : Type} {r : α × Dev} {d : Dev} {a : α} (e : r = (a, d)) (h : keptS r) : keptD d := by subst e; exact h
theorem keptM_mk {α β : Type} {r : α × Dev × β} {d : Dev} {a : α} {b : β} (e : r = (a, d, b)) (h : keptM r) : keptD d := by subst e; exact h
theorem keptSS_mk {α β : Type} {r : α × β × Dev} {d : Dev} {a : α} {b : β} (e : r = (a, b, d)) (h : keptSS r) : keptD d := by subst e; exact h
theorem keptSSS_mk {α β γ : Type} {r : α × β × γ × Dev} {d : Dev} {a : α} {b : β} {c : γ} (e : r = (a, b, c, d)) (h : keptSSS r) : keptD d := by
  subst e; exact h
theorem keptOSSS_some {α β γ : Type} {r : Option (α × β × γ × Dev)} {d : Dev} {a : α} {b : β} {c : γ} (e : r = some (a, b, c, d))
    (h : keptOSSS r) : keptD d := by subst e; exact h
theorem keptR_inr {α : Type} {r : Sum α Dev} {d : Dev} (e : r = .inr d) (h : keptR r) : keptD d := by subst e; exact h
theorem keptRes_done {r : Res} {st : Status} {a b : Nat} {d : Dev} (e : r = .done st a b d) (h : keptRes r) : keptD d := by subst e; exact h
theorem keptRes_later {r : Res} {d : Dev} (e : r = .later d) (h : keptRes r) : keptD d := by subst e; exact h
theorem keptRes_wait {r : Res} {w : Stall} {d : Dev} (e : r = .wait w d) (h : keptRes r) : keptD d := by subst e; exact h
theorem keptORes_some {r : Option Res} {x : Res} (e : r = some x) (h : keptORes r) : keptRes x := by subst e; exact h
theorem keptAlloc_ok {r : Alloc} {d : Dev} {a : Nat} (e : r = .ok d a) (h : keptAlloc r) : keptD d := by subst e; exact h
theorem keptGot_ok {r : Got} {d : Dev} (e : r = .ok d) (h : keptGot r) : keptD d := by subst e; exact h
theorem keptGot_lacks {r : Got} {d : Dev} {n : Nat} (e : r = .lacks n d) (h : keptGot r) : keptD d := by subst e; exact h
theorem keptMade_ok {r : Made} {d : Dev} {k : Nat} (e : r = .ok k d) (h : keptMade r) : keptD d := by subst e; exact h
theorem keptMade_lacks {r : Made} {d : Dev} {n : Nat} (e : r = .lacks n d) (h : keptMade r) : keptD d := by subst e; exact h
theorem keptApp_ok {r : Appended} {d : Dev} {l : List (Nat × NumFlags)} (e : r = .ok d l) (h : keptApp r) : keptD d := by subst e; exact h
theorem keptApp_fail {r : Appended} {d : Dev} {st : Status} {n : Nat} (e : r = .fail st n d) (h : keptApp r) : keptD d := by subst e; exact h
theorem keptF_fst {α : Type} {r : Dev × α} (h : keptF r) : keptD r.1 := h
theorem keptS_snd {α : Type} {r : α × Dev} (h : keptS r) : keptD r.2 := h
theorem keptSS_snd {α β : Type} {r : α × β × Dev} (h : keptSS r) : keptD r.2.2 := h
theorem keptM_snd {α β : Type} {r : α × Dev × β} (h : keptM r) : keptD r.2.1 := h
theorem keptAppSt_d {a : AppSt} (h : keptAppSt a) : keptD a.d := h
theorem keptF_intro {α : Type} {d : Dev} {a : α} (h : keptD d) : keptF (d, a) := h
theorem keptS_intro {α : Type} {d : Dev} {a : α} (h : keptD d) : keptS (a, d) := h
theorem keptM_intro {α β : Type} {d : Dev} {a : α} {b : β} (h : keptD d) : keptM (a, d, b) := h
theorem keptSS_intro {α β : Type} {d : Dev} {a : α} {b : β} (h : keptD d) : keptSS (a, b, d) := h
theorem keptSSS_intro {α β γ : Type} {d : Dev} {a : α} {b : β} {c : γ} (h : keptD d) : keptSSS (a, b, c, d) := h
theorem keptO_none : keptO none := trivial
theorem keptOF_none {α : Type} : keptOF (none : Option (Dev × α)) := trivial
theorem keptOS_none {α : Type} : keptOS (none : Option (α × Dev)) := trivial
theorem keptOSSS_none {α β γ : Type} : keptOSSS (none : Option (α × β × γ × Dev)) := trivial
theorem keptR_inl {α : Type} {a : α} : keptR (.inl a : Sum α Dev) := trivial
theorem keptORes_none : keptORes none := trivial
theorem keptAlloc_lacks {n : Nat} : keptAlloc (.lacks n) := trivial
theorem keptOut_fault {f : Fault} : keptOut (.fault f) := trivial
theorem keptOut_refused {f : Refusal} : keptOut (.refused f) := trivial
theorem keptO_intro {d : Dev} (h : keptD d) : keptO (some d) := h
theorem keptOF_intro {α : Type} {p : Dev × α} (h : keptF p) : keptOF (some p) := h
theorem keptOS_intro {α : Type} {p : α × Dev} (h : keptS p) : keptOS (some p) := h
theorem keptOSSS_intro {α β γ : Type} {p : α × β × γ × Dev} (h : keptSSS p) : keptOSSS (some p) := h
theorem keptR_intro {α : Type} {d : Dev} (h : keptD d) : keptR (.inr d : Sum α Dev) := h
theorem keptRes_done' {st : Status} {a b : Nat} {d : Dev} (h : keptD d) : keptRes (.done st a b d) := h
theorem keptRes_plain {st : Status} {d : Dev} (h : keptD d) : keptRes (.plain st d) := h
theorem keptRes_later' {d : Dev} (h : keptD d) : keptRes (.later d) := h
theorem keptRes_wait' {w : Stall} {d : Dev} (h : keptD d) : keptRes (.wait w d) := h
theorem keptORes_intro {r : Res} (h : keptRes r) : keptORes (some r) := h
theorem keptAlloc_ok' {d : Dev} {a : Nat} (h : keptD d) : keptAlloc (.ok d a) := h
theorem keptGot_ok' {d : Dev} (h : keptD d) : keptGot (.ok d) := h
theorem keptGot_lacks' {n : Nat} {d : Dev} (h : keptD d) : keptGot (.lacks n d) := h
theorem keptMade_ok' {n : Nat} {d : Dev} (h : keptD d) : keptMade (.ok n d) := h
theorem keptMade_lacks' {n : Nat} {d : Dev} (h : keptD d) : keptMade (.lacks n d) := h
theorem keptApp_ok' {d : Dev} {l : List (Nat × NumFlags)} (h : keptD d) : keptApp (.ok d l) := h
theorem keptApp_fail' {st : Status} {n : Nat} {d : Dev} (h : keptD d) : keptApp (.fail st n d) := h
theorem keptAppSt_mk {d : Dev} {t : TableSt} {l : List (Nat × NumFlags)} (h : keptD d) : keptAppSt ⟨d, t, l⟩ := h
theorem keptOut_next {t : State} (h : keptD t.dev) : keptOut (.next t) := h
theorem keptOF_map {α β : Type} {o : Option α} {f : α → Dev × β} (h : ∀ x, keptF (f x)) : keptOF (o.map f) := by cases o <;> first | trivial | exact h _
theorem keptOS_map {α β : Type} {o : Option α} {f : α → β × Dev} (h : ∀ x, keptS (f x)) : keptOS (o.map f) := by cases o <;> first | trivial | exact h _
theorem keptO_map {α : Type} {o : Option α} {f : α → Dev} (h : ∀ x, keptD (f x)) : keptO (o.map f) := by cases o <;> first | trivial | exact h _

theorem keptOF_mapOF {α β : Type} {o : Option (Dev × α)} {f : Dev × α → Dev × β} (ho : keptOF o) (h : ∀ p, keptD p.1 → keptF (f p)) : keptOF (o.map f) := by
  cases o
  · trivial
  · exact h _ ho
theorem keptOS_mapOF {α β : Type} {o : Option (Dev × α)} {f : Dev × α → β × Dev} (ho : keptOF o) (h : ∀ p, keptD p.1 → keptS (f p)) : keptOS (o.map f) := by
  cases o
  · trivial
  · exact h _ ho
theorem keptO_mapOF {α : Type} {o : Option (Dev × α)} {f : Dev × α → Dev} (ho : keptOF o) (h : ∀ p, keptD p.1 → keptD (f p)) : keptO (o.map f) := by
  cases o
  · trivial
  · exact h _ ho
theorem keptOF_mapOS {α β : Type} {o : Option (α × Dev)} {f : α × Dev → Dev × β} (ho : keptOS o) (h : ∀ p, keptD p.2 → keptF (f p)) : keptOF (o.map f) := by
  cases o
  · trivial
  · exact h _ ho
theorem keptOS_mapOS {α β : Type} {o : Option (α × Dev)} {f : α × Dev → β × Dev} (ho : keptOS o) (h : ∀ p, keptD p.2 → keptS (f p)) : keptOS (o.map f) := by
  cases o
  · trivial
  · exact h _ ho
theorem keptO_mapOS {α : Type} {o : Option (α × Dev)} {f : α × Dev → Dev} (ho : keptOS o) (h : ∀ p, keptD p.2 → keptD (f p)) : keptO (o.map f) := by
  cases o
  · trivial
  · exact h _ ho
theorem keptOF_mapO {β : Type} {o : Option Dev} {f : Dev → Dev × β} (ho : keptO o) (h : ∀ p, keptD p → keptF (f p)) : keptOF (o.map f) := by
  cases o
  · trivial
  · exact h _ ho
theorem keptOS_mapO {β : Type} {o : Option Dev} {f : Dev → β × Dev} (ho : keptO o) (h : ∀ p, keptD p → keptS (f p)) : keptOS (o.map f) := by
  cases o
  · trivial
  · exact h _ ho
theorem keptO_mapO {o : Option Dev} {f : Dev → Dev} (ho : keptO o) (h : ∀ p, keptD p → keptD (f p)) : keptO (o.map f) := by
  cases o
  · trivial
  · exact h _ ho

/-- A device whose memories and NumVFs are another's meets the invariant with it; each change keeps its part. -/
theorem kept_upd {d d' : Dev} (h5 : d.numVfs ≤ 63 → d'.numVfs ≤ 63) (h1 : Memory.wf d.host = true → Memory.wf d'.host = true)
    (h2 : Memory.wf d.hbm = true → Memory.wf d'.hbm = true) (h3 : Memory.wf d.ts = true → Memory.wf d'.ts = true)
    (h4 : Memory.wf d.staging = true → Memory.wf d'.staging = true) (h : keptD d) : keptD d' := by
  simp only [keptD, devOk, Bool.and_eq_true, decide_eq_true_eq] at h ⊢
  exact ⟨⟨⟨⟨h1 h.1.1.1.1, h2 h.1.1.1.2⟩, h3 h.1.1.2⟩, h4 h.1.2⟩, h5 h.2⟩

/-- A device written out as a change of another. -/
theorem kept_mk {d : Dev} {a_tclk : W64} {a_boot : BootSt} {a_flash : FlashSt} {a_pins : PinSt} {a_regs : Tab (BitVec 128)} {a_ipHeld : Tab W64}
    {a_locks : Tri (BitVec 5)} {a_keys : Tab KeySlot} {a_keyData : BitVec 512} {a_numVfs : Nat} {a_vfEnable : Bool} {a_fns : Tab FnSt} {a_aer : List
    AerRec} {a_host : Mem} {a_hostBad : List Nat} {a_hbm : Mem} {a_hbmBad : List Nat} {a_ts : Mem} {a_tsBad : List Nat} {a_pool : Option (Nat × Nat)}
    {a_dredge : DredgeSt} {a_tileMap : Tab TileMap} {a_tileFreeW : BitVec 36} {a_tileFreeE : BitVec 36} {a_parts : Tab PartSt} {a_stallCyc : Tab W64}
    {a_stallCnt : Tab W64} {a_links : Tab LinkSt} {a_composing : List ComposeSt} {a_health : HealthSt} {a_stepResults : List StepRes} {a_clearPages :
    Tab Nat} {a_objNo : Nat} {a_bases : Tab BasisSt} {a_tasks : Tab TaskSt} {a_taskNo : Nat} {a_cancelled : List W64} {a_staging : Mem} {a_ports : Tab
    PortSt} {a_podOps : List PodOp} {a_podTxn : Nat} {a_fences : List FenceWait} {a_peerLost : W64} {a_beats : Tab W64} {a_repl : Tab ReplReg}
    {a_replVer : Tab W64} {a_replPosts : List (Nat × Post)} {a_replTag : Nat} {a_replQueue : List ReplUpd} {a_camW : CamHalf} {a_camE : CamHalf}
    {a_policers : Tab Policer} {a_layouts : Tab KvLayout} {a_tables : Tab TableSt} {a_tags : Tab Nat} {a_farWait : List FarQuery} {a_tableHeld : List
    Post} {a_barges : Tab Barge} {a_pageSrcs : Tab PageSrc} {a_dsts : List DstSt} {a_homes : Tab HomeRec} {a_xferNo : Nat} {a_mooredNo : Nat} {a_inbox
    : List (LockHdr × LockMsg)} {a_requests : Tab ReqSt} {a_ended : List (Fn × W64)} {a_badCancels : Nat} {a_classes : Tab ClassCfg} {a_budgets : Tab
    Budget} {a_programs : Tab Program} {a_steps : Tab StepSt} {a_qps : Tab QpSt} {a_qpDestroys : List (Post × Nat × Nat)} {a_qpClock : Nat} {a_towBad
    : List Nat} {a_xptCount : Tab W64} {a_out : List Sent} (e : a_numVfs = d.numVfs) (h1 : Memory.wf d.host = true → Memory.wf a_host = true) (h2 :
    Memory.wf d.hbm = true → Memory.wf a_hbm = true) (h3 : Memory.wf d.ts = true → Memory.wf a_ts = true) (h4 : Memory.wf d.staging = true → Memory.wf
    a_staging = true) (h : keptD d) : keptD (Dev.mk a_tclk a_boot a_flash a_pins a_regs a_ipHeld a_locks a_keys a_keyData a_numVfs a_vfEnable a_fns
    a_aer a_host a_hostBad a_hbm a_hbmBad a_ts a_tsBad a_pool a_dredge a_tileMap a_tileFreeW a_tileFreeE a_parts a_stallCyc a_stallCnt a_links
    a_composing a_health a_stepResults a_clearPages a_objNo a_bases a_tasks a_taskNo a_cancelled a_staging a_ports a_podOps a_podTxn a_fences
    a_peerLost a_beats a_repl a_replVer a_replPosts a_replTag a_replQueue a_camW a_camE a_policers a_layouts a_tables a_tags a_farWait a_tableHeld
    a_barges a_pageSrcs a_dsts a_homes a_xferNo a_mooredNo a_inbox a_requests a_ended a_badCancels a_classes a_budgets a_programs a_steps a_qps
    a_qpDestroys a_qpClock a_towBad a_xptCount a_out) := by
  subst e; exact kept_upd (d := d) (fun x => x) h1 h2 h3 h4 h

/-- A device that is written out field by field. -/
def isMk (_ : Dev) : Prop := True
theorem isMk_mk {a_tclk : W64} {a_boot : BootSt} {a_flash : FlashSt} {a_pins : PinSt} {a_regs : Tab (BitVec 128)} {a_ipHeld : Tab W64}
    {a_locks : Tri (BitVec 5)} {a_keys : Tab KeySlot} {a_keyData : BitVec 512} {a_numVfs : Nat} {a_vfEnable : Bool} {a_fns : Tab FnSt} {a_aer : List
    AerRec} {a_host : Mem} {a_hostBad : List Nat} {a_hbm : Mem} {a_hbmBad : List Nat} {a_ts : Mem} {a_tsBad : List Nat} {a_pool : Option (Nat × Nat)}
    {a_dredge : DredgeSt} {a_tileMap : Tab TileMap} {a_tileFreeW : BitVec 36} {a_tileFreeE : BitVec 36} {a_parts : Tab PartSt} {a_stallCyc : Tab W64}
    {a_stallCnt : Tab W64} {a_links : Tab LinkSt} {a_composing : List ComposeSt} {a_health : HealthSt} {a_stepResults : List StepRes} {a_clearPages :
    Tab Nat} {a_objNo : Nat} {a_bases : Tab BasisSt} {a_tasks : Tab TaskSt} {a_taskNo : Nat} {a_cancelled : List W64} {a_staging : Mem} {a_ports : Tab
    PortSt} {a_podOps : List PodOp} {a_podTxn : Nat} {a_fences : List FenceWait} {a_peerLost : W64} {a_beats : Tab W64} {a_repl : Tab ReplReg}
    {a_replVer : Tab W64} {a_replPosts : List (Nat × Post)} {a_replTag : Nat} {a_replQueue : List ReplUpd} {a_camW : CamHalf} {a_camE : CamHalf}
    {a_policers : Tab Policer} {a_layouts : Tab KvLayout} {a_tables : Tab TableSt} {a_tags : Tab Nat} {a_farWait : List FarQuery} {a_tableHeld : List
    Post} {a_barges : Tab Barge} {a_pageSrcs : Tab PageSrc} {a_dsts : List DstSt} {a_homes : Tab HomeRec} {a_xferNo : Nat} {a_mooredNo : Nat} {a_inbox
    : List (LockHdr × LockMsg)} {a_requests : Tab ReqSt} {a_ended : List (Fn × W64)} {a_badCancels : Nat} {a_classes : Tab ClassCfg} {a_budgets : Tab
    Budget} {a_programs : Tab Program} {a_steps : Tab StepSt} {a_qps : Tab QpSt} {a_qpDestroys : List (Post × Nat × Nat)} {a_qpClock : Nat} {a_towBad
    : List Nat} {a_xptCount : Tab W64} {a_out : List Sent} :
    isMk (Dev.mk a_tclk a_boot a_flash a_pins a_regs a_ipHeld a_locks a_keys a_keyData a_numVfs a_vfEnable a_fns
    a_aer a_host a_hostBad a_hbm a_hbmBad a_ts a_tsBad a_pool a_dredge a_tileMap a_tileFreeW a_tileFreeE a_parts a_stallCyc a_stallCnt a_links
    a_composing a_health a_stepResults a_clearPages a_objNo a_bases a_tasks a_taskNo a_cancelled a_staging a_ports a_podOps a_podTxn a_fences
    a_peerLost a_beats a_repl a_replVer a_replPosts a_replTag a_replQueue a_camW a_camE a_policers a_layouts a_tables a_tags a_farWait a_tableHeld
    a_barges a_pageSrcs a_dsts a_homes a_xferNo a_mooredNo a_inbox a_requests a_ended a_badCancels a_classes a_budgets a_programs a_steps a_qps
    a_qpDestroys a_qpClock a_towBad a_xptCount a_out) := trivial
theorem kept_guard {d : Dev} (_ : isMk d) (h : keptD d) : keptD d := h

theorem kept_foldl {α : Type} {f : Dev → α → Dev} {l : List α} {d : Dev} (h : keptD d) (hf : ∀ d x, keptD d → keptD (f d x)) :
    keptD (l.foldl f d) := by
  induction l generalizing d with
  | nil => exact h
  | cons x l ih => exact ih (hf d x h)

theorem kept_foldr {α : Type} {f : α → Dev → Dev} {l : List α} {d : Dev} (h : keptD d) (hf : ∀ d x, keptD d → keptD (f x d)) :
    keptD (l.foldr f d) := by
  induction l with
  | nil => exact h
  | cons x l ih => exact hf _ x ih

theorem kept_foldl_of {α β : Type} {f : Option (Dev × β) → α → Option (Dev × β)} {l : List α} {r : Option (Dev × β)} (h : keptOF r)
    (hf : ∀ r x, keptOF r → keptOF (f r x)) : keptOF (l.foldl f r) := by
  induction l generalizing r with
  | nil => exact h
  | cons x l ih => exact ih (hf r x h)

theorem kept_foldl_fst {α β : Type} {f : Dev × β → α → Dev × β} {l : List α} {p : Dev × β} (h : keptF p) (hf : ∀ p x, keptF p → keptF (f p x)) :
    keptF (l.foldl f p) := by
  induction l generalizing p with
  | nil => exact h
  | cons x l ih => exact ih (hf p x h)

theorem kept_foldl_snd {α β : Type} {f : β × Dev → α → β × Dev} {l : List α} {p : β × Dev} (h : keptS p) (hf : ∀ p x, keptS p → keptS (f p x)) :
    keptS (l.foldl f p) := by
  induction l generalizing p with
  | nil => exact h
  | cons x l ih => exact ih (hf p x h)

theorem kept_foldl_app {α : Type} {f : AppSt → α → AppSt} {l : List α} {a : AppSt} (h : keptAppSt a)
    (hf : ∀ a x, keptAppSt a → keptAppSt (f a x)) : keptAppSt (l.foldl f a) := by
  induction l generalizing a with
  | nil => exact h
  | cons x l ih => exact ih (hf a x h)

theorem wf_memPut' {m m' : Mem} (a : Nat) (b : Byte) (h : Memory.wf m = true → Memory.wf m' = true) :
    Memory.wf m = true → Memory.wf (memPut m' a b) = true := fun x => wf_memPut a b (h x)

end Sys2Proof.Machine
end

