-- ==== Sys2Proof/Laws/KeepBase.lean ====
section
/-! SUPPORT. Every operation keeps the invariant of Safety.lean, one lemma each: registers, rings, bring-up, flash and the heap. -/
namespace Sys2Proof.Machine
open Sys2Proof
-- each goal is closed by the first of its alternatives that applies, so an alternative may go unused
set_option linter.all false

theorem keep_setFn {d : Dev} {f : Fn} {y2 : FnSt} (h0 : keptD d) : keptD (setFn d f y2) := by
  unfold setFn
  repeat' first
    | with_reducible assumption
    | (refine kept_guard ?_ ?_; (focus (simp only [isMk_mk]; done)); with_reducible refine kept_mk rfl (fun h => h) (fun h => h) (fun h => h) (fun h => h) ?_)

theorem keep_setRing {d : Dev} {f : Fn} {r : Nat} {y3 : RingSt} (h0 : keptD d) : keptD (setRing d f r y3) := by
  unfold setRing
  repeat' first
    | with_reducible assumption
    | with_reducible apply keep_setFn

theorem keep_raiseFn {d : Dev} {f : Fn} {code : Nat} {src : W32} {detail : Nat} {extra : Nat} (h0 : keptD d) : keptD (raiseFn d f code src detail extra) := by
  unfold raiseFn
  repeat' first
    | with_reducible assumption
    | with_reducible apply keep_setFn
    | split

theorem keep_raise {d : Dev} {code : Nat} {src : W32} {detail : Nat} (h0 : keptD d) : keptD (raise d code src detail) := by
  unfold raise
  repeat' first
    | with_reducible assumption
    | with_reducible apply keep_raiseFn

theorem keep_assertAlert {d : Dev} (h0 : keptD d) : keptD (assertAlert d) := by
  unfold assertAlert
  repeat' first
    | with_reducible assumption
    | (refine kept_guard ?_ ?_; (focus (simp only [isMk_mk]; done)); with_reducible refine kept_mk rfl (fun h => h) (fun h => h) (fun h => h) (fun h => h) ?_)

theorem keep_send {d : Dev} {m : Sent} (h0 : keptD d) : keptD (send d m) := by
  unfold send
  repeat' first
    | with_reducible assumption
    | (refine kept_guard ?_ ?_; (focus (simp only [isMk_mk]; done)); with_reducible refine kept_mk rfl (fun h => h) (fun h => h) (fun h => h) (fun h => h) ?_)

theorem keep_completeRing {d : Dev} {f : Fn} {r : Nat} {idx : Nat} {tag : W32} {failTag : W32} {flags : W16} {st : Status} {detail : W64} {extra : W64} (h0 : keptD d) : keptD (completeRing d f r idx tag failTag flags st detail extra) := by
  unfold completeRing
  repeat' first
    | with_reducible assumption
    | with_reducible apply keep_setRing
    | split

theorem keep_completeStep {d : Dev} {part : PartId} {k : Nat} {st : Status} {detail : W64} {extra : W64} (h0 : keptD d) : keptD (completeStep d part k st detail extra) := by
  unfold completeStep
  repeat' first
    | with_reducible assumption
    | (refine kept_guard ?_ ?_; (focus (simp only [isMk_mk]; done)); with_reducible refine kept_mk rfl (fun h => h) (fun h => h) (fun h => h) (fun h => h) ?_)

theorem keep_complete {d : Dev} {p : Post} {st : Status} {detail : Nat} {extra : Nat} (h0 : keptD d) : keptD (complete d p st detail extra) := by
  unfold complete
  repeat' first
    | with_reducible assumption
    | with_reducible apply keep_completeRing
    | with_reducible apply keep_completeStep
    | split

theorem keep_takePost {d : Dev} {p : Post} (h0 : keptD d) : keptD (takePost d p) := by
  unfold takePost
  repeat' first
    | with_reducible assumption
    | with_reducible apply keep_setRing
    | with_reducible apply keep_setFn
    | (refine kept_guard ?_ ?_; (focus (simp only [isMk_mk]; done)); (with_reducible refine kept_mk rfl ?_ ?_ ?_ ?_ ?_); (focus ((intro hw; repeat' (first | with_reducible exact hw | with_reducible assumption | with_reducible apply wf_memWrite | with_reducible apply wf_memPut | with_reducible apply wf_memZeroRange | with_reducible exact wf_nil | (with_reducible apply wf_foldl; intro _ _ _))); done)); (focus ((intro hw; repeat' (first | with_reducible exact hw | with_reducible assumption | with_reducible apply wf_memWrite | with_reducible apply wf_memPut | with_reducible apply wf_memZeroRange | with_reducible exact wf_nil | (with_reducible apply wf_foldl; intro _ _ _))); done)); (focus ((intro hw; repeat' (first | with_reducible exact hw | with_reducible assumption | with_reducible apply wf_memWrite | with_reducible apply wf_memPut | with_reducible apply wf_memZeroRange | with_reducible exact wf_nil | (with_reducible apply wf_foldl; intro _ _ _))); done)); (focus ((intro hw; repeat' (first | with_reducible exact hw | with_reducible assumption | with_reducible apply wf_memWrite | with_reducible apply wf_memPut | with_reducible apply wf_memZeroRange | with_reducible exact wf_nil | (with_reducible apply wf_foldl; intro _ _ _))); done)))
    | split
    | dsimp only

theorem keep_keepPost {d : Dev} {p : Post} {why : Stall} (h0 : keptD d) : keptD (keepPost d p why) := by
  unfold keepPost
  repeat' first
    | with_reducible assumption
    | with_reducible apply keep_setRing
    | split

theorem keep_perform {op : Nat} {p : Post} {eff : Dev → Res} {d : Dev} (h2 : ∀ (x0 : Dev), keptD x0 → keptRes (eff x0)) (h3 : keptD d) : keptD (perform op p eff d) := by
  unfold perform
  repeat' first
    | with_reducible assumption
    | with_reducible apply h2
    | with_reducible apply keep_takePost
    | with_reducible apply keep_completeRing
    | with_reducible apply keep_complete
    | with_reducible apply keep_keepPost
    | with_reducible refine keptRes_done (by assumption) ?_
    | with_reducible refine keptRes_later (by assumption) ?_
    | with_reducible refine keptRes_wait (by assumption) ?_
    | split
    | dsimp only

theorem keep_answer {s : State} {d : Dev} (h0 : keptD s.dev) (h1 : keptD d) : keptOut (answer s d) := by
  unfold answer
  repeat' first
    | with_reducible assumption
    | with_reducible apply keptOut_next

theorem keep_cfgSet {d : Dev} {r : RegName} {v : BitVec 128} (h0 : keptD d) : keptD (cfgSet d r v) := by
  unfold cfgSet
  repeat' first
    | with_reducible assumption
    | (refine kept_guard ?_ ?_; (focus (simp only [isMk_mk]; done)); with_reducible refine kept_mk rfl (fun h => h) (fun h => h) (fun h => h) (fun h => h) ?_)

theorem keep_fireVector {d : Dev} {f : Fn} {vec : Nat} (h0 : keptD d) : keptD (fireVector d f vec) := by
  unfold fireVector
  repeat' first
    | with_reducible assumption
    | with_reducible apply keep_send
    | with_reducible apply keep_setFn
    | split
    | dsimp only

theorem keep_moderate {d : Dev} {f : Fn} {r : Nat} {irq : Bool} (h0 : keptD d) : keptD (moderate d f r irq) := by
  unfold moderate
  repeat' first
    | with_reducible assumption
    | with_reducible apply keep_fireVector
    | with_reducible apply keep_setRing
    | split
    | dsimp only

theorem keep_modTimerEnd {d : Dev} {f : Fn} {r : Nat} (h0 : keptD d) : keptD (modTimerEnd d f r) := by
  unfold modTimerEnd
  repeat' first
    | with_reducible assumption
    | with_reducible apply keep_fireVector
    | with_reducible apply keep_setRing
    | split
    | dsimp only

theorem keep_execRingModTimer {fn : Fn} {ring : Nat} {s : State} (h2 : keptD s.dev) : keptOut (execRingModTimer fn ring s) := by
  unfold execRingModTimer
  repeat' first
    | with_reducible assumption
    | with_reducible apply keep_answer
    | with_reducible apply keep_modTimerEnd

theorem keep_execMsixUnmask {fn : Fn} {vec : Nat} {s : State} (h2 : keptD s.dev) : keptOut (execMsixUnmask fn vec s) := by
  unfold execMsixUnmask
  repeat' first
    | with_reducible assumption
    | with_reducible apply keep_answer
    | with_reducible apply keep_setFn
    | with_reducible apply keep_fireVector
    | split
    | dsimp only

theorem keep_execBusMasterEnable {fn : Fn} {on : Bool} {s : State} (h2 : keptD s.dev) : keptOut (execBusMasterEnable fn on s) := by
  unfold execBusMasterEnable
  repeat' first
    | with_reducible assumption
    | with_reducible intro _
    | with_reducible apply keep_answer
    | with_reducible apply keep_setFn
    | with_reducible apply keep_fireVector
    | (with_reducible apply kept_foldl)
    | split
    | dsimp only

theorem keep_ringSetup {d : Dev} {f : Fn} {r : Nat} {R : RingSt} (h0 : keptD d) : keptD (ringSetup d f r R) := by
  unfold ringSetup
  repeat' first
    | with_reducible assumption
    | with_reducible apply keep_setRing
    | split

theorem keep_ringStop {d : Dev} {f : Fn} {r : Nat} (h0 : keptD d) : keptD (ringStop d f r) := by
  unfold ringStop
  repeat' first
    | with_reducible assumption
    | with_reducible apply keep_setRing
    | split
    | dsimp only

theorem keep_ringCtlWrite {d : Dev} {f : Fn} {r : Nat} {mask : W64} {val : W64} (h0 : keptD d) : keptD (ringCtlWrite d f r mask val) := by
  unfold ringCtlWrite
  repeat' first
    | with_reducible assumption
    | with_reducible apply keep_ringStop
    | with_reducible apply keep_ringSetup
    | with_reducible apply keep_setRing
    | split
    | dsimp only

theorem keep_ringBaseWrite {d : Dev} {f : Fn} {r : Nat} {mask : W64} {val : W64} (h0 : keptD d) : keptD (ringBaseWrite d f r mask val) := by
  unfold ringBaseWrite
  repeat' first
    | with_reducible assumption
    | with_reducible apply keep_setRing
    | split
    | dsimp only

theorem keep_ringModWrite {d : Dev} {f : Fn} {r : Nat} {mask : W64} {val : W64} (h0 : keptD d) : keptD (ringModWrite d f r mask val) := by
  unfold ringModWrite
  repeat' first
    | with_reducible assumption
    | with_reducible apply keep_setRing
    | split

theorem keep_execRingEnable {fn : Fn} {ring : Nat} {ctl : W64} {s : State} (h3 : keptD s.dev) : keptOut (execRingEnable fn ring ctl s) := by
  unfold execRingEnable
  repeat' first
    | with_reducible assumption
    | with_reducible apply keep_answer
    | with_reducible apply keep_ringCtlWrite
    | split

theorem keep_execRingDisable {fn : Fn} {ring : Nat} {s : State} (h2 : keptD s.dev) : keptOut (execRingDisable fn ring s) := by
  unfold execRingDisable
  repeat' first
    | with_reducible assumption
    | with_reducible apply keep_answer
    | with_reducible apply keep_ringCtlWrite
    | split

theorem keep_countBad {d : Dev} {f : Fn} {r : Nat} (h0 : keptD d) : keptD (countBad d f r) := by
  unfold countBad
  repeat' first
    | with_reducible assumption
    | with_reducible apply keep_setRing

theorem keep_doorbell {d : Dev} {f : Fn} {r : Nat} {value : W64} (h0 : keptD d) : keptD (doorbell d f r value) := by
  unfold doorbell
  repeat' first
    | with_reducible assumption
    | with_reducible apply keep_countBad
    | with_reducible apply keep_setRing
    | split
    | dsimp only

theorem keep_execProducedDoorbell {fn : Fn} {ring : Nat} {value : W64} {wrote : List (Nat × Byte)} {s : State} (h4 : keptD s.dev) : keptOut (execProducedDoorbell fn ring value wrote s) := by
  unfold execProducedDoorbell
  repeat' first
    | with_reducible assumption
    | with_reducible apply keep_answer
    | with_reducible apply keep_doorbell
    | (refine kept_guard ?_ ?_; (focus (simp only [isMk_mk]; done)); (with_reducible refine kept_mk rfl ?_ ?_ ?_ ?_ ?_); (focus ((intro hw; repeat' (first | with_reducible exact hw | with_reducible assumption | with_reducible apply wf_memWrite | with_reducible apply wf_memPut | with_reducible apply wf_memZeroRange | with_reducible exact wf_nil | (with_reducible apply wf_foldl; intro _ _ _))); done)); (focus ((intro hw; repeat' (first | with_reducible exact hw | with_reducible assumption | with_reducible apply wf_memWrite | with_reducible apply wf_memPut | with_reducible apply wf_memZeroRange | with_reducible exact wf_nil | (with_reducible apply wf_foldl; intro _ _ _))); done)); (focus ((intro hw; repeat' (first | with_reducible exact hw | with_reducible assumption | with_reducible apply wf_memWrite | with_reducible apply wf_memPut | with_reducible apply wf_memZeroRange | with_reducible exact wf_nil | (with_reducible apply wf_foldl; intro _ _ _))); done)); (focus ((intro hw; repeat' (first | with_reducible exact hw | with_reducible assumption | with_reducible apply wf_memWrite | with_reducible apply wf_memPut | with_reducible apply wf_memZeroRange | with_reducible exact wf_nil | (with_reducible apply wf_foldl; intro _ _ _))); done)))

theorem keep_execConsumedDoorbell {fn : Fn} {ring : Nat} {value : W64} {s : State} (h3 : keptD s.dev) : keptOut (execConsumedDoorbell fn ring value s) := by
  unfold execConsumedDoorbell
  repeat' first
    | with_reducible assumption
    | with_reducible apply keep_answer
    | with_reducible apply keep_doorbell

theorem keep_writeRecord {d : Dev} {f : Fn} {r : Nat} (h0 : keptD d) : keptD (writeRecord d f r) := by
  unfold writeRecord
  repeat' first
    | with_reducible assumption
    | with_reducible apply keep_setRing
    | with_reducible apply keep_moderate
    | (refine kept_guard ?_ ?_; (focus (simp only [isMk_mk]; done)); (with_reducible refine kept_mk rfl ?_ ?_ ?_ ?_ ?_); (focus ((intro hw; repeat' (first | with_reducible exact hw | with_reducible assumption | with_reducible apply wf_memWrite | with_reducible apply wf_memPut | with_reducible apply wf_memZeroRange | with_reducible exact wf_nil | (with_reducible apply wf_foldl; intro _ _ _))); done)); (focus ((intro hw; repeat' (first | with_reducible exact hw | with_reducible assumption | with_reducible apply wf_memWrite | with_reducible apply wf_memPut | with_reducible apply wf_memZeroRange | with_reducible exact wf_nil | (with_reducible apply wf_foldl; intro _ _ _))); done)); (focus ((intro hw; repeat' (first | with_reducible exact hw | with_reducible assumption | with_reducible apply wf_memWrite | with_reducible apply wf_memPut | with_reducible apply wf_memZeroRange | with_reducible exact wf_nil | (with_reducible apply wf_foldl; intro _ _ _))); done)); (focus ((intro hw; repeat' (first | with_reducible exact hw | with_reducible assumption | with_reducible apply wf_memWrite | with_reducible apply wf_memPut | with_reducible apply wf_memZeroRange | with_reducible exact wf_nil | (with_reducible apply wf_foldl; intro _ _ _))); done)))
    | split
    | dsimp only

theorem keep_execCompletionRecordWrite {fn : Fn} {ring : Nat} {s : State} (h2 : keptD s.dev) : keptOut (execCompletionRecordWrite fn ring s) := by
  unfold execCompletionRecordWrite
  repeat' first
    | with_reducible assumption
    | with_reducible apply keep_answer
    | with_reducible apply keep_writeRecord

theorem keep_loseEvent {d : Dev} {f : Fn} {rest : List EventRec} (h0 : keptD d) : keptD (loseEvent d f rest) := by
  unfold loseEvent
  repeat' first
    | with_reducible assumption
    | with_reducible apply keep_setFn

theorem keep_postEvent {d : Dev} {f : Fn} (h0 : keptD d) : keptD (postEvent d f) := by
  unfold postEvent
  repeat' first
    | with_reducible assumption
    | with_reducible apply keep_loseEvent
    | with_reducible apply keep_setFn
    | with_reducible apply keep_setRing
    | with_reducible apply keep_moderate
    | (refine kept_guard ?_ ?_; (focus (simp only [isMk_mk]; done)); (with_reducible refine kept_mk rfl ?_ ?_ ?_ ?_ ?_); (focus ((intro hw; repeat' (first | with_reducible exact hw | with_reducible assumption | with_reducible apply wf_memWrite | with_reducible apply wf_memPut | with_reducible apply wf_memZeroRange | with_reducible exact wf_nil | (with_reducible apply wf_foldl; intro _ _ _))); done)); (focus ((intro hw; repeat' (first | with_reducible exact hw | with_reducible assumption | with_reducible apply wf_memWrite | with_reducible apply wf_memPut | with_reducible apply wf_memZeroRange | with_reducible exact wf_nil | (with_reducible apply wf_foldl; intro _ _ _))); done)); (focus ((intro hw; repeat' (first | with_reducible exact hw | with_reducible assumption | with_reducible apply wf_memWrite | with_reducible apply wf_memPut | with_reducible apply wf_memZeroRange | with_reducible exact wf_nil | (with_reducible apply wf_foldl; intro _ _ _))); done)); (focus ((intro hw; repeat' (first | with_reducible exact hw | with_reducible assumption | with_reducible apply wf_memWrite | with_reducible apply wf_memPut | with_reducible apply wf_memZeroRange | with_reducible exact wf_nil | (with_reducible apply wf_foldl; intro _ _ _))); done)))
    | split
    | dsimp only

theorem keep_execEventPost {fn : Fn} {s : State} (h1 : keptD s.dev) : keptOut (execEventPost fn s) := by
  unfold execEventPost
  repeat' first
    | with_reducible assumption
    | with_reducible apply keep_answer
    | with_reducible apply keep_postEvent

theorem keep_deviceReset {d : Dev} (h0 : keptD d) : keptD (deviceReset d) := by
  unfold deviceReset
  simp only [keptD, devOk, Bool.and_eq_true, decide_eq_true_eq] at h0
  simp only [keptD, devOk, Bool.and_eq_true, decide_eq_true_eq]; exact ⟨⟨⟨⟨h0.1.1.1.1, rfl⟩, rfl⟩, rfl⟩, by decide⟩

theorem keep_resetEvent {d : Dev} (h0 : keptD d) : keptD (resetEvent d) := by
  unfold resetEvent
  repeat' first
    | with_reducible assumption
    | with_reducible apply keep_deviceReset
    | split

theorem keep_execPowerOnDetect {s : State} (h0 : keptD s.dev) : keptOut (execPowerOnDetect s) := by
  unfold execPowerOnDetect
  simp only [keptD, devOk, Bool.and_eq_true, decide_eq_true_eq] at h0
  simp only [answer, keptOut, keptD, devOk, Bool.and_eq_true, decide_eq_true_eq]; exact ⟨⟨⟨⟨h0.1.1.1.1, rfl⟩, rfl⟩, rfl⟩, by decide⟩

theorem keep_execSysRstNLow {s : State} (h0 : keptD s.dev) : keptOut (execSysRstNLow s) := by
  unfold execSysRstNLow
  repeat' first
    | with_reducible assumption
    | with_reducible apply keep_answer
    | with_reducible apply keep_resetEvent

theorem keep_execPwrOkLow {s : State} (h0 : keptD s.dev) : keptOut (execPwrOkLow s) := by
  unfold execPwrOkLow
  repeat' first
    | with_reducible assumption
    | with_reducible apply keep_resetEvent
    | with_reducible apply keep_answer
    | (refine kept_guard ?_ ?_; (focus (simp only [isMk_mk]; done)); with_reducible refine kept_mk rfl (fun h => h) (fun h => h) (fun h => h) (fun h => h) ?_)

theorem keep_execSuppliesGood {s : State} (h0 : keptD s.dev) : keptOut (execSuppliesGood s) := by
  unfold execSuppliesGood
  repeat' first
    | with_reducible assumption
    | with_reducible apply keep_answer
    | (refine kept_guard ?_ ?_; (focus (simp only [isMk_mk]; done)); with_reducible refine kept_mk rfl (fun h => h) (fun h => h) (fun h => h) (fun h => h) ?_)

theorem keep_execResetRelease {s : State} (h0 : keptD s.dev) : keptOut (execResetRelease s) := by
  unfold execResetRelease
  repeat' first
    | with_reducible assumption
    | with_reducible apply keep_answer
    | (refine kept_guard ?_ ?_; (focus (simp only [isMk_mk]; done)); (with_reducible refine kept_mk rfl ?_ ?_ ?_ ?_ ?_); (focus ((intro hw; repeat' (first | with_reducible exact hw | with_reducible assumption | with_reducible apply wf_memWrite | with_reducible apply wf_memPut | with_reducible apply wf_memZeroRange | with_reducible exact wf_nil | (with_reducible apply wf_foldl; intro _ _ _))); done)); (focus ((intro hw; repeat' (first | with_reducible exact hw | with_reducible assumption | with_reducible apply wf_memWrite | with_reducible apply wf_memPut | with_reducible apply wf_memZeroRange | with_reducible exact wf_nil | (with_reducible apply wf_foldl; intro _ _ _))); done)); (focus ((intro hw; repeat' (first | with_reducible exact hw | with_reducible assumption | with_reducible apply wf_memWrite | with_reducible apply wf_memPut | with_reducible apply wf_memZeroRange | with_reducible exact wf_nil | (with_reducible apply wf_foldl; intro _ _ _))); done)); (focus ((intro hw; repeat' (first | with_reducible exact hw | with_reducible assumption | with_reducible apply wf_memWrite | with_reducible apply wf_memPut | with_reducible apply wf_memZeroRange | with_reducible exact wf_nil | (with_reducible apply wf_foldl; intro _ _ _))); done)))
    | split

theorem keep_execReferenceCheck {sysref : Bool} {fref : Bool} {peRefclk : Bool} {s : State} (h3 : keptD s.dev) : keptOut (execReferenceCheck sysref fref peRefclk s) := by
  unfold execReferenceCheck
  repeat' first
    | with_reducible assumption
    | with_reducible apply keep_answer
    | with_reducible apply keep_resetEvent
    | (refine kept_guard ?_ ?_; (focus (simp only [isMk_mk]; done)); with_reducible refine kept_mk rfl (fun h => h) (fun h => h) (fun h => h) (fun h => h) ?_)
    | split
    | dsimp only

theorem keep_execOptionLoad {s : State} (h0 : keptD s.dev) : keptOut (execOptionLoad s) := by
  unfold execOptionLoad
  repeat' first
    | with_reducible assumption
    | with_reducible apply keep_answer
    | (refine kept_guard ?_ ?_; (focus (simp only [isMk_mk]; done)); with_reducible refine kept_mk rfl (fun h => h) (fun h => h) (fun h => h) (fun h => h) ?_)
    | split
    | dsimp only

theorem keep_execPllLock {dom : Domain} {s : State} (h1 : keptD s.dev) : keptOut (execPllLock dom s) := by
  unfold execPllLock
  repeat' first
    | with_reducible assumption
    | with_reducible apply keep_answer
    | (refine kept_guard ?_ ?_; (focus (simp only [isMk_mk]; done)); with_reducible refine kept_mk rfl (fun h => h) (fun h => h) (fun h => h) (fun h => h) ?_)
    | split
    | dsimp only

theorem keep_execDomainRelease {dom : Domain} {s : State} (h1 : keptD s.dev) : keptOut (execDomainRelease dom s) := by
  unfold execDomainRelease
  repeat' first
    | with_reducible assumption
    | with_reducible apply keep_answer
    | (refine kept_guard ?_ ?_; (focus (simp only [isMk_mk]; done)); with_reducible refine kept_mk rfl (fun h => h) (fun h => h) (fun h => h) (fun h => h) ?_)
    | split
    | dsimp only

theorem keep_execImageVerify {s : State} (h0 : keptD s.dev) : keptOut (execImageVerify s) := by
  unfold execImageVerify
  repeat' first
    | with_reducible assumption
    | with_reducible apply keep_answer
    | (refine kept_guard ?_ ?_; (focus (simp only [isMk_mk]; done)); with_reducible refine kept_mk rfl (fun h => h) (fun h => h) (fun h => h) (fun h => h) ?_)
    | split
    | dsimp only

theorem keep_execEndpointReady {s : State} (h0 : keptD s.dev) : keptOut (execEndpointReady s) := by
  unfold execEndpointReady
  repeat' first
    | with_reducible assumption
    | with_reducible apply keep_answer
    | (refine kept_guard ?_ ?_; (focus (simp only [isMk_mk]; done)); (with_reducible refine kept_mk rfl ?_ ?_ ?_ ?_ ?_); (focus ((intro hw; repeat' (first | with_reducible exact hw | with_reducible assumption | with_reducible apply wf_memWrite | with_reducible apply wf_memPut | with_reducible apply wf_memZeroRange | with_reducible exact wf_nil | (with_reducible apply wf_foldl; intro _ _ _))); done)); (focus ((intro hw; repeat' (first | with_reducible exact hw | with_reducible assumption | with_reducible apply wf_memWrite | with_reducible apply wf_memPut | with_reducible apply wf_memZeroRange | with_reducible exact wf_nil | (with_reducible apply wf_foldl; intro _ _ _))); done)); (focus ((intro hw; repeat' (first | with_reducible exact hw | with_reducible assumption | with_reducible apply wf_memWrite | with_reducible apply wf_memPut | with_reducible apply wf_memZeroRange | with_reducible exact wf_nil | (with_reducible apply wf_foldl; intro _ _ _))); done)); (focus ((intro hw; repeat' (first | with_reducible exact hw | with_reducible assumption | with_reducible apply wf_memWrite | with_reducible apply wf_memPut | with_reducible apply wf_memZeroRange | with_reducible exact wf_nil | (with_reducible apply wf_foldl; intro _ _ _))); done)))
    | split

theorem keep_execHbmTrainingDone {failed : BitVec 12} {s : State} (h1 : keptD s.dev) : keptOut (execHbmTrainingDone failed s) := by
  unfold execHbmTrainingDone
  repeat' first
    | with_reducible assumption
    | with_reducible apply keep_answer
    | with_reducible apply keep_assertAlert
    | (refine kept_guard ?_ ?_; (focus (simp only [isMk_mk]; done)); with_reducible refine kept_mk rfl (fun h => h) (fun h => h) (fun h => h) (fun h => h) ?_)
    | split
    | dsimp only

theorem keep_execHbmClearDone {s : State} (h0 : keptD s.dev) : keptOut (execHbmClearDone s) := by
  unfold execHbmClearDone
  repeat' first
    | with_reducible assumption
    | with_reducible apply keep_answer
    | (refine kept_guard ?_ ?_; (focus (simp only [isMk_mk]; done)); (with_reducible refine kept_mk rfl ?_ ?_ ?_ ?_ ?_); (focus ((intro hw; repeat' (first | with_reducible exact hw | with_reducible assumption | with_reducible apply wf_memWrite | with_reducible apply wf_memPut | with_reducible apply wf_memZeroRange | with_reducible exact wf_nil | (with_reducible apply wf_foldl; intro _ _ _))); done)); (focus ((intro hw; repeat' (first | with_reducible exact hw | with_reducible assumption | with_reducible apply wf_memWrite | with_reducible apply wf_memPut | with_reducible apply wf_memZeroRange | with_reducible exact wf_nil | (with_reducible apply wf_foldl; intro _ _ _))); done)); (focus ((intro hw; repeat' (first | with_reducible exact hw | with_reducible assumption | with_reducible apply wf_memWrite | with_reducible apply wf_memPut | with_reducible apply wf_memZeroRange | with_reducible exact wf_nil | (with_reducible apply wf_foldl; intro _ _ _))); done)); (focus ((intro hw; repeat' (first | with_reducible exact hw | with_reducible assumption | with_reducible apply wf_memWrite | with_reducible apply wf_memPut | with_reducible apply wf_memZeroRange | with_reducible exact wf_nil | (with_reducible apply wf_foldl; intro _ _ _))); done)))
    | split
    | dsimp only

theorem keep_execThermTrip {s : State} (h0 : keptD s.dev) : keptOut (execThermTrip s) := by
  unfold execThermTrip
  repeat' first
    | with_reducible assumption
    | with_reducible apply keep_answer
    | (refine kept_guard ?_ ?_; (focus (simp only [isMk_mk]; done)); with_reducible refine kept_mk rfl (fun h => h) (fun h => h) (fun h => h) (fun h => h) ?_)

theorem keep_optWrite {p : Post} {readBackOk : Bool} {d : Dev} (h2 : keptD d) : keptRes (optWrite p readBackOk d) := by
  unfold optWrite
  repeat' first
    | with_reducible assumption
    | with_reducible apply keptRes_plain
    | (refine kept_guard ?_ ?_; (focus (simp only [isMk_mk]; done)); with_reducible refine kept_mk rfl (fun h => h) (fun h => h) (fun h => h) (fun h => h) ?_)
    | split
    | dsimp only

theorem keep_execOptWrite {p : Post} {readBackOk : Bool} {s : State} (h2 : keptD s.dev) : keptOut (execOptWrite p readBackOk s) := by
  unfold execOptWrite
  repeat' first
    | with_reducible assumption
    | with_reducible intro _
    | with_reducible apply keep_answer
    | with_reducible apply keep_perform
    | with_reducible apply keep_optWrite
    | split

theorem keep_fwWrite {p : Post} {img : Image} {d : Dev} (h2 : keptD d) : keptRes (fwWrite p img d) := by
  unfold fwWrite
  repeat' first
    | with_reducible assumption
    | with_reducible apply keptRes_plain
    | (refine kept_guard ?_ ?_; (focus (simp only [isMk_mk]; done)); with_reducible refine kept_mk rfl (fun h => h) (fun h => h) (fun h => h) (fun h => h) ?_)
    | split
    | dsimp only

theorem keep_execFwWrite {p : Post} {img : Image} {s : State} (h2 : keptD s.dev) : keptOut (execFwWrite p img s) := by
  unfold execFwWrite
  repeat' first
    | with_reducible assumption
    | with_reducible intro _
    | with_reducible apply keep_answer
    | with_reducible apply keep_perform
    | with_reducible apply keep_fwWrite
    | split

theorem keep_attest {p : Post} {d : Dev} (h1 : keptD d) : keptRes (attest p d) := by
  unfold attest
  repeat' first
    | with_reducible assumption
    | with_reducible apply keptRes_plain
    | (refine kept_guard ?_ ?_; (focus (simp only [isMk_mk]; done)); (with_reducible refine kept_mk rfl ?_ ?_ ?_ ?_ ?_); (focus ((intro hw; repeat' (first | with_reducible exact hw | with_reducible assumption | with_reducible apply wf_memWrite | with_reducible apply wf_memPut | with_reducible apply wf_memZeroRange | with_reducible exact wf_nil | (with_reducible apply wf_foldl; intro _ _ _))); done)); (focus ((intro hw; repeat' (first | with_reducible exact hw | with_reducible assumption | with_reducible apply wf_memWrite | with_reducible apply wf_memPut | with_reducible apply wf_memZeroRange | with_reducible exact wf_nil | (with_reducible apply wf_foldl; intro _ _ _))); done)); (focus ((intro hw; repeat' (first | with_reducible exact hw | with_reducible assumption | with_reducible apply wf_memWrite | with_reducible apply wf_memPut | with_reducible apply wf_memZeroRange | with_reducible exact wf_nil | (with_reducible apply wf_foldl; intro _ _ _))); done)); (focus ((intro hw; repeat' (first | with_reducible exact hw | with_reducible assumption | with_reducible apply wf_memWrite | with_reducible apply wf_memPut | with_reducible apply wf_memZeroRange | with_reducible exact wf_nil | (with_reducible apply wf_foldl; intro _ _ _))); done)))
    | split

theorem keep_execAttest {p : Post} {s : State} (h1 : keptD s.dev) : keptOut (execAttest p s) := by
  unfold execAttest
  repeat' first
    | with_reducible assumption
    | with_reducible intro _
    | with_reducible apply keep_answer
    | with_reducible apply keep_perform
    | with_reducible apply keep_attest

theorem keep_jCommit {d : Dev} {entries : List JEntry} (h0 : keptD d) : keptD (jCommit d entries) := by
  unfold jCommit
  repeat' first
    | with_reducible assumption
    | (refine kept_guard ?_ ?_; (focus (simp only [isMk_mk]; done)); (with_reducible refine kept_mk rfl ?_ ?_ ?_ ?_ ?_); (focus ((intro hw; repeat' (first | with_reducible exact hw | with_reducible assumption | with_reducible apply wf_memWrite | with_reducible apply wf_memPut | with_reducible apply wf_memZeroRange | with_reducible exact wf_nil | (with_reducible apply wf_foldl; intro _ _ _))); done)); (focus ((intro hw; repeat' (first | with_reducible exact hw | with_reducible assumption | with_reducible apply wf_memWrite | with_reducible apply wf_memPut | with_reducible apply wf_memZeroRange | with_reducible exact wf_nil | (with_reducible apply wf_foldl; intro _ _ _))); done)); (focus ((intro hw; repeat' (first | with_reducible exact hw | with_reducible assumption | with_reducible apply wf_memWrite | with_reducible apply wf_memPut | with_reducible apply wf_memZeroRange | with_reducible exact wf_nil | (with_reducible apply wf_foldl; intro _ _ _))); done)); (focus ((intro hw; repeat' (first | with_reducible exact hw | with_reducible assumption | with_reducible apply wf_memWrite | with_reducible apply wf_memPut | with_reducible apply wf_memZeroRange | with_reducible exact wf_nil | (with_reducible apply wf_foldl; intro _ _ _))); done)))
    | split
    | dsimp only

theorem keep_execJournalCommit {entries : List JEntry} {s : State} (h1 : keptD s.dev) : keptOut (execJournalCommit entries s) := by
  unfold execJournalCommit
  repeat' first
    | with_reducible assumption
    | with_reducible apply keep_answer
    | with_reducible apply keep_jCommit

theorem keep_jrnlRead {p : Post} {d : Dev} (h1 : keptD d) : keptRes (jrnlRead p d) := by
  unfold jrnlRead
  repeat' first
    | with_reducible assumption
    | with_reducible apply keptRes_plain
    | with_reducible apply keptRes_done'
    | (refine kept_guard ?_ ?_; (focus (simp only [isMk_mk]; done)); (with_reducible refine kept_mk rfl ?_ ?_ ?_ ?_ ?_); (focus ((intro hw; repeat' (first | with_reducible exact hw | with_reducible assumption | with_reducible apply wf_memWrite | with_reducible apply wf_memPut | with_reducible apply wf_memZeroRange | with_reducible exact wf_nil | (with_reducible apply wf_foldl; intro _ _ _))); done)); (focus ((intro hw; repeat' (first | with_reducible exact hw | with_reducible assumption | with_reducible apply wf_memWrite | with_reducible apply wf_memPut | with_reducible apply wf_memZeroRange | with_reducible exact wf_nil | (with_reducible apply wf_foldl; intro _ _ _))); done)); (focus ((intro hw; repeat' (first | with_reducible exact hw | with_reducible assumption | with_reducible apply wf_memWrite | with_reducible apply wf_memPut | with_reducible apply wf_memZeroRange | with_reducible exact wf_nil | (with_reducible apply wf_foldl; intro _ _ _))); done)); (focus ((intro hw; repeat' (first | with_reducible exact hw | with_reducible assumption | with_reducible apply wf_memWrite | with_reducible apply wf_memPut | with_reducible apply wf_memZeroRange | with_reducible exact wf_nil | (with_reducible apply wf_foldl; intro _ _ _))); done)))
    | split
    | dsimp only

theorem keep_execJrnlRead {p : Post} {s : State} (h1 : keptD s.dev) : keptOut (execJrnlRead p s) := by
  unfold execJrnlRead
  repeat' first
    | with_reducible assumption
    | with_reducible intro _
    | with_reducible apply keep_answer
    | with_reducible apply keep_perform
    | with_reducible apply keep_jrnlRead
    | split

theorem keep_setPart {d : Dev} {n : Nat} {y2 : PartSt} (h0 : keptD d) : keptD (setPart d n y2) := by
  unfold setPart
  repeat' first
    | with_reducible assumption
    | (refine kept_guard ?_ ?_; (focus (simp only [isMk_mk]; done)); with_reducible refine kept_mk rfl (fun h => h) (fun h => h) (fun h => h) (fun h => h) ?_)

theorem keep_heapPlace {d : Dev} {n : Nat} {kind : HeapKind} {id : Nat} {size : Nat} (h0 : keptD d) : keptOF (heapPlace d n kind id size) := by
  unfold heapPlace
  repeat' first
    | with_reducible assumption
    | with_reducible intro _
    | with_reducible apply keep_setPart
    | with_reducible apply keptOF_intro
    | (with_reducible apply keptOF_map)
    | split
    | with_reducible apply keptF_intro
    | dsimp only

theorem keep_heapPlaces {n : Nat} {y1 : List (HeapKind × Nat × Nat)} {y2 : Dev} {y3 : Nat} (h2 : keptD y2) : keptAlloc (heapPlaces n y1 y2 y3) := by
  induction y1 generalizing y2 y3 with
  | nil => exact h2
  | cons e l ih =>
    obtain ⟨kind, id, size⟩ := e
    unfold heapPlaces
    split
    · trivial
    · exact ih (keptOF_some (by assumption) (keep_heapPlace h2))

theorem keep_clearRun {d : Dev} {pg : Nat} {n : Nat} (h0 : keptD d) : keptD (clearRun d pg n) := by
  unfold clearRun
  repeat' first
    | with_reducible assumption
    | (refine kept_guard ?_ ?_; (focus (simp only [isMk_mk]; done)); (with_reducible refine kept_mk rfl ?_ ?_ ?_ ?_ ?_); (focus ((intro hw; repeat' (first | with_reducible exact hw | with_reducible assumption | with_reducible apply wf_memWrite | with_reducible apply wf_memPut | with_reducible apply wf_memZeroRange | with_reducible exact wf_nil | (with_reducible apply wf_foldl; intro _ _ _))); done)); (focus ((intro hw; repeat' (first | with_reducible exact hw | with_reducible assumption | with_reducible apply wf_memWrite | with_reducible apply wf_memPut | with_reducible apply wf_memZeroRange | with_reducible exact wf_nil | (with_reducible apply wf_foldl; intro _ _ _))); done)); (focus ((intro hw; repeat' (first | with_reducible exact hw | with_reducible assumption | with_reducible apply wf_memWrite | with_reducible apply wf_memPut | with_reducible apply wf_memZeroRange | with_reducible exact wf_nil | (with_reducible apply wf_foldl; intro _ _ _))); done)); (focus ((intro hw; repeat' (first | with_reducible exact hw | with_reducible assumption | with_reducible apply wf_memWrite | with_reducible apply wf_memPut | with_reducible apply wf_memZeroRange | with_reducible exact wf_nil | (with_reducible apply wf_foldl; intro _ _ _))); done)))

theorem keep_heapFree {d : Dev} {n : Nat} {id : Nat} (h0 : keptD d) : keptD (heapFree d n id) := by
  unfold heapFree
  repeat' first
    | with_reducible assumption
    | with_reducible intro _
    | with_reducible apply keep_setPart
    | with_reducible apply keep_clearRun
    | (with_reducible apply kept_foldl)

theorem keep_freshObj {d : Dev} (h0 : keptD d) : keptS (freshObj d) := by
  unfold freshObj
  repeat' first
    | with_reducible assumption
    | (refine kept_guard ?_ ?_; (focus (simp only [isMk_mk]; done)); (with_reducible refine kept_mk rfl ?_ ?_ ?_ ?_ ?_); (focus ((intro hw; repeat' (first | with_reducible exact hw | with_reducible assumption | with_reducible apply wf_memWrite | with_reducible apply wf_memPut | with_reducible apply wf_memZeroRange | with_reducible exact wf_nil | (with_reducible apply wf_foldl; intro _ _ _))); done)); (focus ((intro hw; repeat' (first | with_reducible exact hw | with_reducible assumption | with_reducible apply wf_memWrite | with_reducible apply wf_memPut | with_reducible apply wf_memZeroRange | with_reducible exact wf_nil | (with_reducible apply wf_foldl; intro _ _ _))); done)); (focus ((intro hw; repeat' (first | with_reducible exact hw | with_reducible assumption | with_reducible apply wf_memWrite | with_reducible apply wf_memPut | with_reducible apply wf_memZeroRange | with_reducible exact wf_nil | (with_reducible apply wf_foldl; intro _ _ _))); done)); (focus ((intro hw; repeat' (first | with_reducible exact hw | with_reducible assumption | with_reducible apply wf_memWrite | with_reducible apply wf_memPut | with_reducible apply wf_memZeroRange | with_reducible exact wf_nil | (with_reducible apply wf_foldl; intro _ _ _))); done)))

theorem keep_spillPlace {avail : List (Nat × Nat)} {d : Dev} {n : Nat} {kind : HeapKind} {id : Nat} {size : Nat} (h1 : keptD d) : keptOF (spillPlace avail d n kind id size) := by
  unfold spillPlace
  repeat' first
    | with_reducible assumption
    | with_reducible intro _
    | with_reducible apply keep_setPart
    | with_reducible apply keptOF_intro
    | (with_reducible apply keptOF_map)
    | split
    | with_reducible apply keptF_intro
    | dsimp only

theorem keep_copyOut {avail : List (Nat × Nat)} {n : Nat} {d : Dev} {id : Nat} (h2 : keptD d) : keptOF (copyOut avail n d id) := by
  unfold copyOut
  repeat' first
    | with_reducible assumption
    | with_reducible intro _
    | with_reducible apply keep_freshObj
    | with_reducible apply keep_spillPlace
    | with_reducible apply keptOF_none
    | with_reducible refine keptS_mk (by assumption) ?_
    | (with_reducible apply keptOF_mapOF)
    | (refine kept_guard ?_ ?_; (focus (simp only [isMk_mk]; done)); (with_reducible refine kept_mk rfl ?_ ?_ ?_ ?_ ?_); (focus ((intro hw; repeat' (first | with_reducible exact hw | with_reducible assumption | with_reducible apply wf_memWrite | with_reducible apply wf_memPut | with_reducible apply wf_memZeroRange | with_reducible exact wf_nil | (with_reducible apply wf_foldl; intro _ _ _))); done)); (focus ((intro hw; repeat' (first | with_reducible exact hw | with_reducible assumption | with_reducible apply wf_memWrite | with_reducible apply wf_memPut | with_reducible apply wf_memZeroRange | with_reducible exact wf_nil | (with_reducible apply wf_foldl; intro _ _ _))); done)); (focus ((intro hw; repeat' (first | with_reducible exact hw | with_reducible assumption | with_reducible apply wf_memWrite | with_reducible apply wf_memPut | with_reducible apply wf_memZeroRange | with_reducible exact wf_nil | (with_reducible apply wf_foldl; intro _ _ _))); done)); (focus ((intro hw; repeat' (first | with_reducible exact hw | with_reducible assumption | with_reducible apply wf_memWrite | with_reducible apply wf_memPut | with_reducible apply wf_memZeroRange | with_reducible exact wf_nil | (with_reducible apply wf_foldl; intro _ _ _))); done)))
    | split
    | dsimp only

theorem keep_copiesOut {avail : List (Nat × Nat)} {n : Nat} {y2 : List Nat} {y3 : Dev} (h3 : keptD y3) : keptOF (copiesOut avail n y2 y3) := by
  induction y2 generalizing y3 with
  | nil =>
    unfold copiesOut
    repeat' first
      | with_reducible assumption
      | with_reducible apply keptOF_intro
      | with_reducible apply keptF_intro
  | cons e l ih =>
    unfold copiesOut
    repeat' first
      | with_reducible assumption
      | with_reducible intro _
      | with_reducible apply ih
      | with_reducible apply keep_copyOut
      | with_reducible apply keptOF_none
      | with_reducible refine keptOF_some (by assumption) ?_
      | (with_reducible apply keptOF_mapOF)
      | split
      | with_reducible apply keptF_intro

theorem keep_tableToHost {avail : List (Nat × Nat)} {d : Dev} {k : Nat} {t : TableSt} (h1 : keptD d) : keptO (tableToHost avail d k t) := by
  unfold tableToHost
  repeat' first
    | with_reducible assumption
    | with_reducible intro _
    | with_reducible apply keep_heapFree
    | with_reducible apply keep_copiesOut
    | (with_reducible apply kept_foldl)
    | (with_reducible apply keptO_mapOF)
    | (refine kept_guard ?_ ?_; (focus (simp only [isMk_mk]; done)); (with_reducible refine kept_mk rfl ?_ ?_ ?_ ?_ ?_); (focus ((intro hw; repeat' (first | with_reducible exact hw | with_reducible assumption | with_reducible apply wf_memWrite | with_reducible apply wf_memPut | with_reducible apply wf_memZeroRange | with_reducible exact wf_nil | (with_reducible apply wf_foldl; intro _ _ _))); done)); (focus ((intro hw; repeat' (first | with_reducible exact hw | with_reducible assumption | with_reducible apply wf_memWrite | with_reducible apply wf_memPut | with_reducible apply wf_memZeroRange | with_reducible exact wf_nil | (with_reducible apply wf_foldl; intro _ _ _))); done)); (focus ((intro hw; repeat' (first | with_reducible exact hw | with_reducible assumption | with_reducible apply wf_memWrite | with_reducible apply wf_memPut | with_reducible apply wf_memZeroRange | with_reducible exact wf_nil | (with_reducible apply wf_foldl; intro _ _ _))); done)); (focus ((intro hw; repeat' (first | with_reducible exact hw | with_reducible assumption | with_reducible apply wf_memWrite | with_reducible apply wf_memPut | with_reducible apply wf_memZeroRange | with_reducible exact wf_nil | (with_reducible apply wf_foldl; intro _ _ _))); done)))
    | split

theorem keep_evictOne {d : Dev} (h0 : keptD d) : keptO (evictOne d) := by
  unfold evictOne
  repeat' first
    | with_reducible assumption
    | with_reducible intro _
    | with_reducible apply keep_tableToHost
    | with_reducible apply keptO_none
    | (with_reducible apply keptO_mapO)
    | (refine kept_guard ?_ ?_; (focus (simp only [isMk_mk]; done)); (with_reducible refine kept_mk rfl ?_ ?_ ?_ ?_ ?_); (focus ((intro hw; repeat' (first | with_reducible exact hw | with_reducible assumption | with_reducible apply wf_memWrite | with_reducible apply wf_memPut | with_reducible apply wf_memZeroRange | with_reducible exact wf_nil | (with_reducible apply wf_foldl; intro _ _ _))); done)); (focus ((intro hw; repeat' (first | with_reducible exact hw | with_reducible assumption | with_reducible apply wf_memWrite | with_reducible apply wf_memPut | with_reducible apply wf_memZeroRange | with_reducible exact wf_nil | (with_reducible apply wf_foldl; intro _ _ _))); done)); (focus ((intro hw; repeat' (first | with_reducible exact hw | with_reducible assumption | with_reducible apply wf_memWrite | with_reducible apply wf_memPut | with_reducible apply wf_memZeroRange | with_reducible exact wf_nil | (with_reducible apply wf_foldl; intro _ _ _))); done)); (focus ((intro hw; repeat' (first | with_reducible exact hw | with_reducible assumption | with_reducible apply wf_memWrite | with_reducible apply wf_memPut | with_reducible apply wf_memZeroRange | with_reducible exact wf_nil | (with_reducible apply wf_foldl; intro _ _ _))); done)))
    | split

theorem keep_placeEvict {n : Nat} {l : List (HeapKind × Nat × Nat)} {y2 : Nat} {y3 : Dev} (h3 : keptD y3) : keptAlloc (placeEvict n l y2 y3) := by
  induction y2 generalizing y3 with
  | zero =>
    unfold placeEvict
    repeat' first
      | with_reducible assumption
      | with_reducible apply keep_heapPlaces
  | succ k ih =>
    unfold placeEvict
    repeat' first
      | with_reducible assumption
      | with_reducible apply ih
      | with_reducible apply keep_heapPlaces
      | with_reducible apply keep_evictOne
      | with_reducible apply keptAlloc_lacks
      | with_reducible apply keptAlloc_ok'
      | with_reducible refine keptAlloc_ok (by assumption) ?_
      | with_reducible refine keptO_some (by assumption) ?_
      | split

theorem keep_heapAllocs {d : Dev} {n : Nat} {l : List (HeapKind × Nat × Nat)} (h0 : keptD d) : keptAlloc (heapAllocs d n l) := by
  unfold heapAllocs
  repeat' first
    | with_reducible assumption
    | with_reducible apply keep_placeEvict
    | with_reducible apply keptAlloc_lacks
    | with_reducible apply keptAlloc_ok'
    | with_reducible refine keptAlloc_ok (by assumption) ?_
    | split
    | dsimp only

theorem keep_heapAlloc {d : Dev} {n : Nat} {kind : HeapKind} {id : Nat} {size : Nat} (h0 : keptD d) : keptAlloc (heapAlloc d n kind id size) := by
  unfold heapAlloc
  repeat' first
    | with_reducible assumption
    | with_reducible apply keep_heapAllocs

end Sys2Proof.Machine
end

