-- ==== Sys2Proof/Laws/KeepTask.lean ====
section
/-! SUPPORT. Every operation keeps the invariant of Safety.lean, one lemma each: operands, tasks, the health score, ports. -/
namespace Sys2Proof.Machine
open Sys2Proof
-- each goal is closed by the first of its alternatives that applies, so an alternative may go unused
set_option linter.all false

theorem keep_tierPut {d : Dev} {y1 : PartSt} {tier : Nat} {a : Nat} {b : Byte} (h0 : keptD d) : keptD (tierPut d y1 tier a b) := by
  unfold tierPut
  repeat' first
    | with_reducible assumption
    | (refine kept_guard ?_ ?_; (focus (simp only [isMk_mk]; done)); (with_reducible refine kept_mk rfl ?_ ?_ ?_ ?_ ?_); (focus ((intro hw; repeat' (first | with_reducible exact hw | with_reducible assumption | with_reducible apply wf_memWrite | with_reducible apply wf_memPut | with_reducible apply wf_memZeroRange | with_reducible exact wf_nil | (with_reducible apply wf_foldl; intro _ _ _))); done)); (focus ((intro hw; repeat' (first | with_reducible exact hw | with_reducible assumption | with_reducible apply wf_memWrite | with_reducible apply wf_memPut | with_reducible apply wf_memZeroRange | with_reducible exact wf_nil | (with_reducible apply wf_foldl; intro _ _ _))); done)); (focus ((intro hw; repeat' (first | with_reducible exact hw | with_reducible assumption | with_reducible apply wf_memWrite | with_reducible apply wf_memPut | with_reducible apply wf_memZeroRange | with_reducible exact wf_nil | (with_reducible apply wf_foldl; intro _ _ _))); done)); (focus ((intro hw; repeat' (first | with_reducible exact hw | with_reducible assumption | with_reducible apply wf_memWrite | with_reducible apply wf_memPut | with_reducible apply wf_memZeroRange | with_reducible exact wf_nil | (with_reducible apply wf_foldl; intro _ _ _))); done)))
    | split

theorem keep_tierWrite {d : Dev} {y1 : PartSt} {tier : Nat} {a : Nat} {y4 : List Byte} (h0 : keptD d) : keptD (tierWrite d y1 tier a y4) := by
  induction y4 generalizing d a with
  | nil =>
    unfold tierWrite
    repeat' first
      | with_reducible assumption
  | cons e l ih =>
    unfold tierWrite
    repeat' first
      | with_reducible assumption
      | with_reducible apply ih
      | with_reducible apply keep_tierPut

theorem keep_putBits {d : Dev} {y1 : PartSt} {tier : Nat} {base : Nat} {bit : Nat} {w : Nat} {v : Nat} (h0 : keptD d) : keptD (putBits d y1 tier base bit w v) := by
  unfold putBits
  repeat' first
    | with_reducible assumption
    | with_reducible apply keep_tierWrite

theorem keep_modPins {d : Dev} {p : Nat × Bool} {f : Nat → Nat} (h0 : keptD d) : keptD (modPins d p f) := by
  unfold modPins
  repeat' first
    | with_reducible assumption
    | (refine kept_guard ?_ ?_; (focus (simp only [isMk_mk]; done)); with_reducible refine kept_mk rfl (fun h => h) (fun h => h) (fun h => h) (fun h => h) ?_)

theorem keep_addPins {d : Dev} {ps : List (Nat × Bool)} {n : Nat} (h0 : keptD d) : keptD (addPins d ps n) := by
  unfold addPins
  repeat' first
    | with_reducible assumption
    | with_reducible intro _
    | with_reducible apply keep_modPins
    | (with_reducible apply kept_foldl)

theorem keep_dropPins {d : Dev} {ps : List (Nat × Bool)} (h0 : keptD d) : keptD (dropPins d ps) := by
  unfold dropPins
  repeat' first
    | with_reducible assumption
    | with_reducible intro _
    | with_reducible apply keep_modPins
    | (with_reducible apply kept_foldl)

theorem keep_putOut {d : Dev} {y1 : PartSt} {o : OutW} (h0 : keptD d) : keptD (putOut d y1 o) := by
  unfold putOut
  repeat' first
    | with_reducible assumption
    | with_reducible apply keep_putBits

theorem keep_commitWrites {d : Dev} {y1 : PartSt} {ws : List OutW} (h0 : keptD d) : keptD (commitWrites d y1 ws) := by
  unfold commitWrites
  repeat' first
    | with_reducible assumption
    | with_reducible intro _
    | with_reducible apply keep_putOut
    | (with_reducible apply kept_foldl)
    | (refine kept_guard ?_ ?_; (focus (simp only [isMk_mk]; done)); with_reducible refine kept_mk rfl (fun h => h) (fun h => h) (fun h => h) (fun h => h) ?_)

theorem keep_setHealth {d : Dev} {i : Nat} {h : HealthPart} (h0 : keptD d) : keptD (setHealth d i h) := by
  unfold setHealth
  repeat' first
    | with_reducible assumption
    | (refine kept_guard ?_ ?_; (focus (simp only [isMk_mk]; done)); with_reducible refine kept_mk rfl (fun h => h) (fun h => h) (fun h => h) (fun h => h) ?_)

theorem keep_charge {d : Dev} {i : Nat} {w : Nat} {k : Nat} (h0 : keptD d) : keptD (charge d i w k) := by
  unfold charge
  repeat' first
    | with_reducible assumption
    | (refine kept_guard ?_ ?_; (focus (simp only [isMk_mk]; done)); (with_reducible refine kept_mk rfl ?_ ?_ ?_ ?_ ?_); (focus ((intro hw; repeat' (first | with_reducible exact hw | with_reducible assumption | with_reducible apply wf_memWrite | with_reducible apply wf_memPut | with_reducible apply wf_memZeroRange | with_reducible exact wf_nil | (with_reducible apply wf_foldl; intro _ _ _))); done)); (focus ((intro hw; repeat' (first | with_reducible exact hw | with_reducible assumption | with_reducible apply wf_memWrite | with_reducible apply wf_memPut | with_reducible apply wf_memZeroRange | with_reducible exact wf_nil | (with_reducible apply wf_foldl; intro _ _ _))); done)); (focus ((intro hw; repeat' (first | with_reducible exact hw | with_reducible assumption | with_reducible apply wf_memWrite | with_reducible apply wf_memPut | with_reducible apply wf_memZeroRange | with_reducible exact wf_nil | (with_reducible apply wf_foldl; intro _ _ _))); done)); (focus ((intro hw; repeat' (first | with_reducible exact hw | with_reducible assumption | with_reducible apply wf_memWrite | with_reducible apply wf_memPut | with_reducible apply wf_memZeroRange | with_reducible exact wf_nil | (with_reducible apply wf_foldl; intro _ _ _))); done)))
    | split

theorem keep_fencePart {d : Dev} {i : Nat} (h0 : keptD d) : keptD (fencePart d i) := by
  unfold fencePart
  repeat' first
    | with_reducible assumption
    | with_reducible apply keep_assertAlert
    | with_reducible apply keep_setHealth

theorem keep_clearPart {d : Dev} {i : Nat} (h0 : keptD d) : keptD (clearPart d i) := by
  unfold clearPart
  repeat' first
    | with_reducible assumption
    | with_reducible apply keep_setHealth

theorem keep_setTile {d : Dev} {t : Nat} {m : TileMap} (h0 : keptD d) : keptD (setTile d t m) := by
  unfold setTile
  repeat' first
    | with_reducible assumption
    | (refine kept_guard ?_ ?_; (focus (simp only [isMk_mk]; done)); with_reducible refine kept_mk rfl (fun h => h) (fun h => h) (fun h => h) (fun h => h) ?_)

theorem keep_takeSpare {d : Dev} {h : Nat} {s : Nat} (h0 : keptD d) : keptD (takeSpare d h s) := by
  unfold takeSpare
  repeat' first
    | with_reducible assumption
    | (refine kept_guard ?_ ?_; (focus (simp only [isMk_mk]; done)); (with_reducible refine kept_mk rfl ?_ ?_ ?_ ?_ ?_); (focus ((intro hw; repeat' (first | with_reducible exact hw | with_reducible assumption | with_reducible apply wf_memWrite | with_reducible apply wf_memPut | with_reducible apply wf_memZeroRange | with_reducible exact wf_nil | (with_reducible apply wf_foldl; intro _ _ _))); done)); (focus ((intro hw; repeat' (first | with_reducible exact hw | with_reducible assumption | with_reducible apply wf_memWrite | with_reducible apply wf_memPut | with_reducible apply wf_memZeroRange | with_reducible exact wf_nil | (with_reducible apply wf_foldl; intro _ _ _))); done)); (focus ((intro hw; repeat' (first | with_reducible exact hw | with_reducible assumption | with_reducible apply wf_memWrite | with_reducible apply wf_memPut | with_reducible apply wf_memZeroRange | with_reducible exact wf_nil | (with_reducible apply wf_foldl; intro _ _ _))); done)); (focus ((intro hw; repeat' (first | with_reducible exact hw | with_reducible assumption | with_reducible apply wf_memWrite | with_reducible apply wf_memPut | with_reducible apply wf_memZeroRange | with_reducible exact wf_nil | (with_reducible apply wf_foldl; intro _ _ _))); done)))
    | split

theorem keep_clearSlice {d : Dev} {t : Nat} (h0 : keptD d) : keptD (clearSlice d t) := by
  unfold clearSlice
  repeat' first
    | with_reducible assumption
    | (refine kept_guard ?_ ?_; (focus (simp only [isMk_mk]; done)); (with_reducible refine kept_mk rfl ?_ ?_ ?_ ?_ ?_); (focus ((intro hw; repeat' (first | with_reducible exact hw | with_reducible assumption | with_reducible apply wf_memWrite | with_reducible apply wf_memPut | with_reducible apply wf_memZeroRange | with_reducible exact wf_nil | (with_reducible apply wf_foldl; intro _ _ _))); done)); (focus ((intro hw; repeat' (first | with_reducible exact hw | with_reducible assumption | with_reducible apply wf_memWrite | with_reducible apply wf_memPut | with_reducible apply wf_memZeroRange | with_reducible exact wf_nil | (with_reducible apply wf_foldl; intro _ _ _))); done)); (focus ((intro hw; repeat' (first | with_reducible exact hw | with_reducible assumption | with_reducible apply wf_memWrite | with_reducible apply wf_memPut | with_reducible apply wf_memZeroRange | with_reducible exact wf_nil | (with_reducible apply wf_foldl; intro _ _ _))); done)); (focus ((intro hw; repeat' (first | with_reducible exact hw | with_reducible assumption | with_reducible apply wf_memWrite | with_reducible apply wf_memPut | with_reducible apply wf_memZeroRange | with_reducible exact wf_nil | (with_reducible apply wf_foldl; intro _ _ _))); done)))

theorem keep_substTile {d : Dev} {t : Nat} (h0 : keptD d) : keptOF (substTile d t) := by
  unfold substTile
  repeat' first
    | with_reducible assumption
    | with_reducible apply keep_clearPart
    | with_reducible apply keep_takeSpare
    | with_reducible apply keep_setTile
    | with_reducible apply keep_clearSlice
    | with_reducible apply keptOF_none
    | with_reducible apply keptOF_intro
    | split
    | with_reducible apply keptF_intro
    | dsimp only

theorem keep_postSpared {d : Dev} {src : W32} {spare : Nat} (h0 : keptD d) : keptD (postSpared d src spare) := by
  unfold postSpared
  repeat' first
    | with_reducible assumption
    | with_reducible apply keep_raise

theorem keep_fenceTile {d : Dev} {t : Nat} (h0 : keptD d) : keptD (fenceTile d t) := by
  unfold fenceTile
  repeat' first
    | with_reducible assumption
    | with_reducible apply keep_setTile
    | with_reducible apply keep_fencePart
    | with_reducible apply keep_substTile
    | with_reducible apply keep_postSpared
    | with_reducible refine keptOF_some (by assumption) ?_
    | split
    | dsimp only

theorem keep_postUncorrectable {d : Dev} {detail : Nat} (h0 : keptD d) : keptD (postUncorrectable d detail) := by
  unfold postUncorrectable
  repeat' first
    | with_reducible assumption
    | with_reducible apply keep_raise
    | split

theorem keep_setPort {d : Dev} {n : Nat} {y2 : PortSt} (h0 : keptD d) : keptD (setPort d n y2) := by
  unfold setPort
  repeat' first
    | with_reducible assumption
    | (refine kept_guard ?_ ?_; (focus (simp only [isMk_mk]; done)); with_reducible refine kept_mk rfl (fun h => h) (fun h => h) (fun h => h) (fun h => h) ?_)

theorem keep_countDiscard {d : Dev} {n : Nat} (h0 : keptD d) : keptD (countDiscard d n) := by
  unfold countDiscard
  repeat' first
    | with_reducible assumption
    | with_reducible apply keep_setPort

theorem keep_egPush {d : Dev} {n : Nat} {cls : Nat} {tenant : Nat} {i : EgItem} (h0 : keptD d) : keptD (egPush d n cls tenant i) := by
  unfold egPush
  repeat' first
    | with_reducible assumption
    | with_reducible apply keep_setPort

theorem keep_cellOut {d : Dev} {n : Nat} {c : Cell} (h0 : keptD d) : keptD (cellOut d n c) := by
  unfold cellOut
  repeat' first
    | with_reducible assumption
    | with_reducible apply keep_send
    | with_reducible apply keep_setPort

theorem keep_egressTurn {d : Dev} {n : Nat} (h0 : keptD d) : keptD (egressTurn d n) := by
  unfold egressTurn
  repeat' first
    | with_reducible assumption
    | with_reducible apply keep_send
    | with_reducible apply keep_setPort
    | with_reducible apply keep_cellOut
    | split
    | dsimp only

theorem keep_execEgressServe {n : PortNo} {s : State} (h1 : keptD s.dev) : keptOut (execEgressServe n s) := by
  unfold execEgressServe
  repeat' first
    | with_reducible assumption
    | with_reducible apply keep_answer
    | with_reducible apply keep_egressTurn

theorem keep_setTask {d : Dev} {n : Nat} {t : TaskSt} (h0 : keptD d) : keptD (setTask d n t) := by
  unfold setTask
  repeat' first
    | with_reducible assumption
    | (refine kept_guard ?_ ?_; (focus (simp only [isMk_mk]; done)); with_reducible refine kept_mk rfl (fun h => h) (fun h => h) (fun h => h) (fun h => h) ?_)

theorem keep_failTask {d : Dev} {n : Nat} {st : Status} {detail : Nat} (h0 : keptD d) : keptD (failTask d n st detail) := by
  unfold failTask
  repeat' first
    | with_reducible assumption
    | (refine kept_guard ?_ ?_; (focus (simp only [isMk_mk]; done)); with_reducible refine kept_mk rfl (fun h => h) (fun h => h) (fun h => h) (fun h => h) ?_)

theorem keep_taskReport {d : Dev} {st : Status} {detail : Nat} (h0 : keptD d) : keptD (taskReport d st detail) := by
  unfold taskReport
  repeat' first
    | with_reducible assumption
    | with_reducible apply keep_postUncorrectable
    | with_reducible apply keep_fenceTile
    | split

theorem keep_finishTask {d : Dev} {n : Nat} (h0 : keptD d) : keptD (finishTask d n) := by
  unfold finishTask
  repeat' first
    | with_reducible assumption
    | with_reducible apply keep_complete
    | with_reducible apply keep_taskReport
    | (refine kept_guard ?_ ?_; (focus (simp only [isMk_mk]; done)); (with_reducible refine kept_mk rfl ?_ ?_ ?_ ?_ ?_); (focus ((intro hw; repeat' (first | with_reducible exact hw | with_reducible assumption | with_reducible apply wf_memWrite | with_reducible apply wf_memPut | with_reducible apply wf_memZeroRange | with_reducible exact wf_nil | (with_reducible apply wf_foldl; intro _ _ _))); done)); (focus ((intro hw; repeat' (first | with_reducible exact hw | with_reducible assumption | with_reducible apply wf_memWrite | with_reducible apply wf_memPut | with_reducible apply wf_memZeroRange | with_reducible exact wf_nil | (with_reducible apply wf_foldl; intro _ _ _))); done)); (focus ((intro hw; repeat' (first | with_reducible exact hw | with_reducible assumption | with_reducible apply wf_memWrite | with_reducible apply wf_memPut | with_reducible apply wf_memZeroRange | with_reducible exact wf_nil | (with_reducible apply wf_foldl; intro _ _ _))); done)); (focus ((intro hw; repeat' (first | with_reducible exact hw | with_reducible assumption | with_reducible apply wf_memWrite | with_reducible apply wf_memPut | with_reducible apply wf_memZeroRange | with_reducible exact wf_nil | (with_reducible apply wf_foldl; intro _ _ _))); done)))
    | split

theorem keep_taskPodDone {d : Dev} {n : Nat} {isLoad : Bool} {addr : Nat} {st : Status} {detail : Nat} {data : List Byte} (h0 : keptD d) : keptD (taskPodDone d n isLoad addr st detail data) := by
  unfold taskPodDone
  repeat' first
    | with_reducible assumption
    | with_reducible apply keep_setTask
    | with_reducible apply keep_finishTask
    | split
    | dsimp only

theorem keep_sendHello {d : Dev} {n : PortNo} (h0 : keptD d) : keptD (sendHello d n) := by
  unfold sendHello
  repeat' first
    | with_reducible assumption
    | with_reducible apply keep_send

theorem keep_refreshDigest {d : Dev} (h0 : keptD d) : keptD (refreshDigest d) := by
  unfold refreshDigest
  repeat' first
    | with_reducible assumption
    | with_reducible intro _
    | with_reducible apply keep_sendHello
    | (with_reducible apply kept_foldl)
    | (refine kept_guard ?_ ?_; (focus (simp only [isMk_mk]; done)); (with_reducible refine kept_mk rfl ?_ ?_ ?_ ?_ ?_); (focus ((intro hw; repeat' (first | with_reducible exact hw | with_reducible assumption | with_reducible apply wf_memWrite | with_reducible apply wf_memPut | with_reducible apply wf_memZeroRange | with_reducible exact wf_nil | (with_reducible apply wf_foldl; intro _ _ _))); done)); (focus ((intro hw; repeat' (first | with_reducible exact hw | with_reducible assumption | with_reducible apply wf_memWrite | with_reducible apply wf_memPut | with_reducible apply wf_memZeroRange | with_reducible exact wf_nil | (with_reducible apply wf_foldl; intro _ _ _))); done)); (focus ((intro hw; repeat' (first | with_reducible exact hw | with_reducible assumption | with_reducible apply wf_memWrite | with_reducible apply wf_memPut | with_reducible apply wf_memZeroRange | with_reducible exact wf_nil | (with_reducible apply wf_foldl; intro _ _ _))); done)); (focus ((intro hw; repeat' (first | with_reducible exact hw | with_reducible assumption | with_reducible apply wf_memWrite | with_reducible apply wf_memPut | with_reducible apply wf_memZeroRange | with_reducible exact wf_nil | (with_reducible apply wf_foldl; intro _ _ _))); done)))
    | split
    | dsimp only

end Sys2Proof.Machine
end

