-- ==== Sys2Proof/Laws/KeepFabric.lean ====
section
/-! SUPPORT. Every operation keeps the invariant of Safety.lean, one lemma each: cells, links, replicated regions, the start of tasks, bases. -/
namespace Sys2Proof.Machine
open Sys2Proof
-- each goal is closed by the first of its alternatives that applies, so an alternative may go unused
set_option linter.all false

theorem keep_podIssue {d : Dev} {fn : Fn} {engine : Nat} {tc : Nat} {kind : Nat} {a : Nat} {n : Nat} {aop : Nat} {payload : List Byte} {use : PodUse} (h0 : keptD d) : keptD (podIssue d fn engine tc kind a n aop payload use) := by
  unfold podIssue
  repeat' first
    | with_reducible assumption
    | with_reducible apply keep_egPush
    | (refine kept_guard ?_ ?_; (focus (simp only [isMk_mk]; done)); (with_reducible refine kept_mk rfl ?_ ?_ ?_ ?_ ?_); (focus ((intro hw; repeat' (first | with_reducible exact hw | with_reducible assumption | with_reducible apply wf_memWrite | with_reducible apply wf_memPut | with_reducible apply wf_memZeroRange | with_reducible exact wf_nil | (with_reducible apply wf_foldl; intro _ _ _))); done)); (focus ((intro hw; repeat' (first | with_reducible exact hw | with_reducible assumption | with_reducible apply wf_memWrite | with_reducible apply wf_memPut | with_reducible apply wf_memZeroRange | with_reducible exact wf_nil | (with_reducible apply wf_foldl; intro _ _ _))); done)); (focus ((intro hw; repeat' (first | with_reducible exact hw | with_reducible assumption | with_reducible apply wf_memWrite | with_reducible apply wf_memPut | with_reducible apply wf_memZeroRange | with_reducible exact wf_nil | (with_reducible apply wf_foldl; intro _ _ _))); done)); (focus ((intro hw; repeat' (first | with_reducible exact hw | with_reducible assumption | with_reducible apply wf_memWrite | with_reducible apply wf_memPut | with_reducible apply wf_memZeroRange | with_reducible exact wf_nil | (with_reducible apply wf_foldl; intro _ _ _))); done)))
    | split
    | dsimp only

theorem keep_podLoads {d : Dev} {fn : Fn} {engine : Nat} {tc : Nat} {rs : List (Nat × Nat)} {use : PodUse} (h0 : keptD d) : keptD (podLoads d fn engine tc rs use) := by
  unfold podLoads
  repeat' first
    | with_reducible assumption
    | with_reducible intro _
    | with_reducible apply keep_podIssue
    | (with_reducible apply kept_foldl)

theorem keep_podStores {d : Dev} {fn : Fn} {engine : Nat} {tc : Nat} {a : Nat} {bs : List Byte} {use : PodUse} (h0 : keptD d) : keptD (podStores d fn engine tc a bs use) := by
  unfold podStores
  repeat' first
    | with_reducible assumption
    | with_reducible intro _
    | with_reducible apply keep_podIssue
    | (with_reducible apply kept_foldl)

theorem keep_atomicAt {d : Dev} {o : Nat} {aop : Nat} {operand : W64} {compare : W64} (h0 : keptD d) : keptS (atomicAt d o aop operand compare) := by
  unfold atomicAt
  repeat' first
    | with_reducible assumption
    | (refine kept_guard ?_ ?_; (focus (simp only [isMk_mk]; done)); (with_reducible refine kept_mk rfl ?_ ?_ ?_ ?_ ?_); (focus ((intro hw; repeat' (first | with_reducible exact hw | with_reducible assumption | with_reducible apply wf_memWrite | with_reducible apply wf_memPut | with_reducible apply wf_memZeroRange | with_reducible exact wf_nil | (with_reducible apply wf_foldl; intro _ _ _))); done)); (focus ((intro hw; repeat' (first | with_reducible exact hw | with_reducible assumption | with_reducible apply wf_memWrite | with_reducible apply wf_memPut | with_reducible apply wf_memZeroRange | with_reducible exact wf_nil | (with_reducible apply wf_foldl; intro _ _ _))); done)); (focus ((intro hw; repeat' (first | with_reducible exact hw | with_reducible assumption | with_reducible apply wf_memWrite | with_reducible apply wf_memPut | with_reducible apply wf_memZeroRange | with_reducible exact wf_nil | (with_reducible apply wf_foldl; intro _ _ _))); done)); (focus ((intro hw; repeat' (first | with_reducible exact hw | with_reducible assumption | with_reducible apply wf_memWrite | with_reducible apply wf_memPut | with_reducible apply wf_memZeroRange | with_reducible exact wf_nil | (with_reducible apply wf_foldl; intro _ _ _))); done)))

theorem keep_homePerform {d : Dev} {kind : Nat} {c : Cell} (h0 : keptD d) : keptSS (homePerform d kind c) := by
  unfold homePerform
  repeat' first
    | with_reducible assumption
    | with_reducible apply keep_postUncorrectable
    | with_reducible apply keep_atomicAt
    | with_reducible refine keptS_mk (by assumption) ?_
    | (refine kept_guard ?_ ?_; (focus (simp only [isMk_mk]; done)); (with_reducible refine kept_mk rfl ?_ ?_ ?_ ?_ ?_); (focus ((intro hw; repeat' (first | with_reducible exact hw | with_reducible assumption | with_reducible apply wf_memWrite | with_reducible apply wf_memPut | with_reducible apply wf_memZeroRange | with_reducible exact wf_nil | (with_reducible apply wf_foldl; intro _ _ _))); done)); (focus ((intro hw; repeat' (first | with_reducible exact hw | with_reducible assumption | with_reducible apply wf_memWrite | with_reducible apply wf_memPut | with_reducible apply wf_memZeroRange | with_reducible exact wf_nil | (with_reducible apply wf_foldl; intro _ _ _))); done)); (focus ((intro hw; repeat' (first | with_reducible exact hw | with_reducible assumption | with_reducible apply wf_memWrite | with_reducible apply wf_memPut | with_reducible apply wf_memZeroRange | with_reducible exact wf_nil | (with_reducible apply wf_foldl; intro _ _ _))); done)); (focus ((intro hw; repeat' (first | with_reducible exact hw | with_reducible assumption | with_reducible apply wf_memWrite | with_reducible apply wf_memPut | with_reducible apply wf_memZeroRange | with_reducible exact wf_nil | (with_reducible apply wf_foldl; intro _ _ _))); done)))
    | split
    | with_reducible apply keptSS_intro
    | dsimp only

theorem keep_respond {d : Dev} {kind : Nat} {c : Cell} {st : Status} {data : List Byte} (h0 : keptD d) : keptD (respond d kind c st data) := by
  unfold respond
  repeat' first
    | with_reducible assumption
    | with_reducible apply keep_egPush
    | split

theorem keep_fenceStep {d : Dev} {op : PodOp} {st : Status} (h0 : keptD d) : keptD (fenceStep d op st) := by
  unfold fenceStep
  repeat' first
    | with_reducible assumption
    | with_reducible intro _
    | with_reducible apply keep_complete
    | (with_reducible apply kept_foldl)
    | (refine kept_guard ?_ ?_; (focus (simp only [isMk_mk]; done)); (with_reducible refine kept_mk rfl ?_ ?_ ?_ ?_ ?_); (focus ((intro hw; repeat' (first | with_reducible exact hw | with_reducible assumption | with_reducible apply wf_memWrite | with_reducible apply wf_memPut | with_reducible apply wf_memZeroRange | with_reducible exact wf_nil | (with_reducible apply wf_foldl; intro _ _ _))); done)); (focus ((intro hw; repeat' (first | with_reducible exact hw | with_reducible assumption | with_reducible apply wf_memWrite | with_reducible apply wf_memPut | with_reducible apply wf_memZeroRange | with_reducible exact wf_nil | (with_reducible apply wf_foldl; intro _ _ _))); done)); (focus ((intro hw; repeat' (first | with_reducible exact hw | with_reducible assumption | with_reducible apply wf_memWrite | with_reducible apply wf_memPut | with_reducible apply wf_memZeroRange | with_reducible exact wf_nil | (with_reducible apply wf_foldl; intro _ _ _))); done)); (focus ((intro hw; repeat' (first | with_reducible exact hw | with_reducible assumption | with_reducible apply wf_memWrite | with_reducible apply wf_memPut | with_reducible apply wf_memZeroRange | with_reducible exact wf_nil | (with_reducible apply wf_foldl; intro _ _ _))); done)))
    | split

theorem keep_podDone {d : Dev} {op : PodOp} {st : Status} {data : List Byte} (h0 : keptD d) : keptD (podDone d op st data) := by
  unfold podDone
  repeat' first
    | with_reducible assumption
    | with_reducible apply keep_taskPodDone
    | with_reducible apply keep_complete
    | with_reducible apply keep_setPart
    | with_reducible apply keep_fenceStep
    | (refine kept_guard ?_ ?_; (focus (simp only [isMk_mk]; done)); (with_reducible refine kept_mk rfl ?_ ?_ ?_ ?_ ?_); (focus ((intro hw; repeat' (first | with_reducible exact hw | with_reducible assumption | with_reducible apply wf_memWrite | with_reducible apply wf_memPut | with_reducible apply wf_memZeroRange | with_reducible exact wf_nil | (with_reducible apply wf_foldl; intro _ _ _))); done)); (focus ((intro hw; repeat' (first | with_reducible exact hw | with_reducible assumption | with_reducible apply wf_memWrite | with_reducible apply wf_memPut | with_reducible apply wf_memZeroRange | with_reducible exact wf_nil | (with_reducible apply wf_foldl; intro _ _ _))); done)); (focus ((intro hw; repeat' (first | with_reducible exact hw | with_reducible assumption | with_reducible apply wf_memWrite | with_reducible apply wf_memPut | with_reducible apply wf_memZeroRange | with_reducible exact wf_nil | (with_reducible apply wf_foldl; intro _ _ _))); done)); (focus ((intro hw; repeat' (first | with_reducible exact hw | with_reducible assumption | with_reducible apply wf_memWrite | with_reducible apply wf_memPut | with_reducible apply wf_memZeroRange | with_reducible exact wf_nil | (with_reducible apply wf_foldl; intro _ _ _))); done)))
    | split

theorem keep_execPodCompletionTimeout {engine : W16} {txn : W16} {s : State} (h2 : keptD s.dev) : keptOut (execPodCompletionTimeout engine txn s) := by
  unfold execPodCompletionTimeout
  repeat' first
    | with_reducible assumption
    | with_reducible apply keep_answer
    | with_reducible apply keep_raise
    | with_reducible apply keep_podDone
    | split

theorem keep_podAtomicRule {p : Post} {d : Dev} (h1 : keptD d) : keptRes (podAtomicRule p d) := by
  unfold podAtomicRule
  repeat' first
    | with_reducible assumption
    | with_reducible apply keep_podIssue
    | with_reducible apply keptRes_plain
    | with_reducible apply keptRes_later'
    | split
    | dsimp only

theorem keep_execPodAtomic {p : Post} {s : State} (h1 : keptD s.dev) : keptOut (execPodAtomic p s) := by
  unfold execPodAtomic
  repeat' first
    | with_reducible assumption
    | with_reducible intro _
    | with_reducible apply keep_answer
    | with_reducible apply keep_perform
    | with_reducible apply keep_podAtomicRule

theorem keep_podFenceRule {p : Post} {d : Dev} (h1 : keptD d) : keptRes (podFenceRule p d) := by
  unfold podFenceRule
  repeat' first
    | with_reducible assumption
    | with_reducible apply keptRes_plain
    | with_reducible apply keptRes_later'
    | (refine kept_guard ?_ ?_; (focus (simp only [isMk_mk]; done)); with_reducible refine kept_mk rfl (fun h => h) (fun h => h) (fun h => h) (fun h => h) ?_)
    | split
    | dsimp only

theorem keep_execPodFence {p : Post} {s : State} (h1 : keptD s.dev) : keptOut (execPodFence p s) := by
  unfold execPodFence
  repeat' first
    | with_reducible assumption
    | with_reducible intro _
    | with_reducible apply keep_answer
    | with_reducible apply keep_perform
    | with_reducible apply keep_podFenceRule

theorem keep_linkDown {d : Dev} {n : Nat} {cause : Nat} (h0 : keptD d) : keptD (linkDown d n cause) := by
  unfold linkDown
  repeat' first
    | with_reducible assumption
    | with_reducible apply keep_raise

theorem keep_linkUp {d : Dev} {n : Nat} {pod : Nat} {dev : Nat} (h0 : keptD d) : keptD (linkUp d n pod dev) := by
  unfold linkUp
  repeat' first
    | with_reducible assumption
    | with_reducible apply keep_raise

theorem keep_linkQuarantined {d : Dev} {n : Nat} {check : Nat} (h0 : keptD d) : keptD (linkQuarantined d n check) := by
  unfold linkQuarantined
  repeat' first
    | with_reducible assumption
    | with_reducible apply keep_raise

theorem keep_startTraining {d : Dev} {n : Nat} (h0 : keptD d) : keptD (startTraining d n) := by
  unfold startTraining
  repeat' first
    | with_reducible assumption
    | with_reducible apply keep_setPort
    | split

theorem keep_writeMode {d : Dev} {n : Nat} {mode : Nat} (h0 : keptD d) : keptD (writeMode d n mode) := by
  unfold writeMode
  repeat' first
    | with_reducible assumption
    | with_reducible apply keep_cfgSet
    | with_reducible apply keep_setPort
    | with_reducible apply keep_linkDown
    | with_reducible apply keep_startTraining
    | split
    | dsimp only

theorem keep_execFabPortMode {n : PortNo} {mode : BitVec 2} {s : State} (h2 : keptD s.dev) : keptOut (execFabPortMode n mode s) := by
  unfold execFabPortMode
  repeat' first
    | with_reducible assumption
    | with_reducible apply keep_answer
    | with_reducible apply keep_writeMode

theorem keep_startRetrain {d : Dev} {n : Nat} (h0 : keptD d) : keptD (startRetrain d n) := by
  unfold startRetrain
  repeat' first
    | with_reducible assumption
    | with_reducible apply keep_charge
    | with_reducible apply keep_setPort

theorem keep_writeRetrain {d : Dev} {n : Nat} (h0 : keptD d) : keptD (writeRetrain d n) := by
  unfold writeRetrain
  repeat' first
    | with_reducible assumption
    | with_reducible apply keep_startRetrain
    | with_reducible apply keep_startTraining
    | split

theorem keep_execFabPortRetrain {n : PortNo} {s : State} (h1 : keptD s.dev) : keptOut (execFabPortRetrain n s) := by
  unfold execFabPortRetrain
  repeat' first
    | with_reducible assumption
    | with_reducible apply keep_answer
    | with_reducible apply keep_writeRetrain

theorem keep_execTrainingLock {n : PortNo} {s : State} (h1 : keptD s.dev) : keptOut (execTrainingLock n s) := by
  unfold execTrainingLock
  repeat' first
    | with_reducible assumption
    | with_reducible apply keep_answer
    | with_reducible apply keep_sendHello
    | with_reducible apply keep_setPort
    | with_reducible apply keep_linkUp
    | split
    | dsimp only

theorem keep_execTrainingTimeout {n : PortNo} {s : State} (h1 : keptD s.dev) : keptOut (execTrainingTimeout n s) := by
  unfold execTrainingTimeout
  repeat' first
    | with_reducible assumption
    | with_reducible apply keep_answer
    | with_reducible apply keep_linkDown
    | with_reducible apply keep_setPort
    | split

theorem keep_execTrainingRestart {n : PortNo} {s : State} (h1 : keptD s.dev) : keptOut (execTrainingRestart n s) := by
  unfold execTrainingRestart
  repeat' first
    | with_reducible assumption
    | with_reducible apply keep_answer
    | with_reducible apply keep_startTraining
    | split

theorem keep_execHelloTimer {n : PortNo} {s : State} (h1 : keptD s.dev) : keptOut (execHelloTimer n s) := by
  unfold execHelloTimer
  repeat' first
    | with_reducible assumption
    | with_reducible apply keep_answer
    | with_reducible apply keep_sendHello
    | split

theorem keep_execHelloTimeout {n : PortNo} {s : State} (h1 : keptD s.dev) : keptOut (execHelloTimeout n s) := by
  unfold execHelloTimeout
  repeat' first
    | with_reducible assumption
    | with_reducible apply keep_answer
    | with_reducible apply keep_linkDown
    | with_reducible apply keep_setPort
    | split

theorem keep_helloIn {d : Dev} {n : Nat} {m : Hello} (h0 : keptD d) : keptD (helloIn d n m) := by
  unfold helloIn
  repeat' first
    | with_reducible assumption
    | with_reducible apply keep_setPort
    | with_reducible apply keep_linkQuarantined
    | with_reducible apply keep_linkUp
    | split
    | dsimp only

theorem keep_execHello {n : PortNo} {m : Hello} {s : State} (h2 : keptD s.dev) : keptOut (execHello n m s) := by
  unfold execHello
  repeat' first
    | with_reducible assumption
    | with_reducible apply keep_answer
    | with_reducible apply keep_helloIn

theorem keep_replayAll {d : Dev} {n : Nat} (h0 : keptD d) : keptD (replayAll d n) := by
  unfold replayAll
  repeat' first
    | with_reducible assumption
    | with_reducible intro _
    | with_reducible apply keep_setPort
    | with_reducible apply keep_charge
    | with_reducible apply keep_send
    | (with_reducible apply kept_foldl)

theorem keep_execRetrainLock {n : PortNo} {s : State} (h1 : keptD s.dev) : keptOut (execRetrainLock n s) := by
  unfold execRetrainLock
  repeat' first
    | with_reducible assumption
    | with_reducible apply keep_answer
    | with_reducible apply keep_replayAll
    | with_reducible apply keep_setPort
    | split

theorem keep_execRetrainTimeout {n : PortNo} {s : State} (h1 : keptD s.dev) : keptOut (execRetrainTimeout n s) := by
  unfold execRetrainTimeout
  repeat' first
    | with_reducible assumption
    | with_reducible apply keep_answer
    | with_reducible apply keep_linkDown
    | with_reducible apply keep_setPort
    | split

theorem keep_markLane {d : Dev} {n : Nat} {l : Nat} {cause : Nat} (h0 : keptD d) : keptD (markLane d n l cause) := by
  unfold markLane
  repeat' first
    | with_reducible assumption
    | with_reducible apply keep_setPort
    | with_reducible apply keep_raise
    | with_reducible apply keep_fencePart
    | (refine kept_guard ?_ ?_; (focus (simp only [isMk_mk]; done)); with_reducible refine kept_mk rfl (fun h => h) (fun h => h) (fun h => h) (fun h => h) ?_)

theorem keep_laneFail {d : Dev} {lane : Nat} {cause : Nat} (h0 : keptD d) : keptD (laneFail d lane cause) := by
  unfold laneFail
  repeat' first
    | with_reducible assumption
    | with_reducible apply keep_markLane
    | with_reducible apply keep_raise
    | with_reducible apply keep_charge
    | with_reducible apply keep_startRetrain
    | with_reducible apply keep_setPort
    | with_reducible apply keep_linkDown
    | (refine kept_guard ?_ ?_; (focus (simp only [isMk_mk]; done)); (with_reducible refine kept_mk rfl ?_ ?_ ?_ ?_ ?_); (focus ((intro hw; repeat' (first | with_reducible exact hw | with_reducible assumption | with_reducible apply wf_memWrite | with_reducible apply wf_memPut | with_reducible apply wf_memZeroRange | with_reducible exact wf_nil | (with_reducible apply wf_foldl; intro _ _ _))); done)); (focus ((intro hw; repeat' (first | with_reducible exact hw | with_reducible assumption | with_reducible apply wf_memWrite | with_reducible apply wf_memPut | with_reducible apply wf_memZeroRange | with_reducible exact wf_nil | (with_reducible apply wf_foldl; intro _ _ _))); done)); (focus ((intro hw; repeat' (first | with_reducible exact hw | with_reducible assumption | with_reducible apply wf_memWrite | with_reducible apply wf_memPut | with_reducible apply wf_memZeroRange | with_reducible exact wf_nil | (with_reducible apply wf_foldl; intro _ _ _))); done)); (focus ((intro hw; repeat' (first | with_reducible exact hw | with_reducible assumption | with_reducible apply wf_memWrite | with_reducible apply wf_memPut | with_reducible apply wf_memZeroRange | with_reducible exact wf_nil | (with_reducible apply wf_foldl; intro _ _ _))); done)))
    | split
    | dsimp only

theorem keep_execLaneFailure {lane : Fin 80} {cause : Nat} {s : State} (h2 : keptD s.dev) : keptOut (execLaneFailure lane cause s) := by
  unfold execLaneFailure
  repeat' first
    | with_reducible assumption
    | with_reducible apply keep_answer
    | with_reducible apply keep_laneFail

theorem keep_forward {d : Dev} {n : Nat} {c : Cell} (h0 : keptD d) : keptD (forward d n c) := by
  unfold forward
  repeat' first
    | with_reducible assumption
    | with_reducible apply keep_countDiscard
    | with_reducible apply keep_egPush
    | split
    | dsimp only

theorem keep_cellIn {act : Dev → Cell → Dev} {d : Dev} {n : Nat} {c : Cell} (h0 : ∀ (x0 : Dev) (x1 : Cell), keptD x0 → keptD (act x0 x1)) (h1 : keptD d) : keptD (cellIn act d n c) := by
  unfold cellIn
  repeat' first
    | with_reducible assumption
    | with_reducible apply h0
    | with_reducible apply keep_setPort
    | with_reducible apply keep_countDiscard
    | with_reducible apply keep_forward
    | split
    | dsimp only

theorem keep_cellOf {kind : Nat} {act : Dev → Cell → Dev} {d : Dev} {n : Nat} {c : Cell} (h1 : ∀ (x0 : Dev) (x1 : Cell), keptD x0 → keptD (act x0 x1)) (h2 : keptD d) : keptD (cellOf kind act d n c) := by
  unfold cellOf
  repeat' first
    | with_reducible assumption
    | with_reducible apply keep_cellIn
    | split

theorem keep_requestIn {kind : Nat} {d : Dev} {c : Cell} (h1 : keptD d) : keptD (requestIn kind d c) := by
  unfold requestIn
  repeat' first
    | with_reducible assumption
    | with_reducible apply keep_homePerform
    | with_reducible apply keep_respond
    | with_reducible apply keptSS_snd

theorem keep_responseIn {d : Dev} {c : Cell} (h0 : keptD d) : keptD (responseIn d c) := by
  unfold responseIn
  repeat' first
    | with_reducible assumption
    | with_reducible apply keep_podDone
    | split

theorem keep_execLoad {n : PortNo} {c : Cell} {s : State} (h2 : keptD s.dev) : keptOut (execLoad n c s) := by
  unfold execLoad
  repeat' first
    | with_reducible assumption
    | with_reducible intro _
    | with_reducible apply keep_answer
    | with_reducible apply keep_cellOf
    | with_reducible apply keep_requestIn

theorem keep_execStore {n : PortNo} {c : Cell} {s : State} (h2 : keptD s.dev) : keptOut (execStore n c s) := by
  unfold execStore
  repeat' first
    | with_reducible assumption
    | with_reducible intro _
    | with_reducible apply keep_answer
    | with_reducible apply keep_cellOf
    | with_reducible apply keep_requestIn

theorem keep_execAtomic {n : PortNo} {c : Cell} {s : State} (h2 : keptD s.dev) : keptOut (execAtomic n c s) := by
  unfold execAtomic
  repeat' first
    | with_reducible assumption
    | with_reducible intro _
    | with_reducible apply keep_answer
    | with_reducible apply keep_cellOf
    | with_reducible apply keep_requestIn

theorem keep_execLoadRsp {n : PortNo} {c : Cell} {s : State} (h2 : keptD s.dev) : keptOut (execLoadRsp n c s) := by
  unfold execLoadRsp
  repeat' first
    | with_reducible assumption
    | with_reducible intro _
    | with_reducible apply keep_answer
    | with_reducible apply keep_cellOf
    | with_reducible apply keep_responseIn

theorem keep_execStoreAck {n : PortNo} {c : Cell} {s : State} (h2 : keptD s.dev) : keptOut (execStoreAck n c s) := by
  unfold execStoreAck
  repeat' first
    | with_reducible assumption
    | with_reducible intro _
    | with_reducible apply keep_answer
    | with_reducible apply keep_cellOf
    | with_reducible apply keep_responseIn

theorem keep_execAtomicRsp {n : PortNo} {c : Cell} {s : State} (h2 : keptD s.dev) : keptOut (execAtomicRsp n c s) := by
  unfold execAtomicRsp
  repeat' first
    | with_reducible assumption
    | with_reducible intro _
    | with_reducible apply keep_answer
    | with_reducible apply keep_cellOf
    | with_reducible apply keep_responseIn

theorem keep_execRouterForward {n : PortNo} {c : Cell} {s : State} (h2 : keptD s.dev) : keptOut (execRouterForward n c s) := by
  unfold execRouterForward
  repeat' first
    | with_reducible assumption
    | with_reducible intro _
    | with_reducible apply keep_answer
    | with_reducible apply keep_cellIn
    | split

theorem keep_execIdle {n : PortNo} {c : Cell} {s : State} (h2 : keptD s.dev) : keptOut (execIdle n c s) := by
  unfold execIdle
  repeat' first
    | with_reducible assumption
    | with_reducible apply keep_answer
    | with_reducible apply keep_setPort
    | split

theorem keep_execCellCrcFailure {n : PortNo} {s : State} (h1 : keptD s.dev) : keptOut (execCellCrcFailure n s) := by
  unfold execCellCrcFailure
  repeat' first
    | with_reducible assumption
    | with_reducible apply keep_answer
    | with_reducible apply keep_send
    | with_reducible apply keep_setPort
    | split

theorem keep_execNak {n : PortNo} {lack : BitVec 12} {s : State} (h2 : keptD s.dev) : keptOut (execNak n lack s) := by
  unfold execNak
  repeat' first
    | with_reducible assumption
    | with_reducible apply keep_answer
    | with_reducible apply keep_setPort
    | with_reducible apply keep_startRetrain
    | with_reducible apply keep_replayAll
    | split
    | dsimp only

theorem keep_execBeatSend {s : State} (h0 : keptD s.dev) : keptOut (execBeatSend s) := by
  unfold execBeatSend
  repeat' first
    | with_reducible assumption
    | with_reducible intro _
    | with_reducible apply keep_answer
    | with_reducible apply keep_send
    | (with_reducible apply kept_foldl)
    | split

theorem keep_execBeat {fromDev : DevIx} {s : State} (h1 : keptD s.dev) : keptOut (execBeat fromDev s) := by
  unfold execBeat
  repeat' first
    | with_reducible assumption
    | with_reducible apply keep_answer
    | (refine kept_guard ?_ ?_; (focus (simp only [isMk_mk]; done)); (with_reducible refine kept_mk rfl ?_ ?_ ?_ ?_ ?_); (focus ((intro hw; repeat' (first | with_reducible exact hw | with_reducible assumption | with_reducible apply wf_memWrite | with_reducible apply wf_memPut | with_reducible apply wf_memZeroRange | with_reducible exact wf_nil | (with_reducible apply wf_foldl; intro _ _ _))); done)); (focus ((intro hw; repeat' (first | with_reducible exact hw | with_reducible assumption | with_reducible apply wf_memWrite | with_reducible apply wf_memPut | with_reducible apply wf_memZeroRange | with_reducible exact wf_nil | (with_reducible apply wf_foldl; intro _ _ _))); done)); (focus ((intro hw; repeat' (first | with_reducible exact hw | with_reducible assumption | with_reducible apply wf_memWrite | with_reducible apply wf_memPut | with_reducible apply wf_memZeroRange | with_reducible exact wf_nil | (with_reducible apply wf_foldl; intro _ _ _))); done)); (focus ((intro hw; repeat' (first | with_reducible exact hw | with_reducible assumption | with_reducible apply wf_memWrite | with_reducible apply wf_memPut | with_reducible apply wf_memZeroRange | with_reducible exact wf_nil | (with_reducible apply wf_foldl; intro _ _ _))); done)))
    | split

theorem keep_execAqueductCrcFailure {s : State} (h0 : keptD s.dev) : keptOut (execAqueductCrcFailure s) := by
  unfold execAqueductCrcFailure
  repeat' first
    | with_reducible assumption
    | with_reducible apply keep_answer
    | with_reducible apply keep_charge
    | with_reducible apply keep_raise
    | with_reducible apply keep_assertAlert
    | (refine kept_guard ?_ ?_; (focus (simp only [isMk_mk]; done)); (with_reducible refine kept_mk rfl ?_ ?_ ?_ ?_ ?_); (focus ((intro hw; repeat' (first | with_reducible exact hw | with_reducible assumption | with_reducible apply wf_memWrite | with_reducible apply wf_memPut | with_reducible apply wf_memZeroRange | with_reducible exact wf_nil | (with_reducible apply wf_foldl; intro _ _ _))); done)); (focus ((intro hw; repeat' (first | with_reducible exact hw | with_reducible assumption | with_reducible apply wf_memWrite | with_reducible apply wf_memPut | with_reducible apply wf_memZeroRange | with_reducible exact wf_nil | (with_reducible apply wf_foldl; intro _ _ _))); done)); (focus ((intro hw; repeat' (first | with_reducible exact hw | with_reducible assumption | with_reducible apply wf_memWrite | with_reducible apply wf_memPut | with_reducible apply wf_memZeroRange | with_reducible exact wf_nil | (with_reducible apply wf_foldl; intro _ _ _))); done)); (focus ((intro hw; repeat' (first | with_reducible exact hw | with_reducible assumption | with_reducible apply wf_memWrite | with_reducible apply wf_memPut | with_reducible apply wf_memZeroRange | with_reducible exact wf_nil | (with_reducible apply wf_foldl; intro _ _ _))); done)))
    | split
    | dsimp only

theorem keep_writeCopy {d : Dev} {r : Nat} {offset : Nat} {bytes : List Byte} {version : Nat} (h0 : keptD d) : keptD (writeCopy d r offset bytes version) := by
  unfold writeCopy
  repeat' first
    | with_reducible assumption
    | (refine kept_guard ?_ ?_; (focus (simp only [isMk_mk]; done)); (with_reducible refine kept_mk rfl ?_ ?_ ?_ ?_ ?_); (focus ((intro hw; repeat' (first | with_reducible exact hw | with_reducible assumption | with_reducible apply wf_memWrite | with_reducible apply wf_memPut | with_reducible apply wf_memZeroRange | with_reducible exact wf_nil | (with_reducible apply wf_foldl; intro _ _ _))); done)); (focus ((intro hw; repeat' (first | with_reducible exact hw | with_reducible assumption | with_reducible apply wf_memWrite | with_reducible apply wf_memPut | with_reducible apply wf_memZeroRange | with_reducible exact wf_nil | (with_reducible apply wf_foldl; intro _ _ _))); done)); (focus ((intro hw; repeat' (first | with_reducible exact hw | with_reducible assumption | with_reducible apply wf_memWrite | with_reducible apply wf_memPut | with_reducible apply wf_memZeroRange | with_reducible exact wf_nil | (with_reducible apply wf_foldl; intro _ _ _))); done)); (focus ((intro hw; repeat' (first | with_reducible exact hw | with_reducible assumption | with_reducible apply wf_memWrite | with_reducible apply wf_memPut | with_reducible apply wf_memZeroRange | with_reducible exact wf_nil | (with_reducible apply wf_foldl; intro _ _ _))); done)))
    | split

theorem keep_replFinish {d : Dev} {tag : Nat} {version : Nat} {missed : List Nat} (h0 : keptD d) : keptD (replFinish d tag version missed) := by
  unfold replFinish
  repeat' first
    | with_reducible assumption
    | with_reducible apply keep_complete
    | (refine kept_guard ?_ ?_; (focus (simp only [isMk_mk]; done)); (with_reducible refine kept_mk rfl ?_ ?_ ?_ ?_ ?_); (focus ((intro hw; repeat' (first | with_reducible exact hw | with_reducible assumption | with_reducible apply wf_memWrite | with_reducible apply wf_memPut | with_reducible apply wf_memZeroRange | with_reducible exact wf_nil | (with_reducible apply wf_foldl; intro _ _ _))); done)); (focus ((intro hw; repeat' (first | with_reducible exact hw | with_reducible assumption | with_reducible apply wf_memWrite | with_reducible apply wf_memPut | with_reducible apply wf_memZeroRange | with_reducible exact wf_nil | (with_reducible apply wf_foldl; intro _ _ _))); done)); (focus ((intro hw; repeat' (first | with_reducible exact hw | with_reducible assumption | with_reducible apply wf_memWrite | with_reducible apply wf_memPut | with_reducible apply wf_memZeroRange | with_reducible exact wf_nil | (with_reducible apply wf_foldl; intro _ _ _))); done)); (focus ((intro hw; repeat' (first | with_reducible exact hw | with_reducible assumption | with_reducible apply wf_memWrite | with_reducible apply wf_memPut | with_reducible apply wf_memZeroRange | with_reducible exact wf_nil | (with_reducible apply wf_foldl; intro _ _ _))); done)))
    | split

theorem keep_replRun {d : Dev} {u : ReplUpd} {v : Nat} {y3 : List Nat} {y4 : List Nat} (h0 : keptD d) : keptD (replRun d u v y3 y4) := by
  induction y3 generalizing d y4 with
  | nil =>
    unfold replRun
    repeat' first
      | with_reducible assumption
      | with_reducible apply keep_send
      | with_reducible apply keep_replFinish
      | (refine kept_guard ?_ ?_; (focus (simp only [isMk_mk]; done)); (with_reducible refine kept_mk rfl ?_ ?_ ?_ ?_ ?_); (focus ((intro hw; repeat' (first | with_reducible exact hw | with_reducible assumption | with_reducible apply wf_memWrite | with_reducible apply wf_memPut | with_reducible apply wf_memZeroRange | with_reducible exact wf_nil | (with_reducible apply wf_foldl; intro _ _ _))); done)); (focus ((intro hw; repeat' (first | with_reducible exact hw | with_reducible assumption | with_reducible apply wf_memWrite | with_reducible apply wf_memPut | with_reducible apply wf_memZeroRange | with_reducible exact wf_nil | (with_reducible apply wf_foldl; intro _ _ _))); done)); (focus ((intro hw; repeat' (first | with_reducible exact hw | with_reducible assumption | with_reducible apply wf_memWrite | with_reducible apply wf_memPut | with_reducible apply wf_memZeroRange | with_reducible exact wf_nil | (with_reducible apply wf_foldl; intro _ _ _))); done)); (focus ((intro hw; repeat' (first | with_reducible exact hw | with_reducible assumption | with_reducible apply wf_memWrite | with_reducible apply wf_memPut | with_reducible apply wf_memZeroRange | with_reducible exact wf_nil | (with_reducible apply wf_foldl; intro _ _ _))); done)))
      | split
  | cons e l ih =>
    unfold replRun
    repeat' first
      | with_reducible assumption
      | with_reducible apply ih
      | with_reducible apply keep_send
      | with_reducible apply keep_writeCopy
      | (refine kept_guard ?_ ?_; (focus (simp only [isMk_mk]; done)); (with_reducible refine kept_mk rfl ?_ ?_ ?_ ?_ ?_); (focus ((intro hw; repeat' (first | with_reducible exact hw | with_reducible assumption | with_reducible apply wf_memWrite | with_reducible apply wf_memPut | with_reducible apply wf_memZeroRange | with_reducible exact wf_nil | (with_reducible apply wf_foldl; intro _ _ _))); done)); (focus ((intro hw; repeat' (first | with_reducible exact hw | with_reducible assumption | with_reducible apply wf_memWrite | with_reducible apply wf_memPut | with_reducible apply wf_memZeroRange | with_reducible exact wf_nil | (with_reducible apply wf_foldl; intro _ _ _))); done)); (focus ((intro hw; repeat' (first | with_reducible exact hw | with_reducible assumption | with_reducible apply wf_memWrite | with_reducible apply wf_memPut | with_reducible apply wf_memZeroRange | with_reducible exact wf_nil | (with_reducible apply wf_foldl; intro _ _ _))); done)); (focus ((intro hw; repeat' (first | with_reducible exact hw | with_reducible assumption | with_reducible apply wf_memWrite | with_reducible apply wf_memPut | with_reducible apply wf_memZeroRange | with_reducible exact wf_nil | (with_reducible apply wf_foldl; intro _ _ _))); done)))
      | split

theorem keep_replStart {d : Dev} (h0 : keptD d) : keptD (replStart d) := by
  unfold replStart
  repeat' first
    | with_reducible assumption
    | with_reducible apply keep_replRun
    | split

theorem keep_replDrain {d : Dev} {y1 : Nat} (h0 : keptD d) : keptD (replDrain d y1) := by
  induction y1 generalizing d with
  | zero =>
    unfold replDrain
    repeat' first
      | with_reducible assumption
  | succ k ih =>
    unfold replDrain
    repeat' first
      | with_reducible assumption
      | with_reducible apply ih
      | with_reducible apply keep_replStart

theorem keep_replNext {d : Dev} {m : Nat} {lost : Bool} (h0 : keptD d) : keptD (replNext d m lost) := by
  unfold replNext
  repeat' first
    | with_reducible assumption
    | with_reducible apply keep_replRun
    | with_reducible apply keep_replDrain
    | split

theorem keep_replPush {d : Dev} {by_ : DevIx} {tag : Nat} {r : Nat} {offset : Nat} {bytes : List Byte} (h0 : keptD d) : keptD (replPush d by_ tag r offset bytes) := by
  unfold replPush
  repeat' first
    | with_reducible assumption
    | with_reducible apply keep_replDrain
    | (refine kept_guard ?_ ?_; (focus (simp only [isMk_mk]; done)); with_reducible refine kept_mk rfl (fun h => h) (fun h => h) (fun h => h) (fun h => h) ?_)

theorem keep_replicateUpdateRule {p : Post} {d : Dev} (h1 : keptD d) : keptRes (replicateUpdateRule p d) := by
  unfold replicateUpdateRule
  repeat' first
    | with_reducible assumption
    | with_reducible apply keep_postUncorrectable
    | with_reducible apply keep_replPush
    | with_reducible apply keep_send
    | with_reducible apply keptRes_plain
    | with_reducible apply keptRes_done'
    | with_reducible apply keptRes_later'
    | (refine kept_guard ?_ ?_; (focus (simp only [isMk_mk]; done)); with_reducible refine kept_mk rfl (fun h => h) (fun h => h) (fun h => h) (fun h => h) ?_)
    | split
    | dsimp only

theorem keep_execReplicateUpdate {p : Post} {s : State} (h1 : keptD s.dev) : keptOut (execReplicateUpdate p s) := by
  unfold execReplicateUpdate
  repeat' first
    | with_reducible assumption
    | with_reducible intro _
    | with_reducible apply keep_answer
    | with_reducible apply keep_perform
    | with_reducible apply keep_replicateUpdateRule

theorem keep_execReplCoordinatorUpdate {fromDev : DevIx} {tag : Nat} {region : Fin 16} {offset : Nat} {bytes : List Byte} {s : State} (h5 : keptD s.dev) : keptOut (execReplCoordinatorUpdate fromDev tag region offset bytes s) := by
  unfold execReplCoordinatorUpdate
  repeat' first
    | with_reducible assumption
    | with_reducible apply keep_answer
    | with_reducible apply keep_replPush
    | with_reducible apply keep_send
    | with_reducible apply keep_writeCopy
    | split
    | dsimp only

theorem keep_execReplMemberAck {member : DevIx} {region : Fin 16} {version : W64} {s : State} (h3 : keptD s.dev) : keptOut (execReplMemberAck member region version s) := by
  unfold execReplMemberAck
  repeat' first
    | with_reducible assumption
    | with_reducible apply keep_answer
    | with_reducible apply keep_replNext
    | with_reducible apply keep_replFinish
    | split
    | dsimp only

theorem keep_replPeerLost {d : Dev} {wasCoordinator : Bool} {i : Nat} (h0 : keptD d) : keptD (replPeerLost d wasCoordinator i) := by
  unfold replPeerLost
  repeat' first
    | with_reducible assumption
    | with_reducible intro _
    | with_reducible apply keep_complete
    | with_reducible apply keep_replNext
    | (with_reducible apply kept_foldl)
    | (refine kept_guard ?_ ?_; (focus (simp only [isMk_mk]; done)); (with_reducible refine kept_mk rfl ?_ ?_ ?_ ?_ ?_); (focus ((intro hw; repeat' (first | with_reducible exact hw | with_reducible assumption | with_reducible apply wf_memWrite | with_reducible apply wf_memPut | with_reducible apply wf_memZeroRange | with_reducible exact wf_nil | (with_reducible apply wf_foldl; intro _ _ _))); done)); (focus ((intro hw; repeat' (first | with_reducible exact hw | with_reducible assumption | with_reducible apply wf_memWrite | with_reducible apply wf_memPut | with_reducible apply wf_memZeroRange | with_reducible exact wf_nil | (with_reducible apply wf_foldl; intro _ _ _))); done)); (focus ((intro hw; repeat' (first | with_reducible exact hw | with_reducible assumption | with_reducible apply wf_memWrite | with_reducible apply wf_memPut | with_reducible apply wf_memZeroRange | with_reducible exact wf_nil | (with_reducible apply wf_foldl; intro _ _ _))); done)); (focus ((intro hw; repeat' (first | with_reducible exact hw | with_reducible assumption | with_reducible apply wf_memWrite | with_reducible apply wf_memPut | with_reducible apply wf_memZeroRange | with_reducible exact wf_nil | (with_reducible apply wf_foldl; intro _ _ _))); done)))
    | split

theorem keep_setLift {d : Dev} {part : Nat} {y2 : LiftSt} (h0 : keptD d) : keptD (setLift d part y2) := by
  unfold setLift
  repeat' first
    | with_reducible assumption
    | with_reducible apply keep_setPart

theorem keep_liftDone {d : Dev} {part : Nat} {p : Post} (h0 : keptD d) : keptD (liftDone d part p) := by
  unfold liftDone
  repeat' first
    | with_reducible assumption
    | with_reducible apply keep_setLift
    | split
    | dsimp only

theorem keep_countStall {d : Dev} {part : Nat} (h0 : keptD d) : keptD (countStall d part) := by
  unfold countStall
  repeat' first
    | with_reducible assumption
    | (refine kept_guard ?_ ?_; (focus (simp only [isMk_mk]; done)); with_reducible refine kept_mk rfl (fun h => h) (fun h => h) (fun h => h) (fun h => h) ?_)

theorem keep_liftNext {d : Dev} {part : Nat} (h0 : keptD d) : keptD (liftNext d part) := by
  unfold liftNext
  repeat' first
    | with_reducible assumption
    | with_reducible apply keep_setLift
    | with_reducible apply keep_podLoads
    | split
    | dsimp only

theorem keep_stageIn {d : Dev} {p : Post} (h0 : keptD d) : keptD (stageIn d p) := by
  unfold stageIn
  repeat' first
    | with_reducible assumption
    | (refine kept_guard ?_ ?_; (focus (simp only [isMk_mk]; done)); (with_reducible refine kept_mk rfl ?_ ?_ ?_ ?_ ?_); (focus ((intro hw; repeat' (first | with_reducible exact hw | with_reducible assumption | with_reducible apply wf_memWrite | with_reducible apply wf_memPut | with_reducible apply wf_memZeroRange | with_reducible exact wf_nil | (with_reducible apply wf_foldl; intro _ _ _))); done)); (focus ((intro hw; repeat' (first | with_reducible exact hw | with_reducible assumption | with_reducible apply wf_memWrite | with_reducible apply wf_memPut | with_reducible apply wf_memZeroRange | with_reducible exact wf_nil | (with_reducible apply wf_foldl; intro _ _ _))); done)); (focus ((intro hw; repeat' (first | with_reducible exact hw | with_reducible assumption | with_reducible apply wf_memWrite | with_reducible apply wf_memPut | with_reducible apply wf_memZeroRange | with_reducible exact wf_nil | (with_reducible apply wf_foldl; intro _ _ _))); done)); (focus ((intro hw; repeat' (first | with_reducible exact hw | with_reducible assumption | with_reducible apply wf_memWrite | with_reducible apply wf_memPut | with_reducible apply wf_memZeroRange | with_reducible exact wf_nil | (with_reducible apply wf_foldl; intro _ _ _))); done)))

theorem keep_startTask {op : Nat} {p : Post} {d : Dev} (h2 : keptD d) : keptD (startTask op p d) := by
  unfold startTask
  repeat' first
    | with_reducible assumption
    | with_reducible apply keep_complete
    | with_reducible apply keep_liftDone
    | with_reducible apply keep_setTask
    | with_reducible apply keep_stageIn
    | with_reducible apply keep_addPins
    | with_reducible apply keep_podLoads
    | (refine kept_guard ?_ ?_; (focus (simp only [isMk_mk]; done)); (with_reducible refine kept_mk rfl ?_ ?_ ?_ ?_ ?_); (focus ((intro hw; repeat' (first | with_reducible exact hw | with_reducible assumption | with_reducible apply wf_memWrite | with_reducible apply wf_memPut | with_reducible apply wf_memZeroRange | with_reducible exact wf_nil | (with_reducible apply wf_foldl; intro _ _ _))); done)); (focus ((intro hw; repeat' (first | with_reducible exact hw | with_reducible assumption | with_reducible apply wf_memWrite | with_reducible apply wf_memPut | with_reducible apply wf_memZeroRange | with_reducible exact wf_nil | (with_reducible apply wf_foldl; intro _ _ _))); done)); (focus ((intro hw; repeat' (first | with_reducible exact hw | with_reducible assumption | with_reducible apply wf_memWrite | with_reducible apply wf_memPut | with_reducible apply wf_memZeroRange | with_reducible exact wf_nil | (with_reducible apply wf_foldl; intro _ _ _))); done)); (focus ((intro hw; repeat' (first | with_reducible exact hw | with_reducible assumption | with_reducible apply wf_memWrite | with_reducible apply wf_memPut | with_reducible apply wf_memZeroRange | with_reducible exact wf_nil | (with_reducible apply wf_foldl; intro _ _ _))); done)))
    | split
    | dsimp only

theorem keep_admitTask {part : Nat} {p : Post} {rs : List (List (Nat × Nat))} {start : Dev → Dev} {d : Dev} (h3 : ∀ (x0 : Dev), keptD x0 → keptD (start x0)) (h4 : keptD d) : keptRes (admitTask part p rs start d) := by
  unfold admitTask
  repeat' first
    | with_reducible assumption
    | with_reducible apply h3
    | with_reducible apply keep_setPart
    | with_reducible apply keep_setLift
    | with_reducible apply keep_countStall
    | with_reducible apply keep_liftNext
    | with_reducible apply keptRes_plain
    | with_reducible apply keptRes_done'
    | with_reducible apply keptRes_later'
    | with_reducible apply keptRes_wait'
    | split
    | dsimp only

theorem keep_taskRule {op : Nat} {p : Post} {d : Dev} (h2 : keptD d) : keptRes (taskRule op p d) := by
  unfold taskRule
  repeat' first
    | with_reducible assumption
    | with_reducible intro _
    | with_reducible apply keep_admitTask
    | with_reducible apply keep_startTask
    | with_reducible apply keptRes_done'
    | split
    | dsimp only

theorem keep_failOut {d : Dev} {n : Nat} {ws : List OutW} (h0 : keptD d) : keptD (failOut d n ws) := by
  unfold failOut
  repeat' first
    | with_reducible assumption
    | with_reducible apply keep_finishTask
    | with_reducible apply keep_liftDone
    | with_reducible apply keep_commitWrites
    | split

theorem keep_applyOut {d : Dev} {n : Nat} {t : TaskSt} {o : TaskOut} (h0 : keptD d) : keptD (applyOut d n t o) := by
  unfold applyOut
  repeat' first
    | with_reducible assumption
    | with_reducible intro _
    | with_reducible apply keep_setTask
    | with_reducible apply keep_failOut
    | with_reducible apply keep_failTask
    | with_reducible apply keep_commitWrites
    | with_reducible apply keep_finishTask
    | with_reducible apply keep_liftDone
    | with_reducible apply keep_podStores
    | (with_reducible apply kept_foldl)
    | split
    | dsimp only

theorem keep_concludeTask {d : Dev} {n : Nat} {t : TaskSt} (h0 : keptD d) : keptD (concludeTask d n t) := by
  unfold concludeTask
  repeat' first
    | with_reducible assumption
    | with_reducible apply keep_finishTask
    | with_reducible apply keep_liftDone
    | with_reducible apply keep_applyOut
    | split

theorem keep_itemEnd {concl : Dev → Nat → TaskSt → Dev} {d : Dev} {n : Nat} {tile : Nat} (h0 : ∀ (x0 : Dev) (x1 : Nat) (x2 : TaskSt), keptD x0 → keptD (concl x0 x1 x2)) (h1 : keptD d) : keptD (itemEnd concl d n tile) := by
  unfold itemEnd
  repeat' first
    | with_reducible assumption
    | with_reducible apply h0
    | with_reducible apply keep_setTask
    | with_reducible apply keep_dropPins
    | split

theorem keep_execMatmul {p : Post} {s : State} (h1 : keptD s.dev) : keptOut (execMatmul p s) := by
  unfold execMatmul
  repeat' first
    | with_reducible assumption
    | with_reducible intro _
    | with_reducible apply keep_answer
    | with_reducible apply keep_perform
    | with_reducible apply keep_taskRule

theorem keep_execGroupedMatmul {p : Post} {s : State} (h1 : keptD s.dev) : keptOut (execGroupedMatmul p s) := by
  unfold execGroupedMatmul
  repeat' first
    | with_reducible assumption
    | with_reducible intro _
    | with_reducible apply keep_answer
    | with_reducible apply keep_perform
    | with_reducible apply keep_taskRule

theorem keep_execRoute {p : Post} {s : State} (h1 : keptD s.dev) : keptOut (execRoute p s) := by
  unfold execRoute
  repeat' first
    | with_reducible assumption
    | with_reducible intro _
    | with_reducible apply keep_answer
    | with_reducible apply keep_perform
    | with_reducible apply keep_taskRule

theorem keep_execNorm {p : Post} {s : State} (h1 : keptD s.dev) : keptOut (execNorm p s) := by
  unfold execNorm
  repeat' first
    | with_reducible assumption
    | with_reducible intro _
    | with_reducible apply keep_answer
    | with_reducible apply keep_perform
    | with_reducible apply keep_taskRule

theorem keep_execElementwise {p : Post} {s : State} (h1 : keptD s.dev) : keptOut (execElementwise p s) := by
  unfold execElementwise
  repeat' first
    | with_reducible assumption
    | with_reducible intro _
    | with_reducible apply keep_answer
    | with_reducible apply keep_perform
    | with_reducible apply keep_taskRule

theorem keep_execSoftmax {p : Post} {s : State} (h1 : keptD s.dev) : keptOut (execSoftmax p s) := by
  unfold execSoftmax
  repeat' first
    | with_reducible assumption
    | with_reducible intro _
    | with_reducible apply keep_answer
    | with_reducible apply keep_perform
    | with_reducible apply keep_taskRule

theorem keep_execGather {p : Post} {s : State} (h1 : keptD s.dev) : keptOut (execGather p s) := by
  unfold execGather
  repeat' first
    | with_reducible assumption
    | with_reducible intro _
    | with_reducible apply keep_answer
    | with_reducible apply keep_perform
    | with_reducible apply keep_taskRule

theorem keep_execSample {p : Post} {s : State} (h1 : keptD s.dev) : keptOut (execSample p s) := by
  unfold execSample
  repeat' first
    | with_reducible assumption
    | with_reducible intro _
    | with_reducible apply keep_answer
    | with_reducible apply keep_perform
    | with_reducible apply keep_taskRule

theorem keep_execConvert {p : Post} {s : State} (h1 : keptD s.dev) : keptOut (execConvert p s) := by
  unfold execConvert
  repeat' first
    | with_reducible assumption
    | with_reducible intro _
    | with_reducible apply keep_answer
    | with_reducible apply keep_perform
    | with_reducible apply keep_taskRule

theorem keep_execCompress {p : Post} {s : State} (h1 : keptD s.dev) : keptOut (execCompress p s) := by
  unfold execCompress
  repeat' first
    | with_reducible assumption
    | with_reducible intro _
    | with_reducible apply keep_answer
    | with_reducible apply keep_perform
    | with_reducible apply keep_taskRule

theorem keep_execReduce {p : Post} {s : State} (h1 : keptD s.dev) : keptOut (execReduce p s) := by
  unfold execReduce
  repeat' first
    | with_reducible assumption
    | with_reducible intro _
    | with_reducible apply keep_answer
    | with_reducible apply keep_perform
    | with_reducible apply keep_taskRule

theorem keep_execCopy {p : Post} {s : State} (h1 : keptD s.dev) : keptOut (execCopy p s) := by
  unfold execCopy
  repeat' first
    | with_reducible assumption
    | with_reducible intro _
    | with_reducible apply keep_answer
    | with_reducible apply keep_perform
    | with_reducible apply keep_taskRule

theorem keep_execGradWeight {p : Post} {s : State} (h1 : keptD s.dev) : keptOut (execGradWeight p s) := by
  unfold execGradWeight
  repeat' first
    | with_reducible assumption
    | with_reducible intro _
    | with_reducible apply keep_answer
    | with_reducible apply keep_perform
    | with_reducible apply keep_taskRule

theorem keep_execActBwd {p : Post} {s : State} (h1 : keptD s.dev) : keptOut (execActBwd p s) := by
  unfold execActBwd
  repeat' first
    | with_reducible assumption
    | with_reducible intro _
    | with_reducible apply keep_answer
    | with_reducible apply keep_perform
    | with_reducible apply keep_taskRule

theorem keep_execNormBwd {p : Post} {s : State} (h1 : keptD s.dev) : keptOut (execNormBwd p s) := by
  unfold execNormBwd
  repeat' first
    | with_reducible assumption
    | with_reducible intro _
    | with_reducible apply keep_answer
    | with_reducible apply keep_perform
    | with_reducible apply keep_taskRule

theorem keep_execOptimAdamw {p : Post} {s : State} (h1 : keptD s.dev) : keptOut (execOptimAdamw p s) := by
  unfold execOptimAdamw
  repeat' first
    | with_reducible assumption
    | with_reducible intro _
    | with_reducible apply keep_answer
    | with_reducible apply keep_perform
    | with_reducible apply keep_taskRule

theorem keep_setBasis {d : Dev} {id : Nat} {b : BasisSt} (h0 : keptD d) : keptD (setBasis d id b) := by
  unfold setBasis
  repeat' first
    | with_reducible assumption
    | (refine kept_guard ?_ ?_; (focus (simp only [isMk_mk]; done)); with_reducible refine kept_mk rfl (fun h => h) (fun h => h) (fun h => h) (fun h => h) ?_)

theorem keep_emptySlot {d : Dev} {part : Nat} {id : Nat} {second : Bool} (h0 : keptD d) : keptD (emptySlot d part id second) := by
  unfold emptySlot
  repeat' first
    | with_reducible assumption
    | with_reducible apply keep_setBasis
    | with_reducible apply keep_heapFree

theorem keep_publish {d : Dev} {p : Post} {second : Bool} (h0 : keptD d) : keptSS (publish d p second) := by
  unfold publish
  repeat' first
    | with_reducible assumption
    | with_reducible apply keep_postUncorrectable
    | with_reducible apply keep_emptySlot
    | with_reducible apply keep_setBasis
    | (refine kept_guard ?_ ?_; (focus (simp only [isMk_mk]; done)); with_reducible refine kept_mk rfl (fun h => h) (fun h => h) (fun h => h) (fun h => h) ?_)
    | split
    | with_reducible apply keptSS_intro

theorem keep_replaceRule {p : Post} {d : Dev} (h1 : keptD d) : keptRes (replaceRule p d) := by
  unfold replaceRule
  repeat' first
    | with_reducible assumption
    | with_reducible refine keptSS_snd (keep_publish ?_)
    | with_reducible apply keep_freshObj
    | with_reducible apply keep_heapFree
    | with_reducible apply keep_heapAlloc
    | with_reducible apply keep_setBasis
    | with_reducible apply keptRes_plain
    | with_reducible apply keptRes_done'
    | with_reducible apply keptRes_wait'
    | with_reducible refine keptS_mk (by assumption) ?_
    | with_reducible refine keptAlloc_ok (by assumption) ?_
    | split
    | dsimp only

theorem keep_execBasisReplace {p : Post} {s : State} (h1 : keptD s.dev) : keptOut (execBasisReplace p s) := by
  unfold execBasisReplace
  repeat' first
    | with_reducible assumption
    | with_reducible intro _
    | with_reducible apply keep_answer
    | with_reducible apply keep_perform
    | with_reducible apply keep_replaceRule

theorem keep_drainSlots {d : Dev} {part : Nat} {id : Nat} (h0 : keptD d) : keptD (drainSlots d part id) := by
  unfold drainSlots
  repeat' first
    | with_reducible assumption
    | with_reducible apply keep_emptySlot
    | split
    | dsimp only

theorem keep_retireSlots {d : Dev} {part : Nat} {id : Nat} (h0 : keptD d) : keptD (retireSlots d part id) := by
  unfold retireSlots
  repeat' first
    | with_reducible assumption
    | with_reducible apply keep_drainSlots
    | with_reducible apply keep_setBasis

theorem keep_retireRule {p : Post} {d : Dev} (h1 : keptD d) : keptRes (retireRule p d) := by
  unfold retireRule
  repeat' first
    | with_reducible assumption
    | with_reducible apply keep_retireSlots
    | with_reducible apply keep_setBasis
    | with_reducible apply keptRes_plain
    | with_reducible apply keptRes_wait'
    | split
    | dsimp only

theorem keep_execBasisRetire {p : Post} {s : State} (h1 : keptD s.dev) : keptOut (execBasisRetire p s) := by
  unfold execBasisRetire
  repeat' first
    | with_reducible assumption
    | with_reducible intro _
    | with_reducible apply keep_answer
    | with_reducible apply keep_perform
    | with_reducible apply keep_retireRule

theorem keep_drainDone {d : Dev} {id : Nat} (h0 : keptD d) : keptD (drainDone d id) := by
  unfold drainDone
  repeat' first
    | with_reducible assumption
    | with_reducible apply keep_drainSlots
    | with_reducible apply keep_publish
    | with_reducible apply keep_takePost
    | with_reducible apply keep_complete
    | with_reducible apply keep_setBasis
    | split
    | with_reducible apply keptSS_snd
    | dsimp only

theorem keep_execBasisDrainDone {id : Nat} {s : State} (h1 : keptD s.dev) : keptOut (execBasisDrainDone id s) := by
  unfold execBasisDrainDone
  repeat' first
    | with_reducible assumption
    | with_reducible apply keep_answer
    | with_reducible apply keep_drainDone

end Sys2Proof.Machine
end

