-- ==== Sys2Proof/Laws/KeepAttn.lean ====
section
/-! SUPPORT. Every operation keeps the invariant of Safety.lean, one lemma each: page tables, attention, work items and the lift. -/
namespace Sys2Proof.Machine
open Sys2Proof
-- each goal is closed by the first of its alternatives that applies, so an alternative may go unused
set_option linter.all false

theorem keep_dropLayout {d : Dev} {part : Nat} {id : Nat} (h0 : keptD d) : keptD (dropLayout d part id) := by
  unfold dropLayout
  repeat' first
    | with_reducible assumption
    | with_reducible apply keep_heapFree
    | (refine kept_guard ?_ ?_; (focus (simp only [isMk_mk]; done)); (with_reducible refine kept_mk rfl ?_ ?_ ?_ ?_ ?_); (focus ((intro hw; repeat' (first | with_reducible exact hw | with_reducible assumption | with_reducible apply wf_memWrite | with_reducible apply wf_memPut | with_reducible apply wf_memZeroRange | with_reducible exact wf_nil | (with_reducible apply wf_foldl; intro _ _ _))); done)); (focus ((intro hw; repeat' (first | with_reducible exact hw | with_reducible assumption | with_reducible apply wf_memWrite | with_reducible apply wf_memPut | with_reducible apply wf_memZeroRange | with_reducible exact wf_nil | (with_reducible apply wf_foldl; intro _ _ _))); done)); (focus ((intro hw; repeat' (first | with_reducible exact hw | with_reducible assumption | with_reducible apply wf_memWrite | with_reducible apply wf_memPut | with_reducible apply wf_memZeroRange | with_reducible exact wf_nil | (with_reducible apply wf_foldl; intro _ _ _))); done)); (focus ((intro hw; repeat' (first | with_reducible exact hw | with_reducible assumption | with_reducible apply wf_memWrite | with_reducible apply wf_memPut | with_reducible apply wf_memZeroRange | with_reducible exact wf_nil | (with_reducible apply wf_foldl; intro _ _ _))); done)))
    | split

theorem keep_setLayout {d : Dev} {p : Post} {l : KvLayout} {part : Nat} {id : Nat} (h0 : keptD d) : keptRes (setLayout d p l part id) := by
  unfold setLayout
  repeat' first
    | with_reducible assumption
    | with_reducible apply keep_dropLayout
    | with_reducible apply keep_postUncorrectable
    | with_reducible apply keep_freshObj
    | with_reducible apply keep_heapAlloc
    | with_reducible apply keptRes_plain
    | with_reducible apply keptRes_done'
    | with_reducible refine keptAlloc_ok (by assumption) ?_
    | (refine kept_guard ?_ ?_; (focus (simp only [isMk_mk]; done)); (with_reducible refine kept_mk rfl ?_ ?_ ?_ ?_ ?_); (focus ((intro hw; repeat' (first | with_reducible exact hw | with_reducible assumption | with_reducible apply wf_memWrite | with_reducible apply wf_memPut | with_reducible apply wf_memZeroRange | with_reducible exact wf_nil | (with_reducible apply wf_foldl; intro _ _ _))); done)); (focus ((intro hw; repeat' (first | with_reducible exact hw | with_reducible assumption | with_reducible apply wf_memWrite | with_reducible apply wf_memPut | with_reducible apply wf_memZeroRange | with_reducible exact wf_nil | (with_reducible apply wf_foldl; intro _ _ _))); done)); (focus ((intro hw; repeat' (first | with_reducible exact hw | with_reducible assumption | with_reducible apply wf_memWrite | with_reducible apply wf_memPut | with_reducible apply wf_memZeroRange | with_reducible exact wf_nil | (with_reducible apply wf_foldl; intro _ _ _))); done)); (focus ((intro hw; repeat' (first | with_reducible exact hw | with_reducible assumption | with_reducible apply wf_memWrite | with_reducible apply wf_memPut | with_reducible apply wf_memZeroRange | with_reducible exact wf_nil | (with_reducible apply wf_foldl; intro _ _ _))); done)))
    | split
    | with_reducible apply keptS_snd
    | dsimp only

theorem keep_kvLayoutRule {p : Post} {d : Dev} (h1 : keptD d) : keptRes (kvLayoutRule p d) := by
  unfold kvLayoutRule
  repeat' first
    | with_reducible assumption
    | with_reducible apply keep_setLayout
    | with_reducible apply keptRes_plain
    | split
    | dsimp only

theorem keep_kvLayoutRemoveRule {p : Post} {d : Dev} (h1 : keptD d) : keptRes (kvLayoutRemoveRule p d) := by
  unfold kvLayoutRemoveRule
  repeat' first
    | with_reducible assumption
    | with_reducible apply keep_dropLayout
    | with_reducible apply keptRes_plain
    | split
    | dsimp only

theorem keep_kvLayoutAny {p : Post} {d : Dev} (h1 : keptD d) : keptRes (kvLayoutAny p d) := by
  unfold kvLayoutAny
  repeat' first
    | with_reducible assumption
    | with_reducible apply keep_kvLayoutRemoveRule
    | with_reducible apply keep_kvLayoutRule
    | split

theorem keep_execKvLayout {p : Post} {s : State} (h1 : keptD s.dev) : keptOut (execKvLayout p s) := by
  unfold execKvLayout
  repeat' first
    | with_reducible assumption
    | with_reducible intro _
    | with_reducible apply keep_answer
    | with_reducible apply keep_perform
    | with_reducible apply keep_kvLayoutAny

theorem keep_execKvLayoutRemove {p : Post} {s : State} (h1 : keptD s.dev) : keptOut (execKvLayoutRemove p s) := by
  unfold execKvLayoutRemove
  repeat' first
    | with_reducible assumption
    | with_reducible intro _
    | with_reducible apply keep_answer
    | with_reducible apply keep_perform
    | with_reducible apply keep_kvLayoutAny

theorem keep_kvPolicyRule {p : Post} {d : Dev} (h1 : keptD d) : keptRes (kvPolicyRule p d) := by
  unfold kvPolicyRule
  repeat' first
    | with_reducible assumption
    | with_reducible apply keep_setPart
    | with_reducible apply keptRes_plain
    | split
    | dsimp only

theorem keep_execKvPolicy {p : Post} {s : State} (h1 : keptD s.dev) : keptOut (execKvPolicy p s) := by
  unfold execKvPolicy
  repeat' first
    | with_reducible assumption
    | with_reducible intro _
    | with_reducible apply keep_answer
    | with_reducible apply keep_perform
    | with_reducible apply keep_kvPolicyRule

theorem keep_setTable {d : Dev} {k : Nat} {t : TableSt} (h0 : keptD d) : keptD (setTable d k t) := by
  unfold setTable
  repeat' first
    | with_reducible assumption
    | (refine kept_guard ?_ ?_; (focus (simp only [isMk_mk]; done)); with_reducible refine kept_mk rfl (fun h => h) (fun h => h) (fun h => h) (fun h => h) ?_)

theorem keep_reap {d : Dev} {k : Nat} (h0 : keptD d) : keptD (reap d k) := by
  unfold reap
  repeat' first
    | with_reducible assumption
    | with_reducible intro _
    | with_reducible apply keep_heapFree
    | with_reducible apply keep_setTable
    | (with_reducible apply kept_foldl)
    | (refine kept_guard ?_ ?_; (focus (simp only [isMk_mk]; done)); (with_reducible refine kept_mk rfl ?_ ?_ ?_ ?_ ?_); (focus ((intro hw; repeat' (first | with_reducible exact hw | with_reducible assumption | with_reducible apply wf_memWrite | with_reducible apply wf_memPut | with_reducible apply wf_memZeroRange | with_reducible exact wf_nil | (with_reducible apply wf_foldl; intro _ _ _))); done)); (focus ((intro hw; repeat' (first | with_reducible exact hw | with_reducible assumption | with_reducible apply wf_memWrite | with_reducible apply wf_memPut | with_reducible apply wf_memZeroRange | with_reducible exact wf_nil | (with_reducible apply wf_foldl; intro _ _ _))); done)); (focus ((intro hw; repeat' (first | with_reducible exact hw | with_reducible assumption | with_reducible apply wf_memWrite | with_reducible apply wf_memPut | with_reducible apply wf_memZeroRange | with_reducible exact wf_nil | (with_reducible apply wf_foldl; intro _ _ _))); done)); (focus ((intro hw; repeat' (first | with_reducible exact hw | with_reducible assumption | with_reducible apply wf_memWrite | with_reducible apply wf_memPut | with_reducible apply wf_memZeroRange | with_reducible exact wf_nil | (with_reducible apply wf_foldl; intro _ _ _))); done)))
    | split
    | dsimp only

theorem keep_commitTable {d : Dev} {k : Nat} {t : TableSt} (h0 : keptD d) : keptD (commitTable d k t) := by
  unfold commitTable
  repeat' first
    | with_reducible assumption
    | with_reducible apply keep_reap
    | with_reducible apply keep_setTable

theorem keep_dropRsv {d : Dev} {k : Nat} (h0 : keptD d) : keptD (dropRsv d k) := by
  unfold dropRsv
  repeat' first
    | with_reducible assumption
    | with_reducible intro _
    | with_reducible apply keep_setTable
    | with_reducible apply keep_heapFree
    | (with_reducible apply kept_foldl)
    | split

theorem keep_destroyTable {d : Dev} {k : Nat} (h0 : keptD d) : keptD (destroyTable d k) := by
  unfold destroyTable
  repeat' first
    | with_reducible assumption
    | with_reducible apply keep_dropRsv
    | with_reducible apply keep_commitTable
    | split
    | dsimp only

theorem keep_leaveTable {d : Dev} {k : Nat} {label : Nat} (h0 : keptD d) : keptD (leaveTable d k label) := by
  unfold leaveTable
  repeat' first
    | with_reducible assumption
    | with_reducible apply keep_reap
    | with_reducible apply keep_setTable
    | split

theorem keep_dropPages {d : Dev} {k : Nat} {p : Nat → Bool} (h0 : keptD d) : keptD (dropPages d k p) := by
  unfold dropPages
  repeat' first
    | with_reducible assumption
    | with_reducible apply keep_commitTable
    | split

theorem keep_allocReclaim {part : Nat} {l : List (HeapKind × Nat × Nat)} {y2 : Nat} {y3 : Dev} (h3 : keptD y3) : keptGot (allocReclaim part l y2 y3) := by
  induction y2 generalizing y3 with
  | zero =>
    unfold allocReclaim
    repeat' first
      | with_reducible assumption
      | with_reducible apply keep_heapAllocs
      | with_reducible apply keptGot_ok'
      | with_reducible apply keptGot_lacks'
      | with_reducible refine keptAlloc_ok (by assumption) ?_
      | split
  | succ k ih =>
    unfold allocReclaim
    repeat' first
      | with_reducible assumption
      | with_reducible apply ih
      | with_reducible apply keep_heapAllocs
      | with_reducible apply keep_dropPages
      | with_reducible apply keptGot_ok'
      | with_reducible apply keptGot_lacks'
      | with_reducible refine keptAlloc_ok (by assumption) ?_
      | split

theorem keep_holderAlloc {d : Dev} {part : Nat} {l : List (HeapKind × Nat × Nat)} (h0 : keptD d) : keptGot (holderAlloc d part l) := by
  unfold holderAlloc
  repeat' first
    | with_reducible assumption
    | with_reducible apply keep_allocReclaim

theorem keep_makeTable {d : Dev} {part : Nat} {layoutId : Nat} {l : KvLayout} {req : W64} {isRing : Bool} {w : Nat} {windowPos : Nat} (h0 : keptD d) : keptMade (makeTable d part layoutId l req isRing w windowPos) := by
  unfold makeTable
  repeat' first
    | with_reducible assumption
    | with_reducible apply keep_freshObj
    | with_reducible apply keep_holderAlloc
    | with_reducible apply keep_setTable
    | with_reducible apply keptMade_ok'
    | with_reducible apply keptMade_lacks'
    | with_reducible refine keptS_mk (by assumption) ?_
    | with_reducible refine keptGot_ok (by assumption) ?_
    | with_reducible refine keptGot_lacks (by assumption) ?_
    | (refine kept_guard ?_ ?_; (focus (simp only [isMk_mk]; done)); with_reducible refine kept_mk rfl (fun h => h) (fun h => h) (fun h => h) (fun h => h) ?_)
    | split

theorem keep_placeLeaf {d : Dev} {k : Nat} {p : Nat} (h0 : keptD d) : keptGot (placeLeaf d k p) := by
  unfold placeLeaf
  repeat' first
    | with_reducible assumption
    | with_reducible apply keep_freshObj
    | with_reducible apply keep_holderAlloc
    | with_reducible apply keep_setTable
    | with_reducible apply keptGot_ok'
    | with_reducible apply keptGot_lacks'
    | with_reducible refine keptS_mk (by assumption) ?_
    | with_reducible refine keptGot_ok (by assumption) ?_
    | with_reducible refine keptGot_lacks (by assumption) ?_
    | split
    | dsimp only

theorem keep_placePage {d : Dev} {k : Nat} {p : Nat} (h0 : keptD d) : keptGot (placePage d k p) := by
  unfold placePage
  repeat' first
    | with_reducible assumption
    | with_reducible apply keep_setTable
    | with_reducible apply keep_heapFree
    | with_reducible apply keep_freshObj
    | with_reducible apply keep_holderAlloc
    | with_reducible apply keptGot_ok'
    | with_reducible apply keptGot_lacks'
    | with_reducible refine keptGot_ok (by assumption) ?_
    | with_reducible refine keptGot_lacks (by assumption) ?_
    | split
    | with_reducible apply keptS_snd
    | dsimp only

theorem keep_placePages {k : Nat} {y1 : List Nat} {y2 : Dev} (h2 : keptD y2) : keptGot (placePages k y1 y2) := by
  induction y1 generalizing y2 with
  | nil =>
    unfold placePages
    repeat' first
      | with_reducible assumption
      | with_reducible apply keptGot_ok'
  | cons e l ih =>
    unfold placePages
    repeat' first
      | with_reducible assumption
      | with_reducible apply ih
      | with_reducible apply keep_placePage
      | with_reducible apply keptGot_lacks'
      | with_reducible refine keptGot_ok (by assumption) ?_
      | with_reducible refine keptGot_lacks (by assumption) ?_
      | split

theorem keep_unplacePages {d : Dev} {k : Nat} {ps : List Nat} (h0 : keptD d) : keptD (unplacePages d k ps) := by
  unfold unplacePages
  repeat' first
    | with_reducible assumption
    | with_reducible intro _
    | with_reducible apply keep_heapFree
    | with_reducible apply keep_setTable
    | (with_reducible apply kept_foldl)
    | split

theorem keep_settleRes {p : Post} {y1 : Res} (h1 : keptRes y1) : keptD (settleRes p y1) := by
  unfold settleRes
  cases y1
  · exact keep_complete h1
  · exact h1
  · exact keep_keepPost h1

theorem keep_onTable {p : Post} {u : TableUse} {h : Nat} {d : Dev} {act : Nat → TableSt → Res} (h3 : keptD d) (h4 : ∀ (x0 : Nat) (x1 : TableSt), keptRes (act x0 x1)) : keptRes (onTable p u h d act) := by
  unfold onTable
  repeat' first
    | with_reducible assumption
    | with_reducible apply h4
    | with_reducible apply keptRes_plain
    | with_reducible apply keptRes_later'
    | (refine kept_guard ?_ ?_; (focus (simp only [isMk_mk]; done)); with_reducible refine kept_mk rfl (fun h => h) (fun h => h) (fun h => h) (fun h => h) ?_)
    | split

theorem keep_ptCreateRule {p : Post} {d : Dev} (h1 : keptD d) : keptRes (ptCreateRule p d) := by
  unfold ptCreateRule
  repeat' first
    | with_reducible assumption
    | with_reducible apply keep_makeTable
    | with_reducible apply keptRes_plain
    | with_reducible apply keptRes_done'
    | with_reducible refine keptMade_ok (by assumption) ?_
    | with_reducible refine keptMade_lacks (by assumption) ?_
    | split
    | dsimp only

theorem keep_execPtCreate {p : Post} {s : State} (h1 : keptD s.dev) : keptOut (execPtCreate p s) := by
  unfold execPtCreate
  repeat' first
    | with_reducible assumption
    | with_reducible intro _
    | with_reducible apply keep_answer
    | with_reducible apply keep_perform
    | with_reducible apply keep_ptCreateRule

theorem keep_placeLeaves {k : Nat} {y1 : List Nat} {y2 : Dev} (h2 : keptD y2) : keptGot (placeLeaves k y1 y2) := by
  induction y1 generalizing y2 with
  | nil =>
    unfold placeLeaves
    repeat' first
      | with_reducible assumption
      | with_reducible apply keptGot_ok'
  | cons e l ih =>
    unfold placeLeaves
    repeat' first
      | with_reducible assumption
      | with_reducible apply ih
      | with_reducible apply keep_placeLeaf
      | with_reducible apply keptGot_lacks'
      | with_reducible refine keptGot_ok (by assumption) ?_
      | with_reducible refine keptGot_lacks (by assumption) ?_
      | split

theorem keep_forkTable {d : Dev} {t : TableSt} {n : Nat} (h0 : keptD d) : keptMade (forkTable d t n) := by
  unfold forkTable
  repeat' first
    | with_reducible assumption
    | with_reducible apply keep_makeTable
    | with_reducible apply keep_placeLeaves
    | with_reducible apply keep_destroyTable
    | with_reducible apply keep_setTable
    | with_reducible apply keptMade_ok'
    | with_reducible apply keptMade_lacks'
    | with_reducible refine keptMade_ok (by assumption) ?_
    | with_reducible refine keptMade_lacks (by assumption) ?_
    | with_reducible refine keptGot_ok (by assumption) ?_
    | with_reducible refine keptGot_lacks (by assumption) ?_
    | split

theorem keep_ptForkRule {p : Post} {d : Dev} (h1 : keptD d) : keptRes (ptForkRule p d) := by
  unfold ptForkRule
  repeat' first
    | with_reducible assumption
    | with_reducible intro _
    | with_reducible apply keep_onTable
    | with_reducible apply keep_forkTable
    | with_reducible apply keptRes_plain
    | with_reducible apply keptRes_done'
    | with_reducible refine keptMade_ok (by assumption) ?_
    | with_reducible refine keptMade_lacks (by assumption) ?_
    | split
    | dsimp only

theorem keep_execPtFork {p : Post} {s : State} (h1 : keptD s.dev) : keptOut (execPtFork p s) := by
  unfold execPtFork
  repeat' first
    | with_reducible assumption
    | with_reducible intro _
    | with_reducible apply keep_answer
    | with_reducible apply keep_perform
    | with_reducible apply keep_ptForkRule

theorem keep_truncateTable {d : Dev} {k : Nat} {pos : Nat} (h0 : keptD d) : keptD (truncateTable d k pos) := by
  unfold truncateTable
  repeat' first
    | with_reducible assumption
    | with_reducible apply keep_commitTable
    | split

theorem keep_ptTruncateRule {p : Post} {d : Dev} (h1 : keptD d) : keptRes (ptTruncateRule p d) := by
  unfold ptTruncateRule
  repeat' first
    | with_reducible assumption
    | with_reducible intro _
    | with_reducible apply keep_onTable
    | with_reducible apply keep_truncateTable
    | with_reducible apply keptRes_plain
    | split

theorem keep_execPtTruncate {p : Post} {s : State} (h1 : keptD s.dev) : keptOut (execPtTruncate p s) := by
  unfold execPtTruncate
  repeat' first
    | with_reducible assumption
    | with_reducible intro _
    | with_reducible apply keep_answer
    | with_reducible apply keep_perform
    | with_reducible apply keep_ptTruncateRule

theorem keep_ptDestroyRule {p : Post} {d : Dev} (h1 : keptD d) : keptRes (ptDestroyRule p d) := by
  unfold ptDestroyRule
  repeat' first
    | with_reducible assumption
    | with_reducible intro _
    | with_reducible apply keep_onTable
    | with_reducible apply keep_destroyTable
    | with_reducible apply keptRes_plain
    | split

theorem keep_execPtDestroy {p : Post} {s : State} (h1 : keptD s.dev) : keptOut (execPtDestroy p s) := by
  unfold execPtDestroy
  repeat' first
    | with_reducible assumption
    | with_reducible intro _
    | with_reducible apply keep_answer
    | with_reducible apply keep_perform
    | with_reducible apply keep_ptDestroyRule

theorem keep_hostWrite {d : Dev} {a : Nat} {bs : List Byte} (h0 : keptD d) : keptD (hostWrite d a bs) := by
  unfold hostWrite
  repeat' first
    | with_reducible assumption
    | (refine kept_guard ?_ ?_; (focus (simp only [isMk_mk]; done)); (with_reducible refine kept_mk rfl ?_ ?_ ?_ ?_ ?_); (focus ((intro hw; repeat' (first | with_reducible exact hw | with_reducible assumption | with_reducible apply wf_memWrite | with_reducible apply wf_memPut | with_reducible apply wf_memZeroRange | with_reducible exact wf_nil | (with_reducible apply wf_foldl; intro _ _ _))); done)); (focus ((intro hw; repeat' (first | with_reducible exact hw | with_reducible assumption | with_reducible apply wf_memWrite | with_reducible apply wf_memPut | with_reducible apply wf_memZeroRange | with_reducible exact wf_nil | (with_reducible apply wf_foldl; intro _ _ _))); done)); (focus ((intro hw; repeat' (first | with_reducible exact hw | with_reducible assumption | with_reducible apply wf_memWrite | with_reducible apply wf_memPut | with_reducible apply wf_memZeroRange | with_reducible exact wf_nil | (with_reducible apply wf_foldl; intro _ _ _))); done)); (focus ((intro hw; repeat' (first | with_reducible exact hw | with_reducible assumption | with_reducible apply wf_memWrite | with_reducible apply wf_memPut | with_reducible apply wf_memZeroRange | with_reducible exact wf_nil | (with_reducible apply wf_foldl; intro _ _ _))); done)))

theorem keep_ptQueryRule {p : Post} {d : Dev} (h1 : keptD d) : keptRes (ptQueryRule p d) := by
  unfold ptQueryRule
  repeat' first
    | with_reducible assumption
    | with_reducible apply keep_hostWrite
    | with_reducible apply keptRes_plain
    | split
    | dsimp only

theorem keep_execPtQuery {p : Post} {s : State} (h1 : keptD s.dev) : keptOut (execPtQuery p s) := by
  unfold execPtQuery
  repeat' first
    | with_reducible assumption
    | with_reducible intro _
    | with_reducible apply keep_answer
    | with_reducible apply keep_perform
    | with_reducible apply keep_ptQueryRule

theorem keep_hbmWrite {d : Dev} {a : Nat} {bs : List Byte} (h0 : keptD d) : keptD (hbmWrite d a bs) := by
  unfold hbmWrite
  repeat' first
    | with_reducible assumption
    | (refine kept_guard ?_ ?_; (focus (simp only [isMk_mk]; done)); (with_reducible refine kept_mk rfl ?_ ?_ ?_ ?_ ?_); (focus ((intro hw; repeat' (first | with_reducible exact hw | with_reducible assumption | with_reducible apply wf_memWrite | with_reducible apply wf_memPut | with_reducible apply wf_memZeroRange | with_reducible exact wf_nil | (with_reducible apply wf_foldl; intro _ _ _))); done)); (focus ((intro hw; repeat' (first | with_reducible exact hw | with_reducible assumption | with_reducible apply wf_memWrite | with_reducible apply wf_memPut | with_reducible apply wf_memZeroRange | with_reducible exact wf_nil | (with_reducible apply wf_foldl; intro _ _ _))); done)); (focus ((intro hw; repeat' (first | with_reducible exact hw | with_reducible assumption | with_reducible apply wf_memWrite | with_reducible apply wf_memPut | with_reducible apply wf_memZeroRange | with_reducible exact wf_nil | (with_reducible apply wf_foldl; intro _ _ _))); done)); (focus ((intro hw; repeat' (first | with_reducible exact hw | with_reducible assumption | with_reducible apply wf_memWrite | with_reducible apply wf_memPut | with_reducible apply wf_memZeroRange | with_reducible exact wf_nil | (with_reducible apply wf_foldl; intro _ _ _))); done)))

theorem keep_basinPut {d : Dev} {t : TableSt} {layer : Nat} {pos : Nat} {k : List Num} {v : List Num} (h0 : keptD d) : keptF (basinPut d t layer pos k v) := by
  unfold basinPut
  repeat' first
    | with_reducible assumption
    | with_reducible apply keep_hbmWrite
    | with_reducible apply keptF_intro

theorem keep_flushPage {d : Dev} {t : TableSt} {pins : List (Nat × Bool)} {layer : Nat} {p : Nat} (h0 : keptD d) : keptF (flushPage d t pins layer p) := by
  unfold flushPage
  repeat' first
    | with_reducible assumption
    | with_reducible intro _
    | with_reducible apply keep_hbmWrite
    | (with_reducible apply kept_foldl_fst)
    | split
    | with_reducible apply keptF_intro
    | with_reducible apply keptF_fst

theorem keep_appFlush {pins : List (Nat × Bool)} {layer : Nat} {row : Nat} {p : Nat} {a : AppSt} (h4 : keptAppSt a) : keptAppSt (appFlush pins layer row p a) := by
  unfold appFlush
  repeat' first
    | with_reducible exact keptAppSt_d (by assumption)
    | with_reducible apply keep_flushPage
    | with_reducible refine keptF_mk (by assumption) ?_
    | split
    | with_reducible apply keptAppSt_mk

theorem keep_withPages {d : Dev} {k : Nat} {i : Nat} {ps : List Nat} {act : Dev → TableSt → AppSt} (h0 : keptD d) (h4 : ∀ (x0 : Dev) (x1 : TableSt), keptD x0 → keptAppSt (act x0 x1)) : keptApp (withPages d k i ps act) := by
  unfold withPages
  repeat' first
    | with_reducible assumption
    | with_reducible apply keptAppSt_d
    | with_reducible apply h4
    | with_reducible apply keep_placePages
    | with_reducible apply keep_unplacePages
    | with_reducible apply keep_commitTable
    | with_reducible apply keptApp_ok'
    | with_reducible apply keptApp_fail'
    | with_reducible refine keptGot_ok (by assumption) ?_
    | with_reducible refine keptGot_lacks (by assumption) ?_
    | split

theorem keep_appPos {pins : List (Nat × Bool)} {layer : Nat} {tent : Bool} {src : NewRows} {a : AppSt} {nr : Nat × Nat} (h4 : keptAppSt a) : keptAppSt (appPos pins layer tent src a nr) := by
  unfold appPos
  repeat' first
    | with_reducible assumption
    | with_reducible apply keep_basinPut
    | with_reducible apply keep_appFlush
    | split
    | with_reducible apply keptAppSt_mk
    | with_reducible apply keptF_fst
    | with_reducible apply keptAppSt_d

theorem keep_appendEntry {d : Dev} {pins : List (Nat × Bool)} {layer : Nat} {tent : Bool} {src : NewRows} {i : Nat} {r0 : Nat} {e : LenEntry} (h0 : keptD d) : keptApp (appendEntry d pins layer tent src i r0 e) := by
  unfold appendEntry
  repeat' first
    | with_reducible assumption
    | with_reducible intro _
    | with_reducible apply keep_withPages
    | with_reducible apply keep_appPos
    | with_reducible apply keptApp_fail'
    | (with_reducible apply kept_foldl_app)
    | split
    | with_reducible apply keptAppSt_mk

theorem keep_verifyEntry {d : Dev} {pins : List (Nat × Bool)} {i : Nat} {r0 : Nat} {e : LenEntry} (h0 : keptD d) : keptApp (verifyEntry d pins i r0 e) := by
  unfold verifyEntry
  repeat' first
    | with_reducible assumption
    | with_reducible intro _
    | with_reducible apply keep_withPages
    | with_reducible apply keep_appFlush
    | with_reducible apply keptApp_fail'
    | (with_reducible apply kept_foldl_app)
    | split
    | with_reducible apply keptAppSt_mk

theorem keep_appendAll {act : Dev → Nat → Nat → LenEntry → Appended} {y1 : List (Nat × Nat × LenEntry)} {y2 : Dev} {y3 : List (Nat × NumFlags)} (h0 : ∀ (x0 : Dev) (x1 : Nat) (x2 : Nat) (x3 : LenEntry), keptD x0 → keptApp (act x0 x1 x2 x3)) (h2 : keptD y2) : keptM (appendAll act y1 y2 y3) := by
  induction y1 generalizing y2 y3 with
  | nil => exact h2
  | cons e l ih =>
    obtain ⟨i, r0, e⟩ := e
    unfold appendAll
    split
    · exact keptM_intro (keptApp_fail (by assumption) (h0 _ _ _ _ h2))
    · exact ih (keptApp_ok (by assumption) (h0 _ _ _ _ h2))

theorem keep_farWork {d : Dev} {q : FarQuery} {part : Nat} (h0 : keptD d) : keptSSS (farWork d q part) := by
  unfold farWork
  repeat' first
    | with_reducible assumption
    | with_reducible intro _
    | with_reducible refine keptM_snd (keep_appendAll ?_ ?_)
    | with_reducible apply keep_verifyEntry
    | with_reducible apply keep_appendEntry
    | split
    | with_reducible apply keptSSS_intro
    | dsimp only

theorem keep_farAnswer {d : Dev} {q : FarQuery} (h0 : keptD d) : keptOSSS (farAnswer d q) := by
  unfold farAnswer
  repeat' first
    | with_reducible assumption
    | with_reducible apply keep_farWork
    | with_reducible apply keptOSSS_none
    | with_reducible apply keptOSSS_intro
    | split
    | with_reducible apply keptSSS_intro
    | dsimp only

theorem keep_farArrive {d : Dev} {n : Nat} {st : Status} {detail : Nat} {recs : List Partial} (h0 : keptD d) : keptD (farArrive d n st detail recs) := by
  unfold farArrive
  repeat' first
    | with_reducible assumption
    | with_reducible apply keep_setTask
    | with_reducible apply keep_failTask
    | split

theorem keep_farHere {d : Dev} {q : FarQuery} (h0 : keptD d) : keptD (farHere d q) := by
  unfold farHere
  repeat' first
    | with_reducible assumption
    | with_reducible apply keep_farAnswer
    | with_reducible apply keep_farArrive
    | with_reducible apply keep_send
    | with_reducible refine keptOSSS_some (by assumption) ?_
    | (refine kept_guard ?_ ?_; (focus (simp only [isMk_mk]; done)); (with_reducible refine kept_mk rfl ?_ ?_ ?_ ?_ ?_); (focus ((intro hw; repeat' (first | with_reducible exact hw | with_reducible assumption | with_reducible apply wf_memWrite | with_reducible apply wf_memPut | with_reducible apply wf_memZeroRange | with_reducible exact wf_nil | (with_reducible apply wf_foldl; intro _ _ _))); done)); (focus ((intro hw; repeat' (first | with_reducible exact hw | with_reducible assumption | with_reducible apply wf_memWrite | with_reducible apply wf_memPut | with_reducible apply wf_memZeroRange | with_reducible exact wf_nil | (with_reducible apply wf_foldl; intro _ _ _))); done)); (focus ((intro hw; repeat' (first | with_reducible exact hw | with_reducible assumption | with_reducible apply wf_memWrite | with_reducible apply wf_memPut | with_reducible apply wf_memZeroRange | with_reducible exact wf_nil | (with_reducible apply wf_foldl; intro _ _ _))); done)); (focus ((intro hw; repeat' (first | with_reducible exact hw | with_reducible assumption | with_reducible apply wf_memWrite | with_reducible apply wf_memPut | with_reducible apply wf_memZeroRange | with_reducible exact wf_nil | (with_reducible apply wf_foldl; intro _ _ _))); done)))
    | split

theorem keep_execFarLegQuery {q : FarQuery} {s : State} (h1 : keptD s.dev) : keptOut (execFarLegQuery q s) := by
  unfold execFarLegQuery
  repeat' first
    | with_reducible assumption
    | with_reducible apply keep_answer
    | with_reducible apply keep_farHere

theorem keep_execPartialRecords {task : Nat} {fromDev : DevIx} {status : Status} {detail : W64} {recs : List Partial} {s : State} (h5 : keptD s.dev) : keptOut (execPartialRecords task fromDev status detail recs s) := by
  unfold execPartialRecords
  repeat' first
    | with_reducible assumption
    | with_reducible apply keep_answer
    | with_reducible apply keep_farArrive
    | split
    | dsimp only

theorem keep_execFarLegTimeout {task : Nat} {s : State} (h1 : keptD s.dev) : keptOut (execFarLegTimeout task s) := by
  unfold execFarLegTimeout
  repeat' first
    | with_reducible assumption
    | with_reducible apply keep_answer
    | with_reducible apply keep_farArrive

theorem keep_snapshot {d : Dev} {n : Nat} (h0 : keptD d) : keptD (snapshot d n) := by
  unfold snapshot
  repeat' first
    | with_reducible assumption
    | with_reducible intro _
    | with_reducible apply keep_setTable
    | with_reducible apply keep_setTask
    | with_reducible apply keep_podLoads
    | with_reducible apply keep_failTask
    | (with_reducible apply kept_foldl_fst)
    | split
    | with_reducible apply keptF_intro
    | with_reducible apply keptF_fst
    | dsimp only

theorem keep_runAppend {d : Dev} {t : TaskSt} (h0 : keptD d) : keptM (runAppend d t) := by
  unfold runAppend
  repeat' first
    | with_reducible assumption
    | with_reducible intro _
    | with_reducible apply keep_appendAll
    | with_reducible apply keep_verifyEntry
    | with_reducible apply keep_appendEntry
    | split
    | with_reducible apply keptM_intro
    | with_reducible apply keptM_snd

theorem keep_attendPhase {d : Dev} {n : Nat} (h0 : keptD d) : keptD (attendPhase d n) := by
  unfold attendPhase
  repeat' first
    | with_reducible assumption
    | with_reducible apply keep_snapshot
    | with_reducible apply keep_setTask
    | with_reducible apply keep_runAppend
    | with_reducible apply keep_failTask
    | with_reducible refine keptM_mk (by assumption) ?_
    | split

theorem keep_farStart {d : Dev} {n : Nat} {dev : Nat} (h0 : keptD d) : keptD (farStart d n dev) := by
  unfold farStart
  repeat' first
    | with_reducible assumption
    | with_reducible apply keep_failTask
    | with_reducible apply keep_setTask
    | with_reducible apply keep_farHere
    | with_reducible apply keep_send
    | split
    | dsimp only

theorem keep_startAttn {op : Nat} {p : Post} {d : Dev} (h2 : keptD d) : keptD (startAttn op p d) := by
  unfold startAttn
  repeat' first
    | with_reducible assumption
    | with_reducible apply keep_complete
    | with_reducible apply keep_liftDone
    | with_reducible apply keep_postUncorrectable
    | with_reducible apply keep_addPins
    | with_reducible apply keep_setTask
    | with_reducible apply keep_stageIn
    | with_reducible apply keep_farStart
    | with_reducible apply keep_attendPhase
    | (refine kept_guard ?_ ?_; (focus (simp only [isMk_mk]; done)); (with_reducible refine kept_mk rfl ?_ ?_ ?_ ?_ ?_); (focus ((intro hw; repeat' (first | with_reducible exact hw | with_reducible assumption | with_reducible apply wf_memWrite | with_reducible apply wf_memPut | with_reducible apply wf_memZeroRange | with_reducible exact wf_nil | (with_reducible apply wf_foldl; intro _ _ _))); done)); (focus ((intro hw; repeat' (first | with_reducible exact hw | with_reducible assumption | with_reducible apply wf_memWrite | with_reducible apply wf_memPut | with_reducible apply wf_memZeroRange | with_reducible exact wf_nil | (with_reducible apply wf_foldl; intro _ _ _))); done)); (focus ((intro hw; repeat' (first | with_reducible exact hw | with_reducible assumption | with_reducible apply wf_memWrite | with_reducible apply wf_memPut | with_reducible apply wf_memZeroRange | with_reducible exact wf_nil | (with_reducible apply wf_foldl; intro _ _ _))); done)); (focus ((intro hw; repeat' (first | with_reducible exact hw | with_reducible assumption | with_reducible apply wf_memWrite | with_reducible apply wf_memPut | with_reducible apply wf_memZeroRange | with_reducible exact wf_nil | (with_reducible apply wf_foldl; intro _ _ _))); done)))
    | split
    | dsimp only

theorem keep_leaveAll {d : Dev} {ws : List Walker} (h0 : keptD d) : keptD (leaveAll d ws) := by
  unfold leaveAll
  repeat' first
    | with_reducible assumption
    | with_reducible intro _
    | with_reducible apply keep_leaveTable
    | (with_reducible apply kept_foldl)

theorem keep_concludeAttn {d : Dev} {n : Nat} {t : TaskSt} (h0 : keptD d) : keptD (concludeAttn d n t) := by
  unfold concludeAttn
  repeat' first
    | with_reducible assumption
    | with_reducible apply keep_applyOut
    | with_reducible apply keep_leaveAll
    | with_reducible apply keep_finishTask
    | with_reducible apply keep_liftDone
    | with_reducible apply keep_setTask
    | with_reducible apply keep_addPins
    | with_reducible apply keep_runAppend
    | with_reducible apply keep_failTask
    | with_reducible refine keptM_mk (by assumption) ?_
    | split
    | dsimp only

theorem keep_retryAppend {d : Dev} {n : Nat} (h0 : keptD d) : keptD (retryAppend d n) := by
  unfold retryAppend
  repeat' first
    | with_reducible assumption
    | with_reducible apply keep_attendPhase
    | with_reducible apply keep_dropPins
    | with_reducible apply keep_concludeAttn
    | with_reducible apply keep_setTask
    | split

theorem keep_retryFar {d : Dev} (h0 : keptD d) : keptD (retryFar d) := by
  unfold retryFar
  repeat' first
    | with_reducible assumption
    | with_reducible intro _
    | with_reducible apply keep_farHere
    | (with_reducible apply kept_foldl)
    | (refine kept_guard ?_ ?_; (focus (simp only [isMk_mk]; done)); with_reducible refine kept_mk rfl (fun h => h) (fun h => h) (fun h => h) (fun h => h) ?_)

theorem keep_execAppendSlotWaitEnd {part : PartId} {s : State} (h1 : keptD s.dev) : keptOut (execAppendSlotWaitEnd part s) := by
  unfold execAppendSlotWaitEnd
  repeat' first
    | with_reducible assumption
    | with_reducible intro _
    | with_reducible apply keep_answer
    | with_reducible apply keep_retryFar
    | with_reducible apply keep_retryAppend
    | (with_reducible apply kept_foldl)

theorem keep_attnRule {op : Nat} {p : Post} {d0 : Dev} (h2 : keptD d0) : keptRes (attnRule op p d0) := by
  unfold attnRule
  repeat' first
    | with_reducible assumption
    | with_reducible intro _
    | with_reducible apply keep_stageIn
    | with_reducible apply keep_admitTask
    | with_reducible apply keep_startAttn
    | with_reducible apply keptRes_done'
    | with_reducible apply keptRes_later'
    | (refine kept_guard ?_ ?_; (focus (simp only [isMk_mk]; done)); with_reducible refine kept_mk rfl (fun h => h) (fun h => h) (fun h => h) (fun h => h) ?_)
    | split
    | dsimp only

theorem keep_execKvAppend {p : Post} {s : State} (h1 : keptD s.dev) : keptOut (execKvAppend p s) := by
  unfold execKvAppend
  repeat' first
    | with_reducible assumption
    | with_reducible intro _
    | with_reducible apply keep_answer
    | with_reducible apply keep_perform
    | with_reducible apply keep_attnRule

theorem keep_execAttend {p : Post} {s : State} (h1 : keptD s.dev) : keptOut (execAttend p s) := by
  unfold execAttend
  repeat' first
    | with_reducible assumption
    | with_reducible intro _
    | with_reducible apply keep_answer
    | with_reducible apply keep_perform
    | with_reducible apply keep_attnRule

theorem keep_execKvVerify {p : Post} {s : State} (h1 : keptD s.dev) : keptOut (execKvVerify p s) := by
  unfold execKvVerify
  repeat' first
    | with_reducible assumption
    | with_reducible intro _
    | with_reducible apply keep_answer
    | with_reducible apply keep_perform
    | with_reducible apply keep_attnRule

theorem keep_conclude {d : Dev} {n : Nat} {t : TaskSt} (h0 : keptD d) : keptD (conclude d n t) := by
  unfold conclude
  repeat' first
    | with_reducible assumption
    | with_reducible apply keep_concludeAttn
    | with_reducible apply keep_concludeTask
    | split

theorem keep_startAny {p : Post} {d : Dev} (h1 : keptD d) : keptD (startAny p d) := by
  unfold startAny
  repeat' first
    | with_reducible assumption
    | with_reducible apply keep_startAttn
    | with_reducible apply keep_startTask
    | split

theorem keep_rerunTask {d : Dev} {p : Post} (h0 : keptD d) : keptD (rerunTask d p) := by
  unfold rerunTask
  repeat' first
    | with_reducible assumption
    | with_reducible apply keep_settleRes
    | with_reducible apply keep_attnRule
    | with_reducible apply keep_taskRule
    | split

theorem keep_leaveSquashed {d : Dev} {n : Nat} (h0 : keptD d) : keptD (leaveSquashed d n) := by
  unfold leaveSquashed
  repeat' first
    | with_reducible assumption
    | with_reducible apply keep_setTask
    | with_reducible apply keep_leaveAll
    | split

theorem keep_boundaryTask {tile : Nat} {d : Dev} {n : Nat} (h1 : keptD d) : keptD (boundaryTask tile d n) := by
  unfold boundaryTask
  repeat' first
    | with_reducible assumption
    | with_reducible intro _
    | with_reducible apply keep_leaveSquashed
    | with_reducible apply keep_setTask
    | with_reducible apply keep_itemEnd
    | with_reducible apply keep_conclude
    | split
    | dsimp only

theorem keep_execTileBoundary {tile : TileId} {s : State} (h1 : keptD s.dev) : keptOut (execTileBoundary tile s) := by
  unfold execTileBoundary
  repeat' first
    | with_reducible assumption
    | with_reducible intro _
    | with_reducible apply keep_answer
    | with_reducible apply keep_boundaryTask
    | (with_reducible apply kept_foldl)

theorem keep_chunkEndOn {d : Dev} {tile : Nat} {mismatch : Option Residue} (h0 : keptD d) : keptD (chunkEndOn d tile mismatch) := by
  unfold chunkEndOn
  repeat' first
    | with_reducible assumption
    | with_reducible intro _
    | with_reducible apply keep_itemEnd
    | with_reducible apply keep_conclude
    | with_reducible apply keep_raise
    | with_reducible apply keep_failTask
    | with_reducible apply keep_fenceTile
    | (with_reducible apply kept_foldl)
    | split

theorem keep_execChunkEnd {tile : TileId} {mismatch : Option Residue} {s : State} (h2 : keptD s.dev) : keptOut (execChunkEnd tile mismatch s) := by
  unfold execChunkEnd
  repeat' first
    | with_reducible assumption
    | with_reducible apply keep_answer
    | with_reducible apply keep_chunkEndOn

theorem keep_execWorkItemComplete {task : Nat} {tile : TileId} {s : State} (h2 : keptD s.dev) : keptOut (execWorkItemComplete task tile s) := by
  unfold execWorkItemComplete
  repeat' first
    | with_reducible assumption
    | with_reducible intro _
    | with_reducible apply keep_answer
    | with_reducible apply keep_itemEnd
    | with_reducible apply keep_conclude
    | split

theorem keep_inTurn {parts : List Nat} {rule : Dev → Res} {d : Dev} (h1 : ∀ (x0 : Dev), keptD x0 → keptRes (rule x0)) (h2 : keptD d) : keptRes (inTurn parts rule d) := by
  unfold inTurn
  repeat' first
    | with_reducible assumption
    | with_reducible apply h1
    | with_reducible apply keptRes_wait'
    | split

theorem keep_liftStartRule {p : Post} {d : Dev} (h1 : keptD d) : keptRes (liftStartRule p d) := by
  unfold liftStartRule
  repeat' first
    | with_reducible assumption
    | with_reducible apply keep_postUncorrectable
    | with_reducible apply keep_liftNext
    | with_reducible apply keep_setLift
    | with_reducible apply keptRes_plain
    | with_reducible apply keptRes_done'
    | split
    | dsimp only

theorem keep_execLiftStart {p : Post} {s : State} (h1 : keptD s.dev) : keptOut (execLiftStart p s) := by
  unfold execLiftStart
  repeat' first
    | with_reducible assumption
    | with_reducible intro _
    | with_reducible apply keep_answer
    | with_reducible apply keep_perform
    | with_reducible apply keep_inTurn
    | with_reducible apply keep_liftStartRule

theorem keep_dropLoads {d : Dev} {part : Nat} (h0 : keptD d) : keptD (dropLoads d part) := by
  unfold dropLoads
  repeat' first
    | with_reducible assumption
    | (refine kept_guard ?_ ?_; (focus (simp only [isMk_mk]; done)); with_reducible refine kept_mk rfl (fun h => h) (fun h => h) (fun h => h) (fun h => h) ?_)

theorem keep_liftStopRule {p : Post} {d : Dev} (h1 : keptD d) : keptRes (liftStopRule p d) := by
  unfold liftStopRule
  repeat' first
    | with_reducible assumption
    | with_reducible apply keep_setLift
    | with_reducible apply keep_dropLoads
    | with_reducible apply keptRes_plain
    | split
    | dsimp only

theorem keep_execLiftStop {p : Post} {s : State} (h1 : keptD s.dev) : keptOut (execLiftStop p s) := by
  unfold execLiftStop
  repeat' first
    | with_reducible assumption
    | with_reducible intro _
    | with_reducible apply keep_answer
    | with_reducible apply keep_perform
    | with_reducible apply keep_inTurn
    | with_reducible apply keep_liftStopRule

theorem keep_liftHalt {d : Dev} {part : Nat} {first : Nat → Post → Option (Status × Nat)} (h0 : keptD d) : keptD (liftHalt d part first) := by
  unfold liftHalt
  repeat' first
    | with_reducible assumption
    | with_reducible intro _
    | with_reducible apply keep_complete
    | with_reducible apply keep_liftDone
    | with_reducible apply keep_setLift
    | with_reducible apply keep_dropLoads
    | (with_reducible apply kept_foldl)
    | split

theorem keep_execLiftFenceTimeout {part : PartId} {s : State} (h1 : keptD s.dev) : keptOut (execLiftFenceTimeout part s) := by
  unfold execLiftFenceTimeout
  repeat' first
    | with_reducible assumption
    | with_reducible apply keep_answer
    | with_reducible apply keep_liftHalt
    | split
    | dsimp only

theorem keep_loadFail {d : Dev} {part : Nat} {q : Nat} {st : Status} {detail : Nat} (h0 : keptD d) : keptD (loadFail d part q st detail) := by
  unfold loadFail
  repeat' first
    | with_reducible assumption
    | with_reducible apply keep_postUncorrectable
    | with_reducible apply keep_liftHalt
    | split

theorem keep_execLiftLoadFailure {part : PartId} {lost : Bool} {addr : W64} {s : State} (h3 : keptD s.dev) : keptOut (execLiftLoadFailure part lost addr s) := by
  unfold execLiftLoadFailure
  repeat' first
    | with_reducible assumption
    | with_reducible apply keep_answer
    | with_reducible apply keep_loadFail
    | split
    | dsimp only

theorem keep_tsWrite {d : Dev} {a : Nat} {bs : List Byte} (h0 : keptD d) : keptD (tsWrite d a bs) := by
  unfold tsWrite
  repeat' first
    | with_reducible assumption
    | (refine kept_guard ?_ ?_; (focus (simp only [isMk_mk]; done)); (with_reducible refine kept_mk rfl ?_ ?_ ?_ ?_ ?_); (focus ((intro hw; repeat' (first | with_reducible exact hw | with_reducible assumption | with_reducible apply wf_memWrite | with_reducible apply wf_memPut | with_reducible apply wf_memZeroRange | with_reducible exact wf_nil | (with_reducible apply wf_foldl; intro _ _ _))); done)); (focus ((intro hw; repeat' (first | with_reducible exact hw | with_reducible assumption | with_reducible apply wf_memWrite | with_reducible apply wf_memPut | with_reducible apply wf_memZeroRange | with_reducible exact wf_nil | (with_reducible apply wf_foldl; intro _ _ _))); done)); (focus ((intro hw; repeat' (first | with_reducible exact hw | with_reducible assumption | with_reducible apply wf_memWrite | with_reducible apply wf_memPut | with_reducible apply wf_memZeroRange | with_reducible exact wf_nil | (with_reducible apply wf_foldl; intro _ _ _))); done)); (focus ((intro hw; repeat' (first | with_reducible exact hw | with_reducible assumption | with_reducible apply wf_memWrite | with_reducible apply wf_memPut | with_reducible apply wf_memZeroRange | with_reducible exact wf_nil | (with_reducible apply wf_foldl; intro _ _ _))); done)))

theorem keep_startReaders {d : Dev} {part : Nat} {q : Nat} (h0 : keptD d) : keptD (startReaders d part q) := by
  unfold startReaders
  repeat' first
    | with_reducible assumption
    | with_reducible intro _
    | with_reducible apply keep_setPart
    | with_reducible apply keep_startAny
    | with_reducible apply keep_setLift
    | (with_reducible apply kept_foldl)
    | split
    | dsimp only

theorem keep_loadDone {d : Dev} {part : Nat} {q : Nat} (h0 : keptD d) : keptD (loadDone d part q) := by
  unfold loadDone
  repeat' first
    | with_reducible assumption
    | with_reducible apply keep_loadFail
    | with_reducible apply keep_tsWrite
    | with_reducible apply keep_setLift
    | with_reducible apply keep_liftNext
    | with_reducible apply keep_startReaders
    | split
    | dsimp only

theorem keep_refetchLoads {d : Dev} {part : Nat} (h0 : keptD d) : keptD (refetchLoads d part) := by
  unfold refetchLoads
  repeat' first
    | with_reducible assumption
    | with_reducible apply keep_setLift
    | with_reducible apply keep_podLoads
    | split
    | dsimp only

theorem keep_execLiftLoadComplete {part : PartId} {s : State} (h1 : keptD s.dev) : keptOut (execLiftLoadComplete part s) := by
  unfold execLiftLoadComplete
  repeat' first
    | with_reducible assumption
    | with_reducible apply keep_answer
    | with_reducible apply keep_refetchLoads
    | with_reducible apply keep_loadDone
    | split
    | dsimp only

theorem keep_liftRefetch {d : Dev} {part : Nat} (h0 : keptD d) : keptD (liftRefetch d part) := by
  unfold liftRefetch
  repeat' first
    | with_reducible assumption
    | with_reducible apply keep_setPart
    | with_reducible apply keep_dropLoads
    | with_reducible apply keep_refetchLoads
    | split
    | dsimp only

end Sys2Proof.Machine
end

