-- ==== Sys2Proof/Laws/KeepXpt.lean ====
section
/-! SUPPORT. Every operation keeps the invariant of Safety.lean, one lemma each: queue pairs, packets, the sluice, mappings and partitions. -/
namespace Sys2Proof.Machine
open Sys2Proof
-- each goal is closed by the first of its alternatives that applies, so an alternative may go unused
set_option linter.all false

theorem keep_setCam {d : Dev} {h : Nat} {y2 : CamHalf} (h0 : keptD d) : keptD (setCam d h y2) := by
  unfold setCam
  repeat' first
    | with_reducible assumption
    | (refine kept_guard ?_ ?_; (focus (simp only [isMk_mk]; done)); (with_reducible refine kept_mk rfl ?_ ?_ ?_ ?_ ?_); (focus ((intro hw; repeat' (first | with_reducible exact hw | with_reducible assumption | with_reducible apply wf_memWrite | with_reducible apply wf_memPut | with_reducible apply wf_memZeroRange | with_reducible exact wf_nil | (with_reducible apply wf_foldl; intro _ _ _))); done)); (focus ((intro hw; repeat' (first | with_reducible exact hw | with_reducible assumption | with_reducible apply wf_memWrite | with_reducible apply wf_memPut | with_reducible apply wf_memZeroRange | with_reducible exact wf_nil | (with_reducible apply wf_foldl; intro _ _ _))); done)); (focus ((intro hw; repeat' (first | with_reducible exact hw | with_reducible assumption | with_reducible apply wf_memWrite | with_reducible apply wf_memPut | with_reducible apply wf_memZeroRange | with_reducible exact wf_nil | (with_reducible apply wf_foldl; intro _ _ _))); done)); (focus ((intro hw; repeat' (first | with_reducible exact hw | with_reducible assumption | with_reducible apply wf_memWrite | with_reducible apply wf_memPut | with_reducible apply wf_memZeroRange | with_reducible exact wf_nil | (with_reducible apply wf_foldl; intro _ _ _))); done)))
    | split

theorem keep_setPolicer {d : Dev} {n : Nat} {y2 : Policer} (h0 : keptD d) : keptD (setPolicer d n y2) := by
  unfold setPolicer
  repeat' first
    | with_reducible assumption
    | (refine kept_guard ?_ ?_; (focus (simp only [isMk_mk]; done)); with_reducible refine kept_mk rfl (fun h => h) (fun h => h) (fun h => h) (fun h => h) ?_)

theorem keep_countSluice {d : Dev} {n : Nat} {full : Bool} (h0 : keptD d) : keptD (countSluice d n full) := by
  unfold countSluice
  repeat' first
    | with_reducible assumption
    | with_reducible apply keep_setPort

theorem keep_setQp {d : Dev} {qn : Nat} {q : QpSt} (h0 : keptD d) : keptD (setQp d qn q) := by
  unfold setQp
  repeat' first
    | with_reducible assumption
    | (refine kept_guard ?_ ?_; (focus (simp only [isMk_mk]; done)); with_reducible refine kept_mk rfl (fun h => h) (fun h => h) (fun h => h) (fun h => h) ?_)

theorem keep_xptAdd {d : Dev} {which : Nat} {half : Nat} (h0 : keptD d) : keptD (xptAdd d which half) := by
  unfold xptAdd
  repeat' first
    | with_reducible assumption
    | (refine kept_guard ?_ ?_; (focus (simp only [isMk_mk]; done)); with_reducible refine kept_mk rfl (fun h => h) (fun h => h) (fun h => h) (fun h => h) ?_)

theorem keep_carry {d : Dev} {q : QpSt} {qn : Nat} {p : Packet} {cls : Nat} {tenant : Nat} {ce : Bool} (h0 : keptD d) : keptD (carry d q qn p cls tenant ce) := by
  unfold carry
  repeat' first
    | with_reducible assumption
    | with_reducible intro _
    | with_reducible apply keep_egPush
    | (with_reducible apply kept_foldl)
    | split
    | dsimp only

theorem keep_offer {d : Dev} {q0 : QpSt} {qn : Nat} {p : Packet} (h0 : keptD d) : keptO (offer d q0 qn p) := by
  unfold offer
  repeat' first
    | with_reducible assumption
    | with_reducible apply keep_carry
    | with_reducible apply keep_countSluice
    | with_reducible apply keep_setPolicer
    | with_reducible apply keptO_none
    | with_reducible apply keptO_intro
    | split
    | dsimp only

theorem keep_emitPkt {d : Dev} {q : QpSt} {qn : Nat} {p : Packet} (h0 : keptD d) : keptD (emitPkt d q qn p) := by
  have h := keep_offer (d := d) (q0 := q) (qn := qn) (p := p) h0
  unfold emitPkt
  cases e : offer d q qn p with
  | none => exact h0
  | some x => rw [e] at h; exact h

theorem keep_endWait {d : Dev} {f : Fn} {r : Nat} {w : QpWaitSt} {st : Status} (h0 : keptD d) : keptD (endWait d f r w st) := by
  unfold endWait
  repeat' first
    | with_reducible assumption
    | with_reducible apply keep_complete
    | with_reducible apply keep_setRing

theorem keep_endWaitsOn {d : Dev} {qn : Nat} {st : Status} (h0 : keptD d) : keptD (endWaitsOn d qn st) := by
  unfold endWaitsOn
  repeat' first
    | with_reducible assumption
    | with_reducible intro _
    | with_reducible apply keep_endWait
    | (with_reducible apply kept_foldl)
    | split

theorem keep_settleDestroys {d : Dev} (h0 : keptD d) : keptD (settleDestroys d) := by
  unfold settleDestroys
  repeat' first
    | with_reducible assumption
    | with_reducible intro _
    | with_reducible apply keep_complete
    | (with_reducible apply kept_foldl)
    | (refine kept_guard ?_ ?_; (focus (simp only [isMk_mk]; done)); with_reducible refine kept_mk rfl (fun h => h) (fun h => h) (fun h => h) (fun h => h) ?_)

theorem keep_freeQp {d : Dev} {qn : Nat} {st : Status} (h0 : keptD d) : keptD (freeQp d qn st) := by
  unfold freeQp
  repeat' first
    | with_reducible assumption
    | with_reducible apply keep_settleDestroys
    | with_reducible apply keep_endWaitsOn
    | (refine kept_guard ?_ ?_; (focus (simp only [isMk_mk]; done)); with_reducible refine kept_mk rfl (fun h => h) (fun h => h) (fun h => h) (fun h => h) ?_)

theorem keep_opDone {d : Dev} {qn : Nat} {p : Post} {r : Status × Nat × Nat} (h0 : keptD d) : keptD (opDone d qn p r) := by
  unfold opDone
  repeat' first
    | with_reducible assumption
    | with_reducible apply keep_setQp
    | with_reducible apply keep_complete
    | split

theorem keep_settleOps {qn : Nat} {y1 : Nat} {y2 : Dev} (h2 : keptD y2) : keptD (settleOps qn y1 y2) := by
  induction y1 generalizing y2 with
  | zero =>
    unfold settleOps
    repeat' first
      | with_reducible assumption
  | succ k ih =>
    unfold settleOps
    repeat' first
      | with_reducible assumption
      | with_reducible apply ih
      | with_reducible apply keep_setQp
      | with_reducible apply keep_freeQp
      | with_reducible apply keep_opDone
      | split
      | dsimp only

theorem keep_settleQp {d : Dev} {qn : Nat} (h0 : keptD d) : keptD (settleQp d qn) := by
  unfold settleQp
  repeat' first
    | with_reducible assumption
    | with_reducible apply keep_settleOps
    | split

theorem keep_qpError {d : Dev} {qn : Nat} {st : Status} {detail : Nat} (h0 : keptD d) : keptD (qpError d qn st detail) := by
  unfold qpError
  repeat' first
    | with_reducible assumption
    | with_reducible intro _
    | with_reducible apply keep_setQp
    | with_reducible apply keep_opDone
    | with_reducible apply keep_raiseFn
    | with_reducible apply keep_freeQp
    | with_reducible apply keep_endWaitsOn
    | (with_reducible apply kept_foldl)
    | split

theorem keep_wantCtx {d : Dev} {qn : Nat} (h0 : keptD d) : keptD (wantCtx d qn) := by
  unfold wantCtx
  repeat' first
    | with_reducible assumption
    | with_reducible apply keep_xptAdd
    | with_reducible apply keep_setQp
    | split

theorem keep_makeRoom {d : Dev} {half : Nat} (h0 : keptD d) : keptO (makeRoom d half) := by
  unfold makeRoom
  repeat' first
    | with_reducible assumption
    | with_reducible intro _
    | with_reducible apply keep_setQp
    | with_reducible apply keptO_intro
    | (with_reducible apply keptO_map)
    | split
    | dsimp only

theorem keep_touchQp {d : Dev} {qn : Nat} (h0 : keptD d) : keptD (touchQp d qn) := by
  unfold touchQp
  repeat' first
    | with_reducible assumption
    | with_reducible apply keep_setQp
    | (refine kept_guard ?_ ?_; (focus (simp only [isMk_mk]; done)); (with_reducible refine kept_mk rfl ?_ ?_ ?_ ?_ ?_); (focus ((intro hw; repeat' (first | with_reducible exact hw | with_reducible assumption | with_reducible apply wf_memWrite | with_reducible apply wf_memPut | with_reducible apply wf_memZeroRange | with_reducible exact wf_nil | (with_reducible apply wf_foldl; intro _ _ _))); done)); (focus ((intro hw; repeat' (first | with_reducible exact hw | with_reducible assumption | with_reducible apply wf_memWrite | with_reducible apply wf_memPut | with_reducible apply wf_memZeroRange | with_reducible exact wf_nil | (with_reducible apply wf_foldl; intro _ _ _))); done)); (focus ((intro hw; repeat' (first | with_reducible exact hw | with_reducible assumption | with_reducible apply wf_memWrite | with_reducible apply wf_memPut | with_reducible apply wf_memZeroRange | with_reducible exact wf_nil | (with_reducible apply wf_foldl; intro _ _ _))); done)); (focus ((intro hw; repeat' (first | with_reducible exact hw | with_reducible assumption | with_reducible apply wf_memWrite | with_reducible apply wf_memPut | with_reducible apply wf_memZeroRange | with_reducible exact wf_nil | (with_reducible apply wf_foldl; intro _ _ _))); done)))
    | split

theorem keep_nextPkt {d : Dev} {qn : Nat} (h0 : keptD d) : keptO (nextPkt d qn) := by
  unfold nextPkt
  repeat' first
    | with_reducible assumption
    | with_reducible apply keep_offer
    | with_reducible apply keep_setQp
    | with_reducible apply keptO_none
    | split

theorem keep_pumpGo {qn : Nat} {y1 : Nat} {y2 : Dev} (h2 : keptD y2) : keptD (pumpGo qn y1 y2) := by
  induction y1 generalizing y2 with
  | zero =>
    unfold pumpGo
    repeat' first
      | with_reducible assumption
  | succ k ih =>
    unfold pumpGo
    repeat' first
      | with_reducible assumption
      | with_reducible apply ih
      | with_reducible apply keep_nextPkt
      | with_reducible refine keptO_some (by assumption) ?_
      | split

theorem keep_pump {d : Dev} {qn : Nat} (h0 : keptD d) : keptD (pump d qn) := by
  unfold pump
  repeat' first
    | with_reducible assumption
    | with_reducible apply keep_pumpGo
    | split

theorem keep_resendPkt {d : Dev} {qn : Nat} {psn : W32} (h0 : keptD d) : keptD (resendPkt d qn psn) := by
  unfold resendPkt
  repeat' first
    | with_reducible assumption
    | with_reducible apply keep_offer
    | with_reducible apply keep_xptAdd
    | with_reducible apply keep_setQp
    | with_reducible refine keptO_some (by assumption) ?_
    | split
    | dsimp only

theorem keep_pushOp {d : Dev} {qn : Nat} {o : XOp} (h0 : keptD d) : keptD (pushOp d qn o) := by
  unfold pushOp
  repeat' first
    | with_reducible assumption
    | with_reducible apply keep_setQp
    | split

theorem keep_qpCreateRule {p : Post} {d : Dev} (h1 : keptD d) : keptRes (qpCreateRule p d) := by
  unfold qpCreateRule
  repeat' first
    | with_reducible assumption
    | with_reducible intro _
    | with_reducible apply keep_setQp
    | with_reducible apply keptRes_plain
    | (with_reducible apply kept_foldl)
    | split
    | dsimp only

theorem keep_execQpCreate {p : Post} {s : State} (h1 : keptD s.dev) : keptOut (execQpCreate p s) := by
  unfold execQpCreate
  repeat' first
    | with_reducible assumption
    | with_reducible intro _
    | with_reducible apply keep_answer
    | with_reducible apply keep_perform
    | with_reducible apply keep_qpCreateRule

theorem keep_towHelloOut {d : Dev} {qn : Nat} (h0 : keptD d) : keptD (towHelloOut d qn) := by
  unfold towHelloOut
  repeat' first
    | with_reducible assumption
    | with_reducible apply keep_pump
    | with_reducible apply keep_wantCtx
    | with_reducible apply keep_pushOp
    | split

theorem keep_qpConnectRule {p : Post} {d : Dev} (h1 : keptD d) : keptRes (qpConnectRule p d) := by
  unfold qpConnectRule
  repeat' first
    | with_reducible assumption
    | with_reducible apply keep_setQp
    | with_reducible apply keep_towHelloOut
    | with_reducible apply keptRes_plain
    | split

theorem keep_execQpConnect {p : Post} {s : State} (h1 : keptD s.dev) : keptOut (execQpConnect p s) := by
  unfold execQpConnect
  repeat' first
    | with_reducible assumption
    | with_reducible intro _
    | with_reducible apply keep_answer
    | with_reducible apply keep_perform
    | with_reducible apply keep_qpConnectRule

theorem keep_qpDestroyOne {d : Dev} {i : Nat} (h0 : keptD d) : keptD (qpDestroyOne d i) := by
  unfold qpDestroyOne
  repeat' first
    | with_reducible assumption
    | with_reducible apply keep_freeQp
    | with_reducible apply keep_setQp
    | split

theorem keep_qpDestroyRule {p : Post} {d : Dev} (h1 : keptD d) : keptRes (qpDestroyRule p d) := by
  unfold qpDestroyRule
  repeat' first
    | with_reducible assumption
    | with_reducible intro _
    | with_reducible apply keep_qpDestroyOne
    | with_reducible apply keptRes_plain
    | with_reducible apply keptRes_later'
    | (with_reducible apply kept_foldl)
    | (refine kept_guard ?_ ?_; (focus (simp only [isMk_mk]; done)); with_reducible refine kept_mk rfl (fun h => h) (fun h => h) (fun h => h) (fun h => h) ?_)
    | split
    | dsimp only

theorem keep_execQpDestroy {p : Post} {s : State} (h1 : keptD s.dev) : keptOut (execQpDestroy p s) := by
  unfold execQpDestroy
  repeat' first
    | with_reducible assumption
    | with_reducible intro _
    | with_reducible apply keep_answer
    | with_reducible apply keep_perform
    | with_reducible apply keep_qpDestroyRule

theorem keep_qpQueryRule {p : Post} {d : Dev} (h1 : keptD d) : keptRes (qpQueryRule p d) := by
  unfold qpQueryRule
  repeat' first
    | with_reducible assumption
    | with_reducible apply keep_hostWrite
    | with_reducible apply keptRes_plain
    | split

theorem keep_execQpQuery {p : Post} {s : State} (h1 : keptD s.dev) : keptOut (execQpQuery p s) := by
  unfold execQpQuery
  repeat' first
    | with_reducible assumption
    | with_reducible intro _
    | with_reducible apply keep_answer
    | with_reducible apply keep_perform
    | with_reducible apply keep_qpQueryRule

theorem keep_podDigest {d : Dev} (h0 : keptD d) : keptD (podDigest d) := by
  unfold podDigest
  repeat' first
    | with_reducible assumption
    | with_reducible intro _
    | with_reducible apply keep_refreshDigest
    | with_reducible apply keep_towHelloOut
    | (with_reducible apply kept_foldl)
    | split

theorem keep_replRegionRule {p : Post} {d : Dev} (h1 : keptD d) : keptRes (replRegionRule p d) := by
  unfold replRegionRule
  repeat' first
    | with_reducible assumption
    | with_reducible apply keep_podDigest
    | with_reducible apply keptRes_plain
    | (refine kept_guard ?_ ?_; (focus (simp only [isMk_mk]; done)); (with_reducible refine kept_mk rfl ?_ ?_ ?_ ?_ ?_); (focus ((intro hw; repeat' (first | with_reducible exact hw | with_reducible assumption | with_reducible apply wf_memWrite | with_reducible apply wf_memPut | with_reducible apply wf_memZeroRange | with_reducible exact wf_nil | (with_reducible apply wf_foldl; intro _ _ _))); done)); (focus ((intro hw; repeat' (first | with_reducible exact hw | with_reducible assumption | with_reducible apply wf_memWrite | with_reducible apply wf_memPut | with_reducible apply wf_memZeroRange | with_reducible exact wf_nil | (with_reducible apply wf_foldl; intro _ _ _))); done)); (focus ((intro hw; repeat' (first | with_reducible exact hw | with_reducible assumption | with_reducible apply wf_memWrite | with_reducible apply wf_memPut | with_reducible apply wf_memZeroRange | with_reducible exact wf_nil | (with_reducible apply wf_foldl; intro _ _ _))); done)); (focus ((intro hw; repeat' (first | with_reducible exact hw | with_reducible assumption | with_reducible apply wf_memWrite | with_reducible apply wf_memPut | with_reducible apply wf_memZeroRange | with_reducible exact wf_nil | (with_reducible apply wf_foldl; intro _ _ _))); done)))
    | split
    | dsimp only

theorem keep_execReplRegion {p : Post} {s : State} (h1 : keptD s.dev) : keptOut (execReplRegion p s) := by
  unfold execReplRegion
  repeat' first
    | with_reducible assumption
    | with_reducible intro _
    | with_reducible apply keep_answer
    | with_reducible apply keep_perform
    | with_reducible apply keep_replRegionRule

theorem keep_execReplRegionRemove {p : Post} {s : State} (h1 : keptD s.dev) : keptOut (execReplRegionRemove p s) := by
  unfold execReplRegionRemove
  repeat' first
    | with_reducible assumption
    | with_reducible intro _
    | with_reducible apply keep_answer
    | with_reducible apply keep_perform
    | with_reducible apply keep_replRegionRule

theorem keep_placeAt {d : Dev} {y1 : PartSt} {a : Nat} {bs : List Byte} (h0 : keptD d) : keptS (placeAt d y1 a bs) := by
  unfold placeAt
  repeat' first
    | with_reducible assumption
    | with_reducible apply keep_postUncorrectable
    | with_reducible apply keep_tierWrite
    | (refine kept_guard ?_ ?_; (focus (simp only [isMk_mk]; done)); (with_reducible refine kept_mk rfl ?_ ?_ ?_ ?_ ?_); (focus ((intro hw; repeat' (first | with_reducible exact hw | with_reducible assumption | with_reducible apply wf_memWrite | with_reducible apply wf_memPut | with_reducible apply wf_memZeroRange | with_reducible exact wf_nil | (with_reducible apply wf_foldl; intro _ _ _))); done)); (focus ((intro hw; repeat' (first | with_reducible exact hw | with_reducible assumption | with_reducible apply wf_memWrite | with_reducible apply wf_memPut | with_reducible apply wf_memZeroRange | with_reducible exact wf_nil | (with_reducible apply wf_foldl; intro _ _ _))); done)); (focus ((intro hw; repeat' (first | with_reducible exact hw | with_reducible assumption | with_reducible apply wf_memWrite | with_reducible apply wf_memPut | with_reducible apply wf_memZeroRange | with_reducible exact wf_nil | (with_reducible apply wf_foldl; intro _ _ _))); done)); (focus ((intro hw; repeat' (first | with_reducible exact hw | with_reducible assumption | with_reducible apply wf_memWrite | with_reducible apply wf_memPut | with_reducible apply wf_memZeroRange | with_reducible exact wf_nil | (with_reducible apply wf_foldl; intro _ _ _))); done)))
    | split
    | with_reducible apply keptS_intro

theorem keep_fetchAt {d : Dev} {y1 : PartSt} {a : Nat} {n : Nat} (h0 : keptD d) : keptS (fetchAt d y1 a n) := by
  unfold fetchAt
  repeat' first
    | with_reducible assumption
    | with_reducible apply keep_postUncorrectable
    | split
    | with_reducible apply keptS_intro

theorem keep_atomicOn {d : Dev} {y1 : PartSt} {a : Nat} {aop : Nat} {operand : W64} {compare : W64} (h0 : keptD d) : keptS (atomicOn d y1 a aop operand compare) := by
  unfold atomicOn
  repeat' first
    | with_reducible assumption
    | with_reducible apply keep_postUncorrectable
    | with_reducible apply keep_atomicAt
    | with_reducible refine keptS_mk (by assumption) ?_
    | split
    | with_reducible apply keptS_intro

theorem keep_xClosed {q : QpSt} {d : Dev} (h1 : keptD d) : keptORes (xClosed q d) := by
  unfold xClosed
  repeat' first
    | with_reducible assumption
    | with_reducible apply keptRes_plain
    | with_reducible apply keptRes_done'
    | with_reducible apply keptORes_none
    | with_reducible apply keptORes_intro
    | split

theorem keep_addAcount {d : Dev} {qn : Nat} {n : Nat} (h0 : keptD d) : keptD (addAcount d qn n) := by
  unfold addAcount
  repeat' first
    | with_reducible assumption
    | with_reducible apply keep_setQp
    | split

theorem keep_placeLocal {d : Dev} {y1 : PartSt} {p : Post} {bs : List Byte} (h0 : keptD d) : keptSS (placeLocal d y1 p bs) := by
  unfold placeLocal
  repeat' first
    | with_reducible assumption
    | with_reducible apply keep_placeAt
    | with_reducible apply keep_tierWrite
    | with_reducible refine keptS_mk (by assumption) ?_
    | split
    | with_reducible apply keptSS_intro

theorem keep_xHere {d : Dev} {op : Nat} {p : Post} {y3 : PartSt} {y : PartSt} {peer : Nat} {o : XOp} (h0 : keptD d) : keptS (xHere d op p y3 y peer o) := by
  unfold xHere
  repeat' first
    | with_reducible assumption
    | with_reducible apply keep_placeAt
    | with_reducible apply keep_addAcount
    | with_reducible apply keep_fetchAt
    | with_reducible apply keep_placeLocal
    | with_reducible apply keep_atomicOn
    | with_reducible refine keptS_mk (by assumption) ?_
    | with_reducible refine keptSS_mk (by assumption) ?_
    | split
    | with_reducible apply keptS_intro

theorem keep_sameDevice {d : Dev} {op : Nat} {p : Post} {qn : Nat} {q : QpSt} {o : XOp} (h0 : keptD d) : keptD (sameDevice d op p qn q o) := by
  unfold sameDevice
  repeat' first
    | with_reducible assumption
    | with_reducible apply keep_xHere
    | with_reducible apply keep_opDone
    | with_reducible apply keep_qpError
    | with_reducible apply keep_setQp
    | split
    | with_reducible apply keptS_snd

theorem keep_xptRule {op : Nat} {p : Post} {d : Dev} (h2 : keptD d) : keptRes (xptRule op p d) := by
  unfold xptRule
  repeat' first
    | with_reducible assumption
    | with_reducible apply keep_xClosed
    | with_reducible apply keep_postUncorrectable
    | with_reducible apply keep_sameDevice
    | with_reducible apply keep_settleQp
    | with_reducible apply keep_pump
    | with_reducible apply keep_wantCtx
    | with_reducible apply keep_touchQp
    | with_reducible apply keep_pushOp
    | with_reducible apply keptRes_plain
    | with_reducible apply keptRes_later'
    | with_reducible apply keptRes_wait'
    | with_reducible refine keptORes_some (by assumption) ?_
    | split
    | dsimp only

theorem keep_execXptPut {p : Post} {s : State} (h1 : keptD s.dev) : keptOut (execXptPut p s) := by
  unfold execXptPut
  repeat' first
    | with_reducible assumption
    | with_reducible intro _
    | with_reducible apply keep_answer
    | with_reducible apply keep_perform
    | with_reducible apply keep_xptRule

theorem keep_execXptGet {p : Post} {s : State} (h1 : keptD s.dev) : keptOut (execXptGet p s) := by
  unfold execXptGet
  repeat' first
    | with_reducible assumption
    | with_reducible intro _
    | with_reducible apply keep_answer
    | with_reducible apply keep_perform
    | with_reducible apply keep_xptRule

theorem keep_execXptAtomic {p : Post} {s : State} (h1 : keptD s.dev) : keptOut (execXptAtomic p s) := by
  unfold execXptAtomic
  repeat' first
    | with_reducible assumption
    | with_reducible intro _
    | with_reducible apply keep_answer
    | with_reducible apply keep_perform
    | with_reducible apply keep_xptRule

theorem keep_execXptSignal {p : Post} {s : State} (h1 : keptD s.dev) : keptOut (execXptSignal p s) := by
  unfold execXptSignal
  repeat' first
    | with_reducible assumption
    | with_reducible intro _
    | with_reducible apply keep_answer
    | with_reducible apply keep_perform
    | with_reducible apply keep_xptRule

theorem keep_waitFails {d : Dev} {p : Post} {st : Status} {detail : Nat} (h0 : keptD d) : keptRes (waitFails d p st detail) := by
  unfold waitFails
  repeat' first
    | with_reducible assumption
    | with_reducible apply keep_setRing
    | with_reducible apply keptRes_done'
    | split

theorem keep_qpWaitRule {p : Post} {d : Dev} (h1 : keptD d) : keptRes (qpWaitRule p d) := by
  unfold qpWaitRule
  repeat' first
    | with_reducible assumption
    | with_reducible refine keptORes_some (by assumption) ?_
    | with_reducible exact keptORes_none
    | with_reducible apply keptORes_intro
    | with_reducible apply keep_waitFails
    | with_reducible apply keep_setRing
    | with_reducible apply keptRes_plain
    | with_reducible apply keptRes_later'
    | split
    | dsimp only

theorem keep_execQpWait {p : Post} {s : State} (h1 : keptD s.dev) : keptOut (execQpWait p s) := by
  unfold execQpWait
  repeat' first
    | with_reducible assumption
    | with_reducible intro _
    | with_reducible apply keep_answer
    | with_reducible apply keep_perform
    | with_reducible apply keep_qpWaitRule

theorem keep_execQpWaitSatisfied {fn : Fn} {ring : Nat} {s : State} (h2 : keptD s.dev) : keptOut (execQpWaitSatisfied fn ring s) := by
  unfold execQpWaitSatisfied
  repeat' first
    | with_reducible assumption
    | with_reducible apply keep_answer
    | with_reducible apply keep_endWait
    | split
    | dsimp only

theorem keep_execQpWaitTimeout {fn : Fn} {ring : Nat} {s : State} (h2 : keptD s.dev) : keptOut (execQpWaitTimeout fn ring s) := by
  unfold execQpWaitTimeout
  repeat' first
    | with_reducible assumption
    | with_reducible apply keep_answer
    | with_reducible apply keep_endWait
    | split
    | dsimp only

theorem keep_sendAck {d : Dev} {qn : Nat} (h0 : keptD d) : keptD (sendAck d qn) := by
  unfold sendAck
  repeat' first
    | with_reducible assumption
    | with_reducible apply keep_emitPkt
    | with_reducible apply keep_setQp
    | split

theorem keep_sendNak {d : Dev} {qn : Nat} {msn : Nat} {st : Status} {detail : Nat} {resend : Bool} (h0 : keptD d) : keptD (sendNak d qn msn st detail resend) := by
  unfold sendNak
  repeat' first
    | with_reducible assumption
    | with_reducible apply keep_emitPkt
    | split

theorem keep_sendOwn {d : Dev} {qn : Nat} {o : XOp} (h0 : keptD d) : keptD (sendOwn d qn o) := by
  unfold sendOwn
  repeat' first
    | with_reducible assumption
    | with_reducible apply keep_pump
    | with_reducible apply keep_pushOp

theorem keep_setResult {d : Dev} {qn : Nat} {o : XOp} {r : Status × Nat × Nat} (h0 : keptD d) : keptD (setResult d qn o r) := by
  unfold setResult
  repeat' first
    | with_reducible assumption
    | with_reducible apply keep_setQp
    | split

theorem keep_towHello {d : Dev} {q : QpSt} {m : Hello} (h0 : keptD d) : keptD (towHello d q m) := by
  unfold towHello
  repeat' first
    | with_reducible assumption
    | with_reducible apply keep_raise
    | (refine kept_guard ?_ ?_; (focus (simp only [isMk_mk]; done)); (with_reducible refine kept_mk rfl ?_ ?_ ?_ ?_ ?_); (focus ((intro hw; repeat' (first | with_reducible exact hw | with_reducible assumption | with_reducible apply wf_memWrite | with_reducible apply wf_memPut | with_reducible apply wf_memZeroRange | with_reducible exact wf_nil | (with_reducible apply wf_foldl; intro _ _ _))); done)); (focus ((intro hw; repeat' (first | with_reducible exact hw | with_reducible assumption | with_reducible apply wf_memWrite | with_reducible apply wf_memPut | with_reducible apply wf_memZeroRange | with_reducible exact wf_nil | (with_reducible apply wf_foldl; intro _ _ _))); done)); (focus ((intro hw; repeat' (first | with_reducible exact hw | with_reducible assumption | with_reducible apply wf_memWrite | with_reducible apply wf_memPut | with_reducible apply wf_memZeroRange | with_reducible exact wf_nil | (with_reducible apply wf_foldl; intro _ _ _))); done)); (focus ((intro hw; repeat' (first | with_reducible exact hw | with_reducible assumption | with_reducible apply wf_memWrite | with_reducible apply wf_memPut | with_reducible apply wf_memZeroRange | with_reducible exact wf_nil | (with_reducible apply wf_foldl; intro _ _ _))); done)))
    | split
    | dsimp only

theorem keep_towRelease {d : Dev} {q : QpSt} {m : InMsg} (h0 : keptD d) : keptD (towRelease d q m) := by
  unfold towRelease
  repeat' first
    | with_reducible assumption
    | with_reducible apply keep_towHello
    | with_reducible apply keep_send
    | split
    | dsimp only

theorem keep_msgEffect {d : Dev} {qn : Nat} {q : QpSt} {m : InMsg} (h0 : keptD d) : keptR (msgEffect d qn q m) := by
  unfold msgEffect
  repeat' first
    | with_reducible assumption
    | with_reducible apply keep_setResult
    | with_reducible apply keep_addAcount
    | with_reducible apply keep_fetchAt
    | with_reducible apply keep_sendOwn
    | with_reducible apply keep_atomicOn
    | with_reducible apply keep_setQp
    | with_reducible apply keep_towRelease
    | with_reducible apply keptR_inl
    | with_reducible apply keptR_intro
    | with_reducible refine keptS_mk (by assumption) ?_
    | split
    | dsimp only

theorem keep_tornRange {d : Dev} {q : QpSt} {m : InMsg} (h0 : keptD d) : keptD (tornRange d q m) := by
  unfold tornRange
  repeat' first
    | with_reducible assumption
    | with_reducible apply keep_placeLocal
    | with_reducible apply keep_placeAt
    | split
    | with_reducible apply keptSS_snd
    | with_reducible apply keptS_snd
    | dsimp only

theorem keep_releaseOne {d : Dev} {qn : Nat} (h0 : keptD d) : keptO (releaseOne d qn) := by
  unfold releaseOne
  repeat' first
    | with_reducible assumption
    | with_reducible apply keep_sendNak
    | with_reducible apply keep_setQp
    | with_reducible apply keep_tornRange
    | with_reducible apply keep_qpError
    | with_reducible apply keep_setResult
    | with_reducible apply keep_msgEffect
    | with_reducible apply keep_fetchAt
    | with_reducible apply keptO_none
    | with_reducible apply keptO_intro
    | with_reducible refine keptR_inr (by assumption) ?_
    | split
    | with_reducible apply keptS_snd
    | dsimp only

theorem keep_releaseGo {qn : Nat} {y1 : Nat} {y2 : Dev} (h2 : keptD y2) : keptD (releaseGo qn y1 y2) := by
  induction y1 generalizing y2 with
  | zero =>
    unfold releaseGo
    repeat' first
      | with_reducible assumption
  | succ k ih =>
    unfold releaseGo
    repeat' first
      | with_reducible assumption
      | with_reducible apply ih
      | with_reducible apply keep_releaseOne
      | with_reducible refine keptO_some (by assumption) ?_
      | split

theorem keep_releaseMsgs {d : Dev} {qn : Nat} (h0 : keptD d) : keptD (releaseMsgs d qn) := by
  unfold releaseMsgs
  repeat' first
    | with_reducible assumption
    | with_reducible apply keep_releaseGo
    | split

theorem keep_placePacket {d : Dev} {q : QpSt} {p : Packet} (h0 : keptD d) : keptS (placePacket d q p) := by
  unfold placePacket
  repeat' first
    | with_reducible assumption
    | with_reducible apply keep_tierWrite
    | with_reducible apply keep_placeAt
    | with_reducible refine keptS_mk (by assumption) ?_
    | split
    | with_reducible apply keptS_intro

theorem keep_messageIn {d : Dev} {qn : Nat} {q0 : QpSt} {r : RxPkt} (h0 : keptD d) : keptD (messageIn d qn q0 r) := by
  unfold messageIn
  repeat' first
    | with_reducible assumption
    | with_reducible apply keep_sendAck
    | with_reducible apply keep_setQp
    | with_reducible apply keep_xptAdd
    | with_reducible apply keep_placePacket
    | with_reducible apply keep_releaseMsgs
    | with_reducible apply keep_settleQp
    | split
    | with_reducible apply keptS_snd
    | dsimp only

theorem keep_ackIn {d : Dev} {qn : Nat} {q : QpSt} {ece : Bool} {cack : W32} {done : Nat} {runs : List (W32 × W32)} (h0 : keptD d) : keptD (ackIn d qn q ece cack done runs) := by
  unfold ackIn
  repeat' first
    | with_reducible assumption
    | with_reducible intro _
    | with_reducible apply keep_resendPkt
    | with_reducible apply keep_setQp
    | with_reducible apply keep_pump
    | with_reducible apply keep_settleQp
    | (with_reducible apply kept_foldl)

theorem keep_nakIn {d : Dev} {qn : Nat} {q : QpSt} {msn : Nat} {st : Status} {detail : Nat} {resend : Bool} (h0 : keptD d) : keptD (nakIn d qn q msn st detail resend) := by
  unfold nakIn
  repeat' first
    | with_reducible assumption
    | with_reducible apply keep_setQp
    | with_reducible apply keep_pump
    | with_reducible apply keep_qpError
    | with_reducible apply keep_settleQp
    | split

theorem keep_waitIn {d : Dev} {qn : Nat} {q : QpSt} {psn : W32} (h0 : keptD d) : keptD (waitIn d qn q psn) := by
  unfold waitIn
  repeat' first
    | with_reducible assumption
    | with_reducible apply keep_setQp

theorem keep_packetIn {d0 : Dev} {qn : Nat} {r : RxPkt} (h0 : keptD d0) : keptD (packetIn d0 qn r) := by
  unfold packetIn
  repeat' first
    | with_reducible assumption
    | with_reducible apply keep_touchQp
    | with_reducible apply keep_ackIn
    | with_reducible apply keep_nakIn
    | with_reducible apply keep_waitIn
    | with_reducible apply keep_messageIn
    | split
    | dsimp only

theorem keep_missFull {d : Dev} {qn : Nat} {q : QpSt} {r : RxPkt} (h0 : keptD d) : keptD (missFull d qn q r) := by
  unfold missFull
  repeat' first
    | with_reducible assumption
    | with_reducible apply keep_xptAdd
    | with_reducible apply keep_emitPkt
    | with_reducible apply keep_setQp
    | split
    | dsimp only

theorem keep_rxPacket {d : Dev} {r : RxPkt} (h0 : keptD d) : keptD (rxPacket d r) := by
  unfold rxPacket
  repeat' first
    | with_reducible assumption
    | with_reducible apply keep_xptAdd
    | with_reducible apply keep_packetIn
    | with_reducible apply keep_wantCtx
    | with_reducible apply keep_setQp
    | with_reducible apply keep_missFull
    | split
    | dsimp only

theorem keep_rowPacket {kind : PKind} {k : PktHdr} {bytes : List Byte} {ce : Bool} {tagOk : Bool} {hello : Option Hello} {s : State} (h6 : keptD s.dev) : keptOut (rowPacket kind k bytes ce tagOk hello s) := by
  unfold rowPacket
  repeat' first
    | with_reducible assumption
    | with_reducible apply keep_answer
    | with_reducible apply keep_rxPacket

theorem keep_execData {k : PktHdr} {bytes : List Byte} {ce : Bool} {tagOk : Bool} {s : State} (h4 : keptD s.dev) : keptOut (execData k bytes ce tagOk s) := by
  unfold execData
  repeat' first
    | with_reducible assumption
    | with_reducible apply keep_rowPacket

theorem keep_execGetReq {k : PktHdr} {dest : W64} {length : W32} {ce : Bool} {tagOk : Bool} {s : State} (h5 : keptD s.dev) : keptOut (execGetReq k dest length ce tagOk s) := by
  unfold execGetReq
  repeat' first
    | with_reducible assumption
    | with_reducible apply keep_rowPacket

theorem keep_execAtomicReq {k : PktHdr} {operand : W64} {compare : W64} {aop : BitVec 4} {ce : Bool} {tagOk : Bool} {s : State} (h6 : keptD s.dev) : keptOut (execAtomicReq k operand compare aop ce tagOk s) := by
  unfold execAtomicReq
  repeat' first
    | with_reducible assumption
    | with_reducible apply keep_rowPacket

theorem keep_execAtomicRspPacket {k : PktHdr} {former : W64} {ce : Bool} {tagOk : Bool} {s : State} (h4 : keptD s.dev) : keptOut (execAtomicRspPacket k former ce tagOk s) := by
  unfold execAtomicRspPacket
  repeat' first
    | with_reducible assumption
    | with_reducible apply keep_rowPacket

theorem keep_execSignal {k : PktHdr} {value : W32} {ce : Bool} {tagOk : Bool} {s : State} (h4 : keptD s.dev) : keptOut (execSignal k value ce tagOk s) := by
  unfold execSignal
  repeat' first
    | with_reducible assumption
    | with_reducible apply keep_rowPacket

theorem keep_execTow {k : PktHdr} {msgClass : Nat} {body : Option Hello} {bytes : List Byte} {s : State} (h4 : keptD s.dev) : keptOut (execTow k msgClass body bytes s) := by
  unfold execTow
  repeat' first
    | with_reducible assumption
    | with_reducible apply keep_rowPacket

theorem keep_execAck {k : PktHdr} {cack : W32} {msnDone : BitVec 56} {sacks : List (W32 × W32)} {s : State} (h4 : keptD s.dev) : keptOut (execAck k cack msnDone sacks s) := by
  unfold execAck
  repeat' first
    | with_reducible assumption
    | with_reducible apply keep_rowPacket

theorem keep_execMsgNak {k : PktHdr} {detail : W64} {resend : Bool} {s : State} (h3 : keptD s.dev) : keptOut (execMsgNak k detail resend s) := by
  unfold execMsgNak
  repeat' first
    | with_reducible assumption
    | with_reducible apply keep_rowPacket

theorem keep_execContextWait {k : PktHdr} {backoff : W32} {s : State} (h2 : keptD s.dev) : keptOut (execContextWait k backoff s) := by
  unfold execContextWait
  repeat' first
    | with_reducible assumption
    | with_reducible apply keep_rowPacket

theorem keep_execBackoffEnd {qp : BitVec 24} {s : State} (h1 : keptD s.dev) : keptOut (execBackoffEnd qp s) := by
  unfold execBackoffEnd
  repeat' first
    | with_reducible assumption
    | with_reducible intro _
    | with_reducible apply keep_answer
    | with_reducible apply keep_setQp
    | with_reducible apply keep_pump
    | with_reducible apply keep_resendPkt
    | (with_reducible apply kept_foldl)
    | split
    | dsimp only

theorem keep_execAckTimer {qp : BitVec 24} {s : State} (h1 : keptD s.dev) : keptOut (execAckTimer qp s) := by
  unfold execAckTimer
  repeat' first
    | with_reducible assumption
    | with_reducible apply keep_answer
    | with_reducible apply keep_sendAck
    | split
    | dsimp only

theorem keep_execRtoExpiry {qp : BitVec 24} {s : State} (h1 : keptD s.dev) : keptOut (execRtoExpiry qp s) := by
  unfold execRtoExpiry
  repeat' first
    | with_reducible assumption
    | with_reducible apply keep_answer
    | with_reducible apply keep_qpError
    | with_reducible apply keep_resendPkt
    | with_reducible apply keep_setQp
    | split
    | dsimp only

theorem keep_execContextFetchDone {qp : BitVec 24} {s : State} (h1 : keptD s.dev) : keptOut (execContextFetchDone qp s) := by
  unfold execContextFetchDone
  repeat' first
    | with_reducible assumption
    | with_reducible intro _
    | with_reducible apply keep_answer
    | with_reducible apply keep_makeRoom
    | with_reducible apply keep_touchQp
    | with_reducible apply keep_setQp
    | with_reducible apply keep_pump
    | with_reducible apply keep_packetIn
    | with_reducible refine keptO_some (by assumption) ?_
    | (with_reducible apply kept_foldl)
    | split
    | dsimp only

theorem keep_reclassify {d : Dev} {h : Nat} (h0 : keptD d) : keptD (reclassify d h) := by
  unfold reclassify
  repeat' first
    | with_reducible assumption
    | (refine kept_guard ?_ ?_; (focus (simp only [isMk_mk]; done)); with_reducible refine kept_mk rfl (fun h => h) (fun h => h) (fun h => h) (fun h => h) ?_)

theorem keep_putEntry {e : ClsEntry} {acc : Dev × Nat} {h : Nat} (h1 : keptF acc) : keptF (putEntry e acc h) := by
  unfold putEntry
  repeat' first
    | with_reducible assumption
    | with_reducible apply keep_reclassify
    | with_reducible apply keep_setCam
    | with_reducible apply keptF_intro
    | with_reducible apply keptF_fst

theorem keep_classifyInsertRule {p : Post} {d : Dev} (h1 : keptD d) : keptRes (classifyInsertRule p d) := by
  unfold classifyInsertRule
  repeat' first
    | with_reducible assumption
    | with_reducible intro _
    | with_reducible apply keep_putEntry
    | with_reducible apply keptRes_plain
    | with_reducible apply keptRes_done'
    | (with_reducible apply kept_foldl_fst)
    | split
    | with_reducible apply keptF_intro
    | with_reducible apply keptF_fst
    | dsimp only

theorem keep_execClassifyInsert {p : Post} {s : State} (h1 : keptD s.dev) : keptOut (execClassifyInsert p s) := by
  unfold execClassifyInsert
  repeat' first
    | with_reducible assumption
    | with_reducible intro _
    | with_reducible apply keep_answer
    | with_reducible apply keep_perform
    | with_reducible apply keep_classifyInsertRule

theorem keep_dropEntry {i : Nat} {d : Dev} {h : Nat} (h1 : keptD d) : keptD (dropEntry i d h) := by
  unfold dropEntry
  repeat' first
    | with_reducible assumption
    | with_reducible apply keep_reclassify
    | with_reducible apply keep_setCam

theorem keep_classifyRemoveRule {p : Post} {d : Dev} (h1 : keptD d) : keptRes (classifyRemoveRule p d) := by
  unfold classifyRemoveRule
  repeat' first
    | with_reducible assumption
    | with_reducible intro _
    | with_reducible apply keep_dropEntry
    | with_reducible apply keptRes_plain
    | (with_reducible apply kept_foldl)
    | split
    | dsimp only

theorem keep_execClassifyRemove {p : Post} {s : State} (h1 : keptD s.dev) : keptOut (execClassifyRemove p s) := by
  unfold execClassifyRemove
  repeat' first
    | with_reducible assumption
    | with_reducible intro _
    | with_reducible apply keep_answer
    | with_reducible apply keep_perform
    | with_reducible apply keep_classifyRemoveRule

theorem keep_policerSetRule {p : Post} {d : Dev} (h1 : keptD d) : keptRes (policerSetRule p d) := by
  unfold policerSetRule
  repeat' first
    | with_reducible assumption
    | with_reducible apply keep_setPolicer
    | with_reducible apply keptRes_plain
    | split
    | dsimp only

theorem keep_execPolicerSet {p : Post} {s : State} (h1 : keptD s.dev) : keptOut (execPolicerSet p s) := by
  unfold execPolicerSet
  repeat' first
    | with_reducible assumption
    | with_reducible intro _
    | with_reducible apply keep_answer
    | with_reducible apply keep_perform
    | with_reducible apply keep_policerSetRule

theorem keep_policerQueryRule {p : Post} {d : Dev} (h1 : keptD d) : keptRes (policerQueryRule p d) := by
  unfold policerQueryRule
  repeat' first
    | with_reducible assumption
    | with_reducible apply keep_hostWrite
    | with_reducible apply keptRes_plain
    | split
    | dsimp only

theorem keep_execPolicerQuery {p : Post} {s : State} (h1 : keptD s.dev) : keptOut (execPolicerQuery p s) := by
  unfold execPolicerQuery
  repeat' first
    | with_reducible assumption
    | with_reducible intro _
    | with_reducible apply keep_answer
    | with_reducible apply keep_perform
    | with_reducible apply keep_policerQueryRule

theorem keep_offerAgain {d : Dev} {qn : Nat} (h0 : keptD d) : keptD (offerAgain d qn) := by
  unfold offerAgain
  split
  · exact h0
  · exact keep_pump (kept_foldr h0 (fun d x h => keep_resendPkt h))

theorem keep_execPolicerCreditTick {s : State} (h0 : keptD s.dev) : keptOut (execPolicerCreditTick s) := by
  unfold execPolicerCreditTick
  repeat' first
    | with_reducible assumption
    | with_reducible intro _
    | with_reducible apply keep_answer
    | with_reducible apply keep_offerAgain
    | (with_reducible apply kept_foldl)
    | (refine kept_guard ?_ ?_; (focus (simp only [isMk_mk]; done)); with_reducible refine kept_mk rfl (fun h => h) (fun h => h) (fun h => h) (fun h => h) ?_)

theorem keep_locateScanRule {p : Post} {d : Dev} (h1 : keptD d) : keptRes (locateScanRule p d) := by
  unfold locateScanRule
  repeat' first
    | with_reducible assumption
    | with_reducible apply keep_hostWrite
    | with_reducible apply keptRes_plain
    | with_reducible apply keptRes_done'
    | split
    | dsimp only

theorem keep_execLocateScan {p : Post} {s : State} (h1 : keptD s.dev) : keptOut (execLocateScan p s) := by
  unfold execLocateScan
  repeat' first
    | with_reducible assumption
    | with_reducible intro _
    | with_reducible apply keep_answer
    | with_reducible apply keep_perform
    | with_reducible apply keep_locateScanRule

theorem keep_camCfgPut {d : Dev} {h : Nat} {mask : BitVec 128} {val : BitVec 128} (h0 : keptD d) : keptD (camCfgPut d h mask val) := by
  unfold camCfgPut
  repeat' first
    | with_reducible assumption
    | with_reducible apply keep_reclassify
    | with_reducible apply keep_setCam
    | with_reducible apply keep_cfgSet
    | split
    | dsimp only

theorem keep_execCamCfgWrite {h : Half} {value : W32} {s : State} (h2 : keptD s.dev) : keptOut (execCamCfgWrite h value s) := by
  unfold execCamCfgWrite
  repeat' first
    | with_reducible assumption
    | with_reducible apply keep_answer
    | with_reducible apply keep_camCfgPut
    | split

theorem keep_substCamRow {d : Dev} {bank : Nat} {row : Nat} (h0 : keptD d) : keptOF (substCamRow d bank row) := by
  unfold substCamRow
  repeat' first
    | with_reducible assumption
    | with_reducible apply keptOF_none
    | with_reducible apply keptOF_intro
    | (refine kept_guard ?_ ?_; (focus (simp only [isMk_mk]; done)); (with_reducible refine kept_mk rfl ?_ ?_ ?_ ?_ ?_); (focus ((intro hw; repeat' (first | with_reducible exact hw | with_reducible assumption | with_reducible apply wf_memWrite | with_reducible apply wf_memPut | with_reducible apply wf_memZeroRange | with_reducible exact wf_nil | (with_reducible apply wf_foldl; intro _ _ _))); done)); (focus ((intro hw; repeat' (first | with_reducible exact hw | with_reducible assumption | with_reducible apply wf_memWrite | with_reducible apply wf_memPut | with_reducible apply wf_memZeroRange | with_reducible exact wf_nil | (with_reducible apply wf_foldl; intro _ _ _))); done)); (focus ((intro hw; repeat' (first | with_reducible exact hw | with_reducible assumption | with_reducible apply wf_memWrite | with_reducible apply wf_memPut | with_reducible apply wf_memZeroRange | with_reducible exact wf_nil | (with_reducible apply wf_foldl; intro _ _ _))); done)); (focus ((intro hw; repeat' (first | with_reducible exact hw | with_reducible assumption | with_reducible apply wf_memWrite | with_reducible apply wf_memPut | with_reducible apply wf_memZeroRange | with_reducible exact wf_nil | (with_reducible apply wf_foldl; intro _ _ _))); done)))
    | split
    | dsimp only

theorem keep_execCamShadowCheck {h : Half} {locate : Bool} {row : Nat} {mismatch : Bool} {s : State} (h4 : keptD s.dev) : keptOut (execCamShadowCheck h locate row mismatch s) := by
  unfold execCamShadowCheck
  repeat' first
    | with_reducible assumption
    | with_reducible apply keep_answer
    | with_reducible apply keep_raise
    | with_reducible apply keep_charge
    | with_reducible apply keep_substCamRow
    | with_reducible apply keep_postSpared
    | with_reducible refine keptOF_some (by assumption) ?_
    | split

theorem keep_execFrameReceive {n : PortNo} {f : Frame} {s : State} (h2 : keptD s.dev) : keptOut (execFrameReceive n f s) := by
  unfold execFrameReceive
  repeat' first
    | with_reducible assumption
    | with_reducible apply keep_answer
    | with_reducible apply keep_xptAdd
    | with_reducible apply keep_countSluice
    | with_reducible apply keep_setPort
    | split
    | dsimp only

theorem keep_frameDeliver {d : Dev} {f : Frame} {ce : Bool} (h0 : keptD d) : keptD (frameDeliver d f ce) := by
  unfold frameDeliver
  repeat' first
    | with_reducible assumption
    | with_reducible apply keep_xptAdd
    | with_reducible apply keep_rxPacket
    | split

theorem keep_frameJudge {d : Dev} {n : Nat} {f : Frame} {discard : Bool} {pol : Option Nat} {pre : Nat} (h0 : keptD d) : keptD (frameJudge d n f discard pol pre) := by
  unfold frameJudge
  repeat' first
    | with_reducible assumption
    | with_reducible apply keep_countSluice
    | with_reducible apply keep_frameDeliver
    | with_reducible apply keep_setPolicer
    | split

theorem keep_execFrameClassify {n : PortNo} {s : State} (h1 : keptD s.dev) : keptOut (execFrameClassify n s) := by
  unfold execFrameClassify
  repeat' first
    | with_reducible assumption
    | with_reducible apply keep_answer
    | with_reducible apply keep_setPort
    | with_reducible apply keep_frameJudge
    | split
    | dsimp only

theorem keep_mapT1 {d : Dev} {p : Post} {part : Nat} {pg : Nat} (h0 : keptD d) : keptD (mapT1 d p part pg) := by
  unfold mapT1
  repeat' first
    | with_reducible assumption
    | with_reducible apply keep_setPart

theorem keep_memMapRule {p : Post} {d : Dev} (h1 : keptD d) : keptRes (memMapRule p d) := by
  unfold memMapRule
  repeat' first
    | with_reducible assumption
    | with_reducible apply keep_mapT1
    | with_reducible apply keep_setPart
    | with_reducible apply keptRes_plain
    | with_reducible apply keptRes_done'
    | split
    | dsimp only

theorem keep_execMemMap {p : Post} {s : State} (h1 : keptD s.dev) : keptOut (execMemMap p s) := by
  unfold execMemMap
  repeat' first
    | with_reducible assumption
    | with_reducible intro _
    | with_reducible apply keep_answer
    | with_reducible apply keep_perform
    | with_reducible apply keep_memMapRule

theorem keep_memUnmapRule {p : Post} {d : Dev} (h1 : keptD d) : keptRes (memUnmapRule p d) := by
  unfold memUnmapRule
  repeat' first
    | with_reducible assumption
    | with_reducible intro _
    | with_reducible apply keep_setPart
    | with_reducible apply keep_clearRun
    | with_reducible apply keptRes_plain
    | (with_reducible apply kept_foldl)
    | split
    | dsimp only

theorem keep_execMemUnmap {p : Post} {s : State} (h1 : keptD s.dev) : keptOut (execMemUnmap p s) := by
  unfold execMemUnmap
  repeat' first
    | with_reducible assumption
    | with_reducible intro _
    | with_reducible apply keep_answer
    | with_reducible apply keep_perform
    | with_reducible apply keep_memUnmapRule

theorem keep_memModeRule {p : Post} {d : Dev} (h1 : keptD d) : keptRes (memModeRule p d) := by
  unfold memModeRule
  repeat' first
    | with_reducible assumption
    | with_reducible apply keptRes_plain
    | with_reducible apply keptRes_done'
    | (refine kept_guard ?_ ?_; (focus (simp only [isMk_mk]; done)); with_reducible refine kept_mk rfl (fun h => h) (fun h => h) (fun h => h) (fun h => h) ?_)
    | split
    | dsimp only

theorem keep_execMemModePool {p : Post} {s : State} (h1 : keptD s.dev) : keptOut (execMemModePool p s) := by
  unfold execMemModePool
  repeat' first
    | with_reducible assumption
    | with_reducible intro _
    | with_reducible apply keep_answer
    | with_reducible apply keep_perform
    | with_reducible apply keep_memModeRule

theorem keep_execMemModeNormal {p : Post} {s : State} (h1 : keptD s.dev) : keptOut (execMemModeNormal p s) := by
  unfold execMemModeNormal
  repeat' first
    | with_reducible assumption
    | with_reducible intro _
    | with_reducible apply keep_answer
    | with_reducible apply keep_perform
    | with_reducible apply keep_memModeRule

theorem keep_memHeapRule {p : Post} {d : Dev} (h1 : keptD d) : keptRes (memHeapRule p d) := by
  unfold memHeapRule
  repeat' first
    | with_reducible assumption
    | with_reducible apply keep_setPart
    | with_reducible apply keptRes_plain
    | split
    | dsimp only

theorem keep_execMemHeap {p : Post} {s : State} (h1 : keptD s.dev) : keptOut (execMemHeap p s) := by
  unfold execMemHeap
  repeat' first
    | with_reducible assumption
    | with_reducible intro _
    | with_reducible apply keep_answer
    | with_reducible apply keep_perform
    | with_reducible apply keep_memHeapRule

theorem keep_execHbmDredgeTick {stack : Fin 12} {found : Ecc} {s : State} (h2 : keptD s.dev) : keptOut (execHbmDredgeTick stack found s) := by
  unfold execHbmDredgeTick
  repeat' first
    | with_reducible assumption
    | with_reducible apply keep_answer
    | with_reducible apply keep_raise
    | with_reducible apply keep_charge
    | (refine kept_guard ?_ ?_; (focus (simp only [isMk_mk]; done)); with_reducible refine kept_mk rfl (fun h => h) (fun h => h) (fun h => h) (fun h => h) ?_)
    | split
    | dsimp only

theorem keep_substTsRow {d : Dev} {t : Nat} {row : Nat} (h0 : keptD d) : keptOF (substTsRow d t row) := by
  unfold substTsRow
  repeat' first
    | with_reducible assumption
    | with_reducible apply keptOF_none
    | with_reducible apply keptOF_intro
    | (refine kept_guard ?_ ?_; (focus (simp only [isMk_mk]; done)); (with_reducible refine kept_mk rfl ?_ ?_ ?_ ?_ ?_); (focus ((intro hw; repeat' (first | with_reducible exact hw | with_reducible assumption | with_reducible apply wf_memWrite | with_reducible apply wf_memPut | with_reducible apply wf_memZeroRange | with_reducible exact wf_nil | (with_reducible apply wf_foldl; intro _ _ _))); done)); (focus ((intro hw; repeat' (first | with_reducible exact hw | with_reducible assumption | with_reducible apply wf_memWrite | with_reducible apply wf_memPut | with_reducible apply wf_memZeroRange | with_reducible exact wf_nil | (with_reducible apply wf_foldl; intro _ _ _))); done)); (focus ((intro hw; repeat' (first | with_reducible exact hw | with_reducible assumption | with_reducible apply wf_memWrite | with_reducible apply wf_memPut | with_reducible apply wf_memZeroRange | with_reducible exact wf_nil | (with_reducible apply wf_foldl; intro _ _ _))); done)); (focus ((intro hw; repeat' (first | with_reducible exact hw | with_reducible assumption | with_reducible apply wf_memWrite | with_reducible apply wf_memPut | with_reducible apply wf_memZeroRange | with_reducible exact wf_nil | (with_reducible apply wf_foldl; intro _ _ _))); done)))
    | split
    | dsimp only

theorem keep_tsCorrected {d : Dev} {t : Nat} {row : Nat} (h0 : keptD d) : keptD (tsCorrected d t row) := by
  unfold tsCorrected
  repeat' first
    | with_reducible assumption
    | with_reducible apply keep_charge
    | with_reducible apply keep_substTsRow
    | with_reducible apply keep_postSpared
    | with_reducible refine keptOF_some (by assumption) ?_
    | (refine kept_guard ?_ ?_; (focus (simp only [isMk_mk]; done)); (with_reducible refine kept_mk rfl ?_ ?_ ?_ ?_ ?_); (focus ((intro hw; repeat' (first | with_reducible exact hw | with_reducible assumption | with_reducible apply wf_memWrite | with_reducible apply wf_memPut | with_reducible apply wf_memZeroRange | with_reducible exact wf_nil | (with_reducible apply wf_foldl; intro _ _ _))); done)); (focus ((intro hw; repeat' (first | with_reducible exact hw | with_reducible assumption | with_reducible apply wf_memWrite | with_reducible apply wf_memPut | with_reducible apply wf_memZeroRange | with_reducible exact wf_nil | (with_reducible apply wf_foldl; intro _ _ _))); done)); (focus ((intro hw; repeat' (first | with_reducible exact hw | with_reducible assumption | with_reducible apply wf_memWrite | with_reducible apply wf_memPut | with_reducible apply wf_memZeroRange | with_reducible exact wf_nil | (with_reducible apply wf_foldl; intro _ _ _))); done)); (focus ((intro hw; repeat' (first | with_reducible exact hw | with_reducible assumption | with_reducible apply wf_memWrite | with_reducible apply wf_memPut | with_reducible apply wf_memZeroRange | with_reducible exact wf_nil | (with_reducible apply wf_foldl; intro _ _ _))); done)))
    | split
    | dsimp only

theorem keep_execTsDredgeTick {tile : TileId} {found : Ecc} {s : State} (h2 : keptD s.dev) : keptOut (execTsDredgeTick tile found s) := by
  unfold execTsDredgeTick
  repeat' first
    | with_reducible assumption
    | with_reducible intro _
    | with_reducible apply keep_answer
    | with_reducible apply keep_raise
    | with_reducible apply keep_tsCorrected
    | (with_reducible apply kept_foldl)
    | (refine kept_guard ?_ ?_; (focus (simp only [isMk_mk]; done)); with_reducible refine kept_mk rfl (fun h => h) (fun h => h) (fun h => h) (fun h => h) ?_)
    | split
    | dsimp only

theorem keep_clearSlices {d : Dev} {ts : List Nat} (h0 : keptD d) : keptD (clearSlices d ts) := by
  unfold clearSlices
  repeat' first
    | with_reducible assumption
    | with_reducible intro _
    | with_reducible apply keep_clearSlice
    | (with_reducible apply kept_foldl)

theorem keep_partCreateRule {p : Post} {d : Dev} (h1 : keptD d) : keptRes (partCreateRule p d) := by
  unfold partCreateRule
  repeat' first
    | with_reducible assumption
    | with_reducible apply keep_setPart
    | with_reducible apply keep_clearSlices
    | with_reducible apply keptRes_plain
    | split
    | dsimp only

theorem keep_execPartCreate {p : Post} {s : State} (h1 : keptD s.dev) : keptOut (execPartCreate p s) := by
  unfold execPartCreate
  repeat' first
    | with_reducible assumption
    | with_reducible intro _
    | with_reducible apply keep_answer
    | with_reducible apply keep_perform
    | with_reducible apply keep_inTurn
    | with_reducible apply keep_partCreateRule

theorem keep_freePart {d : Dev} {part : Nat} (h0 : keptD d) : keptD (freePart d part) := by
  unfold freePart
  repeat' first
    | with_reducible assumption
    | with_reducible intro _
    | with_reducible apply keep_clearSlices
    | with_reducible apply keep_clearRun
    | (with_reducible apply kept_foldl)
    | (refine kept_guard ?_ ?_; (focus (simp only [isMk_mk]; done)); (with_reducible refine kept_mk rfl ?_ ?_ ?_ ?_ ?_); (focus ((intro hw; repeat' (first | with_reducible exact hw | with_reducible assumption | with_reducible apply wf_memWrite | with_reducible apply wf_memPut | with_reducible apply wf_memZeroRange | with_reducible exact wf_nil | (with_reducible apply wf_foldl; intro _ _ _))); done)); (focus ((intro hw; repeat' (first | with_reducible exact hw | with_reducible assumption | with_reducible apply wf_memWrite | with_reducible apply wf_memPut | with_reducible apply wf_memZeroRange | with_reducible exact wf_nil | (with_reducible apply wf_foldl; intro _ _ _))); done)); (focus ((intro hw; repeat' (first | with_reducible exact hw | with_reducible assumption | with_reducible apply wf_memWrite | with_reducible apply wf_memPut | with_reducible apply wf_memZeroRange | with_reducible exact wf_nil | (with_reducible apply wf_foldl; intro _ _ _))); done)); (focus ((intro hw; repeat' (first | with_reducible exact hw | with_reducible assumption | with_reducible apply wf_memWrite | with_reducible apply wf_memPut | with_reducible apply wf_memZeroRange | with_reducible exact wf_nil | (with_reducible apply wf_foldl; intro _ _ _))); done)))
    | split

theorem keep_partDestroyRule {p : Post} {d : Dev} (h1 : keptD d) : keptRes (partDestroyRule p d) := by
  unfold partDestroyRule
  repeat' first
    | with_reducible assumption
    | with_reducible apply keep_freePart
    | with_reducible apply keptRes_plain
    | split
    | dsimp only

theorem keep_execPartDestroy {p : Post} {s : State} (h1 : keptD s.dev) : keptOut (execPartDestroy p s) := by
  unfold execPartDestroy
  repeat' first
    | with_reducible assumption
    | with_reducible intro _
    | with_reducible apply keep_answer
    | with_reducible apply keep_perform
    | with_reducible apply keep_inTurn
    | with_reducible apply keep_partDestroyRule

theorem keep_partRoleRule {p : Post} {d : Dev} (h1 : keptD d) : keptRes (partRoleRule p d) := by
  unfold partRoleRule
  repeat' first
    | with_reducible assumption
    | with_reducible apply keep_setPart
    | with_reducible apply keptRes_plain
    | split
    | dsimp only

theorem keep_execPartRole {p : Post} {s : State} (h1 : keptD s.dev) : keptOut (execPartRole p s) := by
  unfold execPartRole
  repeat' first
    | with_reducible assumption
    | with_reducible intro _
    | with_reducible apply keep_answer
    | with_reducible apply keep_perform
    | with_reducible apply keep_inTurn
    | with_reducible apply keep_partRoleRule

theorem keep_startSuspend {p : Post} {d : Dev} {incoming : Option PartId} (h1 : keptD d) : keptRes (startSuspend p d incoming) := by
  unfold startSuspend
  repeat' first
    | with_reducible assumption
    | with_reducible apply keep_setPart
    | with_reducible apply keptRes_plain
    | with_reducible apply keptRes_later'
    | split
    | dsimp only

theorem keep_partSuspendRule {p : Post} {d : Dev} (h1 : keptD d) : keptRes (partSuspendRule p d) := by
  unfold partSuspendRule
  repeat' first
    | with_reducible assumption
    | with_reducible apply keep_startSuspend
    | with_reducible apply keptRes_plain
    | split

theorem keep_execPartSuspend {p : Post} {s : State} (h1 : keptD s.dev) : keptOut (execPartSuspend p s) := by
  unfold execPartSuspend
  repeat' first
    | with_reducible assumption
    | with_reducible intro _
    | with_reducible apply keep_answer
    | with_reducible apply keep_perform
    | with_reducible apply keep_inTurn
    | with_reducible apply keep_partSuspendRule

theorem keep_startResume {d : Dev} {part : Nat} {p : Post} (h0 : keptD d) : keptD (startResume d part p) := by
  unfold startResume
  repeat' first
    | with_reducible assumption
    | with_reducible apply keep_setPart
    | with_reducible apply keep_clearSlices

theorem keep_saveComplete {d : Dev} {part : Nat} (h0 : keptD d) : keptD (saveComplete d part) := by
  unfold saveComplete
  repeat' first
    | with_reducible assumption
    | with_reducible apply keep_complete
    | with_reducible apply keep_setPart
    | with_reducible apply keep_tierWrite
    | with_reducible apply keep_clearSlices
    | with_reducible apply keep_startResume
    | split
    | dsimp only

theorem keep_execPartSaveComplete {part : PartId} {s : State} (h1 : keptD s.dev) : keptOut (execPartSaveComplete part s) := by
  unfold execPartSaveComplete
  repeat' first
    | with_reducible assumption
    | with_reducible apply keep_answer
    | with_reducible apply keep_saveComplete

theorem keep_execPassAbandonTimeout {_part : PartId} {s : State} (h1 : keptD s.dev) : keptOut (execPassAbandonTimeout _part s) := by
  unfold execPassAbandonTimeout
  repeat' first
    | with_reducible assumption
    | with_reducible apply keep_answer

theorem keep_partResumeRule {p : Post} {d : Dev} (h1 : keptD d) : keptRes (partResumeRule p d) := by
  unfold partResumeRule
  repeat' first
    | with_reducible assumption
    | with_reducible apply keep_startResume
    | with_reducible apply keptRes_plain
    | with_reducible apply keptRes_done'
    | with_reducible apply keptRes_later'
    | split
    | dsimp only

theorem keep_execPartResume {p : Post} {s : State} (h1 : keptD s.dev) : keptOut (execPartResume p s) := by
  unfold execPartResume
  repeat' first
    | with_reducible assumption
    | with_reducible intro _
    | with_reducible apply keep_answer
    | with_reducible apply keep_perform
    | with_reducible apply keep_inTurn
    | with_reducible apply keep_partResumeRule

theorem keep_partSwitchRule {p : Post} {d : Dev} (h1 : keptD d) : keptRes (partSwitchRule p d) := by
  unfold partSwitchRule
  repeat' first
    | with_reducible assumption
    | with_reducible apply keep_startSuspend
    | with_reducible apply keptRes_plain
    | split
    | dsimp only

theorem keep_execPartSwitch {p : Post} {s : State} (h1 : keptD s.dev) : keptOut (execPartSwitch p s) := by
  unfold execPartSwitch
  repeat' first
    | with_reducible assumption
    | with_reducible intro _
    | with_reducible apply keep_answer
    | with_reducible apply keep_perform
    | with_reducible apply keep_inTurn
    | with_reducible apply keep_partSwitchRule

theorem keep_startHeld {d : Dev} {part : Nat} (h0 : keptD d) : keptD (startHeld d part) := by
  unfold startHeld
  repeat' first
    | with_reducible assumption
    | with_reducible intro _
    | with_reducible apply keep_startAny
    | with_reducible apply keep_setPart
    | (with_reducible apply kept_foldl)

theorem keep_restoreComplete {d : Dev} {part : Nat} (h0 : keptD d) : keptD (restoreComplete d part) := by
  unfold restoreComplete
  repeat' first
    | with_reducible assumption
    | with_reducible apply keep_setPart
    | with_reducible apply keep_clearSlices
    | with_reducible apply keep_complete
    | with_reducible apply keep_postUncorrectable
    | with_reducible apply keep_retryFar
    | with_reducible apply keep_startHeld
    | with_reducible apply keep_liftRefetch
    | (refine kept_guard ?_ ?_; (focus (simp only [isMk_mk]; done)); (with_reducible refine kept_mk rfl ?_ ?_ ?_ ?_ ?_); (focus ((intro hw; repeat' (first | with_reducible exact hw | with_reducible assumption | with_reducible apply wf_memWrite | with_reducible apply wf_memPut | with_reducible apply wf_memZeroRange | with_reducible exact wf_nil | (with_reducible apply wf_foldl; intro _ _ _))); done)); (focus ((intro hw; repeat' (first | with_reducible exact hw | with_reducible assumption | with_reducible apply wf_memWrite | with_reducible apply wf_memPut | with_reducible apply wf_memZeroRange | with_reducible exact wf_nil | (with_reducible apply wf_foldl; intro _ _ _))); done)); (focus ((intro hw; repeat' (first | with_reducible exact hw | with_reducible assumption | with_reducible apply wf_memWrite | with_reducible apply wf_memPut | with_reducible apply wf_memZeroRange | with_reducible exact wf_nil | (with_reducible apply wf_foldl; intro _ _ _))); done)); (focus ((intro hw; repeat' (first | with_reducible exact hw | with_reducible assumption | with_reducible apply wf_memWrite | with_reducible apply wf_memPut | with_reducible apply wf_memZeroRange | with_reducible exact wf_nil | (with_reducible apply wf_foldl; intro _ _ _))); done)))
    | split
    | dsimp only

theorem keep_execPartRestoreComplete {part : PartId} {s : State} (h1 : keptD s.dev) : keptOut (execPartRestoreComplete part s) := by
  unfold execPartRestoreComplete
  repeat' first
    | with_reducible assumption
    | with_reducible apply keep_answer
    | with_reducible apply keep_restoreComplete

theorem keep_cancelHeld {d : Dev} (h0 : keptD d) : keptD (cancelHeld d) := by
  unfold cancelHeld
  repeat' first
    | with_reducible assumption
    | with_reducible intro _
    | with_reducible apply keep_complete
    | with_reducible apply keep_liftDone
    | with_reducible apply keep_setPart
    | (with_reducible apply kept_foldl)
    | split

theorem keep_bindLink {d : Dev} {comp : Nat} {link : Nat} {l : LinkSt} (h0 : keptD d) : keptD (bindLink d comp link l) := by
  unfold bindLink
  repeat' first
    | with_reducible assumption
    | (refine kept_guard ?_ ?_; (focus (simp only [isMk_mk]; done)); with_reducible refine kept_mk rfl (fun h => h) (fun h => h) (fun h => h) (fun h => h) ?_)

theorem keep_composeRule {p : Post} {d : Dev} (h1 : keptD d) : keptRes (composeRule p d) := by
  unfold composeRule
  repeat' first
    | with_reducible assumption
    | with_reducible intro _
    | with_reducible apply keep_bindLink
    | with_reducible apply keep_send
    | with_reducible apply keptRes_plain
    | with_reducible apply keptRes_later'
    | (with_reducible apply kept_foldl)
    | (refine kept_guard ?_ ?_; (focus (simp only [isMk_mk]; done)); (with_reducible refine kept_mk rfl ?_ ?_ ?_ ?_ ?_); (focus ((intro hw; repeat' (first | with_reducible exact hw | with_reducible assumption | with_reducible apply wf_memWrite | with_reducible apply wf_memPut | with_reducible apply wf_memZeroRange | with_reducible exact wf_nil | (with_reducible apply wf_foldl; intro _ _ _))); done)); (focus ((intro hw; repeat' (first | with_reducible exact hw | with_reducible assumption | with_reducible apply wf_memWrite | with_reducible apply wf_memPut | with_reducible apply wf_memZeroRange | with_reducible exact wf_nil | (with_reducible apply wf_foldl; intro _ _ _))); done)); (focus ((intro hw; repeat' (first | with_reducible exact hw | with_reducible assumption | with_reducible apply wf_memWrite | with_reducible apply wf_memPut | with_reducible apply wf_memZeroRange | with_reducible exact wf_nil | (with_reducible apply wf_foldl; intro _ _ _))); done)); (focus ((intro hw; repeat' (first | with_reducible exact hw | with_reducible assumption | with_reducible apply wf_memWrite | with_reducible apply wf_memPut | with_reducible apply wf_memZeroRange | with_reducible exact wf_nil | (with_reducible apply wf_foldl; intro _ _ _))); done)))
    | split
    | dsimp only

theorem keep_composeRemoveRule {p : Post} {d : Dev} (h1 : keptD d) : keptRes (composeRemoveRule p d) := by
  unfold composeRemoveRule
  repeat' first
    | with_reducible assumption
    | with_reducible apply keptRes_plain
    | (refine kept_guard ?_ ?_; (focus (simp only [isMk_mk]; done)); with_reducible refine kept_mk rfl (fun h => h) (fun h => h) (fun h => h) (fun h => h) ?_)
    | split

theorem keep_composeAny {p : Post} {d : Dev} (h1 : keptD d) : keptRes (composeAny p d) := by
  unfold composeAny
  repeat' first
    | with_reducible assumption
    | with_reducible apply keep_composeRemoveRule
    | with_reducible apply keep_composeRule
    | with_reducible apply keptRes_plain
    | split

theorem keep_execCompose {p : Post} {s : State} (h1 : keptD s.dev) : keptOut (execCompose p s) := by
  unfold execCompose
  repeat' first
    | with_reducible assumption
    | with_reducible intro _
    | with_reducible apply keep_answer
    | with_reducible apply keep_perform
    | with_reducible apply keep_inTurn
    | with_reducible apply keep_composeAny

theorem keep_execComposeRemove {p : Post} {s : State} (h1 : keptD s.dev) : keptOut (execComposeRemove p s) := by
  unfold execComposeRemove
  repeat' first
    | with_reducible assumption
    | with_reducible intro _
    | with_reducible apply keep_answer
    | with_reducible apply keep_perform
    | with_reducible apply keep_inTurn
    | with_reducible apply keep_composeAny

theorem keep_execComposePeerConfirm {compId : Byte} {link : Fin 3} {qp : BitVec 24} {s : State} (h3 : keptD s.dev) : keptOut (execComposePeerConfirm compId link qp s) := by
  unfold execComposePeerConfirm
  repeat' first
    | with_reducible assumption
    | with_reducible apply keep_answer
    | with_reducible apply keep_complete
    | with_reducible apply keep_bindLink
    | (refine kept_guard ?_ ?_; (focus (simp only [isMk_mk]; done)); with_reducible refine kept_mk rfl (fun h => h) (fun h => h) (fun h => h) (fun h => h) ?_)
    | split
    | dsimp only

theorem keep_execComposeConfirmTimeout {compId : Byte} {link : Fin 3} {s : State} (h2 : keptD s.dev) : keptOut (execComposeConfirmTimeout compId link s) := by
  unfold execComposeConfirmTimeout
  repeat' first
    | with_reducible assumption
    | with_reducible apply keep_answer
    | with_reducible apply keep_complete
    | (refine kept_guard ?_ ?_; (focus (simp only [isMk_mk]; done)); with_reducible refine kept_mk rfl (fun h => h) (fun h => h) (fun h => h) (fun h => h) ?_)
    | split
    | dsimp only

end Sys2Proof.Machine
end

