-- ==== Sys2Proof/Laws/KeepLock.lean ====
section
/-! SUPPORT. Every operation keeps the invariant of Safety.lean, one lemma each: the parties of a lock. -/
namespace Sys2Proof.Machine
open Sys2Proof
-- each goal is closed by the first of its alternatives that applies, so an alternative may go unused
set_option linter.all false

theorem keep_lockSend {d : Dev} {h : LockHdr} {m : LockMsg} {dst : Nat} (h0 : keptD d) : keptD (lockSend d h m dst) := by
  unfold lockSend
  repeat' first
    | with_reducible assumption
    | with_reducible apply keep_send
    | (refine kept_guard ?_ ?_; (focus (simp only [isMk_mk]; done)); (with_reducible refine kept_mk rfl ?_ ?_ ?_ ?_ ?_); (focus ((intro hw; repeat' (first | with_reducible exact hw | with_reducible assumption | with_reducible apply wf_memWrite | with_reducible apply wf_memPut | with_reducible apply wf_memZeroRange | with_reducible exact wf_nil | (with_reducible apply wf_foldl; intro _ _ _))); done)); (focus ((intro hw; repeat' (first | with_reducible exact hw | with_reducible assumption | with_reducible apply wf_memWrite | with_reducible apply wf_memPut | with_reducible apply wf_memZeroRange | with_reducible exact wf_nil | (with_reducible apply wf_foldl; intro _ _ _))); done)); (focus ((intro hw; repeat' (first | with_reducible exact hw | with_reducible assumption | with_reducible apply wf_memWrite | with_reducible apply wf_memPut | with_reducible apply wf_memZeroRange | with_reducible exact wf_nil | (with_reducible apply wf_foldl; intro _ _ _))); done)); (focus ((intro hw; repeat' (first | with_reducible exact hw | with_reducible assumption | with_reducible apply wf_memWrite | with_reducible apply wf_memPut | with_reducible apply wf_memZeroRange | with_reducible exact wf_nil | (with_reducible apply wf_foldl; intro _ _ _))); done)))
    | split

theorem keep_lockTell {d : Dev} {h : LockHdr} {m : LockMsg} {devs : List Nat} (h0 : keptD d) : keptD (lockTell d h m devs) := by
  unfold lockTell
  repeat' first
    | with_reducible assumption
    | with_reducible intro _
    | with_reducible apply keep_lockSend
    | (with_reducible apply kept_foldl)

theorem keep_setBarge {d : Dev} {b : Barge} (h0 : keptD d) : keptD (setBarge d b) := by
  unfold setBarge
  repeat' first
    | with_reducible assumption
    | (refine kept_guard ?_ ?_; (focus (simp only [isMk_mk]; done)); with_reducible refine kept_mk rfl (fun h => h) (fun h => h) (fun h => h) (fun h => h) ?_)

theorem keep_modBarge {d : Dev} {req : W64} {f : Barge → Barge} (h0 : keptD d) : keptD (modBarge d req f) := by
  unfold modBarge
  repeat' first
    | with_reducible assumption
    | (refine kept_guard ?_ ?_; (focus (simp only [isMk_mk]; done)); with_reducible refine kept_mk rfl (fun h => h) (fun h => h) (fun h => h) (fun h => h) ?_)

theorem keep_setReq {d : Dev} {req : W64} {r : ReqSt} (h0 : keptD d) : keptD (setReq d req r) := by
  unfold setReq
  repeat' first
    | with_reducible assumption
    | (refine kept_guard ?_ ?_; (focus (simp only [isMk_mk]; done)); with_reducible refine kept_mk rfl (fun h => h) (fun h => h) (fun h => h) (fun h => h) ?_)

theorem keep_dropBarge {d : Dev} {b : Barge} (h0 : keptD d) : keptD (dropBarge d b) := by
  unfold dropBarge
  repeat' first
    | with_reducible assumption
    | with_reducible intro _
    | with_reducible apply keep_heapFree
    | (with_reducible apply kept_foldl)
    | (refine kept_guard ?_ ?_; (focus (simp only [isMk_mk]; done)); with_reducible refine kept_mk rfl (fun h => h) (fun h => h) (fun h => h) (fun h => h) ?_)

theorem keep_holdObjs {d : Dev} {part : Nat} {l : List (HeapKind × Nat)} (h0 : keptD d) : keptS (holdObjs d part l) := by
  unfold holdObjs
  repeat' first
    | with_reducible assumption
    | with_reducible apply keep_holderAlloc
    | with_reducible refine keptGot_ok (by assumption) ?_
    | with_reducible refine keptGot_lacks (by assumption) ?_
    | (refine kept_guard ?_ ?_; (focus (simp only [isMk_mk]; done)); (with_reducible refine kept_mk rfl ?_ ?_ ?_ ?_ ?_); (focus ((intro hw; repeat' (first | with_reducible exact hw | with_reducible assumption | with_reducible apply wf_memWrite | with_reducible apply wf_memPut | with_reducible apply wf_memZeroRange | with_reducible exact wf_nil | (with_reducible apply wf_foldl; intro _ _ _))); done)); (focus ((intro hw; repeat' (first | with_reducible exact hw | with_reducible assumption | with_reducible apply wf_memWrite | with_reducible apply wf_memPut | with_reducible apply wf_memZeroRange | with_reducible exact wf_nil | (with_reducible apply wf_foldl; intro _ _ _))); done)); (focus ((intro hw; repeat' (first | with_reducible exact hw | with_reducible assumption | with_reducible apply wf_memWrite | with_reducible apply wf_memPut | with_reducible apply wf_memZeroRange | with_reducible exact wf_nil | (with_reducible apply wf_foldl; intro _ _ _))); done)); (focus ((intro hw; repeat' (first | with_reducible exact hw | with_reducible assumption | with_reducible apply wf_memWrite | with_reducible apply wf_memPut | with_reducible apply wf_memZeroRange | with_reducible exact wf_nil | (with_reducible apply wf_foldl; intro _ _ _))); done)))
    | split
    | with_reducible apply keptS_intro

theorem keep_reqNote {d : Dev} {r : ReqSt} {kind : Nat} {st : Status} {detail : Nat} (h0 : keptD d) : keptD (reqNote d r kind st detail) := by
  unfold reqNote
  repeat' first
    | with_reducible assumption
    | with_reducible apply keep_setRing
    | split

theorem keep_reserve {d : Dev} {f : Fn} {n : Nat} (h0 : keptD d) : keptD (reserve d f n) := by
  unfold reserve
  repeat' first
    | with_reducible assumption
    | (refine kept_guard ?_ ?_; (focus (simp only [isMk_mk]; done)); with_reducible refine kept_mk rfl (fun h => h) (fun h => h) (fun h => h) (fun h => h) ?_)

theorem keep_spend {d : Dev} {f : Fn} {n : Nat} {fromRes : Nat} (h0 : keptD d) : keptD (spend d f n fromRes) := by
  unfold spend
  repeat' first
    | with_reducible assumption
    | (refine kept_guard ?_ ?_; (focus (simp only [isMk_mk]; done)); with_reducible refine kept_mk rfl (fun h => h) (fun h => h) (fun h => h) (fun h => h) ?_)

theorem keep_toOwner {d : Dev} {req : W64} {r : ReqSt} {m : LockMsg} {reason : Nat} (h0 : keptD d) : keptD (toOwner d req r m reason) := by
  unfold toOwner
  repeat' first
    | with_reducible assumption
    | with_reducible apply keep_lockSend

theorem keep_grantLease {d : Dev} {req : W64} (h0 : keptD d) : keptD (grantLease d req) := by
  unfold grantLease
  repeat' first
    | with_reducible assumption
    | with_reducible apply keep_setReq
    | with_reducible apply keep_reserve
    | with_reducible apply keep_toOwner
    | split

theorem keep_grantLeases {d : Dev} {f : Fn} (h0 : keptD d) : keptD (grantLeases d f) := by
  unfold grantLeases
  repeat' first
    | with_reducible assumption
    | with_reducible intro _
    | with_reducible apply keep_grantLease
    | (with_reducible apply kept_foldl)

theorem keep_returnBudget {d : Dev} {req : W64} (h0 : keptD d) : keptD (returnBudget d req) := by
  unfold returnBudget
  repeat' first
    | with_reducible assumption
    | with_reducible apply keep_grantLeases
    | with_reducible apply keep_setReq
    | (refine kept_guard ?_ ?_; (focus (simp only [isMk_mk]; done)); (with_reducible refine kept_mk rfl ?_ ?_ ?_ ?_ ?_); (focus ((intro hw; repeat' (first | with_reducible exact hw | with_reducible assumption | with_reducible apply wf_memWrite | with_reducible apply wf_memPut | with_reducible apply wf_memZeroRange | with_reducible exact wf_nil | (with_reducible apply wf_foldl; intro _ _ _))); done)); (focus ((intro hw; repeat' (first | with_reducible exact hw | with_reducible assumption | with_reducible apply wf_memWrite | with_reducible apply wf_memPut | with_reducible apply wf_memZeroRange | with_reducible exact wf_nil | (with_reducible apply wf_foldl; intro _ _ _))); done)); (focus ((intro hw; repeat' (first | with_reducible exact hw | with_reducible assumption | with_reducible apply wf_memWrite | with_reducible apply wf_memPut | with_reducible apply wf_memZeroRange | with_reducible exact wf_nil | (with_reducible apply wf_foldl; intro _ _ _))); done)); (focus ((intro hw; repeat' (first | with_reducible exact hw | with_reducible assumption | with_reducible apply wf_memWrite | with_reducible apply wf_memPut | with_reducible apply wf_memZeroRange | with_reducible exact wf_nil | (with_reducible apply wf_foldl; intro _ _ _))); done)))
    | split

theorem keep_chargePositions {d : Dev} {req : W64} {n : Nat} (h0 : keptD d) : keptD (chargePositions d req n) := by
  unfold chargePositions
  repeat' first
    | with_reducible assumption
    | with_reducible apply keep_setReq
    | with_reducible apply keep_spend
    | split

theorem keep_endAsks {d : Dev} {req : W64} {st : Status} {reason : Nat} (h0 : keptD d) : keptD (endAsks d req st reason) := by
  unfold endAsks
  repeat' first
    | with_reducible assumption
    | with_reducible intro _
    | with_reducible apply keep_complete
    | with_reducible apply keep_setReq
    | (with_reducible apply kept_foldl)
    | split

theorem keep_finalReq {d : Dev} {req : W64} {kind : Nat} {st : Status} {detail : Nat} (h0 : keptD d) : keptD (finalReq d req kind st detail) := by
  unfold finalReq
  repeat' first
    | with_reducible assumption
    | with_reducible apply keep_returnBudget
    | with_reducible apply keep_completeRing
    | (refine kept_guard ?_ ?_; (focus (simp only [isMk_mk]; done)); (with_reducible refine kept_mk rfl ?_ ?_ ?_ ?_ ?_); (focus ((intro hw; repeat' (first | with_reducible exact hw | with_reducible assumption | with_reducible apply wf_memWrite | with_reducible apply wf_memPut | with_reducible apply wf_memZeroRange | with_reducible exact wf_nil | (with_reducible apply wf_foldl; intro _ _ _))); done)); (focus ((intro hw; repeat' (first | with_reducible exact hw | with_reducible assumption | with_reducible apply wf_memWrite | with_reducible apply wf_memPut | with_reducible apply wf_memZeroRange | with_reducible exact wf_nil | (with_reducible apply wf_foldl; intro _ _ _))); done)); (focus ((intro hw; repeat' (first | with_reducible exact hw | with_reducible assumption | with_reducible apply wf_memWrite | with_reducible apply wf_memPut | with_reducible apply wf_memZeroRange | with_reducible exact wf_nil | (with_reducible apply wf_foldl; intro _ _ _))); done)); (focus ((intro hw; repeat' (first | with_reducible exact hw | with_reducible assumption | with_reducible apply wf_memWrite | with_reducible apply wf_memPut | with_reducible apply wf_memZeroRange | with_reducible exact wf_nil | (with_reducible apply wf_foldl; intro _ _ _))); done)))
    | split

theorem keep_outModerate {d : Dev} {req : W64} {last : Bool} (h0 : keptD d) : keptD (outModerate d req last) := by
  unfold outModerate
  repeat' first
    | with_reducible assumption
    | with_reducible apply keep_fireVector
    | with_reducible apply keep_setReq
    | split
    | dsimp only

theorem keep_afterLast {d : Dev} {req : W64} {o : OutRec} (h0 : keptD d) : keptD (afterLast d req o) := by
  unfold afterLast
  repeat' first
    | with_reducible assumption
    | with_reducible apply keep_finalReq
    | split

theorem keep_finishEnding {d : Dev} {req : W64} {r : ReqSt} (h0 : keptD d) : keptD (finishEnding d req r) := by
  unfold finishEnding
  repeat' first
    | with_reducible assumption
    | with_reducible apply keep_finalReq
    | split

theorem keep_writeOut {req : W64} {y1 : Nat} {y2 : Dev} (h2 : keptD y2) : keptD (writeOut req y1 y2) := by
  induction y1 generalizing y2 with
  | zero =>
    unfold writeOut
    repeat' first
      | with_reducible assumption
  | succ k ih =>
    unfold writeOut
    repeat' first
      | with_reducible assumption
      | with_reducible apply ih
      | with_reducible apply keep_setReq
      | with_reducible apply keep_spend
      | with_reducible apply keep_outModerate
      | with_reducible apply keep_afterLast
      | with_reducible apply keep_finishEnding
      | (refine kept_guard ?_ ?_; (focus (simp only [isMk_mk]; done)); (with_reducible refine kept_mk rfl ?_ ?_ ?_ ?_ ?_); (focus ((intro hw; repeat' (first | with_reducible exact hw | with_reducible assumption | with_reducible apply wf_memWrite | with_reducible apply wf_memPut | with_reducible apply wf_memZeroRange | with_reducible exact wf_nil | (with_reducible apply wf_foldl; intro _ _ _))); done)); (focus ((intro hw; repeat' (first | with_reducible exact hw | with_reducible assumption | with_reducible apply wf_memWrite | with_reducible apply wf_memPut | with_reducible apply wf_memZeroRange | with_reducible exact wf_nil | (with_reducible apply wf_foldl; intro _ _ _))); done)); (focus ((intro hw; repeat' (first | with_reducible exact hw | with_reducible assumption | with_reducible apply wf_memWrite | with_reducible apply wf_memPut | with_reducible apply wf_memZeroRange | with_reducible exact wf_nil | (with_reducible apply wf_foldl; intro _ _ _))); done)); (focus ((intro hw; repeat' (first | with_reducible exact hw | with_reducible assumption | with_reducible apply wf_memWrite | with_reducible apply wf_memPut | with_reducible apply wf_memZeroRange | with_reducible exact wf_nil | (with_reducible apply wf_foldl; intro _ _ _))); done)))
      | split

theorem keep_ringSignal {d : Dev} {req : W64} (h0 : keptD d) : keptD (ringSignal d req) := by
  unfold ringSignal
  repeat' first
    | with_reducible assumption
    | with_reducible apply keep_toOwner
    | with_reducible apply keep_setReq
    | split
    | dsimp only

theorem keep_emitRecs {d : Dev} {req : W64} {recs : List OutRec} (h0 : keptD d) : keptD (emitRecs d req recs) := by
  unfold emitRecs
  repeat' first
    | with_reducible assumption
    | with_reducible apply keep_setReq
    | with_reducible apply keep_ringSignal
    | with_reducible apply keep_writeOut
    | split

theorem keep_execOutputModTimer {fn : Fn} {slot : Nat} {s : State} (h2 : keptD s.dev) : keptOut (execOutputModTimer fn slot s) := by
  unfold execOutputModTimer
  repeat' first
    | with_reducible assumption
    | with_reducible apply keep_answer
    | with_reducible apply keep_fireVector
    | with_reducible apply keep_setReq
    | split
    | dsimp only

theorem keep_cancelReq {d : Dev} {req : W64} {reason : Nat} (h0 : keptD d) : keptD (cancelReq d req reason) := by
  unfold cancelReq
  repeat' first
    | with_reducible assumption
    | with_reducible apply keep_setReq
    | with_reducible apply keep_toOwner
    | with_reducible apply keep_lockSend
    | with_reducible apply keep_emitRecs
    | with_reducible apply keep_endAsks
    | split

theorem keep_setHome {d : Dev} {req : W64} {r : HomeRec} (h0 : keptD d) : keptD (setHome d req r) := by
  unfold setHome
  repeat' first
    | with_reducible assumption
    | (refine kept_guard ?_ ?_; (focus (simp only [isMk_mk]; done)); with_reducible refine kept_mk rfl (fun h => h) (fun h => h) (fun h => h) (fun h => h) ?_)

theorem keep_homeEnter {d : Dev} {req : W64} {r : HomeRec} (h0 : keptD d) : keptD (homeEnter d req r) := by
  unfold homeEnter
  repeat' first
    | with_reducible assumption
    | with_reducible apply keep_setHome
    | with_reducible apply keep_setCam

theorem keep_homeDrop {d : Dev} {req : W64} (h0 : keptD d) : keptD (homeDrop d req) := by
  unfold homeDrop
  repeat' first
    | with_reducible assumption
    | with_reducible apply keep_setCam
    | (refine kept_guard ?_ ?_; (focus (simp only [isMk_mk]; done)); with_reducible refine kept_mk rfl (fun h => h) (fun h => h) (fun h => h) (fun h => h) ?_)

theorem keep_homeTell {d : Dev} {req : W64} {epoch : Nat} {xfer : Nat} {reason : Nat} {devs : List Nat} {m : LockMsg} (h0 : keptD d) : keptD (homeTell d req epoch xfer reason devs m) := by
  unfold homeTell
  repeat' first
    | with_reducible assumption
    | with_reducible apply keep_lockTell

theorem keep_homeForward {d : Dev} {req : W64} (h0 : keptD d) : keptD (homeForward d req) := by
  unfold homeForward
  repeat' first
    | with_reducible assumption
    | with_reducible apply keep_homeTell
    | with_reducible apply keep_setHome
    | split

theorem keep_homeAbort {d : Dev} {req : W64} {r : HomeRec} {reason : Nat} (h0 : keptD d) : keptD (homeAbort d req r reason) := by
  unfold homeAbort
  repeat' first
    | with_reducible assumption
    | with_reducible apply keep_homeForward
    | with_reducible apply keep_homeTell
    | with_reducible apply keep_setHome

theorem keep_homeDrained {d : Dev} {req : W64} (h0 : keptD d) : keptD (homeDrained d req) := by
  unfold homeDrained
  repeat' first
    | with_reducible assumption
    | with_reducible apply keep_homeTell
    | with_reducible apply keep_setHome
    | split

theorem keep_homeCommit {d : Dev} {req : W64} {r : HomeRec} (h0 : keptD d) : keptD (homeCommit d req r) := by
  unfold homeCommit
  repeat' first
    | with_reducible assumption
    | with_reducible apply keep_homeTell
    | with_reducible apply keep_setHome
    | with_reducible apply keep_homeDrained
    | with_reducible apply keep_homeForward

theorem keep_homeSink {d : Dev} {req : W64} {r : HomeRec} {ownerLost : Bool} {pagesLost : Bool} (h0 : keptD d) : keptD (homeSink d req r ownerLost pagesLost) := by
  unfold homeSink
  repeat' first
    | with_reducible assumption
    | with_reducible apply keep_setHome
    | with_reducible apply keep_homeTell
    | split

theorem keep_homeFillOpen {d : Dev} {h : LockHdr} {pay : FillOpenPay} (h0 : keptD d) : keptD (homeFillOpen d h pay) := by
  unfold homeFillOpen
  repeat' first
    | with_reducible assumption
    | with_reducible apply keep_homeTell
    | with_reducible apply keep_setHome
    | split

theorem keep_homeSeal {d : Dev} {h : LockHdr} (h0 : keptD d) : keptD (homeSeal d h) := by
  unfold homeSeal
  repeat' first
    | with_reducible assumption
    | with_reducible apply keep_homeAbort
    | with_reducible apply keep_setHome
    | split

theorem keep_homeAccept {d : Dev} {h : LockHdr} {handle : W64} (h0 : keptD d) : keptD (homeAccept d h handle) := by
  unfold homeAccept
  repeat' first
    | with_reducible assumption
    | with_reducible apply keep_homeCommit
    | with_reducible apply keep_setHome
    | split
    | dsimp only

theorem keep_homeRefuse {d : Dev} {h : LockHdr} (h0 : keptD d) : keptD (homeRefuse d h) := by
  unfold homeRefuse
  repeat' first
    | with_reducible assumption
    | with_reducible apply keep_homeAbort
    | with_reducible apply keep_setHome
    | split

theorem keep_homeAbortIn {d : Dev} {h : LockHdr} (h0 : keptD d) : keptD (homeAbortIn d h) := by
  unfold homeAbortIn
  repeat' first
    | with_reducible assumption
    | with_reducible apply keep_homeForward
    | with_reducible apply keep_setHome
    | split

theorem keep_homeDrainIn {d : Dev} {h : LockHdr} (h0 : keptD d) : keptD (homeDrainIn d h) := by
  unfold homeDrainIn
  repeat' first
    | with_reducible assumption
    | with_reducible apply keep_homeDrained
    | with_reducible apply keep_setHome
    | split

theorem keep_homeQueryIn {d : Dev} {h : LockHdr} (h0 : keptD d) : keptD (homeQueryIn d h) := by
  unfold homeQueryIn
  repeat' first
    | with_reducible assumption
    | with_reducible apply keep_homeTell
    | split

theorem keep_homeToken {d : Dev} {h : LockHdr} {position : Nat} {tokens : List W32} (h0 : keptD d) : keptD (homeToken d h position tokens) := by
  unfold homeToken
  repeat' first
    | with_reducible assumption
    | with_reducible apply keep_homeTell
    | with_reducible apply keep_setHome
    | split

theorem keep_homeRelease {d : Dev} {h : LockHdr} (h0 : keptD d) : keptD (homeRelease d h) := by
  unfold homeRelease
  repeat' first
    | with_reducible assumption
    | with_reducible apply keep_homeTell
    | with_reducible apply keep_homeDrop
    | split

theorem keep_homeCancel {d : Dev} {h : LockHdr} (h0 : keptD d) : keptD (homeCancel d h) := by
  unfold homeCancel
  repeat' first
    | with_reducible assumption
    | with_reducible apply keep_setHome
    | with_reducible apply keep_homeForward
    | split

theorem keep_homeResolve {d : Dev} {h : LockHdr} {dest : Bool} {owner : Holder} {pages : Holder} {parties : List (BitVec 14)} (h0 : keptD d) : keptD (homeResolve d h dest owner pages parties) := by
  unfold homeResolve
  repeat' first
    | with_reducible assumption
    | with_reducible apply keep_homeTell
    | with_reducible apply keep_setHome
    | with_reducible apply keep_homeEnter
    | split
    | dsimp only

theorem keep_homeEntryIn {d : Dev} {h : LockHdr} {owner : Holder} {pages : Holder} {history : List W32} {room : Nat} {fn : Fn} (h0 : keptD d) : keptD (homeEntryIn d h owner pages history room fn) := by
  unfold homeEntryIn
  repeat' first
    | with_reducible assumption
    | with_reducible apply keep_homeEnter
    | split

theorem keep_homeMore {d : Dev} {h : LockHdr} {n : Nat} (h0 : keptD d) : keptD (homeMore d h n) := by
  unfold homeMore
  repeat' first
    | with_reducible assumption
    | with_reducible apply keep_setHome
    | split

theorem keep_gateExpiry {d : Dev} {req : W64} (h0 : keptD d) : keptD (gateExpiry d req) := by
  unfold gateExpiry
  repeat' first
    | with_reducible assumption
    | with_reducible apply keep_homeSink
    | with_reducible apply keep_homeAbort
    | split

theorem keep_drainResend {d : Dev} {req : W64} (h0 : keptD d) : keptD (drainResend d req) := by
  unfold drainResend
  repeat' first
    | with_reducible assumption
    | with_reducible apply keep_homeTell
    | split

theorem keep_homeLose {dev : Nat} {d : Dev} {req : W64} (h1 : keptD d) : keptD (homeLose dev d req) := by
  unfold homeLose
  repeat' first
    | with_reducible assumption
    | with_reducible apply keep_homeSink
    | with_reducible apply keep_homeAbort
    | with_reducible apply keep_setHome
    | with_reducible apply keep_homeDrained
    | split
    | dsimp only

theorem keep_dstRefuse {d : Dev} {y1 : DstSt} {reason : Nat} (h0 : keptD d) : keptD (dstRefuse d y1 reason) := by
  unfold dstRefuse
  repeat' first
    | with_reducible assumption
    | with_reducible apply keep_lockTell

theorem keep_dstGone {d : Dev} {y1 : DstSt} (h0 : keptD d) : keptD (dstGone d y1) := by
  unfold dstGone
  repeat' first
    | with_reducible assumption
    | (refine kept_guard ?_ ?_; (focus (simp only [isMk_mk]; done)); with_reducible refine kept_mk rfl (fun h => h) (fun h => h) (fun h => h) (fun h => h) ?_)

theorem keep_dstSet {d : Dev} {y1 : DstSt} (h0 : keptD d) : keptD (dstSet d y1) := by
  unfold dstSet
  repeat' first
    | with_reducible assumption
    | (refine kept_guard ?_ ?_; (focus (simp only [isMk_mk]; done)); with_reducible refine kept_mk rfl (fun h => h) (fun h => h) (fun h => h) (fun h => h) ?_)

theorem keep_dstDrop {d : Dev} {y1 : DstSt} (h0 : keptD d) : keptD (dstDrop d y1) := by
  unfold dstDrop
  repeat' first
    | with_reducible assumption
    | with_reducible intro _
    | with_reducible apply keep_heapFree
    | with_reducible apply keep_dstGone
    | with_reducible apply keep_destroyTable
    | (with_reducible apply kept_foldl)
    | split

theorem keep_dstOpenAs {h : LockHdr} {pay : FillOpenPay} {party : Nat} {d : Dev} {at_ : Option Holder} (h3 : keptD d) : keptD (dstOpenAs h pay party d at_) := by
  unfold dstOpenAs
  repeat' first
    | with_reducible assumption
    | with_reducible apply keep_dstRefuse
    | with_reducible apply keep_holdObjs
    | with_reducible apply keep_lockSend
    | with_reducible refine keptS_mk (by assumption) ?_
    | (refine kept_guard ?_ ?_; (focus (simp only [isMk_mk]; done)); (with_reducible refine kept_mk rfl ?_ ?_ ?_ ?_ ?_); (focus ((intro hw; repeat' (first | with_reducible exact hw | with_reducible assumption | with_reducible apply wf_memWrite | with_reducible apply wf_memPut | with_reducible apply wf_memZeroRange | with_reducible exact wf_nil | (with_reducible apply wf_foldl; intro _ _ _))); done)); (focus ((intro hw; repeat' (first | with_reducible exact hw | with_reducible assumption | with_reducible apply wf_memWrite | with_reducible apply wf_memPut | with_reducible apply wf_memZeroRange | with_reducible exact wf_nil | (with_reducible apply wf_foldl; intro _ _ _))); done)); (focus ((intro hw; repeat' (first | with_reducible exact hw | with_reducible assumption | with_reducible apply wf_memWrite | with_reducible apply wf_memPut | with_reducible apply wf_memZeroRange | with_reducible exact wf_nil | (with_reducible apply wf_foldl; intro _ _ _))); done)); (focus ((intro hw; repeat' (first | with_reducible exact hw | with_reducible assumption | with_reducible apply wf_memWrite | with_reducible apply wf_memPut | with_reducible apply wf_memZeroRange | with_reducible exact wf_nil | (with_reducible apply wf_foldl; intro _ _ _))); done)))
    | split
    | dsimp only

theorem keep_dstOpen {d : Dev} {h : LockHdr} {pay : FillOpenPay} (h0 : keptD d) : keptD (dstOpen d h pay) := by
  unfold dstOpen
  repeat' first
    | with_reducible assumption
    | with_reducible apply keep_dstOpenAs

theorem keep_objWrite {d : Dev} {part : Nat} {obj : Nat} {bs : List Byte} (h0 : keptD d) : keptD (objWrite d part obj bs) := by
  unfold objWrite
  repeat' first
    | with_reducible assumption
    | with_reducible apply keep_hbmWrite
    | split

theorem keep_buildTable {d : Dev} {y1 : DstSt} {id : Nat} {l : KvLayout} (h0 : keptD d) : keptOS (buildTable d y1 id l) := by
  unfold buildTable
  repeat' first
    | with_reducible assumption
    | with_reducible intro _
    | with_reducible apply keep_heapFree
    | with_reducible apply keep_holdObjs
    | with_reducible apply keep_freshObj
    | with_reducible apply keep_objWrite
    | with_reducible apply keep_setTable
    | with_reducible apply keptOS_none
    | with_reducible apply keptOS_intro
    | with_reducible refine keptS_mk (by assumption) ?_
    | (with_reducible apply kept_foldl)
    | (refine kept_guard ?_ ?_; (focus (simp only [isMk_mk]; done)); (with_reducible refine kept_mk rfl ?_ ?_ ?_ ?_ ?_); (focus ((intro hw; repeat' (first | with_reducible exact hw | with_reducible assumption | with_reducible apply wf_memWrite | with_reducible apply wf_memPut | with_reducible apply wf_memZeroRange | with_reducible exact wf_nil | (with_reducible apply wf_foldl; intro _ _ _))); done)); (focus ((intro hw; repeat' (first | with_reducible exact hw | with_reducible assumption | with_reducible apply wf_memWrite | with_reducible apply wf_memPut | with_reducible apply wf_memZeroRange | with_reducible exact wf_nil | (with_reducible apply wf_foldl; intro _ _ _))); done)); (focus ((intro hw; repeat' (first | with_reducible exact hw | with_reducible assumption | with_reducible apply wf_memWrite | with_reducible apply wf_memPut | with_reducible apply wf_memZeroRange | with_reducible exact wf_nil | (with_reducible apply wf_foldl; intro _ _ _))); done)); (focus ((intro hw; repeat' (first | with_reducible exact hw | with_reducible assumption | with_reducible apply wf_memWrite | with_reducible apply wf_memPut | with_reducible apply wf_memZeroRange | with_reducible exact wf_nil | (with_reducible apply wf_foldl; intro _ _ _))); done)))
    | split
    | with_reducible apply keptS_intro
    | with_reducible apply keptS_snd
    | dsimp only

theorem keep_buildWeir {d : Dev} {y1 : DstSt} {id : Nat} {l : KvLayout} {hd : BargeHdr} (h0 : keptD d) : keptOS (buildWeir d y1 id l hd) := by
  unfold buildWeir
  repeat' first
    | with_reducible assumption
    | with_reducible apply keep_holdObjs
    | with_reducible apply keep_freshObj
    | with_reducible apply keep_setTable
    | with_reducible apply keep_objWrite
    | with_reducible apply keptOS_none
    | with_reducible apply keptOS_intro
    | with_reducible refine keptS_mk (by assumption) ?_
    | split
    | with_reducible apply keptS_intro
    | with_reducible apply keptS_snd
    | dsimp only

theorem keep_dstOwnerObjs {d : Dev} {y1 : DstSt} {hd : BargeHdr} (h0 : keptD d) : keptS (dstOwnerObjs d y1 hd) := by
  unfold dstOwnerObjs
  repeat' first
    | with_reducible assumption
    | with_reducible intro _
    | with_reducible apply keep_holdObjs
    | with_reducible apply keep_heapFree
    | (with_reducible apply kept_foldl)

theorem keep_dstAccept {d : Dev} {y1 : DstSt} (h0 : keptD d) : keptD (dstAccept d y1) := by
  unfold dstAccept
  repeat' first
    | with_reducible assumption
    | with_reducible apply keep_lockSend
    | with_reducible apply keep_dstSet
    | with_reducible apply keep_dstDrop
    | with_reducible apply keep_dstRefuse
    | with_reducible apply keep_buildTable
    | with_reducible apply keep_dstOwnerObjs
    | with_reducible apply keep_buildWeir
    | with_reducible refine keptOS_some (by assumption) ?_
    | with_reducible refine keptS_mk (by assumption) ?_
    | split
    | dsimp only

theorem keep_dstCheck {d : Dev} {y1 : DstSt} (h0 : keptD d) : keptD (dstCheck d y1) := by
  unfold dstCheck
  repeat' first
    | with_reducible assumption
    | with_reducible apply keep_dstDrop
    | with_reducible apply keep_dstRefuse
    | with_reducible apply keep_dstAccept
    | with_reducible apply keep_dstSet
    | split
    | dsimp only

theorem keep_dstData {d : Dev} {h : LockHdr} {sec : Nat} {chunk : Nat} {c : FillSec} (h0 : keptD d) : keptD (dstData d h sec chunk c) := by
  unfold dstData
  repeat' first
    | with_reducible assumption
    | with_reducible apply keep_dstCheck
    | with_reducible apply keep_dstSet
    | split

theorem keep_dstSeal {d : Dev} {h : LockHdr} {counts : List Nat} {digest : BitVec 256} (h0 : keptD d) : keptD (dstSeal d h counts digest) := by
  unfold dstSeal
  repeat' first
    | with_reducible assumption
    | with_reducible apply keep_dstCheck
    | with_reducible apply keep_dstSet
    | split

theorem keep_dstTake {d : Dev} {y1 : DstSt} {epoch : Nat} {pages : Holder} {handle : W64} (h0 : keptD d) : keptD (dstTake d y1 epoch pages handle) := by
  unfold dstTake
  repeat' first
    | with_reducible assumption
    | with_reducible apply keep_dstGone
    | with_reducible apply keep_setBarge
    | (refine kept_guard ?_ ?_; (focus (simp only [isMk_mk]; done)); (with_reducible refine kept_mk rfl ?_ ?_ ?_ ?_ ?_); (focus ((intro hw; repeat' (first | with_reducible exact hw | with_reducible assumption | with_reducible apply wf_memWrite | with_reducible apply wf_memPut | with_reducible apply wf_memZeroRange | with_reducible exact wf_nil | (with_reducible apply wf_foldl; intro _ _ _))); done)); (focus ((intro hw; repeat' (first | with_reducible exact hw | with_reducible assumption | with_reducible apply wf_memWrite | with_reducible apply wf_memPut | with_reducible apply wf_memZeroRange | with_reducible exact wf_nil | (with_reducible apply wf_foldl; intro _ _ _))); done)); (focus ((intro hw; repeat' (first | with_reducible exact hw | with_reducible assumption | with_reducible apply wf_memWrite | with_reducible apply wf_memPut | with_reducible apply wf_memZeroRange | with_reducible exact wf_nil | (with_reducible apply wf_foldl; intro _ _ _))); done)); (focus ((intro hw; repeat' (first | with_reducible exact hw | with_reducible assumption | with_reducible apply wf_memWrite | with_reducible apply wf_memPut | with_reducible apply wf_memZeroRange | with_reducible exact wf_nil | (with_reducible apply wf_foldl; intro _ _ _))); done)))
    | split

theorem keep_dstCommit {d : Dev} {h : LockHdr} {pages : Holder} {handle : W64} (h0 : keptD d) : keptD (dstCommit d h pages handle) := by
  unfold dstCommit
  repeat' first
    | with_reducible assumption
    | with_reducible intro _
    | with_reducible apply keep_dstTake
    | (with_reducible apply kept_foldl)

theorem keep_dstAbort {d : Dev} {h : LockHdr} (h0 : keptD d) : keptD (dstAbort d h) := by
  unfold dstAbort
  repeat' first
    | with_reducible assumption
    | with_reducible intro _
    | with_reducible apply keep_dstDrop
    | (with_reducible apply kept_foldl)

theorem keep_dstRelease {d : Dev} {req : W64} (h0 : keptD d) : keptD (dstRelease d req) := by
  unfold dstRelease
  repeat' first
    | with_reducible assumption
    | with_reducible intro _
    | with_reducible apply keep_dstDrop
    | (with_reducible apply kept_foldl)

theorem keep_dstResolved {d : Dev} {h : LockHdr} {owner : Holder} {pages : Holder} (h0 : keptD d) : keptD (dstResolved d h owner pages) := by
  unfold dstResolved
  repeat' first
    | with_reducible assumption
    | with_reducible intro _
    | with_reducible apply keep_dstTake
    | with_reducible apply keep_dstDrop
    | (with_reducible apply kept_foldl)
    | split

theorem keep_dstReply {d : Dev} {h : LockHdr} {a : HomeAnswer} (h0 : keptD d) : keptD (dstReply d h a) := by
  unfold dstReply
  repeat' first
    | with_reducible assumption
    | with_reducible intro _
    | with_reducible apply keep_dstTake
    | with_reducible apply keep_dstDrop
    | with_reducible apply keep_dstSet
    | (with_reducible apply kept_foldl)
    | split

theorem keep_dstQuery {d : Dev} {req : W64} (h0 : keptD d) : keptD (dstQuery d req) := by
  unfold dstQuery
  repeat' first
    | with_reducible assumption
    | with_reducible intro _
    | with_reducible apply keep_lockSend
    | with_reducible apply keep_dstSet
    | (with_reducible apply kept_foldl)

theorem keep_rerunPost {d : Dev} {p : Post} (h0 : keptD d) : keptD (rerunPost d p) := by
  unfold rerunPost
  repeat' first
    | with_reducible assumption
    | with_reducible apply keep_settleRes
    | with_reducible apply keep_ptForkRule
    | with_reducible apply keep_ptTruncateRule
    | with_reducible apply keep_ptDestroyRule
    | with_reducible apply keep_rerunTask
    | split

theorem keep_rerunHeld {d : Dev} (h0 : keptD d) : keptD (rerunHeld d) := by
  unfold rerunHeld
  repeat' first
    | with_reducible assumption
    | with_reducible intro _
    | with_reducible apply keep_retryFar
    | with_reducible apply keep_rerunPost
    | (with_reducible apply kept_foldl)
    | (refine kept_guard ?_ ?_; (focus (simp only [isMk_mk]; done)); with_reducible refine kept_mk rfl (fun h => h) (fun h => h) (fun h => h) (fun h => h) ?_)

theorem keep_startXfer {d : Dev} {b0 : Barge} {x0 : SrcSt} (h0 : keptD d) : keptD (startXfer d b0 x0) := by
  unfold startXfer
  repeat' first
    | with_reducible assumption
    | with_reducible apply keep_setBarge
    | with_reducible apply keep_setReq
    | with_reducible apply keep_lockTell
    | (refine kept_guard ?_ ?_; (focus (simp only [isMk_mk]; done)); (with_reducible refine kept_mk rfl ?_ ?_ ?_ ?_ ?_); (focus ((intro hw; repeat' (first | with_reducible exact hw | with_reducible assumption | with_reducible apply wf_memWrite | with_reducible apply wf_memPut | with_reducible apply wf_memZeroRange | with_reducible exact wf_nil | (with_reducible apply wf_foldl; intro _ _ _))); done)); (focus ((intro hw; repeat' (first | with_reducible exact hw | with_reducible assumption | with_reducible apply wf_memWrite | with_reducible apply wf_memPut | with_reducible apply wf_memZeroRange | with_reducible exact wf_nil | (with_reducible apply wf_foldl; intro _ _ _))); done)); (focus ((intro hw; repeat' (first | with_reducible exact hw | with_reducible assumption | with_reducible apply wf_memWrite | with_reducible apply wf_memPut | with_reducible apply wf_memZeroRange | with_reducible exact wf_nil | (with_reducible apply wf_foldl; intro _ _ _))); done)); (focus ((intro hw; repeat' (first | with_reducible exact hw | with_reducible assumption | with_reducible apply wf_memWrite | with_reducible apply wf_memPut | with_reducible apply wf_memZeroRange | with_reducible exact wf_nil | (with_reducible apply wf_foldl; intro _ _ _))); done)))
    | split

theorem keep_noteLdone {d : Dev} {req : W64} {y2 : SrcSt} (h0 : keptD d) : keptD (noteLdone d req y2) := by
  unfold noteLdone
  repeat' first
    | with_reducible assumption
    | with_reducible apply keep_setReq
    | split

theorem keep_srcRestore {d : Dev} {b : Barge} {y2 : SrcSt} (h0 : keptD d) : keptD (srcRestore d b y2) := by
  unfold srcRestore
  repeat' first
    | with_reducible assumption
    | with_reducible apply keep_rerunHeld
    | with_reducible apply keep_noteLdone
    | with_reducible apply keep_setBarge

theorem keep_srcAbort {d : Dev} {b : Barge} {y2 : SrcSt} {reason : Nat} (h0 : keptD d) : keptD (srcAbort d b y2 reason) := by
  unfold srcAbort
  repeat' first
    | with_reducible assumption
    | with_reducible apply keep_lockTell
    | with_reducible apply keep_srcRestore

theorem keep_pagesGone {d : Dev} {handle : W64} (h0 : keptD d) : keptD (pagesGone d handle) := by
  unfold pagesGone
  repeat' first
    | with_reducible assumption
    | with_reducible apply keep_destroyTable
    | split

theorem keep_basinGone {d : Dev} {b : Barge} (h0 : keptD d) : keptD (basinGone d b) := by
  unfold basinGone
  repeat' first
    | with_reducible assumption
    | with_reducible apply keep_heapFree
    | split

theorem keep_sendDrain {d : Dev} {b : Barge} {y2 : SrcSt} {party : Nat} (h0 : keptD d) : keptD (sendDrain d b y2 party) := by
  unfold sendDrain
  repeat' first
    | with_reducible assumption
    | with_reducible apply keep_lockSend

theorem keep_srcCommit {d : Dev} {b : Barge} {y2 : SrcSt} {epoch : Nat} {pages : Holder} {handle : W64} (h0 : keptD d) : keptD (srcCommit d b y2 epoch pages handle) := by
  unfold srcCommit
  repeat' first
    | with_reducible assumption
    | with_reducible apply keep_noteLdone
    | with_reducible apply keep_sendDrain
    | with_reducible apply keep_pagesGone
    | with_reducible apply keep_basinGone
    | with_reducible apply keep_rerunHeld
    | with_reducible apply keep_dropBarge
    | with_reducible apply keep_setBarge
    | split

theorem keep_sendChunks {d : Dev} {h : LockHdr} {dst : Option Holder} {cs : List Chunk} (h0 : keptD d) : keptD (sendChunks d h dst cs) := by
  unfold sendChunks
  repeat' first
    | with_reducible assumption
    | with_reducible intro _
    | with_reducible apply keep_dstData
    | with_reducible apply keep_lockSend
    | (with_reducible apply kept_foldl)
    | split

theorem keep_srcStream {d : Dev} {b : Barge} {y2 : SrcSt} (h0 : keptD d) : keptD (srcStream d b y2) := by
  unfold srcStream
  repeat' first
    | with_reducible assumption
    | with_reducible apply keep_setBarge
    | with_reducible apply keep_sendChunks

theorem keep_doSeal {d : Dev} {b0 : Barge} {x0 : SrcSt} (h0 : keptD d) : keptD (doSeal d b0 x0) := by
  unfold doSeal
  repeat' first
    | with_reducible assumption
    | with_reducible apply keep_lockTell
    | with_reducible apply keep_setBarge
    | with_reducible apply keep_srcStream
    | split
    | dsimp only

theorem keep_roundEnd {d : Dev} {b : Barge} {y2 : SrcSt} (h0 : keptD d) : keptD (roundEnd d b y2) := by
  unfold roundEnd
  repeat' first
    | with_reducible assumption
    | with_reducible apply keep_setBarge
    | with_reducible apply keep_doSeal
    | with_reducible apply keep_srcStream
    | split
    | dsimp only

theorem keep_srcReady {d : Dev} {h : LockHdr} (h0 : keptD d) : keptD (srcReady d h) := by
  unfold srcReady
  repeat' first
    | with_reducible assumption
    | with_reducible apply keep_setBarge
    | with_reducible apply keep_lockTell
    | with_reducible apply keep_srcStream
    | split
    | dsimp only

theorem keep_modPageSrc {d : Dev} {req : W64} {f : PageSrc → PageSrc} (h0 : keptD d) : keptD (modPageSrc d req f) := by
  unfold modPageSrc
  repeat' first
    | with_reducible assumption
    | (refine kept_guard ?_ ?_; (focus (simp only [isMk_mk]; done)); with_reducible refine kept_mk rfl (fun h => h) (fun h => h) (fun h => h) (fun h => h) ?_)

theorem keep_pageSrcGone {d : Dev} {req : W64} (h0 : keptD d) : keptD (pageSrcGone d req) := by
  unfold pageSrcGone
  repeat' first
    | with_reducible assumption
    | (refine kept_guard ?_ ?_; (focus (simp only [isMk_mk]; done)); with_reducible refine kept_mk rfl (fun h => h) (fun h => h) (fun h => h) (fun h => h) ?_)

theorem keep_pageOpen {d : Dev} {h : LockHdr} {pay : FillOpenPay} (h0 : keptD d) : keptD (pageOpen d h pay) := by
  unfold pageOpen
  repeat' first
    | with_reducible assumption
    | (refine kept_guard ?_ ?_; (focus (simp only [isMk_mk]; done)); (with_reducible refine kept_mk rfl ?_ ?_ ?_ ?_ ?_); (focus ((intro hw; repeat' (first | with_reducible exact hw | with_reducible assumption | with_reducible apply wf_memWrite | with_reducible apply wf_memPut | with_reducible apply wf_memZeroRange | with_reducible exact wf_nil | (with_reducible apply wf_foldl; intro _ _ _))); done)); (focus ((intro hw; repeat' (first | with_reducible exact hw | with_reducible assumption | with_reducible apply wf_memWrite | with_reducible apply wf_memPut | with_reducible apply wf_memZeroRange | with_reducible exact wf_nil | (with_reducible apply wf_foldl; intro _ _ _))); done)); (focus ((intro hw; repeat' (first | with_reducible exact hw | with_reducible assumption | with_reducible apply wf_memWrite | with_reducible apply wf_memPut | with_reducible apply wf_memZeroRange | with_reducible exact wf_nil | (with_reducible apply wf_foldl; intro _ _ _))); done)); (focus ((intro hw; repeat' (first | with_reducible exact hw | with_reducible assumption | with_reducible apply wf_memWrite | with_reducible apply wf_memPut | with_reducible apply wf_memZeroRange | with_reducible exact wf_nil | (with_reducible apply wf_foldl; intro _ _ _))); done)))
    | split

theorem keep_pageStream {d : Dev} {q : PageSrc} (h0 : keptD d) : keptD (pageStream d q) := by
  unfold pageStream
  repeat' first
    | with_reducible assumption
    | with_reducible apply keep_modPageSrc
    | with_reducible apply keep_sendChunks
    | split

theorem keep_pageReady {d : Dev} {h : LockHdr} (h0 : keptD d) : keptD (pageReady d h) := by
  unfold pageReady
  repeat' first
    | with_reducible assumption
    | with_reducible apply keep_pageStream
    | with_reducible apply keep_modPageSrc
    | split

theorem keep_pageSeal {d : Dev} {h : LockHdr} (h0 : keptD d) : keptD (pageSeal d h) := by
  unfold pageSeal
  repeat' first
    | with_reducible assumption
    | with_reducible apply keep_pageStream
    | with_reducible apply keep_modPageSrc
    | with_reducible apply keep_lockTell
    | split

theorem keep_pageCommit {d : Dev} {h : LockHdr} (h0 : keptD d) : keptD (pageCommit d h) := by
  unfold pageCommit
  repeat' first
    | with_reducible assumption
    | with_reducible apply keep_rerunHeld
    | with_reducible apply keep_pageSrcGone
    | with_reducible apply keep_destroyTable
    | with_reducible apply keep_lockSend
    | split

theorem keep_pageAbort {d : Dev} {h : LockHdr} (h0 : keptD d) : keptD (pageAbort d h) := by
  unfold pageAbort
  repeat' first
    | with_reducible assumption
    | with_reducible apply keep_rerunHeld
    | with_reducible apply keep_pageSrcGone
    | split

theorem keep_srcCommitIn {d : Dev} {h : LockHdr} {pages : Holder} {handle : W64} (h0 : keptD d) : keptD (srcCommitIn d h pages handle) := by
  unfold srcCommitIn
  repeat' first
    | with_reducible assumption
    | with_reducible apply keep_srcCommit
    | split

theorem keep_srcAbortIn {d : Dev} {h : LockHdr} (h0 : keptD d) : keptD (srcAbortIn d h) := by
  unfold srcAbortIn
  repeat' first
    | with_reducible assumption
    | with_reducible apply keep_srcRestore
    | split

theorem keep_srcReply {d : Dev} {h : LockHdr} {a : HomeAnswer} (h0 : keptD d) : keptD (srcReply d h a) := by
  unfold srcReply
  repeat' first
    | with_reducible assumption
    | with_reducible apply keep_srcCommit
    | with_reducible apply keep_lockTell
    | with_reducible apply keep_setBarge
    | with_reducible apply keep_srcRestore
    | split

theorem keep_pageReply {d : Dev} {h : LockHdr} {a : HomeAnswer} (h0 : keptD d) : keptD (pageReply d h a) := by
  unfold pageReply
  repeat' first
    | with_reducible assumption
    | with_reducible apply keep_pageCommit
    | with_reducible apply keep_modPageSrc
    | with_reducible apply keep_rerunHeld
    | with_reducible apply keep_pageSrcGone
    | split

theorem keep_srcQuery {d : Dev} {req : W64} (h0 : keptD d) : keptD (srcQuery d req) := by
  unfold srcQuery
  repeat' first
    | with_reducible assumption
    | with_reducible apply keep_lockSend
    | with_reducible apply keep_setBarge
    | with_reducible apply keep_modPageSrc
    | split
    | dsimp only

theorem keep_srcResolved {d : Dev} {h : LockHdr} {owner : Holder} {pages : Holder} (h0 : keptD d) : keptD (srcResolved d h owner pages) := by
  unfold srcResolved
  repeat' first
    | with_reducible assumption
    | with_reducible apply keep_pagesGone
    | with_reducible apply keep_rerunHeld
    | with_reducible apply keep_dropBarge
    | with_reducible apply keep_setBarge
    | with_reducible apply keep_pageSrcGone
    | with_reducible apply keep_destroyTable
    | split
    | dsimp only

end Sys2Proof.Machine
end

