-- ==== Sys2Proof/Laws/KeepServing.lean ====
section
/-! SUPPORT. Every operation keeps the invariant of Safety.lean, one lemma each: serving, lock messages, the loss of a peer. -/
namespace Sys2Proof.Machine
open Sys2Proof
-- each goal is closed by the first of its alternatives that applies, so an alternative may go unused
set_option linter.all false

theorem keep_reqClassRule {p : Post} {d : Dev} (h1 : keptD d) : keptRes (reqClassRule p d) := by
  unfold reqClassRule
  repeat' first
    | with_reducible assumption
    | with_reducible apply keptRes_plain
    | (refine kept_guard ?_ ?_; (focus (simp only [isMk_mk]; done)); with_reducible refine kept_mk rfl (fun h => h) (fun h => h) (fun h => h) (fun h => h) ?_)
    | split
    | dsimp only

theorem keep_execReqClass {p : Post} {s : State} (h1 : keptD s.dev) : keptOut (execReqClass p s) := by
  unfold execReqClass
  repeat' first
    | with_reducible assumption
    | with_reducible intro _
    | with_reducible apply keep_answer
    | with_reducible apply keep_perform
    | with_reducible apply keep_reqClassRule

theorem keep_budgetSetRule {p : Post} {d : Dev} (h1 : keptD d) : keptRes (budgetSetRule p d) := by
  unfold budgetSetRule
  repeat' first
    | with_reducible assumption
    | with_reducible apply keep_grantLeases
    | with_reducible apply keptRes_plain
    | (refine kept_guard ?_ ?_; (focus (simp only [isMk_mk]; done)); with_reducible refine kept_mk rfl (fun h => h) (fun h => h) (fun h => h) (fun h => h) ?_)
    | split
    | dsimp only

theorem keep_holdReq {d : Dev} {req : W64} {r : ReqSt} {st : Status} {detail : Nat} (h0 : keptD d) : keptD (holdReq d req r st detail) := by
  unfold holdReq
  repeat' first
    | with_reducible assumption
    | with_reducible apply keep_setReq
    | with_reducible apply keep_reqNote
    | split
    | dsimp only

theorem keep_tryAdmit {d : Dev} {req : W64} (h0 : keptD d) : keptD (tryAdmit d req) := by
  unfold tryAdmit
  repeat' first
    | with_reducible assumption
    | with_reducible apply keep_holdReq
    | with_reducible apply keep_makeTable
    | with_reducible apply keep_holdObjs
    | with_reducible apply keep_destroyTable
    | with_reducible apply keep_setBarge
    | with_reducible apply keep_reserve
    | with_reducible apply keep_lockSend
    | with_reducible apply keep_reqNote
    | with_reducible apply keep_setReq
    | with_reducible refine keptMade_ok (by assumption) ?_
    | with_reducible refine keptMade_lacks (by assumption) ?_
    | with_reducible refine keptS_mk (by assumption) ?_
    | (refine kept_guard ?_ ?_; (focus (simp only [isMk_mk]; done)); (with_reducible refine kept_mk rfl ?_ ?_ ?_ ?_ ?_); (focus ((intro hw; repeat' (first | with_reducible exact hw | with_reducible assumption | with_reducible apply wf_memWrite | with_reducible apply wf_memPut | with_reducible apply wf_memZeroRange | with_reducible exact wf_nil | (with_reducible apply wf_foldl; intro _ _ _))); done)); (focus ((intro hw; repeat' (first | with_reducible exact hw | with_reducible assumption | with_reducible apply wf_memWrite | with_reducible apply wf_memPut | with_reducible apply wf_memZeroRange | with_reducible exact wf_nil | (with_reducible apply wf_foldl; intro _ _ _))); done)); (focus ((intro hw; repeat' (first | with_reducible exact hw | with_reducible assumption | with_reducible apply wf_memWrite | with_reducible apply wf_memPut | with_reducible apply wf_memZeroRange | with_reducible exact wf_nil | (with_reducible apply wf_foldl; intro _ _ _))); done)); (focus ((intro hw; repeat' (first | with_reducible exact hw | with_reducible assumption | with_reducible apply wf_memWrite | with_reducible apply wf_memPut | with_reducible apply wf_memZeroRange | with_reducible exact wf_nil | (with_reducible apply wf_foldl; intro _ _ _))); done)))
    | split
    | dsimp only

theorem keep_enterHome {d : Dev} {req : W64} (h0 : keptD d) : keptD (enterHome d req) := by
  unfold enterHome
  repeat' first
    | with_reducible assumption
    | with_reducible apply keep_finalReq
    | with_reducible apply keep_tryAdmit
    | with_reducible apply keep_homeEnter
    | split
    | dsimp only

theorem keep_requestSubmitRule {p : Post} {d : Dev} (h1 : keptD d) : keptRes (requestSubmitRule p d) := by
  unfold requestSubmitRule
  repeat' first
    | with_reducible assumption
    | with_reducible apply keep_setReq
    | with_reducible apply keep_enterHome
    | with_reducible apply keep_lockSend
    | with_reducible apply keptRes_done'
    | with_reducible apply keptRes_later'
    | (refine kept_guard ?_ ?_; (focus (simp only [isMk_mk]; done)); with_reducible refine kept_mk rfl (fun h => h) (fun h => h) (fun h => h) (fun h => h) ?_)
    | split
    | dsimp only

theorem keep_askAnswer {d : Dev} {h : LockHdr} {a : HomeAnswer} (h0 : keptD d) : keptD (askAnswer d h a) := by
  unfold askAnswer
  repeat' first
    | with_reducible assumption
    | with_reducible apply keep_enterHome
    | with_reducible apply keep_finalReq
    | split

theorem keep_requestCancelRule {p : Post} {d : Dev} (h1 : keptD d) : keptRes (requestCancelRule p d) := by
  unfold requestCancelRule
  repeat' first
    | with_reducible assumption
    | with_reducible apply keep_cancelReq
    | with_reducible apply keptRes_plain
    | with_reducible apply keptRes_done'
    | split
    | dsimp only

theorem keep_report {d : Dev} {b : Barge} {kind : Nat} {st : Status} {detail : Nat} (h0 : keptD d) : keptD (report d b kind st detail) := by
  unfold report
  repeat' first
    | with_reducible assumption
    | with_reducible apply keep_lockSend

theorem keep_discardHere {d : Dev} {req : W64} (h0 : keptD d) : keptD (discardHere d req) := by
  unfold discardHere
  repeat' first
    | with_reducible assumption
    | with_reducible intro _
    | with_reducible apply keep_dropBarge
    | with_reducible apply keep_destroyTable
    | with_reducible apply keep_rerunHeld
    | with_reducible apply keep_dstRelease
    | with_reducible apply keep_pageSrcGone
    | (with_reducible apply kept_foldl)
    | (refine kept_guard ?_ ?_; (focus (simp only [isMk_mk]; done)); (with_reducible refine kept_mk rfl ?_ ?_ ?_ ?_ ?_); (focus ((intro hw; repeat' (first | with_reducible exact hw | with_reducible assumption | with_reducible apply wf_memWrite | with_reducible apply wf_memPut | with_reducible apply wf_memZeroRange | with_reducible exact wf_nil | (with_reducible apply wf_foldl; intro _ _ _))); done)); (focus ((intro hw; repeat' (first | with_reducible exact hw | with_reducible assumption | with_reducible apply wf_memWrite | with_reducible apply wf_memPut | with_reducible apply wf_memZeroRange | with_reducible exact wf_nil | (with_reducible apply wf_foldl; intro _ _ _))); done)); (focus ((intro hw; repeat' (first | with_reducible exact hw | with_reducible assumption | with_reducible apply wf_memWrite | with_reducible apply wf_memPut | with_reducible apply wf_memZeroRange | with_reducible exact wf_nil | (with_reducible apply wf_foldl; intro _ _ _))); done)); (focus ((intro hw; repeat' (first | with_reducible exact hw | with_reducible assumption | with_reducible apply wf_memWrite | with_reducible apply wf_memPut | with_reducible apply wf_memZeroRange | with_reducible exact wf_nil | (with_reducible apply wf_foldl; intro _ _ _))); done)))
    | split

theorem keep_releaseBarge {d : Dev} {b : Barge} {reason : Nat} (h0 : keptD d) : keptD (releaseBarge d b reason) := by
  unfold releaseBarge
  repeat' first
    | with_reducible assumption
    | with_reducible apply keep_lockTell
    | with_reducible apply keep_discardHere

theorem keep_ownerCancelNow {d : Dev} {b : Barge} {reason : Nat} (h0 : keptD d) : keptD (ownerCancelNow d b reason) := by
  unfold ownerCancelNow
  repeat' first
    | with_reducible assumption
    | with_reducible apply keep_cancelHeld
    | with_reducible apply keep_setBarge
    | with_reducible apply keep_releaseBarge
    | (refine kept_guard ?_ ?_; (focus (simp only [isMk_mk]; done)); (with_reducible refine kept_mk rfl ?_ ?_ ?_ ?_ ?_); (focus ((intro hw; repeat' (first | with_reducible exact hw | with_reducible assumption | with_reducible apply wf_memWrite | with_reducible apply wf_memPut | with_reducible apply wf_memZeroRange | with_reducible exact wf_nil | (with_reducible apply wf_foldl; intro _ _ _))); done)); (focus ((intro hw; repeat' (first | with_reducible exact hw | with_reducible assumption | with_reducible apply wf_memWrite | with_reducible apply wf_memPut | with_reducible apply wf_memZeroRange | with_reducible exact wf_nil | (with_reducible apply wf_foldl; intro _ _ _))); done)); (focus ((intro hw; repeat' (first | with_reducible exact hw | with_reducible assumption | with_reducible apply wf_memWrite | with_reducible apply wf_memPut | with_reducible apply wf_memZeroRange | with_reducible exact wf_nil | (with_reducible apply wf_foldl; intro _ _ _))); done)); (focus ((intro hw; repeat' (first | with_reducible exact hw | with_reducible assumption | with_reducible apply wf_memWrite | with_reducible apply wf_memPut | with_reducible apply wf_memZeroRange | with_reducible exact wf_nil | (with_reducible apply wf_foldl; intro _ _ _))); done)))
    | split

theorem keep_ownerCancel {d : Dev} {h : LockHdr} (h0 : keptD d) : keptD (ownerCancel d h) := by
  unfold ownerCancel
  repeat' first
    | with_reducible assumption
    | with_reducible apply keep_lockSend
    | with_reducible apply keep_ownerCancelNow
    | with_reducible apply keep_srcAbort
    | split
    | dsimp only

theorem keep_holdNoDest {d : Dev} {b : Barge} (h0 : keptD d) : keptD (holdNoDest d b) := by
  unfold holdNoDest
  repeat' first
    | with_reducible assumption
    | with_reducible apply keep_setBarge
    | with_reducible apply keep_report
    | split

theorem keep_tryFirst {d : Dev} {b : Barge} {t0 : List Nat} {t1 : List Nat} (h0 : keptD d) : keptD (tryFirst d b t0 t1) := by
  unfold tryFirst
  repeat' first
    | with_reducible assumption
    | with_reducible apply keep_holdNoDest
    | with_reducible apply keep_startXfer
    | split
    | dsimp only

theorem keep_firstXfer {d : Dev} {b : Barge} (h0 : keptD d) : keptD (firstXfer d b) := by
  unfold firstXfer
  repeat' first
    | with_reducible assumption
    | with_reducible apply keep_tryFirst

theorem keep_weirRetryAct {d : Dev} {req : W64} (h0 : keptD d) : keptD (weirRetryAct d req) := by
  unfold weirRetryAct
  repeat' first
    | with_reducible assumption
    | with_reducible apply keep_firstXfer
    | split

theorem keep_srcRefuse {d : Dev} {h : LockHdr} (h0 : keptD d) : keptD (srcRefuse d h) := by
  unfold srcRefuse
  repeat' first
    | with_reducible assumption
    | with_reducible apply keep_srcAbort
    | with_reducible apply keep_tryFirst
    | split
    | dsimp only

theorem keep_afterFirst {before : Option Barge} {d : Dev} {req : W64} (h1 : keptD d) : keptD (afterFirst before d req) := by
  unfold afterFirst
  repeat' first
    | with_reducible assumption
    | with_reducible apply keep_holdNoDest
    | split

theorem keep_moorPages {d : Dev} {b : Barge} {tier : Nat} (h0 : keptD d) : keptO (moorPages d b tier) := by
  unfold moorPages
  repeat' first
    | with_reducible assumption
    | with_reducible apply keep_tableToHost
    | with_reducible apply keptO_intro
    | split

theorem keep_moorHere {d : Dev} {b0 : Barge} {tier : Nat} {ttl : Nat} (h0 : keptD d) : keptD (moorHere d b0 tier ttl) := by
  unfold moorHere
  repeat' first
    | with_reducible assumption
    | with_reducible apply keep_report
    | with_reducible apply keep_setBarge
    | (refine kept_guard ?_ ?_; (focus (simp only [isMk_mk]; done)); with_reducible refine kept_mk rfl (fun h => h) (fun h => h) (fun h => h) (fun h => h) ?_)

theorem keep_moorNow {d : Dev} {b : Barge} {tier : Nat} {ttl : Nat} (h0 : keptD d) : keptD (moorNow d b tier ttl) := by
  unfold moorNow
  repeat' first
    | with_reducible assumption
    | with_reducible apply keep_moorHere
    | with_reducible apply keep_moorPages
    | with_reducible apply keep_report
    | with_reducible apply keep_startXfer
    | with_reducible apply keep_setBarge
    | with_reducible refine keptO_some (by assumption) ?_
    | split
    | dsimp only

theorem keep_moorArrive {d : Dev} {req : W64} (h0 : keptD d) : keptD (moorArrive d req) := by
  unfold moorArrive
  repeat' first
    | with_reducible assumption
    | with_reducible apply keep_moorPages
    | with_reducible apply keep_report
    | with_reducible apply keep_setBarge
    | with_reducible refine keptO_some (by assumption) ?_
    | split

theorem keep_orderMoor {d : Dev} {b : Barge} {p : Post} (h0 : keptD d) : keptD (orderMoor d b p) := by
  unfold orderMoor
  repeat' first
    | with_reducible assumption
    | with_reducible apply keep_report
    | with_reducible apply keep_setBarge
    | with_reducible apply keep_moorNow
    | split
    | dsimp only

theorem keep_copyIn {n : Nat} {r : Option (Dev × List (Nat × Nat))} {id : Nat} (h1 : keptOF r) : keptOF (copyIn n r id) := by
  unfold copyIn
  split
  · trivial
  · rename_i d m
    have h : keptD d := h1
    repeat' first
    | with_reducible assumption
    | with_reducible exact keptOF_none
    | with_reducible apply keptOF_intro
    | with_reducible apply keptF_intro
    | with_reducible apply keep_hbmWrite
    | with_reducible apply keep_holderAlloc
    | with_reducible refine keptGot_ok (by assumption) ?_
    | with_reducible refine keptS_mk (by assumption) (keep_freshObj ?_)
    | split

theorem keep_tableFromHost {d : Dev} {k : Nat} {t : TableSt} (h0 : keptD d) : keptO (tableFromHost d k t) := by
  unfold tableFromHost
  refine keptO_mapOF ?_ ?_
  · exact kept_foldl_of h0 (fun r x h => keep_copyIn h)
  · intro p h
    refine kept_mk rfl ?_ ?_ ?_ ?_ (kept_foldl h (fun d x h => keep_heapFree h)) <;> exact fun h => h

theorem keep_refeedTable {d : Dev} {k : Nat} {pos : Nat} (h0 : keptD d) : keptD (refeedTable d k pos) := by
  unfold refeedTable
  repeat' first
    | with_reducible assumption
    | with_reducible apply keep_commitTable
    | split

theorem keep_refeed {d : Dev} {b : Barge} (h0 : keptD d) : keptD (refeed d b) := by
  unfold refeed
  repeat' first
    | with_reducible assumption
    | with_reducible apply keep_refeedTable
    | with_reducible apply keep_modBarge
    | split

theorem keep_resumeHere {d : Dev} {b0 : Barge} {p : Post} {toks : List W32} (h0 : keptD d) : keptD (resumeHere d b0 p toks) := by
  unfold resumeHere
  repeat' first
    | with_reducible assumption
    | with_reducible apply keep_refeed
    | with_reducible apply keep_setBarge
    | with_reducible apply keep_modBarge
    | with_reducible apply keep_lockSend
    | with_reducible apply keep_report
    | split

theorem keep_resumeSelf {d : Dev} {req : W64} (h0 : keptD d) : keptD (resumeSelf d req) := by
  unfold resumeSelf
  repeat' first
    | with_reducible assumption
    | with_reducible apply keep_refeed
    | with_reducible apply keep_report
    | with_reducible apply keep_modBarge
    | split

theorem keep_orderResume {d : Dev} {b : Barge} {p : Post} {toks : List W32} (h0 : keptD d) : keptD (orderResume d b p toks) := by
  unfold orderResume
  repeat' first
    | with_reducible assumption
    | with_reducible apply keep_report
    | with_reducible apply keep_tableFromHost
    | with_reducible apply keep_resumeHere
    | with_reducible apply keep_startXfer
    | with_reducible refine keptO_some (by assumption) ?_
    | split
    | dsimp only

theorem keep_orderMove {d : Dev} {b : Barge} {p : Post} (h0 : keptD d) : keptD (orderMove d b p) := by
  unfold orderMove
  repeat' first
    | with_reducible assumption
    | with_reducible apply keep_lockSend
    | with_reducible apply keep_startXfer
    | split

theorem keep_ownerOrder {d : Dev} {h : LockHdr} {desc : BitVec 512} {toks : List W32} (h0 : keptD d) : keptD (ownerOrder d h desc toks) := by
  unfold ownerOrder
  repeat' first
    | with_reducible assumption
    | with_reducible apply keep_orderMove
    | with_reducible apply keep_orderMoor
    | with_reducible apply keep_orderResume
    | with_reducible apply keep_setBarge
    | split
    | dsimp only

theorem keep_ownerLease {d : Dev} {h : LockHdr} {n : Nat} (h0 : keptD d) : keptD (ownerLease d h n) := by
  unfold ownerLease
  repeat' first
    | with_reducible assumption
    | with_reducible apply keep_setBarge
    | split

theorem keep_ownerRing {d : Dev} {h : LockHdr} {on : Bool} (h0 : keptD d) : keptD (ownerRing d h on) := by
  unfold ownerRing
  repeat' first
    | with_reducible assumption
    | with_reducible apply keep_setBarge
    | split

theorem keep_goAdrift {d : Dev} {req : W64} (h0 : keptD d) : keptD (goAdrift d req) := by
  unfold goAdrift
  repeat' first
    | with_reducible assumption
    | with_reducible intro _
    | with_reducible apply keep_report
    | with_reducible apply keep_setBarge
    | with_reducible apply keep_dstSet
    | with_reducible apply keep_lockSend
    | (with_reducible apply kept_foldl)
    | split

theorem keep_endOps {d : Dev} {req : W64} {op : Nat} {st : Status} {detail : Nat} {reason : Nat} (h0 : keptD d) : keptD (endOps d req op st detail reason) := by
  unfold endOps
  repeat' first
    | with_reducible assumption
    | with_reducible intro _
    | with_reducible apply keep_complete
    | with_reducible apply keep_setReq
    | (with_reducible apply kept_foldl)
    | split

theorem keep_originCommit {d : Dev} {h : LockHdr} {owner : Holder} {pages : Holder} (h0 : keptD d) : keptD (originCommit d h owner pages) := by
  unfold originCommit
  repeat' first
    | with_reducible assumption
    | with_reducible apply keep_setReq
    | with_reducible apply keep_toOwner
    | split

theorem keep_originDrain {d : Dev} {h : LockHdr} (h0 : keptD d) : keptD (originDrain d h) := by
  unfold originDrain
  repeat' first
    | with_reducible assumption
    | with_reducible apply keep_endOps
    | with_reducible apply keep_toOwner
    | split

theorem keep_originAbort {d : Dev} {h : LockHdr} (h0 : keptD d) : keptD (originAbort d h) := by
  unfold originAbort
  repeat' first
    | with_reducible assumption
    | with_reducible intro _
    | with_reducible apply keep_setReq
    | with_reducible apply keep_endOps
    | (with_reducible apply kept_foldl)
    | split

theorem keep_originLoss {d : Dev} {h : LockHdr} {detail : W64} (h0 : keptD d) : keptD (originLoss d h detail) := by
  unfold originLoss
  repeat' first
    | with_reducible assumption
    | with_reducible apply keep_finalReq
    | with_reducible apply keep_endAsks
    | split

theorem keep_mooringEvent {d : Dev} {req : W64} {r : ReqSt} (h0 : keptD d) : keptD (mooringEvent d req r) := by
  unfold mooringEvent
  repeat' first
    | with_reducible assumption
    | with_reducible apply keep_raiseFn

theorem keep_originRelease {d : Dev} {h : LockHdr} (h0 : keptD d) : keptD (originRelease d h) := by
  unfold originRelease
  repeat' first
    | with_reducible assumption
    | with_reducible apply keep_finalReq
    | with_reducible apply keep_endAsks
    | with_reducible apply keep_mooringEvent
    | with_reducible apply keep_setReq
    | split
    | dsimp only

theorem keep_originResolved {d : Dev} {h : LockHdr} {owner : Holder} {pages : Holder} (h0 : keptD d) : keptD (originResolved d h owner pages) := by
  unfold originResolved
  repeat' first
    | with_reducible assumption
    | with_reducible apply keep_endOps
    | with_reducible apply keep_setReq
    | split

theorem keep_originRefuse {d : Dev} {h : LockHdr} (h0 : keptD d) : keptD (originRefuse d h) := by
  unfold originRefuse
  repeat' first
    | with_reducible assumption
    | with_reducible apply keep_finalReq
    | with_reducible apply keep_endOps
    | split

theorem keep_originAdrift {d : Dev} {req : W64} {r : ReqSt} {detail : W64} {dstOwner : Option Holder} {dstPages : Option Holder} (h0 : keptD d) : keptD (originAdrift d req r detail dstOwner dstPages) := by
  unfold originAdrift
  repeat' first
    | with_reducible assumption
    | with_reducible intro _
    | with_reducible apply keep_setReq
    | with_reducible apply keep_reqNote
    | with_reducible apply keep_endOps
    | (with_reducible apply kept_foldl)
    | split

theorem keep_originReport {d : Dev} {h : LockHdr} {kind : Nat} {st : Status} {detail : W64} {dstOwner : Option Holder} {dstPages : Option Holder} (h0 : keptD d) : keptD (originReport d h kind st detail dstOwner dstPages) := by
  unfold originReport
  repeat' first
    | with_reducible assumption
    | with_reducible apply keep_originAdrift
    | with_reducible apply keep_finalReq
    | with_reducible apply keep_endAsks
    | with_reducible apply keep_setReq
    | with_reducible apply keep_endOps
    | with_reducible apply keep_reqNote
    | split

theorem keep_originOutput {d : Dev} {h : LockHdr} {recs : List OutRec} {len : Nat} {fed : Nat} (h0 : keptD d) : keptD (originOutput d h recs len fed) := by
  unfold originOutput
  repeat' first
    | with_reducible assumption
    | with_reducible apply keep_setReq
    | with_reducible apply keep_emitRecs
    | with_reducible apply keep_chargePositions
    | split

theorem keep_originLease {d : Dev} {h : LockHdr} {n : Nat} (h0 : keptD d) : keptD (originLease d h n) := by
  unfold originLease
  repeat' first
    | with_reducible assumption
    | with_reducible apply keep_setReq
    | with_reducible apply keep_grantLease
    | with_reducible apply keep_toOwner
    | with_reducible apply keep_reqNote
    | split
    | dsimp only

theorem keep_originLate {d : Dev} {h : LockHdr} (h0 : keptD d) : keptD (originLate d h) := by
  unfold originLate
  repeat' first
    | with_reducible assumption
    | with_reducible apply keep_cancelReq
    | split

theorem keep_passOn {d : Dev} {req : W64} {r : ReqSt} {p : Post} {toks : List W32} (h0 : keptD d) : keptD (passOn d req r p toks) := by
  unfold passOn
  repeat' first
    | with_reducible assumption
    | with_reducible apply keep_toOwner
    | with_reducible apply keep_setReq

theorem keep_lockMoveRule {p : Post} {d : Dev} (h1 : keptD d) : keptRes (lockMoveRule p d) := by
  unfold lockMoveRule
  repeat' first
    | with_reducible assumption
    | with_reducible apply keep_passOn
    | with_reducible apply keptRes_plain
    | with_reducible apply keptRes_later'
    | split

theorem keep_lockResolveRule {p : Post} {d : Dev} (h1 : keptD d) : keptRes (lockResolveRule p d) := by
  unfold lockResolveRule
  repeat' first
    | with_reducible assumption
    | with_reducible apply keep_lockSend
    | with_reducible apply keep_setReq
    | with_reducible apply keptRes_plain
    | with_reducible apply keptRes_later'
    | split
    | dsimp only

theorem keep_sunkQuery {p : Post} {d : Dev} (h1 : keptD d) : keptRes (sunkQuery p d) := by
  unfold sunkQuery
  repeat' first
    | with_reducible assumption
    | with_reducible apply keep_hostWrite
    | with_reducible apply keptRes_plain
    | split
    | dsimp only

theorem keep_bargeQueryRule {p : Post} {d : Dev} (h1 : keptD d) : keptRes (bargeQueryRule p d) := by
  unfold bargeQueryRule
  repeat' first
    | with_reducible assumption
    | with_reducible apply keep_sunkQuery
    | with_reducible apply keep_hostWrite
    | with_reducible apply keptRes_plain
    | split

theorem keep_bargeRehomeRule {p : Post} {d : Dev} (h1 : keptD d) : keptRes (bargeRehomeRule p d) := by
  unfold bargeRehomeRule
  repeat' first
    | with_reducible assumption
    | with_reducible apply keep_setReq
    | with_reducible apply keep_homeEnter
    | with_reducible apply keep_lockSend
    | with_reducible apply keep_toOwner
    | with_reducible apply keptRes_plain
    | with_reducible apply keptRes_done'
    | split
    | dsimp only

theorem keep_bargeReleaseRule {p : Post} {d : Dev} (h1 : keptD d) : keptRes (bargeReleaseRule p d) := by
  unfold bargeReleaseRule
  repeat' first
    | with_reducible assumption
    | with_reducible apply keep_lockSend
    | with_reducible apply keep_finalReq
    | with_reducible apply keep_endAsks
    | with_reducible apply keptRes_plain
    | split
    | dsimp only

theorem keep_requestMoorRule {p : Post} {d : Dev} (h1 : keptD d) : keptRes (requestMoorRule p d) := by
  unfold requestMoorRule
  repeat' first
    | with_reducible assumption
    | with_reducible apply keep_passOn
    | with_reducible apply keptRes_plain
    | with_reducible apply keptRes_later'
    | split

theorem keep_requestResumeRule {p : Post} {d : Dev} (h1 : keptD d) : keptRes (requestResumeRule p d) := by
  unfold requestResumeRule
  repeat' first
    | with_reducible assumption
    | with_reducible apply keep_passOn
    | with_reducible apply keptRes_plain
    | with_reducible apply keptRes_later'
    | split
    | dsimp only

theorem keep_stepProgramRule {p : Post} {d : Dev} (h1 : keptD d) : keptRes (stepProgramRule p d) := by
  unfold stepProgramRule
  repeat' first
    | with_reducible assumption
    | with_reducible apply keptRes_plain
    | (refine kept_guard ?_ ?_; (focus (simp only [isMk_mk]; done)); with_reducible refine kept_mk rfl (fun h => h) (fun h => h) (fun h => h) (fun h => h) ?_)
    | split
    | dsimp only

theorem keep_execStepProgram {p : Post} {s : State} (h1 : keptD s.dev) : keptOut (execStepProgram p s) := by
  unfold execStepProgram
  repeat' first
    | with_reducible assumption
    | with_reducible intro _
    | with_reducible apply keep_answer
    | with_reducible apply keep_perform
    | with_reducible apply keep_stepProgramRule

theorem keep_sendLate {d : Dev} {b : Barge} (h0 : keptD d) : keptD (sendLate d b) := by
  unfold sendLate
  repeat' first
    | with_reducible assumption
    | with_reducible apply keep_lockSend

theorem keep_dropAct {d : Dev} {b : Barge} {detail : Nat} (h0 : keptD d) : keptD (dropAct d b detail) := by
  unfold dropAct
  repeat' first
    | with_reducible assumption
    | with_reducible apply keep_resumeSelf
    | with_reducible apply keep_setBarge
    | with_reducible apply keep_moorHere
    | with_reducible apply keep_report
    | split

theorem keep_setAside {d : Dev} {b : Barge} {len : Nat} (h0 : keptD d) : keptO (setAside d b len) := by
  unfold setAside
  repeat' first
    | with_reducible assumption
    | with_reducible apply keep_holdObjs
    | with_reducible apply keptO_none
    | with_reducible apply keptO_intro
    | with_reducible refine keptS_mk (by assumption) ?_
    | (refine kept_guard ?_ ?_; (focus (simp only [isMk_mk]; done)); with_reducible refine kept_mk rfl (fun h => h) (fun h => h) (fun h => h) (fun h => h) ?_)
    | split
    | dsimp only

theorem keep_askLease {d : Dev} {b : Barge} (h0 : keptD d) : keptD (askLease d b) := by
  unfold askLease
  repeat' first
    | with_reducible assumption
    | with_reducible apply keep_lockSend
    | with_reducible apply keep_setBarge
    | split

theorem keep_holdFrame {d : Dev} {b : Barge} (h0 : keptD d) : keptD (holdFrame d b) := by
  unfold holdFrame
  repeat' first
    | with_reducible assumption
    | with_reducible apply keep_setBarge
    | with_reducible apply keep_report
    | split

theorem keep_joinStep {d : Dev} {decode : Bool} {hasEmit : Bool} {chunk : Nat} {room : Nat} {b0 : Barge} (h0 : keptD d) : keptF (joinStep d decode hasEmit chunk room b0) := by
  unfold joinStep
  repeat' first
    | with_reducible assumption
    | with_reducible apply keep_sendLate
    | with_reducible apply keep_setBarge
    | with_reducible apply keep_dropAct
    | with_reducible apply keep_askLease
    | with_reducible apply keep_setAside
    | with_reducible apply keep_holdFrame
    | with_reducible refine keptO_some (by assumption) ?_
    | split
    | with_reducible apply keptF_intro

theorem keep_fillStep {decode : Bool} {hasEmit : Bool} {dst : Bool} {pr : Program} {y4 : List Barge} {y5 : Dev} {y6 : Nat} {y7 : Nat} {y8 : List StepRow} (h5 : keptD y5) : keptF (fillStep decode hasEmit dst pr y4 y5 y6 y7 y8) := by
  induction y4 generalizing y5 y6 y7 y8 with
  | nil =>
    unfold fillStep
    repeat' first
      | with_reducible assumption
      | with_reducible apply keptF_intro
  | cons e l ih =>
    unfold fillStep
    repeat' first
      | with_reducible assumption
      | with_reducible refine keptF_fst (ih ?_)
      | with_reducible apply keep_joinStep
      | with_reducible refine keptF_mk (by assumption) ?_
      | split
      | with_reducible apply keptF_intro

theorem keep_stepAdmit {d : Dev} {part : PartId} (h0 : keptD d) : keptD (stepAdmit d part) := by
  unfold stepAdmit
  repeat' first
    | with_reducible assumption
    | with_reducible refine keptF_fst (keep_fillStep ?_)
    | (refine kept_guard ?_ ?_; (focus (simp only [isMk_mk]; done)); (with_reducible refine kept_mk rfl ?_ ?_ ?_ ?_ ?_); (focus ((intro hw; repeat' (first | with_reducible exact hw | with_reducible assumption | with_reducible apply wf_memWrite | with_reducible apply wf_memPut | with_reducible apply wf_memZeroRange | with_reducible exact wf_nil | (with_reducible apply wf_foldl; intro _ _ _))); done)); (focus ((intro hw; repeat' (first | with_reducible exact hw | with_reducible assumption | with_reducible apply wf_memWrite | with_reducible apply wf_memPut | with_reducible apply wf_memZeroRange | with_reducible exact wf_nil | (with_reducible apply wf_foldl; intro _ _ _))); done)); (focus ((intro hw; repeat' (first | with_reducible exact hw | with_reducible assumption | with_reducible apply wf_memWrite | with_reducible apply wf_memPut | with_reducible apply wf_memZeroRange | with_reducible exact wf_nil | (with_reducible apply wf_foldl; intro _ _ _))); done)); (focus ((intro hw; repeat' (first | with_reducible exact hw | with_reducible assumption | with_reducible apply wf_memWrite | with_reducible apply wf_memPut | with_reducible apply wf_memZeroRange | with_reducible exact wf_nil | (with_reducible apply wf_foldl; intro _ _ _))); done)))
    | split
    | dsimp only

theorem keep_delivered {d : Dev} {req : W64} (h0 : keptD d) : keptD (delivered d req) := by
  unfold delivered
  repeat' first
    | with_reducible assumption
    | with_reducible apply keep_setBarge
    | with_reducible apply keep_lockSend
    | with_reducible apply keep_releaseBarge
    | with_reducible apply keep_moorHere
    | with_reducible apply keep_sendLate
    | with_reducible apply keep_doSeal
    | with_reducible apply keep_moorNow
    | with_reducible apply keep_firstXfer
    | (refine kept_guard ?_ ?_; (focus (simp only [isMk_mk]; done)); (with_reducible refine kept_mk rfl ?_ ?_ ?_ ?_ ?_); (focus ((intro hw; repeat' (first | with_reducible exact hw | with_reducible assumption | with_reducible apply wf_memWrite | with_reducible apply wf_memPut | with_reducible apply wf_memZeroRange | with_reducible exact wf_nil | (with_reducible apply wf_foldl; intro _ _ _))); done)); (focus ((intro hw; repeat' (first | with_reducible exact hw | with_reducible assumption | with_reducible apply wf_memWrite | with_reducible apply wf_memPut | with_reducible apply wf_memZeroRange | with_reducible exact wf_nil | (with_reducible apply wf_foldl; intro _ _ _))); done)); (focus ((intro hw; repeat' (first | with_reducible exact hw | with_reducible assumption | with_reducible apply wf_memWrite | with_reducible apply wf_memPut | with_reducible apply wf_memZeroRange | with_reducible exact wf_nil | (with_reducible apply wf_foldl; intro _ _ _))); done)); (focus ((intro hw; repeat' (first | with_reducible exact hw | with_reducible assumption | with_reducible apply wf_memWrite | with_reducible apply wf_memPut | with_reducible apply wf_memZeroRange | with_reducible exact wf_nil | (with_reducible apply wf_foldl; intro _ _ _))); done)))
    | split
    | dsimp only

theorem keep_ownerAck {d : Dev} {h : LockHdr} {len : Nat} (h0 : keptD d) : keptD (ownerAck d h len) := by
  unfold ownerAck
  repeat' first
    | with_reducible assumption
    | with_reducible apply keep_setBarge
    | with_reducible apply keep_delivered
    | split

theorem keep_ackTimeout {d : Dev} {req : W64} (h0 : keptD d) : keptD (ackTimeout d req) := by
  unfold ackTimeout
  repeat' first
    | with_reducible assumption
    | with_reducible apply keep_delivered
    | with_reducible apply keep_setBarge
    | split

theorem keep_endRow {d : Dev} {b : Barge} (h0 : keptD d) : keptD (endRow d b) := by
  unfold endRow
  repeat' first
    | with_reducible assumption
    | with_reducible apply keep_dropRsv
    | split

theorem keep_growState {d : Dev} {b : Barge} (h0 : keptD d) : keptD (growState d b) := by
  unfold growState
  repeat' first
    | with_reducible assumption
    | with_reducible intro _
    | with_reducible apply keep_holdObjs
    | with_reducible apply keep_setBarge
    | with_reducible apply keep_heapFree
    | with_reducible refine keptS_mk (by assumption) ?_
    | (with_reducible apply kept_foldl)
    | split
    | dsimp only

theorem keep_commitRow {d0 : Dev} {part : Nat} {y : StepSt} {r : StepRow} {lastIx : Nat} {off : Nat} (h0 : keptD d0) : keptD (commitRow d0 part y r lastIx off) := by
  unfold commitRow
  repeat' first
    | with_reducible assumption
    | with_reducible apply keep_endRow
    | with_reducible apply keep_setBarge
    | with_reducible apply keep_lockSend
    | with_reducible apply keep_delivered
    | with_reducible apply keep_releaseBarge
    | with_reducible apply keep_growState
    | split
    | dsimp only

theorem keep_failRow {d0 : Dev} {rows : List StepRow} {st : Status} {detail : Nat} {r : StepRow} (h0 : keptD d0) : keptD (failRow d0 rows st detail r) := by
  unfold failRow
  repeat' first
    | with_reducible assumption
    | with_reducible apply keep_setBarge
    | with_reducible apply keep_endRow
    | with_reducible apply keep_doSeal
    | with_reducible apply keep_releaseBarge
    | with_reducible apply keep_dropAct
    | with_reducible apply keep_holdFrame
    | with_reducible apply keep_report
    | with_reducible apply keep_resumeSelf
    | with_reducible apply keep_moorHere
    | (refine kept_guard ?_ ?_; (focus (simp only [isMk_mk]; done)); (with_reducible refine kept_mk rfl ?_ ?_ ?_ ?_ ?_); (focus ((intro hw; repeat' (first | with_reducible exact hw | with_reducible assumption | with_reducible apply wf_memWrite | with_reducible apply wf_memPut | with_reducible apply wf_memZeroRange | with_reducible exact wf_nil | (with_reducible apply wf_foldl; intro _ _ _))); done)); (focus ((intro hw; repeat' (first | with_reducible exact hw | with_reducible assumption | with_reducible apply wf_memWrite | with_reducible apply wf_memPut | with_reducible apply wf_memZeroRange | with_reducible exact wf_nil | (with_reducible apply wf_foldl; intro _ _ _))); done)); (focus ((intro hw; repeat' (first | with_reducible exact hw | with_reducible assumption | with_reducible apply wf_memWrite | with_reducible apply wf_memPut | with_reducible apply wf_memZeroRange | with_reducible exact wf_nil | (with_reducible apply wf_foldl; intro _ _ _))); done)); (focus ((intro hw; repeat' (first | with_reducible exact hw | with_reducible assumption | with_reducible apply wf_memWrite | with_reducible apply wf_memPut | with_reducible apply wf_memZeroRange | with_reducible exact wf_nil | (with_reducible apply wf_foldl; intro _ _ _))); done)))
    | split
    | dsimp only

theorem keep_joinAnswer {d : Dev} (h0 : keptD d) : keptD (joinAnswer d) := by
  unfold joinAnswer
  repeat' first
    | with_reducible assumption
    | with_reducible intro _
    | with_reducible apply keep_send
    | (with_reducible apply kept_foldl)
    | (refine kept_guard ?_ ?_; (focus (simp only [isMk_mk]; done)); (with_reducible refine kept_mk rfl ?_ ?_ ?_ ?_ ?_); (focus ((intro hw; repeat' (first | with_reducible exact hw | with_reducible assumption | with_reducible apply wf_memWrite | with_reducible apply wf_memPut | with_reducible apply wf_memZeroRange | with_reducible exact wf_nil | (with_reducible apply wf_foldl; intro _ _ _))); done)); (focus ((intro hw; repeat' (first | with_reducible exact hw | with_reducible assumption | with_reducible apply wf_memWrite | with_reducible apply wf_memPut | with_reducible apply wf_memZeroRange | with_reducible exact wf_nil | (with_reducible apply wf_foldl; intro _ _ _))); done)); (focus ((intro hw; repeat' (first | with_reducible exact hw | with_reducible assumption | with_reducible apply wf_memWrite | with_reducible apply wf_memPut | with_reducible apply wf_memZeroRange | with_reducible exact wf_nil | (with_reducible apply wf_foldl; intro _ _ _))); done)); (focus ((intro hw; repeat' (first | with_reducible exact hw | with_reducible assumption | with_reducible apply wf_memWrite | with_reducible apply wf_memPut | with_reducible apply wf_memZeroRange | with_reducible exact wf_nil | (with_reducible apply wf_foldl; intro _ _ _))); done)))
    | split

theorem keep_stepFinish {d : Dev} {part : PartId} (h0 : keptD d) : keptD (stepFinish d part) := by
  unfold stepFinish
  repeat' first
    | with_reducible assumption
    | with_reducible intro _
    | with_reducible apply keep_failRow
    | with_reducible apply keep_commitRow
    | with_reducible apply keep_joinAnswer
    | (with_reducible apply kept_foldl)
    | (refine kept_guard ?_ ?_; (focus (simp only [isMk_mk]; done)); (with_reducible refine kept_mk rfl ?_ ?_ ?_ ?_ ?_); (focus ((intro hw; repeat' (first | with_reducible exact hw | with_reducible assumption | with_reducible apply wf_memWrite | with_reducible apply wf_memPut | with_reducible apply wf_memZeroRange | with_reducible exact wf_nil | (with_reducible apply wf_foldl; intro _ _ _))); done)); (focus ((intro hw; repeat' (first | with_reducible exact hw | with_reducible assumption | with_reducible apply wf_memWrite | with_reducible apply wf_memPut | with_reducible apply wf_memZeroRange | with_reducible exact wf_nil | (with_reducible apply wf_foldl; intro _ _ _))); done)); (focus ((intro hw; repeat' (first | with_reducible exact hw | with_reducible assumption | with_reducible apply wf_memWrite | with_reducible apply wf_memPut | with_reducible apply wf_memZeroRange | with_reducible exact wf_nil | (with_reducible apply wf_foldl; intro _ _ _))); done)); (focus ((intro hw; repeat' (first | with_reducible exact hw | with_reducible assumption | with_reducible apply wf_memWrite | with_reducible apply wf_memPut | with_reducible apply wf_memZeroRange | with_reducible exact wf_nil | (with_reducible apply wf_foldl; intro _ _ _))); done)))
    | split
    | dsimp only

theorem keep_deadlineAct {d : Dev} {req : W64} (h0 : keptD d) : keptD (deadlineAct d req) := by
  unfold deadlineAct
  repeat' first
    | with_reducible assumption
    | with_reducible apply keep_setBarge
    | with_reducible apply keep_sendLate
    | with_reducible apply keep_cancelReq
    | split
    | dsimp only

theorem keep_mooringEnd {d : Dev} {req : W64} (h0 : keptD d) : keptD (mooringEnd d req) := by
  unfold mooringEnd
  repeat' first
    | with_reducible assumption
    | with_reducible apply keep_releaseBarge
    | with_reducible apply keep_setBarge
    | split

theorem keep_orphanPages {d : Dev} {req : W64} {pages : Holder} (h0 : keptD d) : keptD (orphanPages d req pages) := by
  unfold orphanPages
  repeat' first
    | with_reducible assumption
    | with_reducible intro _
    | with_reducible apply keep_destroyTable
    | (with_reducible apply kept_foldl)
    | split

theorem keep_commitIn {d : Dev} {h : LockHdr} {owner : Holder} {pages : Holder} {handle : W64} (h0 : keptD d) : keptD (commitIn d h owner pages handle) := by
  unfold commitIn
  repeat' first
    | with_reducible assumption
    | with_reducible apply keep_orphanPages
    | with_reducible apply keep_pageCommit
    | with_reducible apply keep_srcCommitIn
    | with_reducible apply keep_originCommit
    | with_reducible apply keep_dstCommit
    | with_reducible apply keep_moorArrive
    | split
    | dsimp only

theorem keep_abortIn {d : Dev} {h : LockHdr} (h0 : keptD d) : keptD (abortIn d h) := by
  unfold abortIn
  repeat' first
    | with_reducible assumption
    | with_reducible apply keep_originAbort
    | with_reducible apply keep_homeAbortIn
    | with_reducible apply keep_dstAbort
    | with_reducible apply keep_pageAbort
    | with_reducible apply keep_afterFirst
    | with_reducible apply keep_srcAbortIn

theorem keep_replyIn {d : Dev} {h : LockHdr} {a : HomeAnswer} (h0 : keptD d) : keptD (replyIn d h a) := by
  unfold replyIn
  repeat' first
    | with_reducible assumption
    | with_reducible apply keep_pageReply
    | with_reducible apply keep_afterFirst
    | with_reducible apply keep_srcReply
    | with_reducible apply keep_askAnswer
    | with_reducible apply keep_dstReply
    | with_reducible apply keep_moorArrive
    | split
    | dsimp only

theorem keep_sealIn {d : Dev} {h : LockHdr} {counts : List Nat} {digest : BitVec 256} (h0 : keptD d) : keptD (sealIn d h counts digest) := by
  unfold sealIn
  repeat' first
    | with_reducible assumption
    | with_reducible apply keep_homeSeal
    | with_reducible apply keep_dstSeal
    | with_reducible apply keep_pageSeal
    | split

theorem keep_releaseIn {d : Dev} {h : LockHdr} (h0 : keptD d) : keptD (releaseIn d h) := by
  unfold releaseIn
  repeat' first
    | with_reducible assumption
    | with_reducible apply keep_homeRelease
    | with_reducible apply keep_originRelease
    | with_reducible apply keep_discardHere
    | split

theorem keep_cancelIn {d : Dev} {h : LockHdr} (h0 : keptD d) : keptD (cancelIn d h) := by
  unfold cancelIn
  repeat' first
    | with_reducible assumption
    | with_reducible apply keep_originLate
    | with_reducible apply keep_homeCancel
    | with_reducible apply keep_ownerCancel
    | split

theorem keep_lockIn {d : Dev} {h : LockHdr} {y2 : LockMsg} (h0 : keptD d) : keptD (lockIn d h y2) := by
  unfold lockIn
  repeat' first
    | with_reducible assumption
    | with_reducible apply keep_pageOpen
    | with_reducible apply keep_dstOpen
    | with_reducible apply keep_homeFillOpen
    | with_reducible apply keep_pageReady
    | with_reducible apply keep_srcReady
    | with_reducible apply keep_dstData
    | with_reducible apply keep_sealIn
    | with_reducible apply keep_homeAccept
    | with_reducible apply keep_originRefuse
    | with_reducible apply keep_srcRefuse
    | with_reducible apply keep_homeRefuse
    | with_reducible apply keep_commitIn
    | with_reducible apply keep_abortIn
    | with_reducible apply keep_originDrain
    | with_reducible apply keep_homeDrainIn
    | with_reducible apply keep_homeQueryIn
    | with_reducible apply keep_replyIn
    | with_reducible apply keep_homeResolve
    | with_reducible apply keep_originResolved
    | with_reducible apply keep_dstResolved
    | with_reducible apply keep_srcResolved
    | with_reducible apply keep_releaseIn
    | with_reducible apply keep_originLoss
    | with_reducible apply keep_homeToken
    | with_reducible apply keep_ownerAck
    | with_reducible apply keep_originOutput
    | with_reducible apply keep_originLease
    | with_reducible apply keep_ownerLease
    | with_reducible apply keep_ownerRing
    | with_reducible apply keep_cancelIn
    | with_reducible apply keep_originReport
    | with_reducible apply keep_homeEntryIn
    | with_reducible apply keep_ownerOrder
    | with_reducible apply keep_homeMore
    | split

theorem keep_settle {y0 : Nat} {y1 : Dev} (h1 : keptD y1) : keptD (settle y0 y1) := by
  induction y0 generalizing y1 with
  | zero =>
    unfold settle
    repeat' first
      | with_reducible assumption
  | succ k ih =>
    unfold settle
    repeat' first
      | with_reducible assumption
      | with_reducible apply ih
      | with_reducible apply keep_lockIn
      | (refine kept_guard ?_ ?_; (focus (simp only [isMk_mk]; done)); (with_reducible refine kept_mk rfl ?_ ?_ ?_ ?_ ?_); (focus ((intro hw; repeat' (first | with_reducible exact hw | with_reducible assumption | with_reducible apply wf_memWrite | with_reducible apply wf_memPut | with_reducible apply wf_memZeroRange | with_reducible exact wf_nil | (with_reducible apply wf_foldl; intro _ _ _))); done)); (focus ((intro hw; repeat' (first | with_reducible exact hw | with_reducible assumption | with_reducible apply wf_memWrite | with_reducible apply wf_memPut | with_reducible apply wf_memZeroRange | with_reducible exact wf_nil | (with_reducible apply wf_foldl; intro _ _ _))); done)); (focus ((intro hw; repeat' (first | with_reducible exact hw | with_reducible assumption | with_reducible apply wf_memWrite | with_reducible apply wf_memPut | with_reducible apply wf_memZeroRange | with_reducible exact wf_nil | (with_reducible apply wf_foldl; intro _ _ _))); done)); (focus ((intro hw; repeat' (first | with_reducible exact hw | with_reducible assumption | with_reducible apply wf_memWrite | with_reducible apply wf_memPut | with_reducible apply wf_memZeroRange | with_reducible exact wf_nil | (with_reducible apply wf_foldl; intro _ _ _))); done)))
      | split

theorem keep_lockAnswer {s : State} {d : Dev} (h0 : keptD s.dev) (h1 : keptD d) : keptOut (lockAnswer s d) := by
  unfold lockAnswer
  repeat' first
    | with_reducible assumption
    | with_reducible apply keep_answer
    | with_reducible apply keep_settle
    | split

theorem keep_execFillOpen {h : LockHdr} {pay : FillOpenPay} {s : State} (h2 : keptD s.dev) : keptOut (execFillOpen h pay s) := by
  unfold execFillOpen
  repeat' first
    | with_reducible assumption
    | with_reducible apply keep_lockAnswer
    | with_reducible apply keep_lockIn

theorem keep_execReady {h : LockHdr} {s : State} (h1 : keptD s.dev) : keptOut (execReady h s) := by
  unfold execReady
  repeat' first
    | with_reducible assumption
    | with_reducible apply keep_lockAnswer
    | with_reducible apply keep_lockIn

theorem keep_execFillData {h : LockHdr} {sec : SecNo} {chunk : Nat} {content : FillSec} {s : State} (h4 : keptD s.dev) : keptOut (execFillData h sec chunk content s) := by
  unfold execFillData
  repeat' first
    | with_reducible assumption
    | with_reducible apply keep_lockAnswer
    | with_reducible apply keep_lockIn

theorem keep_execSeal {h : LockHdr} {chunks : List Nat} {digest : BitVec 256} {s : State} (h3 : keptD s.dev) : keptOut (execSeal h chunks digest s) := by
  unfold execSeal
  repeat' first
    | with_reducible assumption
    | with_reducible apply keep_lockAnswer
    | with_reducible apply keep_lockIn

theorem keep_execAccept {h : LockHdr} {handle : W64} {s : State} (h2 : keptD s.dev) : keptOut (execAccept h handle s) := by
  unfold execAccept
  repeat' first
    | with_reducible assumption
    | with_reducible apply keep_lockAnswer
    | with_reducible apply keep_lockIn

theorem keep_execRefuse {h : LockHdr} {s : State} (h1 : keptD s.dev) : keptOut (execRefuse h s) := by
  unfold execRefuse
  repeat' first
    | with_reducible assumption
    | with_reducible apply keep_lockAnswer
    | with_reducible apply keep_lockIn

theorem keep_execCommit {h : LockHdr} {owner : Holder} {pages : Holder} {handle : W64} {s : State} (h4 : keptD s.dev) : keptOut (execCommit h owner pages handle s) := by
  unfold execCommit
  repeat' first
    | with_reducible assumption
    | with_reducible apply keep_lockAnswer
    | with_reducible apply keep_lockIn

theorem keep_execAbort {h : LockHdr} {s : State} (h1 : keptD s.dev) : keptOut (execAbort h s) := by
  unfold execAbort
  repeat' first
    | with_reducible assumption
    | with_reducible apply keep_lockAnswer
    | with_reducible apply keep_lockIn

theorem keep_execDrainDone {h : LockHdr} {s : State} (h1 : keptD s.dev) : keptOut (execDrainDone h s) := by
  unfold execDrainDone
  repeat' first
    | with_reducible assumption
    | with_reducible apply keep_lockAnswer
    | with_reducible apply keep_lockIn

theorem keep_execHomeQuery {h : LockHdr} {s : State} (h1 : keptD s.dev) : keptOut (execHomeQuery h s) := by
  unfold execHomeQuery
  repeat' first
    | with_reducible assumption
    | with_reducible apply keep_lockAnswer
    | with_reducible apply keep_lockIn

theorem keep_execHomeReply {h : LockHdr} {a : HomeAnswer} {s : State} (h2 : keptD s.dev) : keptOut (execHomeReply h a s) := by
  unfold execHomeReply
  repeat' first
    | with_reducible assumption
    | with_reducible apply keep_lockAnswer
    | with_reducible apply keep_lockIn

theorem keep_execResolve {h : LockHdr} {dest : Bool} {owner : Holder} {pages : Holder} {parties : List (BitVec 14)} {s : State} (h5 : keptD s.dev) : keptOut (execResolve h dest owner pages parties s) := by
  unfold execResolve
  repeat' first
    | with_reducible assumption
    | with_reducible apply keep_lockAnswer
    | with_reducible apply keep_lockIn

theorem keep_execResolved {h : LockHdr} {owner : Holder} {pages : Holder} {s : State} (h3 : keptD s.dev) : keptOut (execResolved h owner pages s) := by
  unfold execResolved
  repeat' first
    | with_reducible assumption
    | with_reducible apply keep_lockAnswer
    | with_reducible apply keep_lockIn

theorem keep_execRelease {h : LockHdr} {s : State} (h1 : keptD s.dev) : keptOut (execRelease h s) := by
  unfold execRelease
  repeat' first
    | with_reducible assumption
    | with_reducible apply keep_lockAnswer
    | with_reducible apply keep_lockIn

theorem keep_execLoss {h : LockHdr} {detail : W64} {s : State} (h2 : keptD s.dev) : keptOut (execLoss h detail s) := by
  unfold execLoss
  repeat' first
    | with_reducible assumption
    | with_reducible apply keep_lockAnswer
    | with_reducible apply keep_lockIn

theorem keep_execToken {h : LockHdr} {position : Nat} {tokens : List W32} {s : State} (h3 : keptD s.dev) : keptOut (execToken h position tokens s) := by
  unfold execToken
  repeat' first
    | with_reducible assumption
    | with_reducible apply keep_lockAnswer
    | with_reducible apply keep_lockIn

theorem keep_execTokenAck {h : LockHdr} {historyLen : Nat} {s : State} (h2 : keptD s.dev) : keptOut (execTokenAck h historyLen s) := by
  unfold execTokenAck
  repeat' first
    | with_reducible assumption
    | with_reducible apply keep_lockAnswer
    | with_reducible apply keep_lockIn

theorem keep_fillRound {d : Dev} {req : W64} (h0 : keptD d) : keptD (fillRound d req) := by
  unfold fillRound
  repeat' first
    | with_reducible assumption
    | with_reducible apply keep_roundEnd
    | with_reducible apply keep_pageStream
    | split

theorem keep_execFillRoundEnd {request : W64} {s : State} (h1 : keptD s.dev) : keptOut (execFillRoundEnd request s) := by
  unfold execFillRoundEnd
  repeat' first
    | with_reducible assumption
    | with_reducible apply keep_lockAnswer
    | with_reducible apply keep_fillRound

theorem keep_execTokenAckTimeout {request : W64} {s : State} (h1 : keptD s.dev) : keptOut (execTokenAckTimeout request s) := by
  unfold execTokenAckTimeout
  repeat' first
    | with_reducible assumption
    | with_reducible apply keep_lockAnswer
    | with_reducible apply keep_ackTimeout

theorem keep_execGateTimerExpiry {request : W64} {s : State} (h1 : keptD s.dev) : keptOut (execGateTimerExpiry request s) := by
  unfold execGateTimerExpiry
  repeat' first
    | with_reducible assumption
    | with_reducible apply keep_lockAnswer
    | with_reducible apply keep_gateExpiry

theorem keep_readyTimeout {d : Dev} {req : W64} (h0 : keptD d) : keptD (readyTimeout d req) := by
  unfold readyTimeout
  repeat' first
    | with_reducible assumption
    | with_reducible apply keep_afterFirst
    | with_reducible apply keep_srcAbort
    | split

theorem keep_execFillReadyTimeout {request : W64} {s : State} (h1 : keptD s.dev) : keptOut (execFillReadyTimeout request s) := by
  unfold execFillReadyTimeout
  repeat' first
    | with_reducible assumption
    | with_reducible apply keep_lockAnswer
    | with_reducible apply keep_readyTimeout

theorem keep_execPartyQueryTimeout {request : W64} {s : State} (h1 : keptD s.dev) : keptOut (execPartyQueryTimeout request s) := by
  unfold execPartyQueryTimeout
  repeat' first
    | with_reducible assumption
    | with_reducible apply keep_lockAnswer
    | with_reducible apply keep_dstQuery
    | with_reducible apply keep_srcQuery

theorem keep_execDrainResendTimeout {request : W64} {s : State} (h1 : keptD s.dev) : keptOut (execDrainResendTimeout request s) := by
  unfold execDrainResendTimeout
  repeat' first
    | with_reducible assumption
    | with_reducible apply keep_lockAnswer
    | with_reducible apply keep_drainResend

theorem keep_replyTimeout {d : Dev} {req : W64} (h0 : keptD d) : keptD (replyTimeout d req) := by
  unfold replyTimeout
  repeat' first
    | with_reducible assumption
    | with_reducible apply keep_finalReq
    | with_reducible apply keep_endOps
    | with_reducible apply keep_goAdrift
    | split

theorem keep_execQueryReplyTimeout {request : W64} {s : State} (h1 : keptD s.dev) : keptOut (execQueryReplyTimeout request s) := by
  unfold execQueryReplyTimeout
  repeat' first
    | with_reducible assumption
    | with_reducible apply keep_lockAnswer
    | with_reducible apply keep_replyTimeout

theorem keep_execLockMove {p : Post} {s : State} (h1 : keptD s.dev) : keptOut (execLockMove p s) := by
  unfold execLockMove
  repeat' first
    | with_reducible assumption
    | with_reducible intro _
    | with_reducible apply keep_lockAnswer
    | with_reducible apply keep_perform
    | with_reducible apply keep_lockMoveRule

theorem keep_execLockResolve {p : Post} {s : State} (h1 : keptD s.dev) : keptOut (execLockResolve p s) := by
  unfold execLockResolve
  repeat' first
    | with_reducible assumption
    | with_reducible intro _
    | with_reducible apply keep_lockAnswer
    | with_reducible apply keep_perform
    | with_reducible apply keep_lockResolveRule

theorem keep_execBargeQuery {p : Post} {s : State} (h1 : keptD s.dev) : keptOut (execBargeQuery p s) := by
  unfold execBargeQuery
  repeat' first
    | with_reducible assumption
    | with_reducible intro _
    | with_reducible apply keep_lockAnswer
    | with_reducible apply keep_perform
    | with_reducible apply keep_bargeQueryRule

theorem keep_execBargeRehome {p : Post} {s : State} (h1 : keptD s.dev) : keptOut (execBargeRehome p s) := by
  unfold execBargeRehome
  repeat' first
    | with_reducible assumption
    | with_reducible intro _
    | with_reducible apply keep_lockAnswer
    | with_reducible apply keep_perform
    | with_reducible apply keep_bargeRehomeRule

theorem keep_execBargeRelease {p : Post} {s : State} (h1 : keptD s.dev) : keptOut (execBargeRelease p s) := by
  unfold execBargeRelease
  repeat' first
    | with_reducible assumption
    | with_reducible intro _
    | with_reducible apply keep_lockAnswer
    | with_reducible apply keep_perform
    | with_reducible apply keep_bargeReleaseRule

theorem keep_execRequestSubmit {p : Post} {s : State} (h1 : keptD s.dev) : keptOut (execRequestSubmit p s) := by
  unfold execRequestSubmit
  repeat' first
    | with_reducible assumption
    | with_reducible intro _
    | with_reducible apply keep_lockAnswer
    | with_reducible apply keep_perform
    | with_reducible apply keep_requestSubmitRule

theorem keep_admitRetry {d : Dev} {fn : Fn} {req : W64} (h0 : keptD d) : keptD (admitRetry d fn req) := by
  unfold admitRetry
  repeat' first
    | with_reducible assumption
    | with_reducible apply keep_tryAdmit
    | split

theorem keep_execRequestAdmitRetry {fn : Fn} {request : W64} {s : State} (h2 : keptD s.dev) : keptOut (execRequestAdmitRetry fn request s) := by
  unfold execRequestAdmitRetry
  repeat' first
    | with_reducible assumption
    | with_reducible apply keep_lockAnswer
    | with_reducible apply keep_admitRetry

theorem keep_execRequestCancel {p : Post} {s : State} (h1 : keptD s.dev) : keptOut (execRequestCancel p s) := by
  unfold execRequestCancel
  repeat' first
    | with_reducible assumption
    | with_reducible intro _
    | with_reducible apply keep_lockAnswer
    | with_reducible apply keep_perform
    | with_reducible apply keep_requestCancelRule

theorem keep_cancelWrite {d : Dev} {f : Fn} {v : W64} (h0 : keptD d) : keptD (cancelWrite d f v) := by
  unfold cancelWrite
  repeat' first
    | with_reducible assumption
    | with_reducible apply keep_cancelReq
    | (refine kept_guard ?_ ?_; (focus (simp only [isMk_mk]; done)); (with_reducible refine kept_mk rfl ?_ ?_ ?_ ?_ ?_); (focus ((intro hw; repeat' (first | with_reducible exact hw | with_reducible assumption | with_reducible apply wf_memWrite | with_reducible apply wf_memPut | with_reducible apply wf_memZeroRange | with_reducible exact wf_nil | (with_reducible apply wf_foldl; intro _ _ _))); done)); (focus ((intro hw; repeat' (first | with_reducible exact hw | with_reducible assumption | with_reducible apply wf_memWrite | with_reducible apply wf_memPut | with_reducible apply wf_memZeroRange | with_reducible exact wf_nil | (with_reducible apply wf_foldl; intro _ _ _))); done)); (focus ((intro hw; repeat' (first | with_reducible exact hw | with_reducible assumption | with_reducible apply wf_memWrite | with_reducible apply wf_memPut | with_reducible apply wf_memZeroRange | with_reducible exact wf_nil | (with_reducible apply wf_foldl; intro _ _ _))); done)); (focus ((intro hw; repeat' (first | with_reducible exact hw | with_reducible assumption | with_reducible apply wf_memWrite | with_reducible apply wf_memPut | with_reducible apply wf_memZeroRange | with_reducible exact wf_nil | (with_reducible apply wf_foldl; intro _ _ _))); done)))
    | split

theorem keep_execCancelDoorbell {fn : Fn} {value : W64} {s : State} (h2 : keptD s.dev) : keptOut (execCancelDoorbell fn value s) := by
  unfold execCancelDoorbell
  repeat' first
    | with_reducible assumption
    | with_reducible apply keep_lockAnswer
    | with_reducible apply keep_cancelWrite

theorem keep_execRequestMoor {p : Post} {s : State} (h1 : keptD s.dev) : keptOut (execRequestMoor p s) := by
  unfold execRequestMoor
  repeat' first
    | with_reducible assumption
    | with_reducible intro _
    | with_reducible apply keep_lockAnswer
    | with_reducible apply keep_perform
    | with_reducible apply keep_requestMoorRule

theorem keep_execRequestResume {p : Post} {s : State} (h1 : keptD s.dev) : keptOut (execRequestResume p s) := by
  unfold execRequestResume
  repeat' first
    | with_reducible assumption
    | with_reducible intro _
    | with_reducible apply keep_lockAnswer
    | with_reducible apply keep_perform
    | with_reducible apply keep_requestResumeRule

theorem keep_execBudgetSet {p : Post} {s : State} (h1 : keptD s.dev) : keptOut (execBudgetSet p s) := by
  unfold execBudgetSet
  repeat' first
    | with_reducible assumption
    | with_reducible intro _
    | with_reducible apply keep_lockAnswer
    | with_reducible apply keep_perform
    | with_reducible apply keep_budgetSetRule

theorem keep_windowStart {d : Dev} {fn : Fn} (h0 : keptD d) : keptD (windowStart d fn) := by
  unfold windowStart
  repeat' first
    | with_reducible assumption
    | with_reducible apply keep_grantLeases
    | (refine kept_guard ?_ ?_; (focus (simp only [isMk_mk]; done)); (with_reducible refine kept_mk rfl ?_ ?_ ?_ ?_ ?_); (focus ((intro hw; repeat' (first | with_reducible exact hw | with_reducible assumption | with_reducible apply wf_memWrite | with_reducible apply wf_memPut | with_reducible apply wf_memZeroRange | with_reducible exact wf_nil | (with_reducible apply wf_foldl; intro _ _ _))); done)); (focus ((intro hw; repeat' (first | with_reducible exact hw | with_reducible assumption | with_reducible apply wf_memWrite | with_reducible apply wf_memPut | with_reducible apply wf_memZeroRange | with_reducible exact wf_nil | (with_reducible apply wf_foldl; intro _ _ _))); done)); (focus ((intro hw; repeat' (first | with_reducible exact hw | with_reducible assumption | with_reducible apply wf_memWrite | with_reducible apply wf_memPut | with_reducible apply wf_memZeroRange | with_reducible exact wf_nil | (with_reducible apply wf_foldl; intro _ _ _))); done)); (focus ((intro hw; repeat' (first | with_reducible exact hw | with_reducible assumption | with_reducible apply wf_memWrite | with_reducible apply wf_memPut | with_reducible apply wf_memZeroRange | with_reducible exact wf_nil | (with_reducible apply wf_foldl; intro _ _ _))); done)))
    | split

theorem keep_execBudgetWindowStart {fn : Fn} {s : State} (h1 : keptD s.dev) : keptOut (execBudgetWindowStart fn s) := by
  unfold execBudgetWindowStart
  repeat' first
    | with_reducible assumption
    | with_reducible apply keep_lockAnswer
    | with_reducible apply keep_windowStart

theorem keep_rereadWord {d : Dev} {fn : Fn} {slot : Nat} {consumed : W32} (h0 : keptD d) : keptD (rereadWord d fn slot consumed) := by
  unfold rereadWord
  repeat' first
    | with_reducible assumption
    | with_reducible apply keep_setReq
    | with_reducible apply keep_ringSignal
    | with_reducible apply keep_writeOut
    | (refine kept_guard ?_ ?_; (focus (simp only [isMk_mk]; done)); (with_reducible refine kept_mk rfl ?_ ?_ ?_ ?_ ?_); (focus ((intro hw; repeat' (first | with_reducible exact hw | with_reducible assumption | with_reducible apply wf_memWrite | with_reducible apply wf_memPut | with_reducible apply wf_memZeroRange | with_reducible exact wf_nil | (with_reducible apply wf_foldl; intro _ _ _))); done)); (focus ((intro hw; repeat' (first | with_reducible exact hw | with_reducible assumption | with_reducible apply wf_memWrite | with_reducible apply wf_memPut | with_reducible apply wf_memZeroRange | with_reducible exact wf_nil | (with_reducible apply wf_foldl; intro _ _ _))); done)); (focus ((intro hw; repeat' (first | with_reducible exact hw | with_reducible assumption | with_reducible apply wf_memWrite | with_reducible apply wf_memPut | with_reducible apply wf_memZeroRange | with_reducible exact wf_nil | (with_reducible apply wf_foldl; intro _ _ _))); done)); (focus ((intro hw; repeat' (first | with_reducible exact hw | with_reducible assumption | with_reducible apply wf_memWrite | with_reducible apply wf_memPut | with_reducible apply wf_memZeroRange | with_reducible exact wf_nil | (with_reducible apply wf_foldl; intro _ _ _))); done)))
    | split

theorem keep_execConsumerWordReread {fn : Fn} {slot : Nat} {consumed : W32} {s : State} (h3 : keptD s.dev) : keptOut (execConsumerWordReread fn slot consumed s) := by
  unfold execConsumerWordReread
  repeat' first
    | with_reducible assumption
    | with_reducible apply keep_lockAnswer
    | with_reducible apply keep_rereadWord

theorem keep_execStepAdmission {part : PartId} {s : State} (h1 : keptD s.dev) : keptOut (execStepAdmission part s) := by
  unfold execStepAdmission
  repeat' first
    | with_reducible assumption
    | with_reducible apply keep_lockAnswer
    | with_reducible apply keep_stepAdmit

theorem keep_execStepEnd {part : PartId} {s : State} (h1 : keptD s.dev) : keptOut (execStepEnd part s) := by
  unfold execStepEnd
  repeat' first
    | with_reducible assumption
    | with_reducible apply keep_lockAnswer
    | with_reducible apply keep_stepFinish

theorem keep_execDeadlineCheck {request : W64} {s : State} (h1 : keptD s.dev) : keptOut (execDeadlineCheck request s) := by
  unfold execDeadlineCheck
  repeat' first
    | with_reducible assumption
    | with_reducible apply keep_lockAnswer
    | with_reducible apply keep_deadlineAct

theorem keep_execMooringTtlExpiry {request : W64} {s : State} (h1 : keptD s.dev) : keptOut (execMooringTtlExpiry request s) := by
  unfold execMooringTtlExpiry
  repeat' first
    | with_reducible assumption
    | with_reducible apply keep_lockAnswer
    | with_reducible apply keep_mooringEnd
    | split

theorem keep_execWeirRetry {request : W64} {s : State} (h1 : keptD s.dev) : keptOut (execWeirRetry request s) := by
  unfold execWeirRetry
  repeat' first
    | with_reducible assumption
    | with_reducible apply keep_lockAnswer
    | with_reducible apply keep_weirRetryAct

theorem keep_outputIn {d : Dev} {h : LockHdr} {recs : List OutRec} {len : Nat} (h0 : keptD d) : keptD (outputIn d h recs len) := by
  unfold outputIn
  repeat' first
    | with_reducible assumption
    | with_reducible apply keep_lockIn

theorem keep_execOutput {h : LockHdr} {recs : List OutRec} {historyLen : Nat} {s : State} (h3 : keptD s.dev) : keptOut (execOutput h recs historyLen s) := by
  unfold execOutput
  repeat' first
    | with_reducible assumption
    | with_reducible apply keep_lockAnswer
    | with_reducible apply keep_outputIn

theorem keep_execLeaseAsk {h : LockHdr} {tokens : Nat} {s : State} (h2 : keptD s.dev) : keptOut (execLeaseAsk h tokens s) := by
  unfold execLeaseAsk
  repeat' first
    | with_reducible assumption
    | with_reducible apply keep_lockAnswer
    | with_reducible apply keep_lockIn

theorem keep_execLeaseGrant {h : LockHdr} {tokens : Nat} {s : State} (h2 : keptD s.dev) : keptOut (execLeaseGrant h tokens s) := by
  unfold execLeaseGrant
  repeat' first
    | with_reducible assumption
    | with_reducible apply keep_lockAnswer
    | with_reducible apply keep_lockIn

theorem keep_execRingHold {h : LockHdr} {s : State} (h1 : keptD s.dev) : keptOut (execRingHold h s) := by
  unfold execRingHold
  repeat' first
    | with_reducible assumption
    | with_reducible apply keep_lockAnswer
    | with_reducible apply keep_lockIn

theorem keep_execRingFree {h : LockHdr} {s : State} (h1 : keptD s.dev) : keptOut (execRingFree h s) := by
  unfold execRingFree
  repeat' first
    | with_reducible assumption
    | with_reducible apply keep_lockAnswer
    | with_reducible apply keep_lockIn

theorem keep_execCancel {h : LockHdr} {s : State} (h1 : keptD s.dev) : keptOut (execCancel h s) := by
  unfold execCancel
  repeat' first
    | with_reducible assumption
    | with_reducible apply keep_lockAnswer
    | with_reducible apply keep_lockIn

theorem keep_execReport {h : LockHdr} {kind : Nat} {status : Status} {detail : W64} {dstOwner : Option Holder} {dstPages : Option Holder} {s : State} (h6 : keptD s.dev) : keptOut (execReport h kind status detail dstOwner dstPages s) := by
  unfold execReport
  repeat' first
    | with_reducible assumption
    | with_reducible apply keep_lockAnswer
    | with_reducible apply keep_lockIn

theorem keep_grantBack {d : Dev} {dev : Nat} {i : Nat} (h0 : keptD d) : keptD (grantBack d dev i) := by
  unfold grantBack
  repeat' first
    | with_reducible assumption
    | (refine kept_guard ?_ ?_; (focus (simp only [isMk_mk]; done)); with_reducible refine kept_mk rfl (fun h => h) (fun h => h) (fun h => h) (fun h => h) ?_)

theorem keep_collectGrants {d : Dev} (h0 : keptD d) : keptD (collectGrants d) := by
  unfold collectGrants
  repeat' first
    | with_reducible assumption
    | with_reducible intro _
    | with_reducible apply keep_send
    | (with_reducible apply kept_foldl)
    | (refine kept_guard ?_ ?_; (focus (simp only [isMk_mk]; done)); with_reducible refine kept_mk rfl (fun h => h) (fun h => h) (fun h => h) (fun h => h) ?_)

theorem keep_askAgain {d : Dev} (h0 : keptD d) : keptD (askAgain d) := by
  unfold askAgain
  repeat' first
    | with_reducible assumption
    | with_reducible intro _
    | with_reducible apply keep_send
    | (with_reducible apply kept_foldl)
    | split

theorem keep_postAbort {d : Dev} {src : W32} {st : Status} (h0 : keptD d) : keptD (postAbort d src st) := by
  unfold postAbort
  repeat' first
    | with_reducible assumption
    | with_reducible apply keep_raise

theorem keep_clearLoaded {has : Nat → Nat → Bool} {d : Dev} {part : Nat} (h1 : keptD d) : keptD (clearLoaded has d part) := by
  unfold clearLoaded
  repeat' first
    | with_reducible assumption
    | with_reducible intro _
    | with_reducible apply keep_heapFree
    | (with_reducible apply kept_foldl)
    | (refine kept_guard ?_ ?_; (focus (simp only [isMk_mk]; done)); (with_reducible refine kept_mk rfl ?_ ?_ ?_ ?_ ?_); (focus ((intro hw; repeat' (first | with_reducible exact hw | with_reducible assumption | with_reducible apply wf_memWrite | with_reducible apply wf_memPut | with_reducible apply wf_memZeroRange | with_reducible exact wf_nil | (with_reducible apply wf_foldl; intro _ _ _))); done)); (focus ((intro hw; repeat' (first | with_reducible exact hw | with_reducible assumption | with_reducible apply wf_memWrite | with_reducible apply wf_memPut | with_reducible apply wf_memZeroRange | with_reducible exact wf_nil | (with_reducible apply wf_foldl; intro _ _ _))); done)); (focus ((intro hw; repeat' (first | with_reducible exact hw | with_reducible assumption | with_reducible apply wf_memWrite | with_reducible apply wf_memPut | with_reducible apply wf_memZeroRange | with_reducible exact wf_nil | (with_reducible apply wf_foldl; intro _ _ _))); done)); (focus ((intro hw; repeat' (first | with_reducible exact hw | with_reducible assumption | with_reducible apply wf_memWrite | with_reducible apply wf_memPut | with_reducible apply wf_memZeroRange | with_reducible exact wf_nil | (with_reducible apply wf_foldl; intro _ _ _))); done)))

theorem keep_admitEnd {d : Dev} {st : Status} {detail : Nat} (h0 : keptD d) : keptD (admitEnd d st detail) := by
  unfold admitEnd
  repeat' first
    | with_reducible assumption
    | with_reducible intro _
    | with_reducible apply keep_clearLoaded
    | with_reducible apply keep_complete
    | (with_reducible apply kept_foldl)
    | (refine kept_guard ?_ ?_; (focus (simp only [isMk_mk]; done)); (with_reducible refine kept_mk rfl ?_ ?_ ?_ ?_ ?_); (focus ((intro hw; repeat' (first | with_reducible exact hw | with_reducible assumption | with_reducible apply wf_memWrite | with_reducible apply wf_memPut | with_reducible apply wf_memZeroRange | with_reducible exact wf_nil | (with_reducible apply wf_foldl; intro _ _ _))); done)); (focus ((intro hw; repeat' (first | with_reducible exact hw | with_reducible assumption | with_reducible apply wf_memWrite | with_reducible apply wf_memPut | with_reducible apply wf_memZeroRange | with_reducible exact wf_nil | (with_reducible apply wf_foldl; intro _ _ _))); done)); (focus ((intro hw; repeat' (first | with_reducible exact hw | with_reducible assumption | with_reducible apply wf_memWrite | with_reducible apply wf_memPut | with_reducible apply wf_memZeroRange | with_reducible exact wf_nil | (with_reducible apply wf_foldl; intro _ _ _))); done)); (focus ((intro hw; repeat' (first | with_reducible exact hw | with_reducible assumption | with_reducible apply wf_memWrite | with_reducible apply wf_memPut | with_reducible apply wf_memZeroRange | with_reducible exact wf_nil | (with_reducible apply wf_foldl; intro _ _ _))); done)))
    | split
    | dsimp only

theorem keep_joinCheck {d : Dev} (h0 : keptD d) : keptD (joinCheck d) := by
  unfold joinCheck
  repeat' first
    | with_reducible assumption
    | with_reducible intro _
    | with_reducible apply keep_send
    | with_reducible apply keep_raise
    | with_reducible apply keep_complete
    | (with_reducible apply kept_foldl)
    | (refine kept_guard ?_ ?_; (focus (simp only [isMk_mk]; done)); (with_reducible refine kept_mk rfl ?_ ?_ ?_ ?_ ?_); (focus ((intro hw; repeat' (first | with_reducible exact hw | with_reducible assumption | with_reducible apply wf_memWrite | with_reducible apply wf_memPut | with_reducible apply wf_memZeroRange | with_reducible exact wf_nil | (with_reducible apply wf_foldl; intro _ _ _))); done)); (focus ((intro hw; repeat' (first | with_reducible exact hw | with_reducible assumption | with_reducible apply wf_memWrite | with_reducible apply wf_memPut | with_reducible apply wf_memZeroRange | with_reducible exact wf_nil | (with_reducible apply wf_foldl; intro _ _ _))); done)); (focus ((intro hw; repeat' (first | with_reducible exact hw | with_reducible assumption | with_reducible apply wf_memWrite | with_reducible apply wf_memPut | with_reducible apply wf_memZeroRange | with_reducible exact wf_nil | (with_reducible apply wf_foldl; intro _ _ _))); done)); (focus ((intro hw; repeat' (first | with_reducible exact hw | with_reducible assumption | with_reducible apply wf_memWrite | with_reducible apply wf_memPut | with_reducible apply wf_memZeroRange | with_reducible exact wf_nil | (with_reducible apply wf_foldl; intro _ _ _))); done)))
    | split
    | dsimp only

theorem keep_admitLost {d : Dev} {i : Nat} (h0 : keptD d) : keptD (admitLost d i) := by
  unfold admitLost
  repeat' first
    | with_reducible assumption
    | with_reducible apply keep_postAbort
    | with_reducible apply keep_admitEnd
    | with_reducible apply keep_joinCheck
    | (refine kept_guard ?_ ?_; (focus (simp only [isMk_mk]; done)); (with_reducible refine kept_mk rfl ?_ ?_ ?_ ?_ ?_); (focus ((intro hw; repeat' (first | with_reducible exact hw | with_reducible assumption | with_reducible apply wf_memWrite | with_reducible apply wf_memPut | with_reducible apply wf_memZeroRange | with_reducible exact wf_nil | (with_reducible apply wf_foldl; intro _ _ _))); done)); (focus ((intro hw; repeat' (first | with_reducible exact hw | with_reducible assumption | with_reducible apply wf_memWrite | with_reducible apply wf_memPut | with_reducible apply wf_memZeroRange | with_reducible exact wf_nil | (with_reducible apply wf_foldl; intro _ _ _))); done)); (focus ((intro hw; repeat' (first | with_reducible exact hw | with_reducible assumption | with_reducible apply wf_memWrite | with_reducible apply wf_memPut | with_reducible apply wf_memZeroRange | with_reducible exact wf_nil | (with_reducible apply wf_foldl; intro _ _ _))); done)); (focus ((intro hw; repeat' (first | with_reducible exact hw | with_reducible assumption | with_reducible apply wf_memWrite | with_reducible apply wf_memPut | with_reducible apply wf_memZeroRange | with_reducible exact wf_nil | (with_reducible apply wf_foldl; intro _ _ _))); done)))
    | split
    | dsimp only

theorem keep_podLost {d : Dev} {i : Nat} (h0 : keptD d) : keptD (podLost d i) := by
  unfold podLost
  repeat' first
    | with_reducible assumption
    | with_reducible intro _
    | with_reducible apply keep_podDone
    | with_reducible apply keep_loadFail
    | (with_reducible apply kept_foldl)
    | split

theorem keep_legsLost {d : Dev} {i : Nat} (h0 : keptD d) : keptD (legsLost d i) := by
  unfold legsLost
  repeat' first
    | with_reducible assumption
    | with_reducible intro _
    | with_reducible apply keep_farArrive
    | (with_reducible apply kept_foldl)

theorem keep_qpsLost {d : Dev} {sys : Nat} (h0 : keptD d) : keptD (qpsLost d sys) := by
  unfold qpsLost
  repeat' first
    | with_reducible assumption
    | with_reducible intro _
    | with_reducible apply keep_qpError
    | (with_reducible apply kept_foldl)

theorem keep_homesLost {d : Dev} {sys : Nat} (h0 : keptD d) : keptD (homesLost d sys) := by
  unfold homesLost
  repeat' first
    | with_reducible assumption
    | with_reducible intro _
    | with_reducible apply keep_homeLose
    | with_reducible apply keep_raise
    | (with_reducible apply kept_foldl)
    | split
    | dsimp only

theorem keep_bargesHomeLost {d : Dev} {sys : Nat} (h0 : keptD d) : keptD (bargesHomeLost d sys) := by
  unfold bargesHomeLost
  repeat' first
    | with_reducible assumption
    | with_reducible intro _
    | with_reducible apply keep_delivered
    | with_reducible apply keep_modBarge
    | (with_reducible apply kept_foldl)

theorem keep_asksLost {d : Dev} {sys : Nat} (h0 : keptD d) : keptD (asksLost d sys) := by
  unfold asksLost
  repeat' first
    | with_reducible assumption
    | with_reducible intro _
    | with_reducible apply keep_finalReq
    | (with_reducible apply kept_foldl)

theorem keep_composeLost {d : Dev} {sys : Nat} (h0 : keptD d) : keptD (composeLost d sys) := by
  unfold composeLost
  repeat' first
    | with_reducible assumption
    | with_reducible intro _
    | with_reducible apply keep_complete
    | (with_reducible apply kept_foldl)
    | (refine kept_guard ?_ ?_; (focus (simp only [isMk_mk]; done)); with_reducible refine kept_mk rfl (fun h => h) (fun h => h) (fun h => h) (fun h => h) ?_)

theorem keep_peerLoss {d : Dev} {i : Nat} (h0 : keptD d) : keptD (peerLoss d i) := by
  unfold peerLoss
  repeat' first
    | with_reducible assumption
    | with_reducible apply keep_raise
    | with_reducible apply keep_replPeerLost
    | with_reducible apply keep_qpsLost
    | with_reducible apply keep_composeLost
    | with_reducible apply keep_legsLost
    | with_reducible apply keep_podLost
    | with_reducible apply keep_asksLost
    | with_reducible apply keep_bargesHomeLost
    | with_reducible apply keep_homesLost
    | with_reducible apply keep_collectGrants
    | with_reducible apply keep_askAgain
    | with_reducible apply keep_admitLost
    | (refine kept_guard ?_ ?_; (focus (simp only [isMk_mk]; done)); (with_reducible refine kept_mk rfl ?_ ?_ ?_ ?_ ?_); (focus ((intro hw; repeat' (first | with_reducible exact hw | with_reducible assumption | with_reducible apply wf_memWrite | with_reducible apply wf_memPut | with_reducible apply wf_memZeroRange | with_reducible exact wf_nil | (with_reducible apply wf_foldl; intro _ _ _))); done)); (focus ((intro hw; repeat' (first | with_reducible exact hw | with_reducible assumption | with_reducible apply wf_memWrite | with_reducible apply wf_memPut | with_reducible apply wf_memZeroRange | with_reducible exact wf_nil | (with_reducible apply wf_foldl; intro _ _ _))); done)); (focus ((intro hw; repeat' (first | with_reducible exact hw | with_reducible assumption | with_reducible apply wf_memWrite | with_reducible apply wf_memPut | with_reducible apply wf_memZeroRange | with_reducible exact wf_nil | (with_reducible apply wf_foldl; intro _ _ _))); done)); (focus ((intro hw; repeat' (first | with_reducible exact hw | with_reducible assumption | with_reducible apply wf_memWrite | with_reducible apply wf_memPut | with_reducible apply wf_memZeroRange | with_reducible exact wf_nil | (with_reducible apply wf_foldl; intro _ _ _))); done)))
    | split

theorem keep_execPeerLossTimeout {member : DevIx} {s : State} (h1 : keptD s.dev) : keptOut (execPeerLossTimeout member s) := by
  unfold execPeerLossTimeout
  repeat' first
    | with_reducible assumption
    | with_reducible apply keep_answer
    | with_reducible apply keep_settle
    | with_reducible apply keep_peerLoss

theorem keep_endTaskNow {st : Status} {d : Dev} {n : Nat} (h1 : keptD d) : keptD (endTaskNow st d n) := by
  unfold endTaskNow
  repeat' first
    | with_reducible assumption
    | with_reducible intro _
    | with_reducible apply keep_failTask
    | with_reducible apply keep_finishTask
    | with_reducible apply keep_itemEnd
    | with_reducible apply keep_conclude
    | (with_reducible apply kept_foldl)
    | split

theorem keep_endTasks {st : Status} {p : TaskSt → Bool} {d : Dev} (h2 : keptD d) : keptD (endTasks st p d) := by
  unfold endTasks
  repeat' first
    | with_reducible assumption
    | with_reducible intro _
    | with_reducible apply keep_endTaskNow
    | (with_reducible apply kept_foldl)

theorem keep_endPodOps {d : Dev} (h0 : keptD d) : keptD (endPodOps d) := by
  unfold endPodOps
  repeat' first
    | with_reducible assumption
    | with_reducible intro _
    | with_reducible apply keep_podDone
    | (with_reducible apply kept_foldl)

theorem keep_endQps {d : Dev} (h0 : keptD d) : keptD (endQps d) := by
  unfold endQps
  repeat' first
    | with_reducible assumption
    | with_reducible intro _
    | with_reducible apply keep_qpError
    | (with_reducible apply kept_foldl)

theorem keep_loseAon {d : Dev} (h0 : keptD d) : keptD (loseAon d) := by
  unfold loseAon
  repeat' first
    | with_reducible assumption
    | with_reducible apply keep_endQps
    | with_reducible apply keep_endPodOps
    | with_reducible apply keep_endTasks
    | with_reducible apply keep_assertAlert
    | (refine kept_guard ?_ ?_; (focus (simp only [isMk_mk]; done)); (with_reducible refine kept_mk rfl ?_ ?_ ?_ ?_ ?_); (focus ((intro hw; repeat' (first | with_reducible exact hw | with_reducible assumption | with_reducible apply wf_memWrite | with_reducible apply wf_memPut | with_reducible apply wf_memZeroRange | with_reducible exact wf_nil | (with_reducible apply wf_foldl; intro _ _ _))); done)); (focus ((intro hw; repeat' (first | with_reducible exact hw | with_reducible assumption | with_reducible apply wf_memWrite | with_reducible apply wf_memPut | with_reducible apply wf_memZeroRange | with_reducible exact wf_nil | (with_reducible apply wf_foldl; intro _ _ _))); done)); (focus ((intro hw; repeat' (first | with_reducible exact hw | with_reducible assumption | with_reducible apply wf_memWrite | with_reducible apply wf_memPut | with_reducible apply wf_memZeroRange | with_reducible exact wf_nil | (with_reducible apply wf_foldl; intro _ _ _))); done)); (focus ((intro hw; repeat' (first | with_reducible exact hw | with_reducible assumption | with_reducible apply wf_memWrite | with_reducible apply wf_memPut | with_reducible apply wf_memZeroRange | with_reducible exact wf_nil | (with_reducible apply wf_foldl; intro _ _ _))); done)))
    | split

theorem keep_domainWork {d : Dev} {i : Nat} (h0 : keptD d) : keptD (domainWork d i) := by
  unfold domainWork
  repeat' first
    | with_reducible assumption
    | with_reducible apply keep_loseAon
    | with_reducible apply keep_endTasks
    | with_reducible apply keep_endQps
    | with_reducible apply keep_endPodOps
    | (refine kept_guard ?_ ?_; (focus (simp only [isMk_mk]; done)); (with_reducible refine kept_mk rfl ?_ ?_ ?_ ?_ ?_); (focus ((intro hw; repeat' (first | with_reducible exact hw | with_reducible assumption | with_reducible apply wf_memWrite | with_reducible apply wf_memPut | with_reducible apply wf_memZeroRange | with_reducible exact wf_nil | (with_reducible apply wf_foldl; intro _ _ _))); done)); (focus ((intro hw; repeat' (first | with_reducible exact hw | with_reducible assumption | with_reducible apply wf_memWrite | with_reducible apply wf_memPut | with_reducible apply wf_memZeroRange | with_reducible exact wf_nil | (with_reducible apply wf_foldl; intro _ _ _))); done)); (focus ((intro hw; repeat' (first | with_reducible exact hw | with_reducible assumption | with_reducible apply wf_memWrite | with_reducible apply wf_memPut | with_reducible apply wf_memZeroRange | with_reducible exact wf_nil | (with_reducible apply wf_foldl; intro _ _ _))); done)); (focus ((intro hw; repeat' (first | with_reducible exact hw | with_reducible assumption | with_reducible apply wf_memWrite | with_reducible apply wf_memPut | with_reducible apply wf_memZeroRange | with_reducible exact wf_nil | (with_reducible apply wf_foldl; intro _ _ _))); done)))
    | split

theorem keep_fenceDomain {d : Dev} {i : Nat} {offFrequency : Bool} (h0 : keptD d) : keptD (fenceDomain d i offFrequency) := by
  unfold fenceDomain
  repeat' first
    | with_reducible assumption
    | with_reducible apply keep_assertAlert
    | with_reducible apply keep_domainWork
    | with_reducible apply keep_raise
    | (refine kept_guard ?_ ?_; (focus (simp only [isMk_mk]; done)); with_reducible refine kept_mk rfl (fun h => h) (fun h => h) (fun h => h) (fun h => h) ?_)

end Sys2Proof.Machine
end

