-- ==== Sys2Proof/Laws/KeepHealth.lean ====
section
/-! SUPPORT. Every operation keeps the invariant of Safety.lean, one lemma each: reliability, admission, function resets, power, fetching, register writes. -/
namespace Sys2Proof.Machine
open Sys2Proof
-- each goal is closed by the first of its alternatives that applies, so an alternative may go unused
set_option linter.all false

theorem keep_postExpel {d : Dev} {i : Nat} {asker : Nat} (h0 : keptD d) : keptD (postExpel d i asker) := by
  unfold postExpel
  repeat' first
    | with_reducible assumption
    | with_reducible apply keep_raise

theorem keep_expelPart {d : Dev} {i : Nat} {granted : Bool} (h0 : keptD d) : keptD (expelPart d i granted) := by
  unfold expelPart
  repeat' first
    | with_reducible assumption
    | with_reducible apply keep_setHealth
    | with_reducible apply keep_postExpel
    | split

theorem keep_capPart {d : Dev} {i : Nat} (h0 : keptD d) : keptD (capPart d i) := by
  unfold capPart
  repeat' first
    | with_reducible assumption
    | with_reducible apply keep_setHealth
    | with_reducible apply keep_raise
    | split
    | dsimp only

theorem keep_decideGrant {d : Dev} {dev : Nat} {part : Nat} (h0 : keptD d) : keptS (decideGrant d dev part) := by
  unfold decideGrant
  repeat' first
    | with_reducible assumption
    | with_reducible apply keep_grantBack
    | (refine kept_guard ?_ ?_; (focus (simp only [isMk_mk]; done)); with_reducible refine kept_mk rfl (fun h => h) (fun h => h) (fun h => h) (fun h => h) ?_)
    | split
    | with_reducible apply keptS_intro

theorem keep_askGrant {d : Dev} {i : Nat} (h0 : keptD d) : keptD (askGrant d i) := by
  unfold askGrant
  repeat' first
    | with_reducible assumption
    | with_reducible apply keep_expelPart
    | with_reducible apply keep_capPart
    | with_reducible apply keep_decideGrant
    | with_reducible apply keep_send
    | with_reducible refine keptS_mk (by assumption) ?_
    | (refine kept_guard ?_ ?_; (focus (simp only [isMk_mk]; done)); with_reducible refine kept_mk rfl (fun h => h) (fun h => h) (fun h => h) (fun h => h) ?_)
    | split

theorem keep_partWindow {scores : List Nat} {d : Dev} {i : Nat} (h1 : keptD d) : keptD (partWindow scores d i) := by
  unfold partWindow
  repeat' first
    | with_reducible assumption
    | with_reducible apply keep_setHealth
    | with_reducible apply keep_askGrant
    | (refine kept_guard ?_ ?_; (focus (simp only [isMk_mk]; done)); with_reducible refine kept_mk rfl (fun h => h) (fun h => h) (fun h => h) (fun h => h) ?_)
    | split
    | dsimp only

theorem keep_windowEnd {d : Dev} (h0 : keptD d) : keptD (windowEnd d) := by
  unfold windowEnd
  repeat' first
    | with_reducible assumption
    | with_reducible intro _
    | with_reducible apply keep_partWindow
    | (with_reducible apply kept_foldl)
    | (refine kept_guard ?_ ?_; (focus (simp only [isMk_mk]; done)); with_reducible refine kept_mk rfl (fun h => h) (fun h => h) (fun h => h) (fun h => h) ?_)
    | split

theorem keep_execHealthWindowEnd {s : State} (h0 : keptD s.dev) : keptOut (execHealthWindowEnd s) := by
  unfold execHealthWindowEnd
  repeat' first
    | with_reducible assumption
    | with_reducible apply keep_answer
    | with_reducible apply keep_windowEnd

theorem keep_execHealthGrantRequest {fromDev : DevIx} {part : Nat} {s : State} (h2 : keptD s.dev) : keptOut (execHealthGrantRequest fromDev part s) := by
  unfold execHealthGrantRequest
  repeat' first
    | with_reducible assumption
    | with_reducible apply keep_answer
    | with_reducible apply keep_decideGrant
    | with_reducible apply keep_send
    | split
    | with_reducible apply keptS_snd
    | dsimp only

theorem keep_execExpelGrant {part : Nat} {granted : Bool} {s : State} (h2 : keptD s.dev) : keptOut (execExpelGrant part granted s) := by
  unfold execExpelGrant
  repeat' first
    | with_reducible assumption
    | with_reducible apply keep_answer
    | with_reducible apply keep_send
    | with_reducible apply keep_expelPart
    | with_reducible apply keep_capPart
    | (refine kept_guard ?_ ?_; (focus (simp only [isMk_mk]; done)); with_reducible refine kept_mk rfl (fun h => h) (fun h => h) (fun h => h) (fun h => h) ?_)
    | split
    | dsimp only

theorem keep_returnGrants {d : Dev} {is : List Nat} (h0 : keptD d) : keptD (returnGrants d is) := by
  unfold returnGrants
  repeat' first
    | with_reducible assumption
    | with_reducible intro _
    | with_reducible apply keep_grantBack
    | with_reducible apply keep_send
    | (with_reducible apply kept_foldl)
    | split

theorem keep_unflag {d : Dev} {i : Nat} (h0 : keptD d) : keptD (unflag d i) := by
  unfold unflag
  repeat' first
    | with_reducible assumption
    | with_reducible apply keep_clearPart
    | with_reducible apply keep_returnGrants
    | (refine kept_guard ?_ ?_; (focus (simp only [isMk_mk]; done)); with_reducible refine kept_mk rfl (fun h => h) (fun h => h) (fun h => h) (fun h => h) ?_)
    | split
    | dsimp only

theorem keep_execSelftestSliceStart {group : Fin 18} {sl : Slice} {s : State} (h2 : keptD s.dev) : keptOut (execSelftestSliceStart group sl s) := by
  unfold execSelftestSliceStart
  repeat' first
    | with_reducible assumption
    | with_reducible apply keep_answer
    | (refine kept_guard ?_ ?_; (focus (simp only [isMk_mk]; done)); with_reducible refine kept_mk rfl (fun h => h) (fun h => h) (fun h => h) (fun h => h) ?_)
    | split
    | dsimp only

theorem keep_fenceBlock {d : Dev} {sl : Slice} (h0 : keptD d) : keptD (fenceBlock d sl) := by
  unfold fenceBlock
  repeat' first
    | with_reducible assumption
    | with_reducible apply keep_markLane
    | with_reducible apply keep_fenceDomain
    | with_reducible apply keep_assertAlert
    | (refine kept_guard ?_ ?_; (focus (simp only [isMk_mk]; done)); with_reducible refine kept_mk rfl (fun h => h) (fun h => h) (fun h => h) (fun h => h) ?_)
    | split

theorem keep_execSelftestSliceEnd {group : Fin 18} {pass : Bool} {s : State} (h2 : keptD s.dev) : keptOut (execSelftestSliceEnd group pass s) := by
  unfold execSelftestSliceEnd
  repeat' first
    | with_reducible assumption
    | with_reducible apply keep_answer
    | with_reducible apply keep_raise
    | with_reducible apply keep_charge
    | with_reducible apply keep_fenceBlock
    | (refine kept_guard ?_ ?_; (focus (simp only [isMk_mk]; done)); with_reducible refine kept_mk rfl (fun h => h) (fun h => h) (fun h => h) (fun h => h) ?_)
    | split
    | dsimp only

theorem keep_upsetPart {d : Dev} {n : Nat} {f : PartSt → PartSt} (h0 : keptD d) : keptD (upsetPart d n f) := by
  unfold upsetPart
  repeat' first
    | with_reducible assumption
    | with_reducible apply keep_setPart
    | split

theorem keep_upset {d : Dev} {u : Upset} (h0 : keptD d) : keptD (upset d u) := by
  unfold upset
  repeat' first
    | with_reducible assumption
    | with_reducible apply keep_upsetPart
    | (refine kept_guard ?_ ?_; (focus (simp only [isMk_mk]; done)); with_reducible refine kept_mk rfl (fun h => h) (fun h => h) (fun h => h) (fun h => h) ?_)
    | split

theorem keep_postVotes {d : Dev} {off : Nat} {lo : Nat} {bs : List Nat} (h0 : keptD d) : keptD (postVotes d off lo bs) := by
  unfold postVotes
  repeat' first
    | with_reducible assumption
    | with_reducible intro _
    | with_reducible apply keep_raise
    | with_reducible apply keep_charge
    | (with_reducible apply kept_foldl)

theorem keep_sweepPart {d : Dev} {n : Nat} (h0 : keptD d) : keptD (sweepPart d n) := by
  unfold sweepPart
  repeat' first
    | with_reducible assumption
    | with_reducible apply keep_postVotes
    | with_reducible apply keep_setPart
    | (refine kept_guard ?_ ?_; (focus (simp only [isMk_mk]; done)); with_reducible refine kept_mk rfl (fun h => h) (fun h => h) (fun h => h) (fun h => h) ?_)
    | split
    | dsimp only

theorem keep_sweepKey {d : Dev} {n : Nat} (h0 : keptD d) : keptD (sweepKey d n) := by
  unfold sweepKey
  repeat' first
    | with_reducible assumption
    | with_reducible apply keep_postVotes
    | (refine kept_guard ?_ ?_; (focus (simp only [isMk_mk]; done)); with_reducible refine kept_mk rfl (fun h => h) (fun h => h) (fun h => h) (fun h => h) ?_)
    | split

theorem keep_voteSweep {d : Dev} {us : List Upset} (h0 : keptD d) : keptD (voteSweep d us) := by
  unfold voteSweep
  repeat' first
    | with_reducible assumption
    | with_reducible intro _
    | with_reducible apply keep_upset
    | with_reducible apply keep_sweepPart
    | with_reducible apply keep_postVotes
    | with_reducible apply keep_sweepKey
    | (with_reducible apply kept_foldl)
    | (refine kept_guard ?_ ?_; (focus (simp only [isMk_mk]; done)); with_reducible refine kept_mk rfl (fun h => h) (fun h => h) (fun h => h) (fun h => h) ?_)

theorem keep_execVoteSweep {upsets : List Upset} {s : State} (h1 : keptD s.dev) : keptOut (execVoteSweep upsets s) := by
  unfold execVoteSweep
  repeat' first
    | with_reducible assumption
    | with_reducible apply keep_answer
    | with_reducible apply keep_voteSweep

theorem keep_endUnadmitted {d : Dev} (h0 : keptD d) : keptD (endUnadmitted d) := by
  unfold endUnadmitted
  repeat' first
    | with_reducible assumption
    | with_reducible intro _
    | with_reducible apply keep_finalReq
    | (with_reducible apply kept_foldl)

theorem keep_failover {d0 : Dev} (h0 : keptD d0) : keptD (failover d0) := by
  unfold failover
  repeat' first
    | with_reducible assumption
    | with_reducible intro _
    | with_reducible apply keep_endUnadmitted
    | with_reducible apply keep_admitEnd
    | with_reducible apply keep_failTask
    | with_reducible apply keep_completeRing
    | (with_reducible apply kept_foldl)
    | (refine kept_guard ?_ ?_; (focus (simp only [isMk_mk]; done)); with_reducible refine kept_mk rfl (fun h => h) (fun h => h) (fun h => h) (fun h => h) ?_)
    | split

theorem keep_startFailover {d : Dev} (h0 : keptD d) : keptD (startFailover d) := by
  unfold startFailover
  repeat' first
    | with_reducible assumption
    | with_reducible apply keep_failover
    | split

theorem keep_execLkpFailoverGo {s : State} (h0 : keptD s.dev) : keptOut (execLkpFailoverGo s) := by
  unfold execLkpFailoverGo
  repeat' first
    | with_reducible assumption
    | with_reducible apply keep_answer
    | with_reducible apply keep_startFailover

theorem keep_lockstep {d : Dev} {count : W64} (h0 : keptD d) : keptD (lockstep d count) := by
  unfold lockstep
  repeat' first
    | with_reducible assumption
    | with_reducible apply keep_raise
    | with_reducible apply keep_assertAlert
    | with_reducible apply keep_startFailover
    | (refine kept_guard ?_ ?_; (focus (simp only [isMk_mk]; done)); with_reducible refine kept_mk rfl (fun h => h) (fun h => h) (fun h => h) (fun h => h) ?_)
    | split

theorem keep_execLockstepMismatch {count : W64} {s : State} (h1 : keptD s.dev) : keptOut (execLockstepMismatch count s) := by
  unfold execLockstepMismatch
  repeat' first
    | with_reducible assumption
    | with_reducible apply keep_answer
    | with_reducible apply keep_lockstep

theorem keep_execFailoverResume {s : State} (h0 : keptD s.dev) : keptOut (execFailoverResume s) := by
  unfold execFailoverResume
  repeat' first
    | with_reducible assumption
    | with_reducible apply keep_answer
    | with_reducible apply keep_raise
    | (refine kept_guard ?_ ?_; (focus (simp only [isMk_mk]; done)); with_reducible refine kept_mk rfl (fun h => h) (fun h => h) (fun h => h) (fun h => h) ?_)
    | split
    | dsimp only

theorem keep_substHbmLane {d : Dev} {stack : Nat} {channel : Nat} {lane : Nat} (h0 : keptD d) : keptOF (substHbmLane d stack channel lane) := by
  unfold substHbmLane
  repeat' first
    | with_reducible assumption
    | with_reducible apply keptOF_none
    | with_reducible apply keptOF_intro
    | (refine kept_guard ?_ ?_; (focus (simp only [isMk_mk]; done)); with_reducible refine kept_mk rfl (fun h => h) (fun h => h) (fun h => h) (fun h => h) ?_)
    | split
    | dsimp only

theorem keep_execHbmLaneFailing {stack : Fin 12} {channel : Nat} {lane : Nat} {s : State} (h3 : keptD s.dev) : keptOut (execHbmLaneFailing stack channel lane s) := by
  unfold execHbmLaneFailing
  repeat' first
    | with_reducible assumption
    | with_reducible apply keep_answer
    | with_reducible apply keep_substHbmLane
    | with_reducible apply keep_postSpared
    | with_reducible refine keptOF_some (by assumption) ?_
    | split

theorem keep_repairSubst {p : Post} {d : Dev} (h1 : keptD d) : keptRes (repairSubst p d) := by
  unfold repairSubst
  repeat' first
    | with_reducible assumption
    | with_reducible apply keep_substTile
    | with_reducible apply keep_substTsRow
    | with_reducible apply keep_substCamRow
    | with_reducible apply keep_substHbmLane
    | with_reducible apply keptRes_plain
    | with_reducible apply keptRes_done'
    | with_reducible refine keptOF_some (by assumption) ?_
    | (refine kept_guard ?_ ?_; (focus (simp only [isMk_mk]; done)); with_reducible refine kept_mk rfl (fun h => h) (fun h => h) (fun h => h) (fun h => h) ?_)
    | split
    | dsimp only

theorem keep_unfence {d : Dev} {kind : Nat} {ix : Nat} (h0 : keptD d) : keptD (unfence d kind ix) := by
  unfold unfence
  repeat' first
    | with_reducible assumption
    | with_reducible intro _
    | with_reducible apply keep_setTile
    | (with_reducible apply kept_foldl)
    | (with_reducible apply kept_foldl_fst)
    | (with_reducible apply kept_foldl_snd)
    | (with_reducible apply kept_foldl_app)
    | (refine kept_guard ?_ ?_; (focus (simp only [isMk_mk]; done)); (with_reducible refine kept_mk rfl ?_ ?_ ?_ ?_ ?_); (focus ((intro hw; repeat' (first | with_reducible exact hw | with_reducible assumption | with_reducible apply wf_memWrite | with_reducible apply wf_memPut | with_reducible apply wf_memZeroRange | with_reducible exact wf_nil | (with_reducible apply wf_foldl; intro _ _ _))); done)); (focus ((intro hw; repeat' (first | with_reducible exact hw | with_reducible assumption | with_reducible apply wf_memWrite | with_reducible apply wf_memPut | with_reducible apply wf_memZeroRange | with_reducible exact wf_nil | (with_reducible apply wf_foldl; intro _ _ _))); done)); (focus ((intro hw; repeat' (first | with_reducible exact hw | with_reducible assumption | with_reducible apply wf_memWrite | with_reducible apply wf_memPut | with_reducible apply wf_memZeroRange | with_reducible exact wf_nil | (with_reducible apply wf_foldl; intro _ _ _))); done)); (focus ((intro hw; repeat' (first | with_reducible exact hw | with_reducible assumption | with_reducible apply wf_memWrite | with_reducible apply wf_memPut | with_reducible apply wf_memZeroRange | with_reducible exact wf_nil | (with_reducible apply wf_foldl; intro _ _ _))); done)))
    | split
    | with_reducible apply keptF_intro
    | with_reducible apply keptS_intro
    | with_reducible apply keptSS_intro
    | with_reducible apply keptSSS_intro
    | with_reducible apply keptF_fst
    | with_reducible apply keptS_snd
    | dsimp only

theorem keep_repairUnfence {p : Post} {d : Dev} (h1 : keptD d) : keptRes (repairUnfence p d) := by
  unfold repairUnfence
  repeat' first
    | with_reducible assumption
    | with_reducible apply keep_unfence
    | with_reducible apply keep_unflag
    | with_reducible apply keptRes_plain
    | with_reducible apply keptRes_done'
    | split
    | dsimp only

theorem keep_repairClear {p : Post} {d : Dev} (h1 : keptD d) : keptRes (repairClear p d) := by
  unfold repairClear
  repeat' first
    | with_reducible assumption
    | with_reducible apply keep_unflag
    | with_reducible apply keptRes_plain
    | with_reducible apply keptRes_done'
    | split

theorem keep_failPart {d : Dev} {i : Nat} (h0 : keptD d) : keptD (failPart d i) := by
  unfold failPart
  repeat' first
    | with_reducible assumption
    | with_reducible apply keep_fenceTile
    | with_reducible apply keep_fencePart
    | with_reducible apply keep_setPort
    | with_reducible apply keep_laneFail
    | with_reducible apply keep_raise
    | (refine kept_guard ?_ ?_; (focus (simp only [isMk_mk]; done)); with_reducible refine kept_mk rfl (fun h => h) (fun h => h) (fun h => h) (fun h => h) ?_)
    | split

theorem keep_fullTest {d : Dev} {failed : List Nat} (h0 : keptD d) : keptD (fullTest d failed) := by
  unfold fullTest
  repeat' first
    | with_reducible assumption
    | with_reducible intro _
    | with_reducible apply keep_failPart
    | (with_reducible apply kept_foldl)
    | (with_reducible apply kept_foldl_fst)
    | (with_reducible apply kept_foldl_snd)
    | (with_reducible apply kept_foldl_app)
    | (refine kept_guard ?_ ?_; (focus (simp only [isMk_mk]; done)); (with_reducible refine kept_mk rfl ?_ ?_ ?_ ?_ ?_); (focus ((intro hw; repeat' (first | with_reducible exact hw | with_reducible assumption | with_reducible apply wf_memWrite | with_reducible apply wf_memPut | with_reducible apply wf_memZeroRange | with_reducible exact wf_nil | (with_reducible apply wf_foldl; intro _ _ _))); done)); (focus ((intro hw; repeat' (first | with_reducible exact hw | with_reducible assumption | with_reducible apply wf_memWrite | with_reducible apply wf_memPut | with_reducible apply wf_memZeroRange | with_reducible exact wf_nil | (with_reducible apply wf_foldl; intro _ _ _))); done)); (focus ((intro hw; repeat' (first | with_reducible exact hw | with_reducible assumption | with_reducible apply wf_memWrite | with_reducible apply wf_memPut | with_reducible apply wf_memZeroRange | with_reducible exact wf_nil | (with_reducible apply wf_foldl; intro _ _ _))); done)); (focus ((intro hw; repeat' (first | with_reducible exact hw | with_reducible assumption | with_reducible apply wf_memWrite | with_reducible apply wf_memPut | with_reducible apply wf_memZeroRange | with_reducible exact wf_nil | (with_reducible apply wf_foldl; intro _ _ _))); done)))
    | split
    | with_reducible apply keptF_intro
    | with_reducible apply keptS_intro
    | with_reducible apply keptSS_intro
    | with_reducible apply keptSSS_intro
    | with_reducible apply keptF_fst
    | with_reducible apply keptS_snd
    | dsimp only

theorem keep_repairTest {failed : List Nat} {p : Post} {d : Dev} (h2 : keptD d) : keptRes (repairTest failed p d) := by
  unfold repairTest
  repeat' first
    | with_reducible assumption
    | with_reducible apply keep_fullTest
    | with_reducible apply keptRes_plain
    | with_reducible apply keptRes_done'
    | split

theorem keep_repairRule {failed : List Nat} {p : Post} {d : Dev} (h2 : keptD d) : keptRes (repairRule failed p d) := by
  unfold repairRule
  repeat' first
    | with_reducible assumption
    | with_reducible apply keep_repairSubst
    | with_reducible apply keep_repairUnfence
    | with_reducible apply keep_repairClear
    | with_reducible apply keep_repairTest
    | with_reducible apply keptRes_plain
    | split

theorem keep_execHltRepairSubstitute {p : Post} {s : State} (h1 : keptD s.dev) : keptOut (execHltRepairSubstitute p s) := by
  unfold execHltRepairSubstitute
  repeat' first
    | with_reducible assumption
    | with_reducible intro _
    | with_reducible apply keep_answer
    | with_reducible apply keep_perform
    | with_reducible apply keep_repairRule

theorem keep_execHltRepairUnfence {p : Post} {s : State} (h1 : keptD s.dev) : keptOut (execHltRepairUnfence p s) := by
  unfold execHltRepairUnfence
  repeat' first
    | with_reducible assumption
    | with_reducible intro _
    | with_reducible apply keep_answer
    | with_reducible apply keep_perform
    | with_reducible apply keep_repairRule

theorem keep_execHltRepairClearFlag {p : Post} {s : State} (h1 : keptD s.dev) : keptOut (execHltRepairClearFlag p s) := by
  unfold execHltRepairClearFlag
  repeat' first
    | with_reducible assumption
    | with_reducible intro _
    | with_reducible apply keep_answer
    | with_reducible apply keep_perform
    | with_reducible apply keep_repairRule

theorem keep_execHltRepairFullSelftest {p : Post} {failed : List Nat} {s : State} (h2 : keptD s.dev) : keptOut (execHltRepairFullSelftest p failed s) := by
  unfold execHltRepairFullSelftest
  repeat' first
    | with_reducible assumption
    | with_reducible intro _
    | with_reducible apply keep_answer
    | with_reducible apply keep_perform
    | with_reducible apply keep_repairRule

theorem keep_setAdmit {d : Dev} {a : AdmSt} (h0 : keptD d) : keptD (setAdmit d a) := by
  unfold setAdmit
  repeat' first
    | with_reducible assumption
    | (refine kept_guard ?_ ?_; (focus (simp only [isMk_mk]; done)); with_reducible refine kept_mk rfl (fun h => h) (fun h => h) (fun h => h) (fun h => h) ?_)

theorem keep_admitStart {p : Post} {failed : List Nat} {d : Dev} (h2 : keptD d) : keptRes (admitStart p failed d) := by
  unfold admitStart
  repeat' first
    | with_reducible assumption
    | with_reducible apply keep_fullTest
    | with_reducible apply keep_raise
    | with_reducible apply keep_setAdmit
    | with_reducible apply keep_send
    | with_reducible apply keptRes_done'
    | with_reducible apply keptRes_later'
    | split

theorem keep_admitRule {failed : List Nat} {p : Post} {d : Dev} (h2 : keptD d) : keptRes (admitRule failed p d) := by
  unfold admitRule
  repeat' first
    | with_reducible assumption
    | with_reducible apply keep_admitStart
    | with_reducible apply keptRes_plain
    | split
    | dsimp only

theorem keep_execAdmitDevice {p : Post} {failed : List Nat} {s : State} (h2 : keptD s.dev) : keptOut (execAdmitDevice p failed s) := by
  unfold execAdmitDevice
  repeat' first
    | with_reducible assumption
    | with_reducible intro _
    | with_reducible apply keep_answer
    | with_reducible apply keep_perform
    | with_reducible apply keep_admitRule

theorem keep_admitOpenIn {d : Dev} {j : DevIx} {pairs : List (PartId × PartId)} {shapes : List (Nat × Nat × Nat × Nat × List Nat)} (h0 : keptD d) : keptD (admitOpenIn d j pairs shapes) := by
  unfold admitOpenIn
  repeat' first
    | with_reducible assumption
    | with_reducible apply keep_send
    | with_reducible apply keep_postAbort
    | with_reducible apply keep_postUncorrectable
    | (refine kept_guard ?_ ?_; (focus (simp only [isMk_mk]; done)); (with_reducible refine kept_mk rfl ?_ ?_ ?_ ?_ ?_); (focus ((intro hw; repeat' (first | with_reducible exact hw | with_reducible assumption | with_reducible apply wf_memWrite | with_reducible apply wf_memPut | with_reducible apply wf_memZeroRange | with_reducible exact wf_nil | (with_reducible apply wf_foldl; intro _ _ _))); done)); (focus ((intro hw; repeat' (first | with_reducible exact hw | with_reducible assumption | with_reducible apply wf_memWrite | with_reducible apply wf_memPut | with_reducible apply wf_memZeroRange | with_reducible exact wf_nil | (with_reducible apply wf_foldl; intro _ _ _))); done)); (focus ((intro hw; repeat' (first | with_reducible exact hw | with_reducible assumption | with_reducible apply wf_memWrite | with_reducible apply wf_memPut | with_reducible apply wf_memZeroRange | with_reducible exact wf_nil | (with_reducible apply wf_foldl; intro _ _ _))); done)); (focus ((intro hw; repeat' (first | with_reducible exact hw | with_reducible assumption | with_reducible apply wf_memWrite | with_reducible apply wf_memPut | with_reducible apply wf_memZeroRange | with_reducible exact wf_nil | (with_reducible apply wf_foldl; intro _ _ _))); done)))
    | split

theorem keep_execAdmitOpen {fromDev : DevIx} {pairs : List (PartId × PartId)} {shapes : List (Nat × Nat × Nat × Nat × List Nat)} {s : State} (h3 : keptD s.dev) : keptOut (execAdmitOpen fromDev pairs shapes s) := by
  unfold execAdmitOpen
  repeat' first
    | with_reducible assumption
    | with_reducible apply keep_answer
    | with_reducible apply keep_admitOpenIn

theorem keep_loadPage {d : Dev} {part : Nat} {pas : Nat} {cells : List (Nat × Byte)} (h0 : keptD d) : keptO (loadPage d part pas cells) := by
  unfold loadPage
  repeat' first
    | with_reducible assumption
    | with_reducible intro _
    | (with_reducible apply keptO_map)
    | (refine kept_guard ?_ ?_; (focus (simp only [isMk_mk]; done)); (with_reducible refine kept_mk rfl ?_ ?_ ?_ ?_ ?_); (focus ((intro hw; repeat' (first | with_reducible exact hw | with_reducible assumption | with_reducible apply wf_memWrite | with_reducible apply wf_memPut | with_reducible apply wf_memZeroRange | with_reducible exact wf_nil | (with_reducible apply wf_foldl; intro _ _ _))); done)); (focus ((intro hw; repeat' (first | with_reducible exact hw | with_reducible assumption | with_reducible apply wf_memWrite | with_reducible apply wf_memPut | with_reducible apply wf_memZeroRange | with_reducible exact wf_nil | (with_reducible apply wf_foldl; intro _ _ _))); done)); (focus ((intro hw; repeat' (first | with_reducible exact hw | with_reducible assumption | with_reducible apply wf_memWrite | with_reducible apply wf_memPut | with_reducible apply wf_memZeroRange | with_reducible exact wf_nil | (with_reducible apply wf_foldl; intro _ _ _))); done)); (focus ((intro hw; repeat' (first | with_reducible exact hw | with_reducible assumption | with_reducible apply wf_memWrite | with_reducible apply wf_memPut | with_reducible apply wf_memZeroRange | with_reducible exact wf_nil | (with_reducible apply wf_foldl; intro _ _ _))); done)))

theorem keep_loadBasis {d : Dev} {part : Nat} {i : Nat} {second : Bool} {t : BasisSlot} (h0 : keptD d) : keptO (loadBasis d part i second t) := by
  unfold loadBasis
  repeat' first
    | with_reducible assumption
    | with_reducible apply keep_heapFree
    | with_reducible apply keep_freshObj
    | with_reducible apply keep_heapAlloc
    | with_reducible apply keep_setBasis
    | with_reducible apply keptO_none
    | with_reducible apply keptO_intro
    | with_reducible refine keptAlloc_ok (by assumption) ?_
    | split
    | with_reducible apply keptS_snd
    | dsimp only

theorem keep_loadLayout {d : Dev} {part : Nat} {id : Nat} {fields : BitVec 304} {proj : List W16} (h0 : keptD d) : keptO (loadLayout d part id fields proj) := by
  unfold loadLayout
  repeat' first
    | with_reducible assumption
    | with_reducible apply keep_dropLayout
    | with_reducible apply keep_freshObj
    | with_reducible apply keep_heapAlloc
    | with_reducible apply keptO_none
    | with_reducible apply keptO_intro
    | with_reducible refine keptAlloc_ok (by assumption) ?_
    | (refine kept_guard ?_ ?_; (focus (simp only [isMk_mk]; done)); (with_reducible refine kept_mk rfl ?_ ?_ ?_ ?_ ?_); (focus ((intro hw; repeat' (first | with_reducible exact hw | with_reducible assumption | with_reducible apply wf_memWrite | with_reducible apply wf_memPut | with_reducible apply wf_memZeroRange | with_reducible exact wf_nil | (with_reducible apply wf_foldl; intro _ _ _))); done)); (focus ((intro hw; repeat' (first | with_reducible exact hw | with_reducible assumption | with_reducible apply wf_memWrite | with_reducible apply wf_memPut | with_reducible apply wf_memZeroRange | with_reducible exact wf_nil | (with_reducible apply wf_foldl; intro _ _ _))); done)); (focus ((intro hw; repeat' (first | with_reducible exact hw | with_reducible assumption | with_reducible apply wf_memWrite | with_reducible apply wf_memPut | with_reducible apply wf_memZeroRange | with_reducible exact wf_nil | (with_reducible apply wf_foldl; intro _ _ _))); done)); (focus ((intro hw; repeat' (first | with_reducible exact hw | with_reducible assumption | with_reducible apply wf_memWrite | with_reducible apply wf_memPut | with_reducible apply wf_memZeroRange | with_reducible exact wf_nil | (with_reducible apply wf_foldl; intro _ _ _))); done)))
    | split
    | with_reducible apply keptS_snd
    | dsimp only

theorem keep_loadPart {pairs : List (PartId × PartId)} {d : Dev} {a : AdmitPart} (h1 : keptD d) : keptO (loadPart pairs d a) := by
  unfold loadPart
  repeat' first
    | with_reducible assumption
    | with_reducible apply keep_loadPage
    | with_reducible apply keep_loadBasis
    | with_reducible apply keep_loadLayout
    | with_reducible apply keptO_none
    | with_reducible apply keptO_intro
    | (refine kept_guard ?_ ?_; (focus (simp only [isMk_mk]; done)); (with_reducible refine kept_mk rfl ?_ ?_ ?_ ?_ ?_); (focus ((intro hw; repeat' (first | with_reducible exact hw | with_reducible assumption | with_reducible apply wf_memWrite | with_reducible apply wf_memPut | with_reducible apply wf_memZeroRange | with_reducible exact wf_nil | (with_reducible apply wf_foldl; intro _ _ _))); done)); (focus ((intro hw; repeat' (first | with_reducible exact hw | with_reducible assumption | with_reducible apply wf_memWrite | with_reducible apply wf_memPut | with_reducible apply wf_memZeroRange | with_reducible exact wf_nil | (with_reducible apply wf_foldl; intro _ _ _))); done)); (focus ((intro hw; repeat' (first | with_reducible exact hw | with_reducible assumption | with_reducible apply wf_memWrite | with_reducible apply wf_memPut | with_reducible apply wf_memZeroRange | with_reducible exact wf_nil | (with_reducible apply wf_foldl; intro _ _ _))); done)); (focus ((intro hw; repeat' (first | with_reducible exact hw | with_reducible assumption | with_reducible apply wf_memWrite | with_reducible apply wf_memPut | with_reducible apply wf_memZeroRange | with_reducible exact wf_nil | (with_reducible apply wf_foldl; intro _ _ _))); done)))
    | split
    | dsimp only

theorem keep_loadParts {pairs : List (PartId × PartId)} {y1 : List AdmitPart} {y2 : Dev} (h2 : keptD y2) : keptS (loadParts pairs y1 y2) := by
  induction y1 generalizing y2 with
  | nil =>
    unfold loadParts
    repeat' first
      | with_reducible assumption
      | with_reducible apply keptS_intro
  | cons e l ih =>
    unfold loadParts
    repeat' first
      | with_reducible assumption
      | with_reducible refine keptS_mk (by assumption) (ih ?_)
      | with_reducible apply ih
      | with_reducible apply keep_loadPart
      | with_reducible refine keptO_some (by assumption) ?_
      | split
      | with_reducible apply keptS_intro

theorem keep_admitVerify {d : Dev} {parts : List AdmitPart} {digest : BitVec 256} (h0 : keptD d) : keptD (admitVerify d parts digest) := by
  unfold admitVerify
  repeat' first
    | with_reducible assumption
    | with_reducible intro _
    | with_reducible refine keptS_snd (keep_loadParts ?_)
    | with_reducible apply keep_admitEnd
    | with_reducible apply keep_setAdmit
    | with_reducible apply keep_raise
    | with_reducible apply keep_joinCheck
    | with_reducible apply keep_send
    | (with_reducible apply kept_foldl)
    | split
    | dsimp only

theorem keep_execAdmitLoadDone {parts : List AdmitPart} {digest : BitVec 256} {s : State} (h2 : keptD s.dev) : keptOut (execAdmitLoadDone parts digest s) := by
  unfold execAdmitLoadDone
  repeat' first
    | with_reducible assumption
    | with_reducible apply keep_answer
    | with_reducible apply keep_admitVerify

theorem keep_loadStall {d : Dev} {partnerAborts : Bool} (h0 : keptD d) : keptD (loadStall d partnerAborts) := by
  unfold loadStall
  repeat' first
    | with_reducible assumption
    | with_reducible apply keep_admitEnd
    | with_reducible apply keep_postAbort
    | with_reducible apply keep_send
    | split
    | dsimp only

theorem keep_execAdmitStallTimeout {partnerAborts : Bool} {s : State} (h1 : keptD s.dev) : keptOut (execAdmitStallTimeout partnerAborts s) := by
  unfold execAdmitStallTimeout
  repeat' first
    | with_reducible assumption
    | with_reducible apply keep_answer
    | with_reducible apply keep_loadStall

theorem keep_partnerRefuses {d : Dev} (h0 : keptD d) : keptD (partnerRefuses d) := by
  unfold partnerRefuses
  repeat' first
    | with_reducible assumption
    | with_reducible apply keep_admitEnd
    | with_reducible apply keep_setAdmit
    | split
    | dsimp only

theorem keep_execAdmitPartnerRefuse {s : State} (h0 : keptD s.dev) : keptOut (execAdmitPartnerRefuse s) := by
  unfold execAdmitPartnerRefuse
  repeat' first
    | with_reducible assumption
    | with_reducible apply keep_answer
    | with_reducible apply keep_partnerRefuses

theorem keep_joinCalled {d : Dev} {j : DevIx} (h0 : keptD d) : keptD (joinCalled d j) := by
  unfold joinCalled
  repeat' first
    | with_reducible assumption
    | with_reducible apply keep_joinAnswer
    | (refine kept_guard ?_ ?_; (focus (simp only [isMk_mk]; done)); (with_reducible refine kept_mk rfl ?_ ?_ ?_ ?_ ?_); (focus ((intro hw; repeat' (first | with_reducible exact hw | with_reducible assumption | with_reducible apply wf_memWrite | with_reducible apply wf_memPut | with_reducible apply wf_memZeroRange | with_reducible exact wf_nil | (with_reducible apply wf_foldl; intro _ _ _))); done)); (focus ((intro hw; repeat' (first | with_reducible exact hw | with_reducible assumption | with_reducible apply wf_memWrite | with_reducible apply wf_memPut | with_reducible apply wf_memZeroRange | with_reducible exact wf_nil | (with_reducible apply wf_foldl; intro _ _ _))); done)); (focus ((intro hw; repeat' (first | with_reducible exact hw | with_reducible assumption | with_reducible apply wf_memWrite | with_reducible apply wf_memPut | with_reducible apply wf_memZeroRange | with_reducible exact wf_nil | (with_reducible apply wf_foldl; intro _ _ _))); done)); (focus ((intro hw; repeat' (first | with_reducible exact hw | with_reducible assumption | with_reducible apply wf_memWrite | with_reducible apply wf_memPut | with_reducible apply wf_memZeroRange | with_reducible exact wf_nil | (with_reducible apply wf_foldl; intro _ _ _))); done)))
    | split

theorem keep_execJoinCall {joiner : DevIx} {_barrierTo : Nat} {s : State} (h2 : keptD s.dev) : keptOut (execJoinCall joiner _barrierTo s) := by
  unfold execJoinCall
  repeat' first
    | with_reducible assumption
    | with_reducible apply keep_answer
    | with_reducible apply keep_joinCalled

theorem keep_joinArrived {d : Dev} {i : DevIx} (h0 : keptD d) : keptD (joinArrived d i) := by
  unfold joinArrived
  repeat' first
    | with_reducible assumption
    | with_reducible apply keep_joinCheck
    | with_reducible apply keep_setAdmit
    | split
    | dsimp only

theorem keep_execJoinArrive {fromDev : DevIx} {s : State} (h1 : keptD s.dev) : keptOut (execJoinArrive fromDev s) := by
  unfold execJoinArrive
  repeat' first
    | with_reducible assumption
    | with_reducible apply keep_answer
    | with_reducible apply keep_joinArrived

theorem keep_joinFree {d : Dev} {j : DevIx} (h0 : keptD d) : keptD (joinFree d j) := by
  unfold joinFree
  repeat' first
    | with_reducible assumption
    | (refine kept_guard ?_ ?_; (focus (simp only [isMk_mk]; done)); with_reducible refine kept_mk rfl (fun h => h) (fun h => h) (fun h => h) (fun h => h) ?_)

theorem keep_joinGoes {d : Dev} {j : DevIx} (h0 : keptD d) : keptD (joinGoes d j) := by
  unfold joinGoes
  repeat' first
    | with_reducible assumption
    | with_reducible apply keep_joinFree
    | (refine kept_guard ?_ ?_; (focus (simp only [isMk_mk]; done)); with_reducible refine kept_mk rfl (fun h => h) (fun h => h) (fun h => h) (fun h => h) ?_)

theorem keep_execJoinGo {joiner : DevIx} {s : State} (h1 : keptD s.dev) : keptOut (execJoinGo joiner s) := by
  unfold execJoinGo
  repeat' first
    | with_reducible assumption
    | with_reducible apply keep_answer
    | with_reducible apply keep_joinGoes

theorem keep_execJoinCancel {joiner : DevIx} {s : State} (h1 : keptD s.dev) : keptOut (execJoinCancel joiner s) := by
  unfold execJoinCancel
  repeat' first
    | with_reducible assumption
    | with_reducible apply keep_joinFree
    | with_reducible apply keep_answer
    | (refine kept_guard ?_ ?_; (focus (simp only [isMk_mk]; done)); with_reducible refine kept_mk rfl (fun h => h) (fun h => h) (fun h => h) (fun h => h) ?_)

theorem keep_barrierOver {d : Dev} (h0 : keptD d) : keptD (barrierOver d) := by
  unfold barrierOver
  repeat' first
    | with_reducible assumption
    | with_reducible intro _
    | with_reducible apply keep_admitEnd
    | with_reducible apply keep_send
    | with_reducible apply keep_joinFree
    | (with_reducible apply kept_foldl)
    | split
    | dsimp only

theorem keep_execJoinBarrierTimeout {s : State} (h0 : keptD s.dev) : keptOut (execJoinBarrierTimeout s) := by
  unfold execJoinBarrierTimeout
  repeat' first
    | with_reducible assumption
    | with_reducible apply keep_answer
    | with_reducible apply keep_barrierOver

theorem keep_resetTask {d : Dev} {n : Nat} (h0 : keptD d) : keptD (resetTask d n) := by
  unfold resetTask
  repeat' first
    | with_reducible assumption
    | with_reducible apply keep_endTaskNow
    | with_reducible apply keep_liftDone
    | with_reducible apply keep_finishTask
    | (refine kept_guard ?_ ?_; (focus (simp only [isMk_mk]; done)); (with_reducible refine kept_mk rfl ?_ ?_ ?_ ?_ ?_); (focus ((intro hw; repeat' (first | with_reducible exact hw | with_reducible assumption | with_reducible apply wf_memWrite | with_reducible apply wf_memPut | with_reducible apply wf_memZeroRange | with_reducible exact wf_nil | (with_reducible apply wf_foldl; intro _ _ _))); done)); (focus ((intro hw; repeat' (first | with_reducible exact hw | with_reducible assumption | with_reducible apply wf_memWrite | with_reducible apply wf_memPut | with_reducible apply wf_memZeroRange | with_reducible exact wf_nil | (with_reducible apply wf_foldl; intro _ _ _))); done)); (focus ((intro hw; repeat' (first | with_reducible exact hw | with_reducible assumption | with_reducible apply wf_memWrite | with_reducible apply wf_memPut | with_reducible apply wf_memZeroRange | with_reducible exact wf_nil | (with_reducible apply wf_foldl; intro _ _ _))); done)); (focus ((intro hw; repeat' (first | with_reducible exact hw | with_reducible assumption | with_reducible apply wf_memWrite | with_reducible apply wf_memPut | with_reducible apply wf_memZeroRange | with_reducible exact wf_nil | (with_reducible apply wf_foldl; intro _ _ _))); done)))
    | split

theorem keep_resetTasks {f : Fn} {mine : List Nat} {d : Dev} (h2 : keptD d) : keptD (resetTasks f mine d) := by
  unfold resetTasks
  repeat' first
    | with_reducible assumption
    | with_reducible intro _
    | with_reducible apply keep_resetTask
    | (with_reducible apply kept_foldl)

theorem keep_unsuspend {sel : Post → Bool} {d : Dev} {n : Nat} (h1 : keptD d) : keptD (unsuspend sel d n) := by
  unfold unsuspend
  repeat' first
    | with_reducible assumption
    | with_reducible apply keep_setPart
    | with_reducible apply keep_startHeld
    | split
    | dsimp only

theorem keep_resetWaiting {f : Fn} {mine : List Nat} {d : Dev} (h2 : keptD d) : keptD (resetWaiting f mine d) := by
  unfold resetWaiting
  repeat' first
    | with_reducible assumption
    | with_reducible intro _
    | with_reducible apply keep_unsuspend
    | with_reducible apply keep_admitEnd
    | with_reducible apply keep_complete
    | (with_reducible apply kept_foldl)
    | (refine kept_guard ?_ ?_; (focus (simp only [isMk_mk]; done)); (with_reducible refine kept_mk rfl ?_ ?_ ?_ ?_ ?_); (focus ((intro hw; repeat' (first | with_reducible exact hw | with_reducible assumption | with_reducible apply wf_memWrite | with_reducible apply wf_memPut | with_reducible apply wf_memZeroRange | with_reducible exact wf_nil | (with_reducible apply wf_foldl; intro _ _ _))); done)); (focus ((intro hw; repeat' (first | with_reducible exact hw | with_reducible assumption | with_reducible apply wf_memWrite | with_reducible apply wf_memPut | with_reducible apply wf_memZeroRange | with_reducible exact wf_nil | (with_reducible apply wf_foldl; intro _ _ _))); done)); (focus ((intro hw; repeat' (first | with_reducible exact hw | with_reducible assumption | with_reducible apply wf_memWrite | with_reducible apply wf_memPut | with_reducible apply wf_memZeroRange | with_reducible exact wf_nil | (with_reducible apply wf_foldl; intro _ _ _))); done)); (focus ((intro hw; repeat' (first | with_reducible exact hw | with_reducible assumption | with_reducible apply wf_memWrite | with_reducible apply wf_memPut | with_reducible apply wf_memZeroRange | with_reducible exact wf_nil | (with_reducible apply wf_foldl; intro _ _ _))); done)))
    | split

theorem keep_resetQps {f : Fn} {d : Dev} (h1 : keptD d) : keptD (resetQps f d) := by
  unfold resetQps
  repeat' first
    | with_reducible assumption
    | with_reducible intro _
    | with_reducible apply keep_complete
    | with_reducible apply keep_freeQp
    | (with_reducible apply kept_foldl)
    | (refine kept_guard ?_ ?_; (focus (simp only [isMk_mk]; done)); with_reducible refine kept_mk rfl (fun h => h) (fun h => h) (fun h => h) (fun h => h) ?_)

theorem keep_resetPod {f : Fn} {mine : List Nat} {d : Dev} (h2 : keptD d) : keptD (resetPod f mine d) := by
  unfold resetPod
  repeat' first
    | with_reducible assumption
    | (refine kept_guard ?_ ?_; (focus (simp only [isMk_mk]; done)); with_reducible refine kept_mk rfl (fun h => h) (fun h => h) (fun h => h) (fun h => h) ?_)

theorem keep_resetRequest {d : Dev} {req : W64} (h0 : keptD d) : keptD (resetRequest d req) := by
  unfold resetRequest
  repeat' first
    | with_reducible assumption
    | with_reducible apply keep_finalReq
    | with_reducible apply keep_endAsks
    | with_reducible apply keep_lockTell
    | split

theorem keep_resetBarge {d : Dev} {req : W64} (h0 : keptD d) : keptD (resetBarge d req) := by
  unfold resetBarge
  repeat' first
    | with_reducible assumption
    | with_reducible apply keep_releaseBarge
    | with_reducible apply keep_sendDrain
    | with_reducible apply keep_srcAbort
    | split
    | dsimp only

theorem keep_resetPages {d : Dev} {k : Nat} {t : TableSt} (h0 : keptD d) : keptD (resetPages d k t) := by
  unfold resetPages
  repeat' first
    | with_reducible assumption
    | with_reducible apply keep_pageSrcGone
    | with_reducible apply keep_lockTell
    | with_reducible apply keep_destroyTable
    | split

theorem keep_resetBarges {f : Fn} {mine : List Nat} {d : Dev} (h2 : keptD d) : keptD (resetBarges f mine d) := by
  unfold resetBarges
  repeat' first
    | with_reducible assumption
    | with_reducible intro _
    | with_reducible apply keep_settle
    | with_reducible apply keep_resetRequest
    | with_reducible apply keep_dstDrop
    | with_reducible apply keep_dstRefuse
    | with_reducible apply keep_resetBarge
    | with_reducible apply keep_resetPages
    | (with_reducible apply kept_foldl)

theorem keep_resetPart {f : Fn} {d : Dev} {n : Nat} (h1 : keptD d) : keptD (resetPart f d n) := by
  unfold resetPart
  repeat' first
    | with_reducible assumption
    | with_reducible intro _
    | with_reducible apply keep_destroyTable
    | with_reducible apply keep_freePart
    | with_reducible apply keep_setPart
    | with_reducible apply keep_rerunHeld
    | (with_reducible apply kept_foldl)
    | (refine kept_guard ?_ ?_; (focus (simp only [isMk_mk]; done)); (with_reducible refine kept_mk rfl ?_ ?_ ?_ ?_ ?_); (focus ((intro hw; repeat' (first | with_reducible exact hw | with_reducible assumption | with_reducible apply wf_memWrite | with_reducible apply wf_memPut | with_reducible apply wf_memZeroRange | with_reducible exact wf_nil | (with_reducible apply wf_foldl; intro _ _ _))); done)); (focus ((intro hw; repeat' (first | with_reducible exact hw | with_reducible assumption | with_reducible apply wf_memWrite | with_reducible apply wf_memPut | with_reducible apply wf_memZeroRange | with_reducible exact wf_nil | (with_reducible apply wf_foldl; intro _ _ _))); done)); (focus ((intro hw; repeat' (first | with_reducible exact hw | with_reducible assumption | with_reducible apply wf_memWrite | with_reducible apply wf_memPut | with_reducible apply wf_memZeroRange | with_reducible exact wf_nil | (with_reducible apply wf_foldl; intro _ _ _))); done)); (focus ((intro hw; repeat' (first | with_reducible exact hw | with_reducible assumption | with_reducible apply wf_memWrite | with_reducible apply wf_memPut | with_reducible apply wf_memZeroRange | with_reducible exact wf_nil | (with_reducible apply wf_foldl; intro _ _ _))); done)))

theorem keep_resetKeys {f : Fn} {d : Dev} (h1 : keptD d) : keptD (resetKeys f d) := by
  unfold resetKeys
  repeat' first
    | with_reducible assumption
    | (refine kept_guard ?_ ?_; (focus (simp only [isMk_mk]; done)); with_reducible refine kept_mk rfl (fun h => h) (fun h => h) (fun h => h) (fun h => h) ?_)

theorem keep_resetPolicers {f : Fn} {d : Dev} (h1 : keptD d) : keptD (resetPolicers f d) := by
  unfold resetPolicers
  repeat' first
    | with_reducible assumption
    | (refine kept_guard ?_ ?_; (focus (simp only [isMk_mk]; done)); with_reducible refine kept_mk rfl (fun h => h) (fun h => h) (fun h => h) (fun h => h) ?_)

theorem keep_resetClasses {f : Fn} {d : Dev} (h1 : keptD d) : keptD (resetClasses f d) := by
  unfold resetClasses
  repeat' first
    | with_reducible assumption
    | (refine kept_guard ?_ ?_; (focus (simp only [isMk_mk]; done)); with_reducible refine kept_mk rfl (fun h => h) (fun h => h) (fun h => h) (fun h => h) ?_)

theorem keep_resetRegs {f : Fn} {d : Dev} (h1 : keptD d) : keptD (resetRegs f d) := by
  unfold resetRegs
  repeat' first
    | with_reducible assumption
    | with_reducible apply keep_setFn
    | (refine kept_guard ?_ ?_; (focus (simp only [isMk_mk]; done)); with_reducible refine kept_mk rfl (fun h => h) (fun h => h) (fun h => h) (fun h => h) ?_)

theorem keep_resetWork {f : Fn} {mine : List Nat} {d : Dev} (h2 : keptD d) : keptD (resetWork f mine d) := by
  unfold resetWork
  repeat' first
    | with_reducible assumption
    | with_reducible apply keep_setFn
    | with_reducible apply keep_resetBarges
    | with_reducible apply keep_resetQps
    | with_reducible apply keep_resetPod
    | with_reducible apply keep_resetWaiting
    | with_reducible apply keep_resetTasks

theorem keep_vfReset {d : Dev} {v : Fn} (h0 : keptD d) : keptD (vfReset d v) := by
  unfold vfReset
  repeat' first
    | with_reducible assumption
    | with_reducible intro _
    | with_reducible apply keep_resetWork
    | with_reducible apply keep_resetPart
    | with_reducible apply keep_joinAnswer
    | with_reducible apply keep_resetRegs
    | with_reducible apply keep_resetClasses
    | with_reducible apply keep_resetPolicers
    | with_reducible apply keep_resetKeys
    | (with_reducible apply kept_foldl)

theorem keep_execVfFlr {v : Fn} {s : State} (h1 : keptD s.dev) : keptOut (execVfFlr v s) := by
  unfold execVfFlr
  repeat' first
    | with_reducible assumption
    | with_reducible apply keep_answer
    | with_reducible apply keep_vfReset
    | split

theorem keep_pfReset {d : Dev} (h0 : keptD d) : keptD (pfReset d) := by
  unfold pfReset
  repeat' first
    | with_reducible assumption
    | with_reducible intro _
    | with_reducible apply keep_vfReset
    | with_reducible apply keep_resetRegs
    | with_reducible apply keep_resetWork
    | (with_reducible apply kept_foldl)
    | (refine kept_guard ?_ ?_; (focus (simp only [isMk_mk]; done)); with_reducible refine kept_mk rfl (fun h => h) (fun h => h) (fun h => h) (fun h => h) ?_)

theorem keep_execPfFlr {s : State} (h0 : keptD s.dev) : keptOut (execPfFlr s) := by
  unfold execPfFlr
  repeat' first
    | with_reducible assumption
    | with_reducible apply keep_answer
    | with_reducible apply keep_pfReset

theorem keep_execPcieHotReset {s : State} (h0 : keptD s.dev) : keptOut (execPcieHotReset s) := by
  unfold execPcieHotReset
  repeat' first
    | with_reducible assumption
    | with_reducible apply keep_answer
    | with_reducible apply keep_pfReset

theorem keep_linkLost {d : Dev} (h0 : keptD d) : keptD (linkLost d) := by
  unfold linkLost
  repeat' first
    | with_reducible assumption
    | with_reducible apply keep_pfReset
    | (refine kept_guard ?_ ?_; (focus (simp only [isMk_mk]; done)); with_reducible refine kept_mk rfl (fun h => h) (fun h => h) (fun h => h) (fun h => h) ?_)

theorem keep_execPcieLinkDown {s : State} (h0 : keptD s.dev) : keptOut (execPcieLinkDown s) := by
  unfold execPcieLinkDown
  repeat' first
    | with_reducible assumption
    | with_reducible apply keep_answer
    | with_reducible apply keep_linkLost

theorem keep_vfWrite {d : Dev} {enable : Bool} {n : Nat} (h0 : keptD d) : keptD (vfWrite d enable n) := by
  have h : keptD ((List.filter (fun v => !(enable && decide (v.val ≤ if n ≤ 63 then n else d.numVfs))) (liveVfs d)).foldl vfReset d) :=
    kept_foldl h0 (fun d x h => keep_vfReset h)
  have hn : (if n ≤ 63 then n else d.numVfs) ≤ 63 := by
    simp only [keptD, devOk, Bool.and_eq_true, decide_eq_true_eq] at h0
    split
    · assumption
    · exact h0.2
  simp only [vfWrite]
  generalize List.foldl vfReset d _ = d1 at h ⊢
  exact kept_upd (d := d1) (fun _ => hn) (fun h => h) (fun h => h) (fun h => h) (fun h => h) h

theorem keep_execVfEnableWrite {enable : Bool} {numVfs : Nat} {s : State} (h2 : keptD s.dev) : keptOut (execVfEnableWrite enable numVfs s) := by
  unfold execVfEnableWrite
  repeat' first
    | with_reducible assumption
    | with_reducible apply keep_answer
    | with_reducible apply keep_vfWrite

theorem keep_clearDone {d : Dev} {v : Fn} (h0 : keptD d) : keptD (clearDone d v) := by
  unfold clearDone
  repeat' first
    | with_reducible assumption
    | with_reducible intro _
    | with_reducible apply keep_clearRun
    | with_reducible apply keep_setFn
    | (with_reducible apply kept_foldl)
    | (refine kept_guard ?_ ?_; (focus (simp only [isMk_mk]; done)); (with_reducible refine kept_mk rfl ?_ ?_ ?_ ?_ ?_); (focus ((intro hw; repeat' (first | with_reducible exact hw | with_reducible assumption | with_reducible apply wf_memWrite | with_reducible apply wf_memPut | with_reducible apply wf_memZeroRange | with_reducible exact wf_nil | (with_reducible apply wf_foldl; intro _ _ _))); done)); (focus ((intro hw; repeat' (first | with_reducible exact hw | with_reducible assumption | with_reducible apply wf_memWrite | with_reducible apply wf_memPut | with_reducible apply wf_memZeroRange | with_reducible exact wf_nil | (with_reducible apply wf_foldl; intro _ _ _))); done)); (focus ((intro hw; repeat' (first | with_reducible exact hw | with_reducible assumption | with_reducible apply wf_memWrite | with_reducible apply wf_memPut | with_reducible apply wf_memZeroRange | with_reducible exact wf_nil | (with_reducible apply wf_foldl; intro _ _ _))); done)); (focus ((intro hw; repeat' (first | with_reducible exact hw | with_reducible assumption | with_reducible apply wf_memWrite | with_reducible apply wf_memPut | with_reducible apply wf_memZeroRange | with_reducible exact wf_nil | (with_reducible apply wf_foldl; intro _ _ _))); done)))
    | split
    | dsimp only

theorem keep_execVfPageClearDone {v : Fn} {s : State} (h1 : keptD s.dev) : keptOut (execVfPageClearDone v s) := by
  unfold execVfPageClearDone
  repeat' first
    | with_reducible assumption
    | with_reducible apply keep_answer
    | with_reducible apply keep_clearDone

theorem keep_execDeviceReady {s : State} (h0 : keptD s.dev) : keptOut (execDeviceReady s) := by
  unfold execDeviceReady
  repeat' first
    | with_reducible assumption
    | with_reducible intro _
    | with_reducible apply keep_answer
    | with_reducible apply keep_sendHello
    | (with_reducible apply kept_foldl)
    | (refine kept_guard ?_ ?_; (focus (simp only [isMk_mk]; done)); with_reducible refine kept_mk rfl (fun h => h) (fun h => h) (fun h => h) (fun h => h) ?_)
    | split
    | dsimp only

theorem keep_loseDomain {d : Dev} {i : Nat} {offFrequency : Bool} (h0 : keptD d) : keptD (loseDomain d i offFrequency) := by
  unfold loseDomain
  repeat' first
    | with_reducible assumption
    | with_reducible apply keep_fenceDomain
    | with_reducible apply keep_linkLost
    | split

theorem keep_lockLoss {d : Dev} {i : Nat} (h0 : keptD d) : keptD (lockLoss d i) := by
  unfold lockLoss
  repeat' first
    | with_reducible assumption
    | with_reducible apply keep_resetEvent
    | with_reducible apply keep_loseDomain
    | (refine kept_guard ?_ ?_; (focus (simp only [isMk_mk]; done)); (with_reducible refine kept_mk rfl ?_ ?_ ?_ ?_ ?_); (focus ((intro hw; repeat' (first | with_reducible exact hw | with_reducible assumption | with_reducible apply wf_memWrite | with_reducible apply wf_memPut | with_reducible apply wf_memZeroRange | with_reducible exact wf_nil | (with_reducible apply wf_foldl; intro _ _ _))); done)); (focus ((intro hw; repeat' (first | with_reducible exact hw | with_reducible assumption | with_reducible apply wf_memWrite | with_reducible apply wf_memPut | with_reducible apply wf_memZeroRange | with_reducible exact wf_nil | (with_reducible apply wf_foldl; intro _ _ _))); done)); (focus ((intro hw; repeat' (first | with_reducible exact hw | with_reducible assumption | with_reducible apply wf_memWrite | with_reducible apply wf_memPut | with_reducible apply wf_memZeroRange | with_reducible exact wf_nil | (with_reducible apply wf_foldl; intro _ _ _))); done)); (focus ((intro hw; repeat' (first | with_reducible exact hw | with_reducible assumption | with_reducible apply wf_memWrite | with_reducible apply wf_memPut | with_reducible apply wf_memZeroRange | with_reducible exact wf_nil | (with_reducible apply wf_foldl; intro _ _ _))); done)))
    | split

theorem keep_execPllLockLoss {dom : Domain} {s : State} (h1 : keptD s.dev) : keptOut (execPllLockLoss dom s) := by
  unfold execPllLockLoss
  repeat' first
    | with_reducible assumption
    | with_reducible apply keep_answer
    | with_reducible apply keep_lockLoss

theorem keep_execClockMonitorTrip {dom : Domain} {offFrequency : Bool} {s : State} (h2 : keptD s.dev) : keptOut (execClockMonitorTrip dom offFrequency s) := by
  unfold execClockMonitorTrip
  repeat' first
    | with_reducible assumption
    | with_reducible apply keep_answer
    | with_reducible apply keep_loseDomain
    | split

theorem keep_fenceTiles {d : Dev} {ts : List Nat} (h0 : keptD d) : keptD (fenceTiles d ts) := by
  unfold fenceTiles
  repeat' first
    | with_reducible assumption
    | with_reducible intro _
    | with_reducible apply keep_fencePart
    | with_reducible apply keep_endTasks
    | with_reducible apply keep_fenceTile
    | (with_reducible apply kept_foldl)
    | (refine kept_guard ?_ ?_; (focus (simp only [isMk_mk]; done)); (with_reducible refine kept_mk rfl ?_ ?_ ?_ ?_ ?_); (focus ((intro hw; repeat' (first | with_reducible exact hw | with_reducible assumption | with_reducible apply wf_memWrite | with_reducible apply wf_memPut | with_reducible apply wf_memZeroRange | with_reducible exact wf_nil | (with_reducible apply wf_foldl; intro _ _ _))); done)); (focus ((intro hw; repeat' (first | with_reducible exact hw | with_reducible assumption | with_reducible apply wf_memWrite | with_reducible apply wf_memPut | with_reducible apply wf_memZeroRange | with_reducible exact wf_nil | (with_reducible apply wf_foldl; intro _ _ _))); done)); (focus ((intro hw; repeat' (first | with_reducible exact hw | with_reducible assumption | with_reducible apply wf_memWrite | with_reducible apply wf_memPut | with_reducible apply wf_memZeroRange | with_reducible exact wf_nil | (with_reducible apply wf_foldl; intro _ _ _))); done)); (focus ((intro hw; repeat' (first | with_reducible exact hw | with_reducible assumption | with_reducible apply wf_memWrite | with_reducible apply wf_memPut | with_reducible apply wf_memZeroRange | with_reducible exact wf_nil | (with_reducible apply wf_foldl; intro _ _ _))); done)))
    | split

theorem keep_fenceStacks {d : Dev} {ss : List Nat} (h0 : keptD d) : keptD (fenceStacks d ss) := by
  unfold fenceStacks
  repeat' first
    | with_reducible assumption
    | with_reducible intro _
    | with_reducible apply keep_fencePart
    | with_reducible apply keep_endTasks
    | (with_reducible apply kept_foldl)
    | (refine kept_guard ?_ ?_; (focus (simp only [isMk_mk]; done)); with_reducible refine kept_mk rfl (fun h => h) (fun h => h) (fun h => h) (fun h => h) ?_)

theorem keep_fencePorts {d : Dev} {ps : List Nat} (h0 : keptD d) : keptD (fencePorts d ps) := by
  unfold fencePorts
  repeat' first
    | with_reducible assumption
    | with_reducible intro _
    | with_reducible apply keep_fencePart
    | with_reducible apply keep_setPort
    | with_reducible apply keep_linkDown
    | (with_reducible apply kept_foldl)
    | (refine kept_guard ?_ ?_; (focus (simp only [isMk_mk]; done)); (with_reducible refine kept_mk rfl ?_ ?_ ?_ ?_ ?_); (focus ((intro hw; repeat' (first | with_reducible exact hw | with_reducible assumption | with_reducible apply wf_memWrite | with_reducible apply wf_memPut | with_reducible apply wf_memZeroRange | with_reducible exact wf_nil | (with_reducible apply wf_foldl; intro _ _ _))); done)); (focus ((intro hw; repeat' (first | with_reducible exact hw | with_reducible assumption | with_reducible apply wf_memWrite | with_reducible apply wf_memPut | with_reducible apply wf_memZeroRange | with_reducible exact wf_nil | (with_reducible apply wf_foldl; intro _ _ _))); done)); (focus ((intro hw; repeat' (first | with_reducible exact hw | with_reducible assumption | with_reducible apply wf_memWrite | with_reducible apply wf_memPut | with_reducible apply wf_memZeroRange | with_reducible exact wf_nil | (with_reducible apply wf_foldl; intro _ _ _))); done)); (focus ((intro hw; repeat' (first | with_reducible exact hw | with_reducible assumption | with_reducible apply wf_memWrite | with_reducible apply wf_memPut | with_reducible apply wf_memZeroRange | with_reducible exact wf_nil | (with_reducible apply wf_foldl; intro _ _ _))); done)))
    | split
    | dsimp only

theorem keep_fenceRail {d : Dev} {rail : Nat} (h0 : keptD d) : keptD (fenceRail d rail) := by
  unfold fenceRail
  repeat' first
    | with_reducible assumption
    | with_reducible apply keep_fencePorts
    | with_reducible apply keep_fenceStacks
    | with_reducible apply keep_fenceTiles
    | with_reducible apply keep_linkLost
    | with_reducible apply keep_assertAlert
    | with_reducible apply keep_loseAon
    | (refine kept_guard ?_ ?_; (focus (simp only [isMk_mk]; done)); (with_reducible refine kept_mk rfl ?_ ?_ ?_ ?_ ?_); (focus ((intro hw; repeat' (first | with_reducible exact hw | with_reducible assumption | with_reducible apply wf_memWrite | with_reducible apply wf_memPut | with_reducible apply wf_memZeroRange | with_reducible exact wf_nil | (with_reducible apply wf_foldl; intro _ _ _))); done)); (focus ((intro hw; repeat' (first | with_reducible exact hw | with_reducible assumption | with_reducible apply wf_memWrite | with_reducible apply wf_memPut | with_reducible apply wf_memZeroRange | with_reducible exact wf_nil | (with_reducible apply wf_foldl; intro _ _ _))); done)); (focus ((intro hw; repeat' (first | with_reducible exact hw | with_reducible assumption | with_reducible apply wf_memWrite | with_reducible apply wf_memPut | with_reducible apply wf_memZeroRange | with_reducible exact wf_nil | (with_reducible apply wf_foldl; intro _ _ _))); done)); (focus ((intro hw; repeat' (first | with_reducible exact hw | with_reducible assumption | with_reducible apply wf_memWrite | with_reducible apply wf_memPut | with_reducible apply wf_memZeroRange | with_reducible exact wf_nil | (with_reducible apply wf_foldl; intro _ _ _))); done)))
    | split

theorem keep_supplyTrip {d : Dev} {rail : Nat} {mV : W16} (h0 : keptD d) : keptD (supplyTrip d rail mV) := by
  unfold supplyTrip
  repeat' first
    | with_reducible assumption
    | with_reducible apply keep_fenceRail
    | with_reducible apply keep_raise
    | with_reducible apply keep_resetEvent
    | (refine kept_guard ?_ ?_; (focus (simp only [isMk_mk]; done)); (with_reducible refine kept_mk rfl ?_ ?_ ?_ ?_ ?_); (focus ((intro hw; repeat' (first | with_reducible exact hw | with_reducible assumption | with_reducible apply wf_memWrite | with_reducible apply wf_memPut | with_reducible apply wf_memZeroRange | with_reducible exact wf_nil | (with_reducible apply wf_foldl; intro _ _ _))); done)); (focus ((intro hw; repeat' (first | with_reducible exact hw | with_reducible assumption | with_reducible apply wf_memWrite | with_reducible apply wf_memPut | with_reducible apply wf_memZeroRange | with_reducible exact wf_nil | (with_reducible apply wf_foldl; intro _ _ _))); done)); (focus ((intro hw; repeat' (first | with_reducible exact hw | with_reducible assumption | with_reducible apply wf_memWrite | with_reducible apply wf_memPut | with_reducible apply wf_memZeroRange | with_reducible exact wf_nil | (with_reducible apply wf_foldl; intro _ _ _))); done)); (focus ((intro hw; repeat' (first | with_reducible exact hw | with_reducible assumption | with_reducible apply wf_memWrite | with_reducible apply wf_memPut | with_reducible apply wf_memZeroRange | with_reducible exact wf_nil | (with_reducible apply wf_foldl; intro _ _ _))); done)))
    | split

theorem keep_execSupplyMonitorTrip {rail : Fin 10} {mV : W16} {s : State} (h2 : keptD s.dev) : keptOut (execSupplyMonitorTrip rail mV s) := by
  unfold execSupplyMonitorTrip
  repeat' first
    | with_reducible assumption
    | with_reducible apply keep_answer
    | with_reducible apply keep_supplyTrip

theorem keep_setThrottle {d : Dev} {h : Nat} {v : Nat} (h0 : keptD d) : keptD (setThrottle d h v) := by
  unfold setThrottle
  repeat' first
    | with_reducible assumption
    | (refine kept_guard ?_ ?_; (focus (simp only [isMk_mk]; done)); (with_reducible refine kept_mk rfl ?_ ?_ ?_ ?_ ?_); (focus ((intro hw; repeat' (first | with_reducible exact hw | with_reducible assumption | with_reducible apply wf_memWrite | with_reducible apply wf_memPut | with_reducible apply wf_memZeroRange | with_reducible exact wf_nil | (with_reducible apply wf_foldl; intro _ _ _))); done)); (focus ((intro hw; repeat' (first | with_reducible exact hw | with_reducible assumption | with_reducible apply wf_memWrite | with_reducible apply wf_memPut | with_reducible apply wf_memZeroRange | with_reducible exact wf_nil | (with_reducible apply wf_foldl; intro _ _ _))); done)); (focus ((intro hw; repeat' (first | with_reducible exact hw | with_reducible assumption | with_reducible apply wf_memWrite | with_reducible apply wf_memPut | with_reducible apply wf_memZeroRange | with_reducible exact wf_nil | (with_reducible apply wf_foldl; intro _ _ _))); done)); (focus ((intro hw; repeat' (first | with_reducible exact hw | with_reducible assumption | with_reducible apply wf_memWrite | with_reducible apply wf_memPut | with_reducible apply wf_memZeroRange | with_reducible exact wf_nil | (with_reducible apply wf_foldl; intro _ _ _))); done)))
    | split

theorem keep_thermalSample {d : Dev} {h : Nat} {readings : List (BitVec 16)} (h0 : keptD d) : keptD (thermalSample d h readings) := by
  unfold thermalSample
  repeat' first
    | with_reducible assumption
    | with_reducible apply keep_raise
    | with_reducible apply keep_setThrottle
    | (refine kept_guard ?_ ?_; (focus (simp only [isMk_mk]; done)); (with_reducible refine kept_mk rfl ?_ ?_ ?_ ?_ ?_); (focus ((intro hw; repeat' (first | with_reducible exact hw | with_reducible assumption | with_reducible apply wf_memWrite | with_reducible apply wf_memPut | with_reducible apply wf_memZeroRange | with_reducible exact wf_nil | (with_reducible apply wf_foldl; intro _ _ _))); done)); (focus ((intro hw; repeat' (first | with_reducible exact hw | with_reducible assumption | with_reducible apply wf_memWrite | with_reducible apply wf_memPut | with_reducible apply wf_memZeroRange | with_reducible exact wf_nil | (with_reducible apply wf_foldl; intro _ _ _))); done)); (focus ((intro hw; repeat' (first | with_reducible exact hw | with_reducible assumption | with_reducible apply wf_memWrite | with_reducible apply wf_memPut | with_reducible apply wf_memZeroRange | with_reducible exact wf_nil | (with_reducible apply wf_foldl; intro _ _ _))); done)); (focus ((intro hw; repeat' (first | with_reducible exact hw | with_reducible assumption | with_reducible apply wf_memWrite | with_reducible apply wf_memPut | with_reducible apply wf_memZeroRange | with_reducible exact wf_nil | (with_reducible apply wf_foldl; intro _ _ _))); done)))
    | split
    | dsimp only

theorem keep_execThermalSample {h : Half} {readings : List (BitVec 16)} {s : State} (h2 : keptD s.dev) : keptOut (execThermalSample h readings s) := by
  unfold execThermalSample
  repeat' first
    | with_reducible assumption
    | with_reducible apply keep_answer
    | with_reducible apply keep_thermalSample

theorem keep_tickAll {d : Dev} (h0 : keptD d) : keptD (tickAll d) := by
  unfold tickAll
  repeat' first
    | with_reducible assumption
    | (refine kept_guard ?_ ?_; (focus (simp only [isMk_mk]; done)); with_reducible refine kept_mk rfl (fun h => h) (fun h => h) (fun h => h) (fun h => h) ?_)

theorem keep_enterDormant {d : Dev} (h0 : keptD d) : keptD (enterDormant d) := by
  unfold enterDormant
  repeat' first
    | with_reducible assumption
    | with_reducible apply keep_tickAll
    | (refine kept_guard ?_ ?_; (focus (simp only [isMk_mk]; done)); with_reducible refine kept_mk rfl (fun h => h) (fun h => h) (fun h => h) (fun h => h) ?_)

theorem keep_leaveDormant {d : Dev} (h0 : keptD d) : keptD (leaveDormant d) := by
  unfold leaveDormant
  repeat' first
    | with_reducible assumption
    | with_reducible intro _
    | with_reducible apply keep_tickAll
    | with_reducible apply keep_startTraining
    | (with_reducible apply kept_foldl)
    | (refine kept_guard ?_ ?_; (focus (simp only [isMk_mk]; done)); (with_reducible refine kept_mk rfl ?_ ?_ ?_ ?_ ?_); (focus ((intro hw; repeat' (first | with_reducible exact hw | with_reducible assumption | with_reducible apply wf_memWrite | with_reducible apply wf_memPut | with_reducible apply wf_memZeroRange | with_reducible exact wf_nil | (with_reducible apply wf_foldl; intro _ _ _))); done)); (focus ((intro hw; repeat' (first | with_reducible exact hw | with_reducible assumption | with_reducible apply wf_memWrite | with_reducible apply wf_memPut | with_reducible apply wf_memZeroRange | with_reducible exact wf_nil | (with_reducible apply wf_foldl; intro _ _ _))); done)); (focus ((intro hw; repeat' (first | with_reducible exact hw | with_reducible assumption | with_reducible apply wf_memWrite | with_reducible apply wf_memPut | with_reducible apply wf_memZeroRange | with_reducible exact wf_nil | (with_reducible apply wf_foldl; intro _ _ _))); done)); (focus ((intro hw; repeat' (first | with_reducible exact hw | with_reducible assumption | with_reducible apply wf_memWrite | with_reducible apply wf_memPut | with_reducible apply wf_memZeroRange | with_reducible exact wf_nil | (with_reducible apply wf_foldl; intro _ _ _))); done)))

theorem keep_pwrState {p : Post} {d : Dev} (h1 : keptD d) : keptRes (pwrState p d) := by
  unfold pwrState
  repeat' first
    | with_reducible assumption
    | with_reducible apply keep_leaveDormant
    | with_reducible apply keep_enterDormant
    | with_reducible apply keptRes_plain
    | split
    | dsimp only

theorem keep_execPwrStateDormant {p : Post} {s : State} (h1 : keptD s.dev) : keptOut (execPwrStateDormant p s) := by
  unfold execPwrStateDormant
  repeat' first
    | with_reducible assumption
    | with_reducible intro _
    | with_reducible apply keep_answer
    | with_reducible apply keep_perform
    | with_reducible apply keep_pwrState

theorem keep_execPwrStateActive {p : Post} {s : State} (h1 : keptD s.dev) : keptOut (execPwrStateActive p s) := by
  unfold execPwrStateActive
  repeat' first
    | with_reducible assumption
    | with_reducible intro _
    | with_reducible apply keep_answer
    | with_reducible apply keep_perform
    | with_reducible apply keep_pwrState

theorem keep_execD3hotEntry {s : State} (h0 : keptD s.dev) : keptOut (execD3hotEntry s) := by
  unfold execD3hotEntry
  repeat' first
    | with_reducible assumption
    | with_reducible apply keep_answer
    | with_reducible apply keep_enterDormant
    | (refine kept_guard ?_ ?_; (focus (simp only [isMk_mk]; done)); with_reducible refine kept_mk rfl (fun h => h) (fun h => h) (fun h => h) (fun h => h) ?_)
    | split
    | dsimp only

theorem keep_sendPending {d : Dev} {f : Fn} (h0 : keptD d) : keptD (sendPending d f) := by
  unfold sendPending
  repeat' first
    | with_reducible assumption
    | with_reducible intro _
    | with_reducible apply keep_fireVector
    | with_reducible apply keep_setFn
    | (with_reducible apply kept_foldl)
    | split

theorem keep_execD0Entry {s : State} (h0 : keptD s.dev) : keptOut (execD0Entry s) := by
  unfold execD0Entry
  repeat' first
    | with_reducible assumption
    | with_reducible intro _
    | with_reducible apply keep_answer
    | with_reducible apply keep_leaveDormant
    | with_reducible apply keep_sendPending
    | (with_reducible apply kept_foldl)
    | (refine kept_guard ?_ ?_; (focus (simp only [isMk_mk]; done)); (with_reducible refine kept_mk rfl ?_ ?_ ?_ ?_ ?_); (focus ((intro hw; repeat' (first | with_reducible exact hw | with_reducible assumption | with_reducible apply wf_memWrite | with_reducible apply wf_memPut | with_reducible apply wf_memZeroRange | with_reducible exact wf_nil | (with_reducible apply wf_foldl; intro _ _ _))); done)); (focus ((intro hw; repeat' (first | with_reducible exact hw | with_reducible assumption | with_reducible apply wf_memWrite | with_reducible apply wf_memPut | with_reducible apply wf_memZeroRange | with_reducible exact wf_nil | (with_reducible apply wf_foldl; intro _ _ _))); done)); (focus ((intro hw; repeat' (first | with_reducible exact hw | with_reducible assumption | with_reducible apply wf_memWrite | with_reducible apply wf_memPut | with_reducible apply wf_memZeroRange | with_reducible exact wf_nil | (with_reducible apply wf_foldl; intro _ _ _))); done)); (focus ((intro hw; repeat' (first | with_reducible exact hw | with_reducible assumption | with_reducible apply wf_memWrite | with_reducible apply wf_memPut | with_reducible apply wf_memZeroRange | with_reducible exact wf_nil | (with_reducible apply wf_foldl; intro _ _ _))); done)))
    | split
    | dsimp only

theorem keep_rejectBad {f : Fn} {r : Nat} {d : Dev} (h2 : keptD d) : keptD (rejectBad f r d) := by
  unfold rejectBad
  repeat' first
    | with_reducible assumption
    | with_reducible intro _
    | with_reducible apply keptRes_plain
    | with_reducible apply keep_perform
    | (with_reducible apply kept_foldl)

theorem keep_fetchOne {d : Dev} {f : Fn} {r : Nat} (h0 : keptD d) : keptD (fetchOne d f r) := by
  unfold fetchOne
  repeat' first
    | with_reducible assumption
    | with_reducible apply keep_setRing
    | with_reducible apply keep_setFn
    | with_reducible apply keep_completeRing
    | split
    | dsimp only

theorem keep_fetchMany {f : Fn} {r : Nat} {y2 : Nat} {y3 : Dev} (h3 : keptD y3) : keptD (fetchMany f r y2 y3) := by
  induction y2 generalizing y3 with
  | zero =>
    unfold fetchMany
    repeat' first
      | with_reducible assumption
  | succ k ih =>
    unfold fetchMany
    repeat' first
      | with_reducible assumption
      | with_reducible apply ih
      | with_reducible apply keep_fetchOne
      | split

theorem keep_execDescriptorFetch {fn : Fn} {ring : Nat} {poison : List Nat} {s : State} (h3 : keptD s.dev) : keptOut (execDescriptorFetch fn ring poison s) := by
  unfold execDescriptorFetch
  repeat' first
    | with_reducible assumption
    | with_reducible apply keep_answer
    | with_reducible apply keep_rejectBad
    | with_reducible apply keep_fetchMany
    | (refine kept_guard ?_ ?_; (focus (simp only [isMk_mk]; done)); with_reducible refine kept_mk rfl (fun h => h) (fun h => h) (fun h => h) (fun h => h) ?_)

theorem keep_setLocks {d : Dev} {m : BitVec 5} (h0 : keptD d) : keptD (setLocks d m) := by
  unfold setLocks
  repeat' first
    | with_reducible assumption
    | (refine kept_guard ?_ ?_; (focus (simp only [isMk_mk]; done)); with_reducible refine kept_mk rfl (fun h => h) (fun h => h) (fun h => h) (fun h => h) ?_)

theorem keep_lockRow {bit : Nat} {s : State} (h1 : keptD s.dev) : keptOut (lockRow bit s) := by
  unfold lockRow
  repeat' first
    | with_reducible assumption
    | with_reducible apply keep_answer
    | with_reducible apply keep_setLocks
    | split

theorem keep_execLockOptSet {s : State} (h0 : keptD s.dev) : keptOut (execLockOptSet s) := by
  unfold execLockOptSet
  repeat' first
    | with_reducible assumption
    | with_reducible apply keep_lockRow

theorem keep_execLockPartSet {s : State} (h0 : keptD s.dev) : keptOut (execLockPartSet s) := by
  unfold execLockPartSet
  repeat' first
    | with_reducible assumption
    | with_reducible apply keep_lockRow

theorem keep_execLockRouteSet {s : State} (h0 : keptD s.dev) : keptOut (execLockRouteSet s) := by
  unfold execLockRouteSet
  repeat' first
    | with_reducible assumption
    | with_reducible apply keep_lockRow

theorem keep_execLockKeysSet {s : State} (h0 : keptD s.dev) : keptOut (execLockKeysSet s) := by
  unfold execLockKeysSet
  repeat' first
    | with_reducible assumption
    | with_reducible apply keep_lockRow

theorem keep_execLockDebugSet {s : State} (h0 : keptD s.dev) : keptOut (execLockDebugSet s) := by
  unfold execLockDebugSet
  repeat' first
    | with_reducible assumption
    | with_reducible apply keep_lockRow

theorem keep_secSlotPut {d : Dev} {n : Nat} {mask : BitVec 128} {val : BitVec 128} (h0 : keptD d) : keptD (secSlotPut d n mask val) := by
  unfold secSlotPut
  repeat' first
    | with_reducible assumption
    | (refine kept_guard ?_ ?_; (focus (simp only [isMk_mk]; done)); with_reducible refine kept_mk rfl (fun h => h) (fun h => h) (fun h => h) (fun h => h) ?_)

theorem keep_keyCmd {d : Dev} {n : Nat} (h0 : keptD d) : keptD (keyCmd d n) := by
  unfold keyCmd
  repeat' first
    | with_reducible assumption
    | (refine kept_guard ?_ ?_; (focus (simp only [isMk_mk]; done)); with_reducible refine kept_mk rfl (fun h => h) (fun h => h) (fun h => h) (fun h => h) ?_)

theorem keep_execSecKeyCmd {slot : Fin 256} {s : State} (h1 : keptD s.dev) : keptOut (execSecKeyCmd slot s) := by
  unfold execSecKeyCmd
  repeat' first
    | with_reducible assumption
    | with_reducible apply keep_answer
    | with_reducible apply keep_keyCmd
    | split

theorem keep_keyDataPut {d : Dev} {b : Nat} {n : Nat} {v : W64} (h0 : keptD d) : keptD (keyDataPut d b n v) := by
  unfold keyDataPut
  repeat' first
    | with_reducible assumption
    | (refine kept_guard ?_ ?_; (focus (simp only [isMk_mk]; done)); with_reducible refine kept_mk rfl (fun h => h) (fun h => h) (fun h => h) (fun h => h) ?_)

theorem keep_ipPut {d : Dev} {n : Nat} {mask : BitVec 128} {val : BitVec 128} (h0 : keptD d) : keptD (ipPut d n mask val) := by
  unfold ipPut
  repeat' first
    | with_reducible assumption
    | with_reducible apply keep_cfgSet
    | (refine kept_guard ?_ ?_; (focus (simp only [isMk_mk]; done)); (with_reducible refine kept_mk rfl ?_ ?_ ?_ ?_ ?_); (focus ((intro hw; repeat' (first | with_reducible exact hw | with_reducible assumption | with_reducible apply wf_memWrite | with_reducible apply wf_memPut | with_reducible apply wf_memZeroRange | with_reducible exact wf_nil | (with_reducible apply wf_foldl; intro _ _ _))); done)); (focus ((intro hw; repeat' (first | with_reducible exact hw | with_reducible assumption | with_reducible apply wf_memWrite | with_reducible apply wf_memPut | with_reducible apply wf_memZeroRange | with_reducible exact wf_nil | (with_reducible apply wf_foldl; intro _ _ _))); done)); (focus ((intro hw; repeat' (first | with_reducible exact hw | with_reducible assumption | with_reducible apply wf_memWrite | with_reducible apply wf_memPut | with_reducible apply wf_memZeroRange | with_reducible exact wf_nil | (with_reducible apply wf_foldl; intro _ _ _))); done)); (focus ((intro hw; repeat' (first | with_reducible exact hw | with_reducible assumption | with_reducible apply wf_memWrite | with_reducible apply wf_memPut | with_reducible apply wf_memZeroRange | with_reducible exact wf_nil | (with_reducible apply wf_foldl; intro _ _ _))); done)))
    | split
    | dsimp only

theorem keep_execXptIpLowWrite {n : PortNo} {value : W64} {s : State} (h2 : keptD s.dev) : keptOut (execXptIpLowWrite n value s) := by
  unfold execXptIpLowWrite
  repeat' first
    | with_reducible assumption
    | with_reducible apply keep_answer
    | with_reducible apply keep_ipPut
    | split

theorem keep_execXptIpHighWrite {n : PortNo} {value : W64} {s : State} (h2 : keptD s.dev) : keptOut (execXptIpHighWrite n value s) := by
  unfold execXptIpHighWrite
  repeat' first
    | with_reducible assumption
    | with_reducible apply keep_answer
    | with_reducible apply keep_ipPut
    | split

theorem keep_clearAlert {d : Dev} (h0 : keptD d) : keptD (clearAlert d) := by
  unfold clearAlert
  repeat' first
    | with_reducible assumption
    | (refine kept_guard ?_ ?_; (focus (simp only [isMk_mk]; done)); with_reducible refine kept_mk rfl (fun h => h) (fun h => h) (fun h => h) (fun h => h) ?_)

theorem keep_execAlertClear {newFence : Bool} {s : State} (h1 : keptD s.dev) : keptOut (execAlertClear newFence s) := by
  unfold execAlertClear
  repeat' first
    | with_reducible assumption
    | with_reducible apply keep_answer
    | with_reducible apply keep_clearAlert
    | split

theorem keep_promiseChanged {d : Dev} {d1 : Dev} (h0 : keptD d) (h1 : keptD d1) : keptD (promiseChanged d d1) := by
  unfold promiseChanged
  repeat' first
    | with_reducible assumption
    | with_reducible apply keep_raise
    | split

theorem keep_portCtlPut {d : Dev} {n : Nat} {mask : BitVec 128} {val : BitVec 128} (h0 : keptD d) : keptD (portCtlPut d n mask val) := by
  unfold portCtlPut
  repeat' first
    | with_reducible assumption
    | with_reducible apply keep_cfgSet
    | with_reducible apply keep_writeMode
    | with_reducible apply keep_writeRetrain
    | split
    | dsimp only

theorem keep_qpRangePut {d : Dev} {f : Nat} {mask : BitVec 128} {val : BitVec 128} (h0 : keptD d) : keptD (qpRangePut d f mask val) := by
  unfold qpRangePut
  repeat' first
    | with_reducible assumption
    | with_reducible apply keep_cfgSet
    | split
    | dsimp only

theorem keep_sluDefaultPut {d : Dev} {n : Nat} {mask : BitVec 128} {val : BitVec 128} (h0 : keptD d) : keptD (sluDefaultPut d n mask val) := by
  unfold sluDefaultPut
  repeat' first
    | with_reducible assumption
    | with_reducible apply keep_cfgSet
    | split
    | dsimp only

theorem keep_regPut {d : Dev} {r : RegName} {mask : BitVec 128} {val : BitVec 128} (h0 : keptD d) : keptD (regPut d r mask val) := by
  unfold regPut
  repeat' first
    | with_reducible assumption
    | with_reducible apply keep_setLocks
    | with_reducible apply keep_clearAlert
    | with_reducible apply keep_startFailover
    | with_reducible apply keep_secSlotPut
    | with_reducible apply keep_keyCmd
    | with_reducible apply keep_portCtlPut
    | with_reducible apply keep_camCfgPut
    | with_reducible apply keep_sluDefaultPut
    | with_reducible apply keep_qpRangePut
    | with_reducible apply keep_ipPut
    | with_reducible apply keep_promiseChanged
    | with_reducible apply keep_cfgSet
    | with_reducible apply keep_podDigest
    | with_reducible apply keep_ringBaseWrite
    | with_reducible apply keep_ringCtlWrite
    | with_reducible apply keep_ringModWrite
    | split
    | dsimp only

theorem keep_regBytesPut {d : Dev} {r : RegName} {b : Nat} {n : Nat} {v : W64} (h0 : keptD d) : keptD (regBytesPut d r b n v) := by
  unfold regBytesPut
  repeat' first
    | with_reducible assumption
    | with_reducible apply keep_keyDataPut
    | with_reducible apply keep_regPut
    | split

theorem keep_writeWord {d : Dev} {o : Nat} {v : W32} (h0 : keptD d) : keptD (writeWord d o v) := by
  unfold writeWord
  repeat' first
    | with_reducible assumption
    | with_reducible apply keep_regBytesPut
    | split

theorem keep_writeRegs {d : Dev} {o : Nat} {eight : Bool} {v : W64} (h0 : keptD d) : keptD (writeRegs d o eight v) := by
  unfold writeRegs
  repeat' first
    | with_reducible assumption
    | with_reducible apply keep_writeWord
    | with_reducible apply keep_regBytesPut
    | split

theorem keep_aliasBit {d : Dev} {a : Nat} {on : Bool} (h0 : keptD d) : keptD (aliasBit d a on) := by
  unfold aliasBit
  repeat' first
    | with_reducible assumption
    | with_reducible apply keep_regPut
    | split
    | dsimp only

theorem keep_writeAlias {d : Dev} {a : Nat} {eight : Bool} {v : W64} (h0 : keptD d) : keptD (writeAlias d a eight v) := by
  unfold writeAlias
  repeat' first
    | with_reducible assumption
    | with_reducible apply keep_aliasBit
    | split

theorem keep_writeDoorbell {d : Dev} {f : Fn} {o : Nat} {eight : Bool} {v : W64} (h0 : keptD d) : keptD (writeDoorbell d f o eight v) := by
  unfold writeDoorbell
  repeat' first
    | with_reducible assumption
    | with_reducible apply keep_settle
    | with_reducible apply keep_cancelWrite
    | with_reducible apply keep_doorbell
    | split

theorem keep_writePf {d : Dev} {o : Nat} {eight : Bool} {v : W64} (h0 : keptD d) : keptD (writePf d o eight v) := by
  unfold writePf
  repeat' first
    | with_reducible assumption
    | with_reducible apply keep_writeRegs
    | with_reducible apply keep_writeAlias
    | with_reducible apply keep_writeDoorbell
    | split

theorem keep_ringBlockPut {d : Dev} {f : Fn} {r : Nat} {o : Nat} {mask : W64} {val : W64} (h0 : keptD d) : keptD (ringBlockPut d f r o mask val) := by
  unfold ringBlockPut
  repeat' first
    | with_reducible assumption
    | with_reducible apply keep_ringBaseWrite
    | with_reducible apply keep_ringCtlWrite
    | with_reducible apply keep_ringModWrite
    | split

theorem keep_maskVector {d : Dev} {f : Fn} {vec : Nat} {masked : Bool} (h0 : keptD d) : keptD (maskVector d f vec masked) := by
  unfold maskVector
  repeat' first
    | with_reducible assumption
    | with_reducible apply keep_setFn
    | with_reducible apply keep_fireVector
    | split
    | dsimp only

theorem keep_writeVf {d : Dev} {f : Fn} {o : Nat} {eight : Bool} {v : W64} (h0 : keptD d) : keptD (writeVf d f o eight v) := by
  unfold writeVf
  repeat' first
    | with_reducible assumption
    | with_reducible apply keep_ringBlockPut
    | with_reducible apply keep_maskVector
    | with_reducible apply keep_writeDoorbell
    | split

theorem keep_badAccess {d : Dev} {f : Fn} {o : Nat} {size : Nat} {isWrite : Bool} (h0 : keptD d) : keptD (badAccess d f o size isWrite) := by
  unfold badAccess
  repeat' first
    | with_reducible assumption
    | with_reducible apply keep_send
    | (refine kept_guard ?_ ?_; (focus (simp only [isMk_mk]; done)); (with_reducible refine kept_mk rfl ?_ ?_ ?_ ?_ ?_); (focus ((intro hw; repeat' (first | with_reducible exact hw | with_reducible assumption | with_reducible apply wf_memWrite | with_reducible apply wf_memPut | with_reducible apply wf_memZeroRange | with_reducible exact wf_nil | (with_reducible apply wf_foldl; intro _ _ _))); done)); (focus ((intro hw; repeat' (first | with_reducible exact hw | with_reducible assumption | with_reducible apply wf_memWrite | with_reducible apply wf_memPut | with_reducible apply wf_memZeroRange | with_reducible exact wf_nil | (with_reducible apply wf_foldl; intro _ _ _))); done)); (focus ((intro hw; repeat' (first | with_reducible exact hw | with_reducible assumption | with_reducible apply wf_memWrite | with_reducible apply wf_memPut | with_reducible apply wf_memZeroRange | with_reducible exact wf_nil | (with_reducible apply wf_foldl; intro _ _ _))); done)); (focus ((intro hw; repeat' (first | with_reducible exact hw | with_reducible assumption | with_reducible apply wf_memWrite | with_reducible apply wf_memPut | with_reducible apply wf_memZeroRange | with_reducible exact wf_nil | (with_reducible apply wf_foldl; intro _ _ _))); done)))
    | split

theorem keep_barWrite {d : Dev} {f : Fn} {o : Nat} {eight : Bool} {v : W64} (h0 : keptD d) : keptD (barWrite d f o eight v) := by
  unfold barWrite
  repeat' first
    | with_reducible assumption
    | with_reducible apply keep_badAccess
    | with_reducible apply keep_writePf
    | with_reducible apply keep_writeVf
    | split

theorem keep_execRegisterWrite {fn : Fn} {offset : Nat} {eight : Bool} {value : W64} {s : State} (h4 : keptD s.dev) : keptOut (execRegisterWrite fn offset eight value s) := by
  unfold execRegisterWrite
  repeat' first
    | with_reducible assumption
    | with_reducible apply keep_answer
    | with_reducible apply keep_barWrite

theorem keep_execBarInvalidAccess {fn : Fn} {offset : Nat} {size : Nat} {isWrite : Bool} {s : State} (h4 : keptD s.dev) : keptOut (execBarInvalidAccess fn offset size isWrite s) := by
  unfold execBarInvalidAccess
  repeat' first
    | with_reducible assumption
    | with_reducible apply keep_answer
    | with_reducible apply keep_badAccess
    | split

theorem keep_execBitAliasWrite {offset : Nat} {eight : Bool} {value : W64} {s : State} (h3 : keptD s.dev) : keptOut (execBitAliasWrite offset eight value s) := by
  unfold execBitAliasWrite
  repeat' first
    | with_reducible assumption
    | with_reducible apply keep_answer
    | with_reducible apply keep_barWrite
    | split

theorem keep_smbAnswer {bs : Dev → List Byte} {s : State} (h1 : keptD s.dev) : keptOut (smbAnswer bs s) := by
  unfold smbAnswer
  repeat' first
    | with_reducible assumption
    | with_reducible apply keep_answer
    | with_reducible apply keep_send
    | split

theorem keep_execSmbReadGlbId {s : State} (h0 : keptD s.dev) : keptOut (execSmbReadGlbId s) := by
  unfold execSmbReadGlbId
  repeat' first
    | with_reducible assumption
    | with_reducible apply keep_smbAnswer

theorem keep_execSmbReadRstStat {s : State} (h0 : keptD s.dev) : keptOut (execSmbReadRstStat s) := by
  unfold execSmbReadRstStat
  repeat' first
    | with_reducible assumption
    | with_reducible apply keep_smbAnswer

theorem keep_execSmbReadOptStat {s : State} (h0 : keptD s.dev) : keptOut (execSmbReadOptStat s) := by
  unfold execSmbReadOptStat
  repeat' first
    | with_reducible assumption
    | with_reducible apply keep_smbAnswer

theorem keep_execSmbReadHltStat {s : State} (h0 : keptD s.dev) : keptOut (execSmbReadHltStat s) := by
  unfold execSmbReadHltStat
  repeat' first
    | with_reducible assumption
    | with_reducible apply keep_smbAnswer

theorem keep_execSmbReadTemperature {s : State} (h0 : keptD s.dev) : keptOut (execSmbReadTemperature s) := by
  unfold execSmbReadTemperature
  repeat' first
    | with_reducible assumption
    | with_reducible apply keep_smbAnswer

theorem keep_execSmbReadRails {s : State} (h0 : keptD s.dev) : keptOut (execSmbReadRails s) := by
  unfold execSmbReadRails
  repeat' first
    | with_reducible assumption
    | with_reducible apply keep_smbAnswer

theorem keep_execSmbAlertResponse {s : State} (h0 : keptD s.dev) : keptOut (execSmbAlertResponse s) := by
  unfold execSmbAlertResponse
  repeat' first
    | with_reducible assumption
    | with_reducible apply keep_answer
    | with_reducible apply keep_send
    | (refine kept_guard ?_ ?_; (focus (simp only [isMk_mk]; done)); (with_reducible refine kept_mk rfl ?_ ?_ ?_ ?_ ?_); (focus ((intro hw; repeat' (first | with_reducible exact hw | with_reducible assumption | with_reducible apply wf_memWrite | with_reducible apply wf_memPut | with_reducible apply wf_memZeroRange | with_reducible exact wf_nil | (with_reducible apply wf_foldl; intro _ _ _))); done)); (focus ((intro hw; repeat' (first | with_reducible exact hw | with_reducible assumption | with_reducible apply wf_memWrite | with_reducible apply wf_memPut | with_reducible apply wf_memZeroRange | with_reducible exact wf_nil | (with_reducible apply wf_foldl; intro _ _ _))); done)); (focus ((intro hw; repeat' (first | with_reducible exact hw | with_reducible assumption | with_reducible apply wf_memWrite | with_reducible apply wf_memPut | with_reducible apply wf_memZeroRange | with_reducible exact wf_nil | (with_reducible apply wf_foldl; intro _ _ _))); done)); (focus ((intro hw; repeat' (first | with_reducible exact hw | with_reducible assumption | with_reducible apply wf_memWrite | with_reducible apply wf_memPut | with_reducible apply wf_memZeroRange | with_reducible exact wf_nil | (with_reducible apply wf_foldl; intro _ _ _))); done)))
    | split

theorem keep_execJtagBypass {s : State} (h0 : keptD s.dev) : keptOut (execJtagBypass s) := by
  unfold execJtagBypass
  repeat' first
    | with_reducible assumption
    | with_reducible apply keep_answer
    | with_reducible apply keep_send
    | (refine kept_guard ?_ ?_; (focus (simp only [isMk_mk]; done)); with_reducible refine kept_mk rfl (fun h => h) (fun h => h) (fun h => h) (fun h => h) ?_)

theorem keep_execJtagSamplePreload {preload : List Bool} {s : State} (h1 : keptD s.dev) : keptOut (execJtagSamplePreload preload s) := by
  unfold execJtagSamplePreload
  repeat' first
    | with_reducible assumption
    | with_reducible apply keep_answer
    | with_reducible apply keep_send
    | (refine kept_guard ?_ ?_; (focus (simp only [isMk_mk]; done)); with_reducible refine kept_mk rfl (fun h => h) (fun h => h) (fun h => h) (fun h => h) ?_)

theorem keep_execJtagExtest {s : State} (h0 : keptD s.dev) : keptOut (execJtagExtest s) := by
  unfold execJtagExtest
  repeat' first
    | with_reducible assumption
    | with_reducible apply keep_answer
    | (refine kept_guard ?_ ?_; (focus (simp only [isMk_mk]; done)); with_reducible refine kept_mk rfl (fun h => h) (fun h => h) (fun h => h) (fun h => h) ?_)

theorem keep_execJtagIdcode {s : State} (h0 : keptD s.dev) : keptOut (execJtagIdcode s) := by
  unfold execJtagIdcode
  repeat' first
    | with_reducible assumption
    | with_reducible apply keep_answer
    | with_reducible apply keep_send
    | (refine kept_guard ?_ ?_; (focus (simp only [isMk_mk]; done)); with_reducible refine kept_mk rfl (fun h => h) (fun h => h) (fun h => h) (fun h => h) ?_)

theorem keep_execTrstNLow {s : State} (h0 : keptD s.dev) : keptOut (execTrstNLow s) := by
  unfold execTrstNLow
  repeat' first
    | with_reducible assumption
    | with_reducible apply keep_answer
    | (refine kept_guard ?_ ?_; (focus (simp only [isMk_mk]; done)); with_reducible refine kept_mk rfl (fun h => h) (fun h => h) (fun h => h) (fun h => h) ?_)

theorem keep_execJtagPrivateInstruction {_code : Byte} {s : State} (h1 : keptD s.dev) : keptOut (execJtagPrivateInstruction _code s) := by
  unfold execJtagPrivateInstruction
  repeat' first
    | with_reducible assumption
    | with_reducible apply keep_answer
    | with_reducible apply keptOut_refused
    | split

end Sys2Proof.Machine
end

