-- ==== Sys2Proof/Laws/KeepExec.lean ====
section
/-! SUPPORT. Every operation keeps the invariant of Safety.lean, one lemma each: every command. -/
namespace Sys2Proof.Machine
open Sys2Proof
-- each goal is closed by the first of its alternatives that applies, so an alternative may go unused
set_option linter.all false

theorem keep_exec {i : Instr} {s : State} (h1 : keptD s.dev) : keptOut (exec i s) := by
  unfold exec
  repeat' first
    | with_reducible assumption
    | with_reducible apply keep_execPowerOnDetect
    | with_reducible apply keep_execSysRstNLow
    | with_reducible apply keep_execPwrOkLow
    | with_reducible apply keep_execResetRelease
    | with_reducible apply keep_execReferenceCheck
    | with_reducible apply keep_execOptionLoad
    | with_reducible apply keep_execPllLock
    | with_reducible apply keep_execDomainRelease
    | with_reducible apply keep_execImageVerify
    | with_reducible apply keep_execEndpointReady
    | with_reducible apply keep_execHbmTrainingDone
    | with_reducible apply keep_execHbmClearDone
    | with_reducible apply keep_execDeviceReady
    | with_reducible apply keep_execPllLockLoss
    | with_reducible apply keep_execClockMonitorTrip
    | with_reducible apply keep_execSupplyMonitorTrip
    | with_reducible apply keep_execThermTrip
    | with_reducible apply keep_execThermalSample
    | with_reducible apply keep_execPwrStateDormant
    | with_reducible apply keep_execPwrStateActive
    | with_reducible apply keep_execD3hotEntry
    | with_reducible apply keep_execD0Entry
    | with_reducible apply keep_execOptWrite
    | with_reducible apply keep_execFwWrite
    | with_reducible apply keep_execAttest
    | with_reducible apply keep_execJrnlRead
    | with_reducible apply keep_execJournalCommit
    | with_reducible apply keep_execRegisterWrite
    | with_reducible apply keep_execBarInvalidAccess
    | with_reducible apply keep_execBitAliasWrite
    | with_reducible apply keep_execLockOptSet
    | with_reducible apply keep_execLockPartSet
    | with_reducible apply keep_execLockRouteSet
    | with_reducible apply keep_execLockKeysSet
    | with_reducible apply keep_execLockDebugSet
    | with_reducible apply keep_execSecKeyCmd
    | with_reducible apply keep_execXptIpLowWrite
    | with_reducible apply keep_execXptIpHighWrite
    | with_reducible apply keep_execCamCfgWrite
    | with_reducible apply keep_execFabPortMode
    | with_reducible apply keep_execFabPortRetrain
    | with_reducible apply keep_execAlertClear
    | with_reducible apply keep_execLkpFailoverGo
    | with_reducible apply keep_execVfEnableWrite
    | with_reducible apply keep_execBusMasterEnable
    | with_reducible apply keep_execMsixUnmask
    | with_reducible apply keep_execVfFlr
    | with_reducible apply keep_execPfFlr
    | with_reducible apply keep_execPcieHotReset
    | with_reducible apply keep_execPcieLinkDown
    | with_reducible apply keep_execVfPageClearDone
    | with_reducible apply keep_execRingEnable
    | with_reducible apply keep_execRingDisable
    | with_reducible apply keep_execProducedDoorbell
    | with_reducible apply keep_execConsumedDoorbell
    | with_reducible apply keep_execCancelDoorbell
    | with_reducible apply keep_execDescriptorFetch
    | with_reducible apply keep_execCompletionRecordWrite
    | with_reducible apply keep_execEventPost
    | with_reducible apply keep_execRingModTimer
    | with_reducible apply keep_execMatmul
    | with_reducible apply keep_execGroupedMatmul
    | with_reducible apply keep_execRoute
    | with_reducible apply keep_execNorm
    | with_reducible apply keep_execElementwise
    | with_reducible apply keep_execSoftmax
    | with_reducible apply keep_execGather
    | with_reducible apply keep_execSample
    | with_reducible apply keep_execConvert
    | with_reducible apply keep_execCompress
    | with_reducible apply keep_execReduce
    | with_reducible apply keep_execCopy
    | with_reducible apply keep_execGradWeight
    | with_reducible apply keep_execActBwd
    | with_reducible apply keep_execNormBwd
    | with_reducible apply keep_execOptimAdamw
    | with_reducible apply keep_execKvAppend
    | with_reducible apply keep_execAttend
    | with_reducible apply keep_execKvVerify
    | with_reducible apply keep_execAppendSlotWaitEnd
    | with_reducible apply keep_execFarLegQuery
    | with_reducible apply keep_execPartialRecords
    | with_reducible apply keep_execFarLegTimeout
    | with_reducible apply keep_execTileBoundary
    | with_reducible apply keep_execChunkEnd
    | with_reducible apply keep_execWorkItemComplete
    | with_reducible apply keep_execBasisReplace
    | with_reducible apply keep_execBasisRetire
    | with_reducible apply keep_execBasisDrainDone
    | with_reducible apply keep_execPartCreate
    | with_reducible apply keep_execPartDestroy
    | with_reducible apply keep_execPartRole
    | with_reducible apply keep_execPartSuspend
    | with_reducible apply keep_execPartResume
    | with_reducible apply keep_execPartSwitch
    | with_reducible apply keep_execPassAbandonTimeout
    | with_reducible apply keep_execPartSaveComplete
    | with_reducible apply keep_execPartRestoreComplete
    | with_reducible apply keep_execCompose
    | with_reducible apply keep_execComposeRemove
    | with_reducible apply keep_execComposeConfirmTimeout
    | with_reducible apply keep_execLiftStart
    | with_reducible apply keep_execLiftStop
    | with_reducible apply keep_execLiftLoadComplete
    | with_reducible apply keep_execLiftLoadFailure
    | with_reducible apply keep_execLiftFenceTimeout
    | with_reducible apply keep_execWeirRetry
    | with_reducible apply keep_execKvLayout
    | with_reducible apply keep_execKvLayoutRemove
    | with_reducible apply keep_execKvPolicy
    | with_reducible apply keep_execPtCreate
    | with_reducible apply keep_execPtFork
    | with_reducible apply keep_execPtTruncate
    | with_reducible apply keep_execPtDestroy
    | with_reducible apply keep_execPtQuery
    | with_reducible apply keep_execLockMove
    | with_reducible apply keep_execLockResolve
    | with_reducible apply keep_execBargeQuery
    | with_reducible apply keep_execBargeRehome
    | with_reducible apply keep_execBargeRelease
    | with_reducible apply keep_execFillOpen
    | with_reducible apply keep_execReady
    | with_reducible apply keep_execFillData
    | with_reducible apply keep_execFillRoundEnd
    | with_reducible apply keep_execSeal
    | with_reducible apply keep_execAccept
    | with_reducible apply keep_execRefuse
    | with_reducible apply keep_execCommit
    | with_reducible apply keep_execAbort
    | with_reducible apply keep_execDrainDone
    | with_reducible apply keep_execHomeQuery
    | with_reducible apply keep_execHomeReply
    | with_reducible apply keep_execResolve
    | with_reducible apply keep_execResolved
    | with_reducible apply keep_execRelease
    | with_reducible apply keep_execLoss
    | with_reducible apply keep_execToken
    | with_reducible apply keep_execTokenAck
    | with_reducible apply keep_execTokenAckTimeout
    | with_reducible apply keep_execGateTimerExpiry
    | with_reducible apply keep_execFillReadyTimeout
    | with_reducible apply keep_execPartyQueryTimeout
    | with_reducible apply keep_execDrainResendTimeout
    | with_reducible apply keep_execQueryReplyTimeout
    | with_reducible apply keep_execRequestSubmit
    | with_reducible apply keep_execRequestAdmitRetry
    | with_reducible apply keep_execRequestCancel
    | with_reducible apply keep_execRequestMoor
    | with_reducible apply keep_execRequestResume
    | with_reducible apply keep_execReqClass
    | with_reducible apply keep_execBudgetSet
    | with_reducible apply keep_execStepProgram
    | with_reducible apply keep_execStepAdmission
    | with_reducible apply keep_execStepEnd
    | with_reducible apply keep_execDeadlineCheck
    | with_reducible apply keep_execMooringTtlExpiry
    | with_reducible apply keep_execBudgetWindowStart
    | with_reducible apply keep_execOutput
    | with_reducible apply keep_execConsumerWordReread
    | with_reducible apply keep_execOutputModTimer
    | with_reducible apply keep_execLeaseAsk
    | with_reducible apply keep_execLeaseGrant
    | with_reducible apply keep_execRingHold
    | with_reducible apply keep_execRingFree
    | with_reducible apply keep_execCancel
    | with_reducible apply keep_execReport
    | with_reducible apply keep_execMemMap
    | with_reducible apply keep_execMemUnmap
    | with_reducible apply keep_execMemModePool
    | with_reducible apply keep_execMemModeNormal
    | with_reducible apply keep_execMemHeap
    | with_reducible apply keep_execHbmDredgeTick
    | with_reducible apply keep_execTsDredgeTick
    | with_reducible apply keep_execPodAtomic
    | with_reducible apply keep_execPodFence
    | with_reducible apply keep_execReplRegion
    | with_reducible apply keep_execReplRegionRemove
    | with_reducible apply keep_execReplicateUpdate
    | with_reducible apply keep_execReplCoordinatorUpdate
    | with_reducible apply keep_execReplMemberAck
    | with_reducible apply keep_execLaneFailure
    | with_reducible apply keep_execTrainingLock
    | with_reducible apply keep_execTrainingTimeout
    | with_reducible apply keep_execHelloTimer
    | with_reducible apply keep_execHello
    | with_reducible apply keep_execHelloTimeout
    | with_reducible apply keep_execRetrainLock
    | with_reducible apply keep_execRetrainTimeout
    | with_reducible apply keep_execCellCrcFailure
    | with_reducible apply keep_execNak
    | with_reducible apply keep_execIdle
    | with_reducible apply keep_execRouterForward
    | with_reducible apply keep_execLoad
    | with_reducible apply keep_execStore
    | with_reducible apply keep_execAtomic
    | with_reducible apply keep_execLoadRsp
    | with_reducible apply keep_execStoreAck
    | with_reducible apply keep_execAtomicRsp
    | with_reducible apply keep_execPodCompletionTimeout
    | with_reducible apply keep_execBeatSend
    | with_reducible apply keep_execBeat
    | with_reducible apply keep_execPeerLossTimeout
    | with_reducible apply keep_execAqueductCrcFailure
    | with_reducible apply keep_execQpCreate
    | with_reducible apply keep_execQpConnect
    | with_reducible apply keep_execQpDestroy
    | with_reducible apply keep_execQpQuery
    | with_reducible apply keep_execXptPut
    | with_reducible apply keep_execXptGet
    | with_reducible apply keep_execXptAtomic
    | with_reducible apply keep_execXptSignal
    | with_reducible apply keep_execQpWait
    | with_reducible apply keep_execQpWaitSatisfied
    | with_reducible apply keep_execQpWaitTimeout
    | with_reducible apply keep_execData
    | with_reducible apply keep_execGetReq
    | with_reducible apply keep_execAtomicReq
    | with_reducible apply keep_execAtomicRspPacket
    | with_reducible apply keep_execSignal
    | with_reducible apply keep_execTow
    | with_reducible apply keep_execAck
    | with_reducible apply keep_execMsgNak
    | with_reducible apply keep_execContextWait
    | with_reducible apply keep_execBackoffEnd
    | with_reducible apply keep_execAckTimer
    | with_reducible apply keep_execRtoExpiry
    | with_reducible apply keep_execContextFetchDone
    | with_reducible apply keep_execFrameReceive
    | with_reducible apply keep_execFrameClassify
    | with_reducible apply keep_execClassifyInsert
    | with_reducible apply keep_execClassifyRemove
    | with_reducible apply keep_execPolicerSet
    | with_reducible apply keep_execPolicerQuery
    | with_reducible apply keep_execPolicerCreditTick
    | with_reducible apply keep_execLocateScan
    | with_reducible apply keep_execCamShadowCheck
    | with_reducible apply keep_execEgressServe
    | with_reducible apply keep_execVoteSweep
    | with_reducible apply keep_execLockstepMismatch
    | with_reducible apply keep_execFailoverResume
    | with_reducible apply keep_execSelftestSliceStart
    | with_reducible apply keep_execSelftestSliceEnd
    | with_reducible apply keep_execHealthWindowEnd
    | with_reducible apply keep_execHealthGrantRequest
    | with_reducible apply keep_execHltRepairSubstitute
    | with_reducible apply keep_execHltRepairUnfence
    | with_reducible apply keep_execHltRepairClearFlag
    | with_reducible apply keep_execHltRepairFullSelftest
    | with_reducible apply keep_execAdmitDevice
    | with_reducible apply keep_execAdmitOpen
    | with_reducible apply keep_execAdmitLoadDone
    | with_reducible apply keep_execAdmitStallTimeout
    | with_reducible apply keep_execJoinCall
    | with_reducible apply keep_execJoinArrive
    | with_reducible apply keep_execJoinGo
    | with_reducible apply keep_execJoinCancel
    | with_reducible apply keep_execJoinBarrierTimeout
    | with_reducible apply keep_execSmbReadGlbId
    | with_reducible apply keep_execSmbReadRstStat
    | with_reducible apply keep_execSmbReadOptStat
    | with_reducible apply keep_execSmbReadHltStat
    | with_reducible apply keep_execSmbReadTemperature
    | with_reducible apply keep_execSmbReadRails
    | with_reducible apply keep_execSmbAlertResponse
    | with_reducible apply keep_execJtagBypass
    | with_reducible apply keep_execJtagSamplePreload
    | with_reducible apply keep_execJtagExtest
    | with_reducible apply keep_execJtagIdcode
    | with_reducible apply keep_execTrainingRestart
    | with_reducible apply keep_execSuppliesGood
    | with_reducible apply keep_execComposePeerConfirm
    | with_reducible apply keep_execExpelGrant
    | with_reducible apply keep_execAdmitPartnerRefuse
    | with_reducible apply keep_execHbmLaneFailing
    | with_reducible apply keep_execTrstNLow
    | with_reducible apply keep_execJtagPrivateInstruction
    | split

end Sys2Proof.Machine
end

