-- ==== Sys2Proof/Laws/State.lean ====
section
/-! SUPPORT. What each shared update of the device leaves of every other field, one lemma per field, so that no proof unfolds an
update. The lemmas of setFn, setRing, send and assertAlert hold by rfl. -/
namespace Sys2Proof.Machine


@[simp] theorem setFn_tclk (d : Dev) (f : Fn) (x : FnSt) : (setFn d f x).tclk = d.tclk := rfl
@[simp] theorem setFn_boot (d : Dev) (f : Fn) (x : FnSt) : (setFn d f x).boot = d.boot := rfl
@[simp] theorem setFn_flash (d : Dev) (f : Fn) (x : FnSt) : (setFn d f x).flash = d.flash := rfl
@[simp] theorem setFn_pins (d : Dev) (f : Fn) (x : FnSt) : (setFn d f x).pins = d.pins := rfl
@[simp] theorem setFn_regs (d : Dev) (f : Fn) (x : FnSt) : (setFn d f x).regs = d.regs := rfl
@[simp] theorem setFn_ipHeld (d : Dev) (f : Fn) (x : FnSt) : (setFn d f x).ipHeld = d.ipHeld := rfl
@[simp] theorem setFn_locks (d : Dev) (f : Fn) (x : FnSt) : (setFn d f x).locks = d.locks := rfl
@[simp] theorem setFn_keys (d : Dev) (f : Fn) (x : FnSt) : (setFn d f x).keys = d.keys := rfl
@[simp] theorem setFn_keyData (d : Dev) (f : Fn) (x : FnSt) : (setFn d f x).keyData = d.keyData := rfl
@[simp] theorem setFn_numVfs (d : Dev) (f : Fn) (x : FnSt) : (setFn d f x).numVfs = d.numVfs := rfl
@[simp] theorem setFn_vfEnable (d : Dev) (f : Fn) (x : FnSt) : (setFn d f x).vfEnable = d.vfEnable := rfl
@[simp] theorem setFn_aer (d : Dev) (f : Fn) (x : FnSt) : (setFn d f x).aer = d.aer := rfl
@[simp] theorem setFn_host (d : Dev) (f : Fn) (x : FnSt) : (setFn d f x).host = d.host := rfl
@[simp] theorem setFn_hostBad (d : Dev) (f : Fn) (x : FnSt) : (setFn d f x).hostBad = d.hostBad := rfl
@[simp] theorem setFn_hbm (d : Dev) (f : Fn) (x : FnSt) : (setFn d f x).hbm = d.hbm := rfl
@[simp] theorem setFn_hbmBad (d : Dev) (f : Fn) (x : FnSt) : (setFn d f x).hbmBad = d.hbmBad := rfl
@[simp] theorem setFn_ts (d : Dev) (f : Fn) (x : FnSt) : (setFn d f x).ts = d.ts := rfl
@[simp] theorem setFn_tsBad (d : Dev) (f : Fn) (x : FnSt) : (setFn d f x).tsBad = d.tsBad := rfl
@[simp] theorem setFn_pool (d : Dev) (f : Fn) (x : FnSt) : (setFn d f x).pool = d.pool := rfl
@[simp] theorem setFn_dredge (d : Dev) (f : Fn) (x : FnSt) : (setFn d f x).dredge = d.dredge := rfl
@[simp] theorem setFn_tileMap (d : Dev) (f : Fn) (x : FnSt) : (setFn d f x).tileMap = d.tileMap := rfl
@[simp] theorem setFn_tileFreeW (d : Dev) (f : Fn) (x : FnSt) : (setFn d f x).tileFreeW = d.tileFreeW := rfl
@[simp] theorem setFn_tileFreeE (d : Dev) (f : Fn) (x : FnSt) : (setFn d f x).tileFreeE = d.tileFreeE := rfl
@[simp] theorem setFn_parts (d : Dev) (f : Fn) (x : FnSt) : (setFn d f x).parts = d.parts := rfl
@[simp] theorem setFn_stallCyc (d : Dev) (f : Fn) (x : FnSt) : (setFn d f x).stallCyc = d.stallCyc := rfl
@[simp] theorem setFn_stallCnt (d : Dev) (f : Fn) (x : FnSt) : (setFn d f x).stallCnt = d.stallCnt := rfl
@[simp] theorem setFn_links (d : Dev) (f : Fn) (x : FnSt) : (setFn d f x).links = d.links := rfl
@[simp] theorem setFn_composing (d : Dev) (f : Fn) (x : FnSt) : (setFn d f x).composing = d.composing := rfl
@[simp] theorem setFn_health (d : Dev) (f : Fn) (x : FnSt) : (setFn d f x).health = d.health := rfl
@[simp] theorem setFn_stepResults (d : Dev) (f : Fn) (x : FnSt) : (setFn d f x).stepResults = d.stepResults := rfl
@[simp] theorem setFn_clearPages (d : Dev) (f : Fn) (x : FnSt) : (setFn d f x).clearPages = d.clearPages := rfl
@[simp] theorem setFn_objNo (d : Dev) (f : Fn) (x : FnSt) : (setFn d f x).objNo = d.objNo := rfl
@[simp] theorem setFn_bases (d : Dev) (f : Fn) (x : FnSt) : (setFn d f x).bases = d.bases := rfl
@[simp] theorem setFn_tasks (d : Dev) (f : Fn) (x : FnSt) : (setFn d f x).tasks = d.tasks := rfl
@[simp] theorem setFn_taskNo (d : Dev) (f : Fn) (x : FnSt) : (setFn d f x).taskNo = d.taskNo := rfl
@[simp] theorem setFn_cancelled (d : Dev) (f : Fn) (x : FnSt) : (setFn d f x).cancelled = d.cancelled := rfl
@[simp] theorem setFn_staging (d : Dev) (f : Fn) (x : FnSt) : (setFn d f x).staging = d.staging := rfl
@[simp] theorem setFn_ports (d : Dev) (f : Fn) (x : FnSt) : (setFn d f x).ports = d.ports := rfl
@[simp] theorem setFn_podOps (d : Dev) (f : Fn) (x : FnSt) : (setFn d f x).podOps = d.podOps := rfl
@[simp] theorem setFn_podTxn (d : Dev) (f : Fn) (x : FnSt) : (setFn d f x).podTxn = d.podTxn := rfl
@[simp] theorem setFn_fences (d : Dev) (f : Fn) (x : FnSt) : (setFn d f x).fences = d.fences := rfl
@[simp] theorem setFn_peerLost (d : Dev) (f : Fn) (x : FnSt) : (setFn d f x).peerLost = d.peerLost := rfl
@[simp] theorem setFn_beats (d : Dev) (f : Fn) (x : FnSt) : (setFn d f x).beats = d.beats := rfl
@[simp] theorem setFn_repl (d : Dev) (f : Fn) (x : FnSt) : (setFn d f x).repl = d.repl := rfl
@[simp] theorem setFn_replVer (d : Dev) (f : Fn) (x : FnSt) : (setFn d f x).replVer = d.replVer := rfl
@[simp] theorem setFn_replPosts (d : Dev) (f : Fn) (x : FnSt) : (setFn d f x).replPosts = d.replPosts := rfl
@[simp] theorem setFn_replTag (d : Dev) (f : Fn) (x : FnSt) : (setFn d f x).replTag = d.replTag := rfl
@[simp] theorem setFn_replQueue (d : Dev) (f : Fn) (x : FnSt) : (setFn d f x).replQueue = d.replQueue := rfl
@[simp] theorem setFn_camW (d : Dev) (f : Fn) (x : FnSt) : (setFn d f x).camW = d.camW := rfl
@[simp] theorem setFn_camE (d : Dev) (f : Fn) (x : FnSt) : (setFn d f x).camE = d.camE := rfl
@[simp] theorem setFn_policers (d : Dev) (f : Fn) (x : FnSt) : (setFn d f x).policers = d.policers := rfl
@[simp] theorem setFn_layouts (d : Dev) (f : Fn) (x : FnSt) : (setFn d f x).layouts = d.layouts := rfl
@[simp] theorem setFn_tables (d : Dev) (f : Fn) (x : FnSt) : (setFn d f x).tables = d.tables := rfl
@[simp] theorem setFn_tags (d : Dev) (f : Fn) (x : FnSt) : (setFn d f x).tags = d.tags := rfl
@[simp] theorem setFn_farWait (d : Dev) (f : Fn) (x : FnSt) : (setFn d f x).farWait = d.farWait := rfl
@[simp] theorem setFn_tableHeld (d : Dev) (f : Fn) (x : FnSt) : (setFn d f x).tableHeld = d.tableHeld := rfl
@[simp] theorem setFn_barges (d : Dev) (f : Fn) (x : FnSt) : (setFn d f x).barges = d.barges := rfl
@[simp] theorem setFn_pageSrcs (d : Dev) (f : Fn) (x : FnSt) : (setFn d f x).pageSrcs = d.pageSrcs := rfl
@[simp] theorem setFn_dsts (d : Dev) (f : Fn) (x : FnSt) : (setFn d f x).dsts = d.dsts := rfl
@[simp] theorem setFn_homes (d : Dev) (f : Fn) (x : FnSt) : (setFn d f x).homes = d.homes := rfl
@[simp] theorem setFn_xferNo (d : Dev) (f : Fn) (x : FnSt) : (setFn d f x).xferNo = d.xferNo := rfl
@[simp] theorem setFn_mooredNo (d : Dev) (f : Fn) (x : FnSt) : (setFn d f x).mooredNo = d.mooredNo := rfl
@[simp] theorem setFn_inbox (d : Dev) (f : Fn) (x : FnSt) : (setFn d f x).inbox = d.inbox := rfl
@[simp] theorem setFn_requests (d : Dev) (f : Fn) (x : FnSt) : (setFn d f x).requests = d.requests := rfl
@[simp] theorem setFn_ended (d : Dev) (f : Fn) (x : FnSt) : (setFn d f x).ended = d.ended := rfl
@[simp] theorem setFn_badCancels (d : Dev) (f : Fn) (x : FnSt) : (setFn d f x).badCancels = d.badCancels := rfl
@[simp] theorem setFn_classes (d : Dev) (f : Fn) (x : FnSt) : (setFn d f x).classes = d.classes := rfl
@[simp] theorem setFn_budgets (d : Dev) (f : Fn) (x : FnSt) : (setFn d f x).budgets = d.budgets := rfl
@[simp] theorem setFn_programs (d : Dev) (f : Fn) (x : FnSt) : (setFn d f x).programs = d.programs := rfl
@[simp] theorem setFn_steps (d : Dev) (f : Fn) (x : FnSt) : (setFn d f x).steps = d.steps := rfl
@[simp] theorem setFn_qps (d : Dev) (f : Fn) (x : FnSt) : (setFn d f x).qps = d.qps := rfl
@[simp] theorem setFn_qpDestroys (d : Dev) (f : Fn) (x : FnSt) : (setFn d f x).qpDestroys = d.qpDestroys := rfl
@[simp] theorem setFn_qpClock (d : Dev) (f : Fn) (x : FnSt) : (setFn d f x).qpClock = d.qpClock := rfl
@[simp] theorem setFn_towBad (d : Dev) (f : Fn) (x : FnSt) : (setFn d f x).towBad = d.towBad := rfl
@[simp] theorem setFn_xptCount (d : Dev) (f : Fn) (x : FnSt) : (setFn d f x).xptCount = d.xptCount := rfl
@[simp] theorem setFn_out (d : Dev) (f : Fn) (x : FnSt) : (setFn d f x).out = d.out := rfl

@[simp] theorem setRing_tclk (d : Dev) (f : Fn) (r : Nat) (x : RingSt) : (setRing d f r x).tclk = d.tclk := rfl
@[simp] theorem setRing_boot (d : Dev) (f : Fn) (r : Nat) (x : RingSt) : (setRing d f r x).boot = d.boot := rfl
@[simp] theorem setRing_flash (d : Dev) (f : Fn) (r : Nat) (x : RingSt) : (setRing d f r x).flash = d.flash := rfl
@[simp] theorem setRing_pins (d : Dev) (f : Fn) (r : Nat) (x : RingSt) : (setRing d f r x).pins = d.pins := rfl
@[simp] theorem setRing_regs (d : Dev) (f : Fn) (r : Nat) (x : RingSt) : (setRing d f r x).regs = d.regs := rfl
@[simp] theorem setRing_ipHeld (d : Dev) (f : Fn) (r : Nat) (x : RingSt) : (setRing d f r x).ipHeld = d.ipHeld := rfl
@[simp] theorem setRing_locks (d : Dev) (f : Fn) (r : Nat) (x : RingSt) : (setRing d f r x).locks = d.locks := rfl
@[simp] theorem setRing_keys (d : Dev) (f : Fn) (r : Nat) (x : RingSt) : (setRing d f r x).keys = d.keys := rfl
@[simp] theorem setRing_keyData (d : Dev) (f : Fn) (r : Nat) (x : RingSt) : (setRing d f r x).keyData = d.keyData := rfl
@[simp] theorem setRing_numVfs (d : Dev) (f : Fn) (r : Nat) (x : RingSt) : (setRing d f r x).numVfs = d.numVfs := rfl
@[simp] theorem setRing_vfEnable (d : Dev) (f : Fn) (r : Nat) (x : RingSt) : (setRing d f r x).vfEnable = d.vfEnable := rfl
@[simp] theorem setRing_aer (d : Dev) (f : Fn) (r : Nat) (x : RingSt) : (setRing d f r x).aer = d.aer := rfl
@[simp] theorem setRing_host (d : Dev) (f : Fn) (r : Nat) (x : RingSt) : (setRing d f r x).host = d.host := rfl
@[simp] theorem setRing_hostBad (d : Dev) (f : Fn) (r : Nat) (x : RingSt) : (setRing d f r x).hostBad = d.hostBad := rfl
@[simp] theorem setRing_hbm (d : Dev) (f : Fn) (r : Nat) (x : RingSt) : (setRing d f r x).hbm = d.hbm := rfl
@[simp] theorem setRing_hbmBad (d : Dev) (f : Fn) (r : Nat) (x : RingSt) : (setRing d f r x).hbmBad = d.hbmBad := rfl
@[simp] theorem setRing_ts (d : Dev) (f : Fn) (r : Nat) (x : RingSt) : (setRing d f r x).ts = d.ts := rfl
@[simp] theorem setRing_tsBad (d : Dev) (f : Fn) (r : Nat) (x : RingSt) : (setRing d f r x).tsBad = d.tsBad := rfl
@[simp] theorem setRing_pool (d : Dev) (f : Fn) (r : Nat) (x : RingSt) : (setRing d f r x).pool = d.pool := rfl
@[simp] theorem setRing_dredge (d : Dev) (f : Fn) (r : Nat) (x : RingSt) : (setRing d f r x).dredge = d.dredge := rfl
@[simp] theorem setRing_tileMap (d : Dev) (f : Fn) (r : Nat) (x : RingSt) : (setRing d f r x).tileMap = d.tileMap := rfl
@[simp] theorem setRing_tileFreeW (d : Dev) (f : Fn) (r : Nat) (x : RingSt) : (setRing d f r x).tileFreeW = d.tileFreeW := rfl
@[simp] theorem setRing_tileFreeE (d : Dev) (f : Fn) (r : Nat) (x : RingSt) : (setRing d f r x).tileFreeE = d.tileFreeE := rfl
@[simp] theorem setRing_parts (d : Dev) (f : Fn) (r : Nat) (x : RingSt) : (setRing d f r x).parts = d.parts := rfl
@[simp] theorem setRing_stallCyc (d : Dev) (f : Fn) (r : Nat) (x : RingSt) : (setRing d f r x).stallCyc = d.stallCyc := rfl
@[simp] theorem setRing_stallCnt (d : Dev) (f : Fn) (r : Nat) (x : RingSt) : (setRing d f r x).stallCnt = d.stallCnt := rfl
@[simp] theorem setRing_links (d : Dev) (f : Fn) (r : Nat) (x : RingSt) : (setRing d f r x).links = d.links := rfl
@[simp] theorem setRing_composing (d : Dev) (f : Fn) (r : Nat) (x : RingSt) : (setRing d f r x).composing = d.composing := rfl
@[simp] theorem setRing_health (d : Dev) (f : Fn) (r : Nat) (x : RingSt) : (setRing d f r x).health = d.health := rfl
@[simp] theorem setRing_stepResults (d : Dev) (f : Fn) (r : Nat) (x : RingSt) : (setRing d f r x).stepResults = d.stepResults := rfl
@[simp] theorem setRing_clearPages (d : Dev) (f : Fn) (r : Nat) (x : RingSt) : (setRing d f r x).clearPages = d.clearPages := rfl
@[simp] theorem setRing_objNo (d : Dev) (f : Fn) (r : Nat) (x : RingSt) : (setRing d f r x).objNo = d.objNo := rfl
@[simp] theorem setRing_bases (d : Dev) (f : Fn) (r : Nat) (x : RingSt) : (setRing d f r x).bases = d.bases := rfl
@[simp] theorem setRing_tasks (d : Dev) (f : Fn) (r : Nat) (x : RingSt) : (setRing d f r x).tasks = d.tasks := rfl
@[simp] theorem setRing_taskNo (d : Dev) (f : Fn) (r : Nat) (x : RingSt) : (setRing d f r x).taskNo = d.taskNo := rfl
@[simp] theorem setRing_cancelled (d : Dev) (f : Fn) (r : Nat) (x : RingSt) : (setRing d f r x).cancelled = d.cancelled := rfl
@[simp] theorem setRing_staging (d : Dev) (f : Fn) (r : Nat) (x : RingSt) : (setRing d f r x).staging = d.staging := rfl
@[simp] theorem setRing_ports (d : Dev) (f : Fn) (r : Nat) (x : RingSt) : (setRing d f r x).ports = d.ports := rfl
@[simp] theorem setRing_podOps (d : Dev) (f : Fn) (r : Nat) (x : RingSt) : (setRing d f r x).podOps = d.podOps := rfl
@[simp] theorem setRing_podTxn (d : Dev) (f : Fn) (r : Nat) (x : RingSt) : (setRing d f r x).podTxn = d.podTxn := rfl
@[simp] theorem setRing_fences (d : Dev) (f : Fn) (r : Nat) (x : RingSt) : (setRing d f r x).fences = d.fences := rfl
@[simp] theorem setRing_peerLost (d : Dev) (f : Fn) (r : Nat) (x : RingSt) : (setRing d f r x).peerLost = d.peerLost := rfl
@[simp] theorem setRing_beats (d : Dev) (f : Fn) (r : Nat) (x : RingSt) : (setRing d f r x).beats = d.beats := rfl
@[simp] theorem setRing_repl (d : Dev) (f : Fn) (r : Nat) (x : RingSt) : (setRing d f r x).repl = d.repl := rfl
@[simp] theorem setRing_replVer (d : Dev) (f : Fn) (r : Nat) (x : RingSt) : (setRing d f r x).replVer = d.replVer := rfl
@[simp] theorem setRing_replPosts (d : Dev) (f : Fn) (r : Nat) (x : RingSt) : (setRing d f r x).replPosts = d.replPosts := rfl
@[simp] theorem setRing_replTag (d : Dev) (f : Fn) (r : Nat) (x : RingSt) : (setRing d f r x).replTag = d.replTag := rfl
@[simp] theorem setRing_replQueue (d : Dev) (f : Fn) (r : Nat) (x : RingSt) : (setRing d f r x).replQueue = d.replQueue := rfl
@[simp] theorem setRing_camW (d : Dev) (f : Fn) (r : Nat) (x : RingSt) : (setRing d f r x).camW = d.camW := rfl
@[simp] theorem setRing_camE (d : Dev) (f : Fn) (r : Nat) (x : RingSt) : (setRing d f r x).camE = d.camE := rfl
@[simp] theorem setRing_policers (d : Dev) (f : Fn) (r : Nat) (x : RingSt) : (setRing d f r x).policers = d.policers := rfl
@[simp] theorem setRing_layouts (d : Dev) (f : Fn) (r : Nat) (x : RingSt) : (setRing d f r x).layouts = d.layouts := rfl
@[simp] theorem setRing_tables (d : Dev) (f : Fn) (r : Nat) (x : RingSt) : (setRing d f r x).tables = d.tables := rfl
@[simp] theorem setRing_tags (d : Dev) (f : Fn) (r : Nat) (x : RingSt) : (setRing d f r x).tags = d.tags := rfl
@[simp] theorem setRing_farWait (d : Dev) (f : Fn) (r : Nat) (x : RingSt) : (setRing d f r x).farWait = d.farWait := rfl
@[simp] theorem setRing_tableHeld (d : Dev) (f : Fn) (r : Nat) (x : RingSt) : (setRing d f r x).tableHeld = d.tableHeld := rfl
@[simp] theorem setRing_barges (d : Dev) (f : Fn) (r : Nat) (x : RingSt) : (setRing d f r x).barges = d.barges := rfl
@[simp] theorem setRing_pageSrcs (d : Dev) (f : Fn) (r : Nat) (x : RingSt) : (setRing d f r x).pageSrcs = d.pageSrcs := rfl
@[simp] theorem setRing_dsts (d : Dev) (f : Fn) (r : Nat) (x : RingSt) : (setRing d f r x).dsts = d.dsts := rfl
@[simp] theorem setRing_homes (d : Dev) (f : Fn) (r : Nat) (x : RingSt) : (setRing d f r x).homes = d.homes := rfl
@[simp] theorem setRing_xferNo (d : Dev) (f : Fn) (r : Nat) (x : RingSt) : (setRing d f r x).xferNo = d.xferNo := rfl
@[simp] theorem setRing_mooredNo (d : Dev) (f : Fn) (r : Nat) (x : RingSt) : (setRing d f r x).mooredNo = d.mooredNo := rfl
@[simp] theorem setRing_inbox (d : Dev) (f : Fn) (r : Nat) (x : RingSt) : (setRing d f r x).inbox = d.inbox := rfl
@[simp] theorem setRing_requests (d : Dev) (f : Fn) (r : Nat) (x : RingSt) : (setRing d f r x).requests = d.requests := rfl
@[simp] theorem setRing_ended (d : Dev) (f : Fn) (r : Nat) (x : RingSt) : (setRing d f r x).ended = d.ended := rfl
@[simp] theorem setRing_badCancels (d : Dev) (f : Fn) (r : Nat) (x : RingSt) : (setRing d f r x).badCancels = d.badCancels := rfl
@[simp] theorem setRing_classes (d : Dev) (f : Fn) (r : Nat) (x : RingSt) : (setRing d f r x).classes = d.classes := rfl
@[simp] theorem setRing_budgets (d : Dev) (f : Fn) (r : Nat) (x : RingSt) : (setRing d f r x).budgets = d.budgets := rfl
@[simp] theorem setRing_programs (d : Dev) (f : Fn) (r : Nat) (x : RingSt) : (setRing d f r x).programs = d.programs := rfl
@[simp] theorem setRing_steps (d : Dev) (f : Fn) (r : Nat) (x : RingSt) : (setRing d f r x).steps = d.steps := rfl
@[simp] theorem setRing_qps (d : Dev) (f : Fn) (r : Nat) (x : RingSt) : (setRing d f r x).qps = d.qps := rfl
@[simp] theorem setRing_qpDestroys (d : Dev) (f : Fn) (r : Nat) (x : RingSt) : (setRing d f r x).qpDestroys = d.qpDestroys := rfl
@[simp] theorem setRing_qpClock (d : Dev) (f : Fn) (r : Nat) (x : RingSt) : (setRing d f r x).qpClock = d.qpClock := rfl
@[simp] theorem setRing_towBad (d : Dev) (f : Fn) (r : Nat) (x : RingSt) : (setRing d f r x).towBad = d.towBad := rfl
@[simp] theorem setRing_xptCount (d : Dev) (f : Fn) (r : Nat) (x : RingSt) : (setRing d f r x).xptCount = d.xptCount := rfl
@[simp] theorem setRing_out (d : Dev) (f : Fn) (r : Nat) (x : RingSt) : (setRing d f r x).out = d.out := rfl

@[simp] theorem send_tclk (d : Dev) (m : Sent) : (send d m).tclk = d.tclk := rfl
@[simp] theorem send_boot (d : Dev) (m : Sent) : (send d m).boot = d.boot := rfl
@[simp] theorem send_flash (d : Dev) (m : Sent) : (send d m).flash = d.flash := rfl
@[simp] theorem send_pins (d : Dev) (m : Sent) : (send d m).pins = d.pins := rfl
@[simp] theorem send_regs (d : Dev) (m : Sent) : (send d m).regs = d.regs := rfl
@[simp] theorem send_ipHeld (d : Dev) (m : Sent) : (send d m).ipHeld = d.ipHeld := rfl
@[simp] theorem send_locks (d : Dev) (m : Sent) : (send d m).locks = d.locks := rfl
@[simp] theorem send_keys (d : Dev) (m : Sent) : (send d m).keys = d.keys := rfl
@[simp] theorem send_keyData (d : Dev) (m : Sent) : (send d m).keyData = d.keyData := rfl
@[simp] theorem send_numVfs (d : Dev) (m : Sent) : (send d m).numVfs = d.numVfs := rfl
@[simp] theorem send_vfEnable (d : Dev) (m : Sent) : (send d m).vfEnable = d.vfEnable := rfl
@[simp] theorem send_fns (d : Dev) (m : Sent) : (send d m).fns = d.fns := rfl
@[simp] theorem send_aer (d : Dev) (m : Sent) : (send d m).aer = d.aer := rfl
@[simp] theorem send_host (d : Dev) (m : Sent) : (send d m).host = d.host := rfl
@[simp] theorem send_hostBad (d : Dev) (m : Sent) : (send d m).hostBad = d.hostBad := rfl
@[simp] theorem send_hbm (d : Dev) (m : Sent) : (send d m).hbm = d.hbm := rfl
@[simp] theorem send_hbmBad (d : Dev) (m : Sent) : (send d m).hbmBad = d.hbmBad := rfl
@[simp] theorem send_ts (d : Dev) (m : Sent) : (send d m).ts = d.ts := rfl
@[simp] theorem send_tsBad (d : Dev) (m : Sent) : (send d m).tsBad = d.tsBad := rfl
@[simp] theorem send_pool (d : Dev) (m : Sent) : (send d m).pool = d.pool := rfl
@[simp] theorem send_dredge (d : Dev) (m : Sent) : (send d m).dredge = d.dredge := rfl
@[simp] theorem send_tileMap (d : Dev) (m : Sent) : (send d m).tileMap = d.tileMap := rfl
@[simp] theorem send_tileFreeW (d : Dev) (m : Sent) : (send d m).tileFreeW = d.tileFreeW := rfl
@[simp] theorem send_tileFreeE (d : Dev) (m : Sent) : (send d m).tileFreeE = d.tileFreeE := rfl
@[simp] theorem send_parts (d : Dev) (m : Sent) : (send d m).parts = d.parts := rfl
@[simp] theorem send_stallCyc (d : Dev) (m : Sent) : (send d m).stallCyc = d.stallCyc := rfl
@[simp] theorem send_stallCnt (d : Dev) (m : Sent) : (send d m).stallCnt = d.stallCnt := rfl
@[simp] theorem send_links (d : Dev) (m : Sent) : (send d m).links = d.links := rfl
@[simp] theorem send_composing (d : Dev) (m : Sent) : (send d m).composing = d.composing := rfl
@[simp] theorem send_health (d : Dev) (m : Sent) : (send d m).health = d.health := rfl
@[simp] theorem send_stepResults (d : Dev) (m : Sent) : (send d m).stepResults = d.stepResults := rfl
@[simp] theorem send_clearPages (d : Dev) (m : Sent) : (send d m).clearPages = d.clearPages := rfl
@[simp] theorem send_objNo (d : Dev) (m : Sent) : (send d m).objNo = d.objNo := rfl
@[simp] theorem send_bases (d : Dev) (m : Sent) : (send d m).bases = d.bases := rfl
@[simp] theorem send_tasks (d : Dev) (m : Sent) : (send d m).tasks = d.tasks := rfl
@[simp] theorem send_taskNo (d : Dev) (m : Sent) : (send d m).taskNo = d.taskNo := rfl
@[simp] theorem send_cancelled (d : Dev) (m : Sent) : (send d m).cancelled = d.cancelled := rfl
@[simp] theorem send_staging (d : Dev) (m : Sent) : (send d m).staging = d.staging := rfl
@[simp] theorem send_ports (d : Dev) (m : Sent) : (send d m).ports = d.ports := rfl
@[simp] theorem send_podOps (d : Dev) (m : Sent) : (send d m).podOps = d.podOps := rfl
@[simp] theorem send_podTxn (d : Dev) (m : Sent) : (send d m).podTxn = d.podTxn := rfl
@[simp] theorem send_fences (d : Dev) (m : Sent) : (send d m).fences = d.fences := rfl
@[simp] theorem send_peerLost (d : Dev) (m : Sent) : (send d m).peerLost = d.peerLost := rfl
@[simp] theorem send_beats (d : Dev) (m : Sent) : (send d m).beats = d.beats := rfl
@[simp] theorem send_repl (d : Dev) (m : Sent) : (send d m).repl = d.repl := rfl
@[simp] theorem send_replVer (d : Dev) (m : Sent) : (send d m).replVer = d.replVer := rfl
@[simp] theorem send_replPosts (d : Dev) (m : Sent) : (send d m).replPosts = d.replPosts := rfl
@[simp] theorem send_replTag (d : Dev) (m : Sent) : (send d m).replTag = d.replTag := rfl
@[simp] theorem send_replQueue (d : Dev) (m : Sent) : (send d m).replQueue = d.replQueue := rfl
@[simp] theorem send_camW (d : Dev) (m : Sent) : (send d m).camW = d.camW := rfl
@[simp] theorem send_camE (d : Dev) (m : Sent) : (send d m).camE = d.camE := rfl
@[simp] theorem send_policers (d : Dev) (m : Sent) : (send d m).policers = d.policers := rfl
@[simp] theorem send_layouts (d : Dev) (m : Sent) : (send d m).layouts = d.layouts := rfl
@[simp] theorem send_tables (d : Dev) (m : Sent) : (send d m).tables = d.tables := rfl
@[simp] theorem send_tags (d : Dev) (m : Sent) : (send d m).tags = d.tags := rfl
@[simp] theorem send_farWait (d : Dev) (m : Sent) : (send d m).farWait = d.farWait := rfl
@[simp] theorem send_tableHeld (d : Dev) (m : Sent) : (send d m).tableHeld = d.tableHeld := rfl
@[simp] theorem send_barges (d : Dev) (m : Sent) : (send d m).barges = d.barges := rfl
@[simp] theorem send_pageSrcs (d : Dev) (m : Sent) : (send d m).pageSrcs = d.pageSrcs := rfl
@[simp] theorem send_dsts (d : Dev) (m : Sent) : (send d m).dsts = d.dsts := rfl
@[simp] theorem send_homes (d : Dev) (m : Sent) : (send d m).homes = d.homes := rfl
@[simp] theorem send_xferNo (d : Dev) (m : Sent) : (send d m).xferNo = d.xferNo := rfl
@[simp] theorem send_mooredNo (d : Dev) (m : Sent) : (send d m).mooredNo = d.mooredNo := rfl
@[simp] theorem send_inbox (d : Dev) (m : Sent) : (send d m).inbox = d.inbox := rfl
@[simp] theorem send_requests (d : Dev) (m : Sent) : (send d m).requests = d.requests := rfl
@[simp] theorem send_ended (d : Dev) (m : Sent) : (send d m).ended = d.ended := rfl
@[simp] theorem send_badCancels (d : Dev) (m : Sent) : (send d m).badCancels = d.badCancels := rfl
@[simp] theorem send_classes (d : Dev) (m : Sent) : (send d m).classes = d.classes := rfl
@[simp] theorem send_budgets (d : Dev) (m : Sent) : (send d m).budgets = d.budgets := rfl
@[simp] theorem send_programs (d : Dev) (m : Sent) : (send d m).programs = d.programs := rfl
@[simp] theorem send_steps (d : Dev) (m : Sent) : (send d m).steps = d.steps := rfl
@[simp] theorem send_qps (d : Dev) (m : Sent) : (send d m).qps = d.qps := rfl
@[simp] theorem send_qpDestroys (d : Dev) (m : Sent) : (send d m).qpDestroys = d.qpDestroys := rfl
@[simp] theorem send_qpClock (d : Dev) (m : Sent) : (send d m).qpClock = d.qpClock := rfl
@[simp] theorem send_towBad (d : Dev) (m : Sent) : (send d m).towBad = d.towBad := rfl
@[simp] theorem send_xptCount (d : Dev) (m : Sent) : (send d m).xptCount = d.xptCount := rfl

@[simp] theorem assertAlert_tclk (d : Dev) : (assertAlert d).tclk = d.tclk := rfl
@[simp] theorem assertAlert_boot (d : Dev) : (assertAlert d).boot = d.boot := rfl
@[simp] theorem assertAlert_flash (d : Dev) : (assertAlert d).flash = d.flash := rfl
@[simp] theorem assertAlert_regs (d : Dev) : (assertAlert d).regs = d.regs := rfl
@[simp] theorem assertAlert_ipHeld (d : Dev) : (assertAlert d).ipHeld = d.ipHeld := rfl
@[simp] theorem assertAlert_locks (d : Dev) : (assertAlert d).locks = d.locks := rfl
@[simp] theorem assertAlert_keys (d : Dev) : (assertAlert d).keys = d.keys := rfl
@[simp] theorem assertAlert_keyData (d : Dev) : (assertAlert d).keyData = d.keyData := rfl
@[simp] theorem assertAlert_numVfs (d : Dev) : (assertAlert d).numVfs = d.numVfs := rfl
@[simp] theorem assertAlert_vfEnable (d : Dev) : (assertAlert d).vfEnable = d.vfEnable := rfl
@[simp] theorem assertAlert_fns (d : Dev) : (assertAlert d).fns = d.fns := rfl
@[simp] theorem assertAlert_aer (d : Dev) : (assertAlert d).aer = d.aer := rfl
@[simp] theorem assertAlert_host (d : Dev) : (assertAlert d).host = d.host := rfl
@[simp] theorem assertAlert_hostBad (d : Dev) : (assertAlert d).hostBad = d.hostBad := rfl
@[simp] theorem assertAlert_hbm (d : Dev) : (assertAlert d).hbm = d.hbm := rfl
@[simp] theorem assertAlert_hbmBad (d : Dev) : (assertAlert d).hbmBad = d.hbmBad := rfl
@[simp] theorem assertAlert_ts (d : Dev) : (assertAlert d).ts = d.ts := rfl
@[simp] theorem assertAlert_tsBad (d : Dev) : (assertAlert d).tsBad = d.tsBad := rfl
@[simp] theorem assertAlert_pool (d : Dev) : (assertAlert d).pool = d.pool := rfl
@[simp] theorem assertAlert_dredge (d : Dev) : (assertAlert d).dredge = d.dredge := rfl
@[simp] theorem assertAlert_tileMap (d : Dev) : (assertAlert d).tileMap = d.tileMap := rfl
@[simp] theorem assertAlert_tileFreeW (d : Dev) : (assertAlert d).tileFreeW = d.tileFreeW := rfl
@[simp] theorem assertAlert_tileFreeE (d : Dev) : (assertAlert d).tileFreeE = d.tileFreeE := rfl
@[simp] theorem assertAlert_parts (d : Dev) : (assertAlert d).parts = d.parts := rfl
@[simp] theorem assertAlert_stallCyc (d : Dev) : (assertAlert d).stallCyc = d.stallCyc := rfl
@[simp] theorem assertAlert_stallCnt (d : Dev) : (assertAlert d).stallCnt = d.stallCnt := rfl
@[simp] theorem assertAlert_links (d : Dev) : (assertAlert d).links = d.links := rfl
@[simp] theorem assertAlert_composing (d : Dev) : (assertAlert d).composing = d.composing := rfl
@[simp] theorem assertAlert_stepResults (d : Dev) : (assertAlert d).stepResults = d.stepResults := rfl
@[simp] theorem assertAlert_clearPages (d : Dev) : (assertAlert d).clearPages = d.clearPages := rfl
@[simp] theorem assertAlert_objNo (d : Dev) : (assertAlert d).objNo = d.objNo := rfl
@[simp] theorem assertAlert_bases (d : Dev) : (assertAlert d).bases = d.bases := rfl
@[simp] theorem assertAlert_tasks (d : Dev) : (assertAlert d).tasks = d.tasks := rfl
@[simp] theorem assertAlert_taskNo (d : Dev) : (assertAlert d).taskNo = d.taskNo := rfl
@[simp] theorem assertAlert_cancelled (d : Dev) : (assertAlert d).cancelled = d.cancelled := rfl
@[simp] theorem assertAlert_staging (d : Dev) : (assertAlert d).staging = d.staging := rfl
@[simp] theorem assertAlert_ports (d : Dev) : (assertAlert d).ports = d.ports := rfl
@[simp] theorem assertAlert_podOps (d : Dev) : (assertAlert d).podOps = d.podOps := rfl
@[simp] theorem assertAlert_podTxn (d : Dev) : (assertAlert d).podTxn = d.podTxn := rfl
@[simp] theorem assertAlert_fences (d : Dev) : (assertAlert d).fences = d.fences := rfl
@[simp] theorem assertAlert_peerLost (d : Dev) : (assertAlert d).peerLost = d.peerLost := rfl
@[simp] theorem assertAlert_beats (d : Dev) : (assertAlert d).beats = d.beats := rfl
@[simp] theorem assertAlert_repl (d : Dev) : (assertAlert d).repl = d.repl := rfl
@[simp] theorem assertAlert_replVer (d : Dev) : (assertAlert d).replVer = d.replVer := rfl
@[simp] theorem assertAlert_replPosts (d : Dev) : (assertAlert d).replPosts = d.replPosts := rfl
@[simp] theorem assertAlert_replTag (d : Dev) : (assertAlert d).replTag = d.replTag := rfl
@[simp] theorem assertAlert_replQueue (d : Dev) : (assertAlert d).replQueue = d.replQueue := rfl
@[simp] theorem assertAlert_camW (d : Dev) : (assertAlert d).camW = d.camW := rfl
@[simp] theorem assertAlert_camE (d : Dev) : (assertAlert d).camE = d.camE := rfl
@[simp] theorem assertAlert_policers (d : Dev) : (assertAlert d).policers = d.policers := rfl
@[simp] theorem assertAlert_layouts (d : Dev) : (assertAlert d).layouts = d.layouts := rfl
@[simp] theorem assertAlert_tables (d : Dev) : (assertAlert d).tables = d.tables := rfl
@[simp] theorem assertAlert_tags (d : Dev) : (assertAlert d).tags = d.tags := rfl
@[simp] theorem assertAlert_farWait (d : Dev) : (assertAlert d).farWait = d.farWait := rfl
@[simp] theorem assertAlert_tableHeld (d : Dev) : (assertAlert d).tableHeld = d.tableHeld := rfl
@[simp] theorem assertAlert_barges (d : Dev) : (assertAlert d).barges = d.barges := rfl
@[simp] theorem assertAlert_pageSrcs (d : Dev) : (assertAlert d).pageSrcs = d.pageSrcs := rfl
@[simp] theorem assertAlert_dsts (d : Dev) : (assertAlert d).dsts = d.dsts := rfl
@[simp] theorem assertAlert_homes (d : Dev) : (assertAlert d).homes = d.homes := rfl
@[simp] theorem assertAlert_xferNo (d : Dev) : (assertAlert d).xferNo = d.xferNo := rfl
@[simp] theorem assertAlert_mooredNo (d : Dev) : (assertAlert d).mooredNo = d.mooredNo := rfl
@[simp] theorem assertAlert_inbox (d : Dev) : (assertAlert d).inbox = d.inbox := rfl
@[simp] theorem assertAlert_requests (d : Dev) : (assertAlert d).requests = d.requests := rfl
@[simp] theorem assertAlert_ended (d : Dev) : (assertAlert d).ended = d.ended := rfl
@[simp] theorem assertAlert_badCancels (d : Dev) : (assertAlert d).badCancels = d.badCancels := rfl
@[simp] theorem assertAlert_classes (d : Dev) : (assertAlert d).classes = d.classes := rfl
@[simp] theorem assertAlert_budgets (d : Dev) : (assertAlert d).budgets = d.budgets := rfl
@[simp] theorem assertAlert_programs (d : Dev) : (assertAlert d).programs = d.programs := rfl
@[simp] theorem assertAlert_steps (d : Dev) : (assertAlert d).steps = d.steps := rfl
@[simp] theorem assertAlert_qps (d : Dev) : (assertAlert d).qps = d.qps := rfl
@[simp] theorem assertAlert_qpDestroys (d : Dev) : (assertAlert d).qpDestroys = d.qpDestroys := rfl
@[simp] theorem assertAlert_qpClock (d : Dev) : (assertAlert d).qpClock = d.qpClock := rfl
@[simp] theorem assertAlert_towBad (d : Dev) : (assertAlert d).towBad = d.towBad := rfl
@[simp] theorem assertAlert_xptCount (d : Dev) : (assertAlert d).xptCount = d.xptCount := rfl
@[simp] theorem assertAlert_out (d : Dev) : (assertAlert d).out = d.out := rfl

/-- `raiseFn` changes no field but fns. -/
theorem raiseFn_frame (d : Dev) (f : Fn) (code : Nat) (src : W32) (detail extra : Nat) : raiseFn d f code src detail extra = { d with fns := (raiseFn d f code src detail extra).fns } := by
  unfold raiseFn; split <;> rfl
@[simp] theorem raiseFn_tclk (d : Dev) (f : Fn) (code : Nat) (src : W32) (detail extra : Nat) : (raiseFn d f code src detail extra).tclk = d.tclk := by rw [raiseFn_frame]
@[simp] theorem raiseFn_boot (d : Dev) (f : Fn) (code : Nat) (src : W32) (detail extra : Nat) : (raiseFn d f code src detail extra).boot = d.boot := by rw [raiseFn_frame]
@[simp] theorem raiseFn_flash (d : Dev) (f : Fn) (code : Nat) (src : W32) (detail extra : Nat) : (raiseFn d f code src detail extra).flash = d.flash := by rw [raiseFn_frame]
@[simp] theorem raiseFn_pins (d : Dev) (f : Fn) (code : Nat) (src : W32) (detail extra : Nat) : (raiseFn d f code src detail extra).pins = d.pins := by rw [raiseFn_frame]
@[simp] theorem raiseFn_regs (d : Dev) (f : Fn) (code : Nat) (src : W32) (detail extra : Nat) : (raiseFn d f code src detail extra).regs = d.regs := by rw [raiseFn_frame]
@[simp] theorem raiseFn_ipHeld (d : Dev) (f : Fn) (code : Nat) (src : W32) (detail extra : Nat) : (raiseFn d f code src detail extra).ipHeld = d.ipHeld := by rw [raiseFn_frame]
@[simp] theorem raiseFn_locks (d : Dev) (f : Fn) (code : Nat) (src : W32) (detail extra : Nat) : (raiseFn d f code src detail extra).locks = d.locks := by rw [raiseFn_frame]
@[simp] theorem raiseFn_keys (d : Dev) (f : Fn) (code : Nat) (src : W32) (detail extra : Nat) : (raiseFn d f code src detail extra).keys = d.keys := by rw [raiseFn_frame]
@[simp] theorem raiseFn_keyData (d : Dev) (f : Fn) (code : Nat) (src : W32) (detail extra : Nat) : (raiseFn d f code src detail extra).keyData = d.keyData := by rw [raiseFn_frame]
@[simp] theorem raiseFn_numVfs (d : Dev) (f : Fn) (code : Nat) (src : W32) (detail extra : Nat) : (raiseFn d f code src detail extra).numVfs = d.numVfs := by rw [raiseFn_frame]
@[simp] theorem raiseFn_vfEnable (d : Dev) (f : Fn) (code : Nat) (src : W32) (detail extra : Nat) : (raiseFn d f code src detail extra).vfEnable = d.vfEnable := by rw [raiseFn_frame]
@[simp] theorem raiseFn_aer (d : Dev) (f : Fn) (code : Nat) (src : W32) (detail extra : Nat) : (raiseFn d f code src detail extra).aer = d.aer := by rw [raiseFn_frame]
@[simp] theorem raiseFn_host (d : Dev) (f : Fn) (code : Nat) (src : W32) (detail extra : Nat) : (raiseFn d f code src detail extra).host = d.host := by rw [raiseFn_frame]
@[simp] theorem raiseFn_hostBad (d : Dev) (f : Fn) (code : Nat) (src : W32) (detail extra : Nat) : (raiseFn d f code src detail extra).hostBad = d.hostBad := by rw [raiseFn_frame]
@[simp] theorem raiseFn_hbm (d : Dev) (f : Fn) (code : Nat) (src : W32) (detail extra : Nat) : (raiseFn d f code src detail extra).hbm = d.hbm := by rw [raiseFn_frame]
@[simp] theorem raiseFn_hbmBad (d : Dev) (f : Fn) (code : Nat) (src : W32) (detail extra : Nat) : (raiseFn d f code src detail extra).hbmBad = d.hbmBad := by rw [raiseFn_frame]
@[simp] theorem raiseFn_ts (d : Dev) (f : Fn) (code : Nat) (src : W32) (detail extra : Nat) : (raiseFn d f code src detail extra).ts = d.ts := by rw [raiseFn_frame]
@[simp] theorem raiseFn_tsBad (d : Dev) (f : Fn) (code : Nat) (src : W32) (detail extra : Nat) : (raiseFn d f code src detail extra).tsBad = d.tsBad := by rw [raiseFn_frame]
@[simp] theorem raiseFn_pool (d : Dev) (f : Fn) (code : Nat) (src : W32) (detail extra : Nat) : (raiseFn d f code src detail extra).pool = d.pool := by rw [raiseFn_frame]
@[simp] theorem raiseFn_dredge (d : Dev) (f : Fn) (code : Nat) (src : W32) (detail extra : Nat) : (raiseFn d f code src detail extra).dredge = d.dredge := by rw [raiseFn_frame]
@[simp] theorem raiseFn_tileMap (d : Dev) (f : Fn) (code : Nat) (src : W32) (detail extra : Nat) : (raiseFn d f code src detail extra).tileMap = d.tileMap := by rw [raiseFn_frame]
@[simp] theorem raiseFn_tileFreeW (d : Dev) (f : Fn) (code : Nat) (src : W32) (detail extra : Nat) : (raiseFn d f code src detail extra).tileFreeW = d.tileFreeW := by rw [raiseFn_frame]
@[simp] theorem raiseFn_tileFreeE (d : Dev) (f : Fn) (code : Nat) (src : W32) (detail extra : Nat) : (raiseFn d f code src detail extra).tileFreeE = d.tileFreeE := by rw [raiseFn_frame]
@[simp] theorem raiseFn_parts (d : Dev) (f : Fn) (code : Nat) (src : W32) (detail extra : Nat) : (raiseFn d f code src detail extra).parts = d.parts := by rw [raiseFn_frame]
@[simp] theorem raiseFn_stallCyc (d : Dev) (f : Fn) (code : Nat) (src : W32) (detail extra : Nat) : (raiseFn d f code src detail extra).stallCyc = d.stallCyc := by rw [raiseFn_frame]
@[simp] theorem raiseFn_stallCnt (d : Dev) (f : Fn) (code : Nat) (src : W32) (detail extra : Nat) : (raiseFn d f code src detail extra).stallCnt = d.stallCnt := by rw [raiseFn_frame]
@[simp] theorem raiseFn_links (d : Dev) (f : Fn) (code : Nat) (src : W32) (detail extra : Nat) : (raiseFn d f code src detail extra).links = d.links := by rw [raiseFn_frame]
@[simp] theorem raiseFn_composing (d : Dev) (f : Fn) (code : Nat) (src : W32) (detail extra : Nat) : (raiseFn d f code src detail extra).composing = d.composing := by rw [raiseFn_frame]
@[simp] theorem raiseFn_health (d : Dev) (f : Fn) (code : Nat) (src : W32) (detail extra : Nat) : (raiseFn d f code src detail extra).health = d.health := by rw [raiseFn_frame]
@[simp] theorem raiseFn_stepResults (d : Dev) (f : Fn) (code : Nat) (src : W32) (detail extra : Nat) : (raiseFn d f code src detail extra).stepResults = d.stepResults := by rw [raiseFn_frame]
@[simp] theorem raiseFn_clearPages (d : Dev) (f : Fn) (code : Nat) (src : W32) (detail extra : Nat) : (raiseFn d f code src detail extra).clearPages = d.clearPages := by rw [raiseFn_frame]
@[simp] theorem raiseFn_objNo (d : Dev) (f : Fn) (code : Nat) (src : W32) (detail extra : Nat) : (raiseFn d f code src detail extra).objNo = d.objNo := by rw [raiseFn_frame]
@[simp] theorem raiseFn_bases (d : Dev) (f : Fn) (code : Nat) (src : W32) (detail extra : Nat) : (raiseFn d f code src detail extra).bases = d.bases := by rw [raiseFn_frame]
@[simp] theorem raiseFn_tasks (d : Dev) (f : Fn) (code : Nat) (src : W32) (detail extra : Nat) : (raiseFn d f code src detail extra).tasks = d.tasks := by rw [raiseFn_frame]
@[simp] theorem raiseFn_taskNo (d : Dev) (f : Fn) (code : Nat) (src : W32) (detail extra : Nat) : (raiseFn d f code src detail extra).taskNo = d.taskNo := by rw [raiseFn_frame]
@[simp] theorem raiseFn_cancelled (d : Dev) (f : Fn) (code : Nat) (src : W32) (detail extra : Nat) : (raiseFn d f code src detail extra).cancelled = d.cancelled := by rw [raiseFn_frame]
@[simp] theorem raiseFn_staging (d : Dev) (f : Fn) (code : Nat) (src : W32) (detail extra : Nat) : (raiseFn d f code src detail extra).staging = d.staging := by rw [raiseFn_frame]
@[simp] theorem raiseFn_ports (d : Dev) (f : Fn) (code : Nat) (src : W32) (detail extra : Nat) : (raiseFn d f code src detail extra).ports = d.ports := by rw [raiseFn_frame]
@[simp] theorem raiseFn_podOps (d : Dev) (f : Fn) (code : Nat) (src : W32) (detail extra : Nat) : (raiseFn d f code src detail extra).podOps = d.podOps := by rw [raiseFn_frame]
@[simp] theorem raiseFn_podTxn (d : Dev) (f : Fn) (code : Nat) (src : W32) (detail extra : Nat) : (raiseFn d f code src detail extra).podTxn = d.podTxn := by rw [raiseFn_frame]
@[simp] theorem raiseFn_fences (d : Dev) (f : Fn) (code : Nat) (src : W32) (detail extra : Nat) : (raiseFn d f code src detail extra).fences = d.fences := by rw [raiseFn_frame]
@[simp] theorem raiseFn_peerLost (d : Dev) (f : Fn) (code : Nat) (src : W32) (detail extra : Nat) : (raiseFn d f code src detail extra).peerLost = d.peerLost := by rw [raiseFn_frame]
@[simp] theorem raiseFn_beats (d : Dev) (f : Fn) (code : Nat) (src : W32) (detail extra : Nat) : (raiseFn d f code src detail extra).beats = d.beats := by rw [raiseFn_frame]
@[simp] theorem raiseFn_repl (d : Dev) (f : Fn) (code : Nat) (src : W32) (detail extra : Nat) : (raiseFn d f code src detail extra).repl = d.repl := by rw [raiseFn_frame]
@[simp] theorem raiseFn_replVer (d : Dev) (f : Fn) (code : Nat) (src : W32) (detail extra : Nat) : (raiseFn d f code src detail extra).replVer = d.replVer := by rw [raiseFn_frame]
@[simp] theorem raiseFn_replPosts (d : Dev) (f : Fn) (code : Nat) (src : W32) (detail extra : Nat) : (raiseFn d f code src detail extra).replPosts = d.replPosts := by rw [raiseFn_frame]
@[simp] theorem raiseFn_replTag (d : Dev) (f : Fn) (code : Nat) (src : W32) (detail extra : Nat) : (raiseFn d f code src detail extra).replTag = d.replTag := by rw [raiseFn_frame]
@[simp] theorem raiseFn_replQueue (d : Dev) (f : Fn) (code : Nat) (src : W32) (detail extra : Nat) : (raiseFn d f code src detail extra).replQueue = d.replQueue := by rw [raiseFn_frame]
@[simp] theorem raiseFn_camW (d : Dev) (f : Fn) (code : Nat) (src : W32) (detail extra : Nat) : (raiseFn d f code src detail extra).camW = d.camW := by rw [raiseFn_frame]
@[simp] theorem raiseFn_camE (d : Dev) (f : Fn) (code : Nat) (src : W32) (detail extra : Nat) : (raiseFn d f code src detail extra).camE = d.camE := by rw [raiseFn_frame]
@[simp] theorem raiseFn_policers (d : Dev) (f : Fn) (code : Nat) (src : W32) (detail extra : Nat) : (raiseFn d f code src detail extra).policers = d.policers := by rw [raiseFn_frame]
@[simp] theorem raiseFn_layouts (d : Dev) (f : Fn) (code : Nat) (src : W32) (detail extra : Nat) : (raiseFn d f code src detail extra).layouts = d.layouts := by rw [raiseFn_frame]
@[simp] theorem raiseFn_tables (d : Dev) (f : Fn) (code : Nat) (src : W32) (detail extra : Nat) : (raiseFn d f code src detail extra).tables = d.tables := by rw [raiseFn_frame]
@[simp] theorem raiseFn_tags (d : Dev) (f : Fn) (code : Nat) (src : W32) (detail extra : Nat) : (raiseFn d f code src detail extra).tags = d.tags := by rw [raiseFn_frame]
@[simp] theorem raiseFn_farWait (d : Dev) (f : Fn) (code : Nat) (src : W32) (detail extra : Nat) : (raiseFn d f code src detail extra).farWait = d.farWait := by rw [raiseFn_frame]
@[simp] theorem raiseFn_tableHeld (d : Dev) (f : Fn) (code : Nat) (src : W32) (detail extra : Nat) : (raiseFn d f code src detail extra).tableHeld = d.tableHeld := by rw [raiseFn_frame]
@[simp] theorem raiseFn_barges (d : Dev) (f : Fn) (code : Nat) (src : W32) (detail extra : Nat) : (raiseFn d f code src detail extra).barges = d.barges := by rw [raiseFn_frame]
@[simp] theorem raiseFn_pageSrcs (d : Dev) (f : Fn) (code : Nat) (src : W32) (detail extra : Nat) : (raiseFn d f code src detail extra).pageSrcs = d.pageSrcs := by rw [raiseFn_frame]
@[simp] theorem raiseFn_dsts (d : Dev) (f : Fn) (code : Nat) (src : W32) (detail extra : Nat) : (raiseFn d f code src detail extra).dsts = d.dsts := by rw [raiseFn_frame]
@[simp] theorem raiseFn_homes (d : Dev) (f : Fn) (code : Nat) (src : W32) (detail extra : Nat) : (raiseFn d f code src detail extra).homes = d.homes := by rw [raiseFn_frame]
@[simp] theorem raiseFn_xferNo (d : Dev) (f : Fn) (code : Nat) (src : W32) (detail extra : Nat) : (raiseFn d f code src detail extra).xferNo = d.xferNo := by rw [raiseFn_frame]
@[simp] theorem raiseFn_mooredNo (d : Dev) (f : Fn) (code : Nat) (src : W32) (detail extra : Nat) : (raiseFn d f code src detail extra).mooredNo = d.mooredNo := by rw [raiseFn_frame]
@[simp] theorem raiseFn_inbox (d : Dev) (f : Fn) (code : Nat) (src : W32) (detail extra : Nat) : (raiseFn d f code src detail extra).inbox = d.inbox := by rw [raiseFn_frame]
@[simp] theorem raiseFn_requests (d : Dev) (f : Fn) (code : Nat) (src : W32) (detail extra : Nat) : (raiseFn d f code src detail extra).requests = d.requests := by rw [raiseFn_frame]
@[simp] theorem raiseFn_ended (d : Dev) (f : Fn) (code : Nat) (src : W32) (detail extra : Nat) : (raiseFn d f code src detail extra).ended = d.ended := by rw [raiseFn_frame]
@[simp] theorem raiseFn_badCancels (d : Dev) (f : Fn) (code : Nat) (src : W32) (detail extra : Nat) : (raiseFn d f code src detail extra).badCancels = d.badCancels := by rw [raiseFn_frame]
@[simp] theorem raiseFn_classes (d : Dev) (f : Fn) (code : Nat) (src : W32) (detail extra : Nat) : (raiseFn d f code src detail extra).classes = d.classes := by rw [raiseFn_frame]
@[simp] theorem raiseFn_budgets (d : Dev) (f : Fn) (code : Nat) (src : W32) (detail extra : Nat) : (raiseFn d f code src detail extra).budgets = d.budgets := by rw [raiseFn_frame]
@[simp] theorem raiseFn_programs (d : Dev) (f : Fn) (code : Nat) (src : W32) (detail extra : Nat) : (raiseFn d f code src detail extra).programs = d.programs := by rw [raiseFn_frame]
@[simp] theorem raiseFn_steps (d : Dev) (f : Fn) (code : Nat) (src : W32) (detail extra : Nat) : (raiseFn d f code src detail extra).steps = d.steps := by rw [raiseFn_frame]
@[simp] theorem raiseFn_qps (d : Dev) (f : Fn) (code : Nat) (src : W32) (detail extra : Nat) : (raiseFn d f code src detail extra).qps = d.qps := by rw [raiseFn_frame]
@[simp] theorem raiseFn_qpDestroys (d : Dev) (f : Fn) (code : Nat) (src : W32) (detail extra : Nat) : (raiseFn d f code src detail extra).qpDestroys = d.qpDestroys := by rw [raiseFn_frame]
@[simp] theorem raiseFn_qpClock (d : Dev) (f : Fn) (code : Nat) (src : W32) (detail extra : Nat) : (raiseFn d f code src detail extra).qpClock = d.qpClock := by rw [raiseFn_frame]
@[simp] theorem raiseFn_towBad (d : Dev) (f : Fn) (code : Nat) (src : W32) (detail extra : Nat) : (raiseFn d f code src detail extra).towBad = d.towBad := by rw [raiseFn_frame]
@[simp] theorem raiseFn_xptCount (d : Dev) (f : Fn) (code : Nat) (src : W32) (detail extra : Nat) : (raiseFn d f code src detail extra).xptCount = d.xptCount := by rw [raiseFn_frame]
@[simp] theorem raiseFn_out (d : Dev) (f : Fn) (code : Nat) (src : W32) (detail extra : Nat) : (raiseFn d f code src detail extra).out = d.out := by rw [raiseFn_frame]

/-- `raise` changes no field but fns. -/
theorem raise_frame (d : Dev) (code : Nat) (src : W32) (detail : Nat) : raise d code src detail = { d with fns := (raise d code src detail).fns } := by
  unfold raise; exact raiseFn_frame ..
@[simp] theorem raise_tclk (d : Dev) (code : Nat) (src : W32) (detail : Nat) : (raise d code src detail).tclk = d.tclk := by rw [raise_frame]
@[simp] theorem raise_boot (d : Dev) (code : Nat) (src : W32) (detail : Nat) : (raise d code src detail).boot = d.boot := by rw [raise_frame]
@[simp] theorem raise_flash (d : Dev) (code : Nat) (src : W32) (detail : Nat) : (raise d code src detail).flash = d.flash := by rw [raise_frame]
@[simp] theorem raise_pins (d : Dev) (code : Nat) (src : W32) (detail : Nat) : (raise d code src detail).pins = d.pins := by rw [raise_frame]
@[simp] theorem raise_regs (d : Dev) (code : Nat) (src : W32) (detail : Nat) : (raise d code src detail).regs = d.regs := by rw [raise_frame]
@[simp] theorem raise_ipHeld (d : Dev) (code : Nat) (src : W32) (detail : Nat) : (raise d code src detail).ipHeld = d.ipHeld := by rw [raise_frame]
@[simp] theorem raise_locks (d : Dev) (code : Nat) (src : W32) (detail : Nat) : (raise d code src detail).locks = d.locks := by rw [raise_frame]
@[simp] theorem raise_keys (d : Dev) (code : Nat) (src : W32) (detail : Nat) : (raise d code src detail).keys = d.keys := by rw [raise_frame]
@[simp] theorem raise_keyData (d : Dev) (code : Nat) (src : W32) (detail : Nat) : (raise d code src detail).keyData = d.keyData := by rw [raise_frame]
@[simp] theorem raise_numVfs (d : Dev) (code : Nat) (src : W32) (detail : Nat) : (raise d code src detail).numVfs = d.numVfs := by rw [raise_frame]
@[simp] theorem raise_vfEnable (d : Dev) (code : Nat) (src : W32) (detail : Nat) : (raise d code src detail).vfEnable = d.vfEnable := by rw [raise_frame]
@[simp] theorem raise_aer (d : Dev) (code : Nat) (src : W32) (detail : Nat) : (raise d code src detail).aer = d.aer := by rw [raise_frame]
@[simp] theorem raise_host (d : Dev) (code : Nat) (src : W32) (detail : Nat) : (raise d code src detail).host = d.host := by rw [raise_frame]
@[simp] theorem raise_hostBad (d : Dev) (code : Nat) (src : W32) (detail : Nat) : (raise d code src detail).hostBad = d.hostBad := by rw [raise_frame]
@[simp] theorem raise_hbm (d : Dev) (code : Nat) (src : W32) (detail : Nat) : (raise d code src detail).hbm = d.hbm := by rw [raise_frame]
@[simp] theorem raise_hbmBad (d : Dev) (code : Nat) (src : W32) (detail : Nat) : (raise d code src detail).hbmBad = d.hbmBad := by rw [raise_frame]
@[simp] theorem raise_ts (d : Dev) (code : Nat) (src : W32) (detail : Nat) : (raise d code src detail).ts = d.ts := by rw [raise_frame]
@[simp] theorem raise_tsBad (d : Dev) (code : Nat) (src : W32) (detail : Nat) : (raise d code src detail).tsBad = d.tsBad := by rw [raise_frame]
@[simp] theorem raise_pool (d : Dev) (code : Nat) (src : W32) (detail : Nat) : (raise d code src detail).pool = d.pool := by rw [raise_frame]
@[simp] theorem raise_dredge (d : Dev) (code : Nat) (src : W32) (detail : Nat) : (raise d code src detail).dredge = d.dredge := by rw [raise_frame]
@[simp] theorem raise_tileMap (d : Dev) (code : Nat) (src : W32) (detail : Nat) : (raise d code src detail).tileMap = d.tileMap := by rw [raise_frame]
@[simp] theorem raise_tileFreeW (d : Dev) (code : Nat) (src : W32) (detail : Nat) : (raise d code src detail).tileFreeW = d.tileFreeW := by rw [raise_frame]
@[simp] theorem raise_tileFreeE (d : Dev) (code : Nat) (src : W32) (detail : Nat) : (raise d code src detail).tileFreeE = d.tileFreeE := by rw [raise_frame]
@[simp] theorem raise_parts (d : Dev) (code : Nat) (src : W32) (detail : Nat) : (raise d code src detail).parts = d.parts := by rw [raise_frame]
@[simp] theorem raise_stallCyc (d : Dev) (code : Nat) (src : W32) (detail : Nat) : (raise d code src detail).stallCyc = d.stallCyc := by rw [raise_frame]
@[simp] theorem raise_stallCnt (d : Dev) (code : Nat) (src : W32) (detail : Nat) : (raise d code src detail).stallCnt = d.stallCnt := by rw [raise_frame]
@[simp] theorem raise_links (d : Dev) (code : Nat) (src : W32) (detail : Nat) : (raise d code src detail).links = d.links := by rw [raise_frame]
@[simp] theorem raise_composing (d : Dev) (code : Nat) (src : W32) (detail : Nat) : (raise d code src detail).composing = d.composing := by rw [raise_frame]
@[simp] theorem raise_health (d : Dev) (code : Nat) (src : W32) (detail : Nat) : (raise d code src detail).health = d.health := by rw [raise_frame]
@[simp] theorem raise_stepResults (d : Dev) (code : Nat) (src : W32) (detail : Nat) : (raise d code src detail).stepResults = d.stepResults := by rw [raise_frame]
@[simp] theorem raise_clearPages (d : Dev) (code : Nat) (src : W32) (detail : Nat) : (raise d code src detail).clearPages = d.clearPages := by rw [raise_frame]
@[simp] theorem raise_objNo (d : Dev) (code : Nat) (src : W32) (detail : Nat) : (raise d code src detail).objNo = d.objNo := by rw [raise_frame]
@[simp] theorem raise_bases (d : Dev) (code : Nat) (src : W32) (detail : Nat) : (raise d code src detail).bases = d.bases := by rw [raise_frame]
@[simp] theorem raise_tasks (d : Dev) (code : Nat) (src : W32) (detail : Nat) : (raise d code src detail).tasks = d.tasks := by rw [raise_frame]
@[simp] theorem raise_taskNo (d : Dev) (code : Nat) (src : W32) (detail : Nat) : (raise d code src detail).taskNo = d.taskNo := by rw [raise_frame]
@[simp] theorem raise_cancelled (d : Dev) (code : Nat) (src : W32) (detail : Nat) : (raise d code src detail).cancelled = d.cancelled := by rw [raise_frame]
@[simp] theorem raise_staging (d : Dev) (code : Nat) (src : W32) (detail : Nat) : (raise d code src detail).staging = d.staging := by rw [raise_frame]
@[simp] theorem raise_ports (d : Dev) (code : Nat) (src : W32) (detail : Nat) : (raise d code src detail).ports = d.ports := by rw [raise_frame]
@[simp] theorem raise_podOps (d : Dev) (code : Nat) (src : W32) (detail : Nat) : (raise d code src detail).podOps = d.podOps := by rw [raise_frame]
@[simp] theorem raise_podTxn (d : Dev) (code : Nat) (src : W32) (detail : Nat) : (raise d code src detail).podTxn = d.podTxn := by rw [raise_frame]
@[simp] theorem raise_fences (d : Dev) (code : Nat) (src : W32) (detail : Nat) : (raise d code src detail).fences = d.fences := by rw [raise_frame]
@[simp] theorem raise_peerLost (d : Dev) (code : Nat) (src : W32) (detail : Nat) : (raise d code src detail).peerLost = d.peerLost := by rw [raise_frame]
@[simp] theorem raise_beats (d : Dev) (code : Nat) (src : W32) (detail : Nat) : (raise d code src detail).beats = d.beats := by rw [raise_frame]
@[simp] theorem raise_repl (d : Dev) (code : Nat) (src : W32) (detail : Nat) : (raise d code src detail).repl = d.repl := by rw [raise_frame]
@[simp] theorem raise_replVer (d : Dev) (code : Nat) (src : W32) (detail : Nat) : (raise d code src detail).replVer = d.replVer := by rw [raise_frame]
@[simp] theorem raise_replPosts (d : Dev) (code : Nat) (src : W32) (detail : Nat) : (raise d code src detail).replPosts = d.replPosts := by rw [raise_frame]
@[simp] theorem raise_replTag (d : Dev) (code : Nat) (src : W32) (detail : Nat) : (raise d code src detail).replTag = d.replTag := by rw [raise_frame]
@[simp] theorem raise_replQueue (d : Dev) (code : Nat) (src : W32) (detail : Nat) : (raise d code src detail).replQueue = d.replQueue := by rw [raise_frame]
@[simp] theorem raise_camW (d : Dev) (code : Nat) (src : W32) (detail : Nat) : (raise d code src detail).camW = d.camW := by rw [raise_frame]
@[simp] theorem raise_camE (d : Dev) (code : Nat) (src : W32) (detail : Nat) : (raise d code src detail).camE = d.camE := by rw [raise_frame]
@[simp] theorem raise_policers (d : Dev) (code : Nat) (src : W32) (detail : Nat) : (raise d code src detail).policers = d.policers := by rw [raise_frame]
@[simp] theorem raise_layouts (d : Dev) (code : Nat) (src : W32) (detail : Nat) : (raise d code src detail).layouts = d.layouts := by rw [raise_frame]
@[simp] theorem raise_tables (d : Dev) (code : Nat) (src : W32) (detail : Nat) : (raise d code src detail).tables = d.tables := by rw [raise_frame]
@[simp] theorem raise_tags (d : Dev) (code : Nat) (src : W32) (detail : Nat) : (raise d code src detail).tags = d.tags := by rw [raise_frame]
@[simp] theorem raise_farWait (d : Dev) (code : Nat) (src : W32) (detail : Nat) : (raise d code src detail).farWait = d.farWait := by rw [raise_frame]
@[simp] theorem raise_tableHeld (d : Dev) (code : Nat) (src : W32) (detail : Nat) : (raise d code src detail).tableHeld = d.tableHeld := by rw [raise_frame]
@[simp] theorem raise_barges (d : Dev) (code : Nat) (src : W32) (detail : Nat) : (raise d code src detail).barges = d.barges := by rw [raise_frame]
@[simp] theorem raise_pageSrcs (d : Dev) (code : Nat) (src : W32) (detail : Nat) : (raise d code src detail).pageSrcs = d.pageSrcs := by rw [raise_frame]
@[simp] theorem raise_dsts (d : Dev) (code : Nat) (src : W32) (detail : Nat) : (raise d code src detail).dsts = d.dsts := by rw [raise_frame]
@[simp] theorem raise_homes (d : Dev) (code : Nat) (src : W32) (detail : Nat) : (raise d code src detail).homes = d.homes := by rw [raise_frame]
@[simp] theorem raise_xferNo (d : Dev) (code : Nat) (src : W32) (detail : Nat) : (raise d code src detail).xferNo = d.xferNo := by rw [raise_frame]
@[simp] theorem raise_mooredNo (d : Dev) (code : Nat) (src : W32) (detail : Nat) : (raise d code src detail).mooredNo = d.mooredNo := by rw [raise_frame]
@[simp] theorem raise_inbox (d : Dev) (code : Nat) (src : W32) (detail : Nat) : (raise d code src detail).inbox = d.inbox := by rw [raise_frame]
@[simp] theorem raise_requests (d : Dev) (code : Nat) (src : W32) (detail : Nat) : (raise d code src detail).requests = d.requests := by rw [raise_frame]
@[simp] theorem raise_ended (d : Dev) (code : Nat) (src : W32) (detail : Nat) : (raise d code src detail).ended = d.ended := by rw [raise_frame]
@[simp] theorem raise_badCancels (d : Dev) (code : Nat) (src : W32) (detail : Nat) : (raise d code src detail).badCancels = d.badCancels := by rw [raise_frame]
@[simp] theorem raise_classes (d : Dev) (code : Nat) (src : W32) (detail : Nat) : (raise d code src detail).classes = d.classes := by rw [raise_frame]
@[simp] theorem raise_budgets (d : Dev) (code : Nat) (src : W32) (detail : Nat) : (raise d code src detail).budgets = d.budgets := by rw [raise_frame]
@[simp] theorem raise_programs (d : Dev) (code : Nat) (src : W32) (detail : Nat) : (raise d code src detail).programs = d.programs := by rw [raise_frame]
@[simp] theorem raise_steps (d : Dev) (code : Nat) (src : W32) (detail : Nat) : (raise d code src detail).steps = d.steps := by rw [raise_frame]
@[simp] theorem raise_qps (d : Dev) (code : Nat) (src : W32) (detail : Nat) : (raise d code src detail).qps = d.qps := by rw [raise_frame]
@[simp] theorem raise_qpDestroys (d : Dev) (code : Nat) (src : W32) (detail : Nat) : (raise d code src detail).qpDestroys = d.qpDestroys := by rw [raise_frame]
@[simp] theorem raise_qpClock (d : Dev) (code : Nat) (src : W32) (detail : Nat) : (raise d code src detail).qpClock = d.qpClock := by rw [raise_frame]
@[simp] theorem raise_towBad (d : Dev) (code : Nat) (src : W32) (detail : Nat) : (raise d code src detail).towBad = d.towBad := by rw [raise_frame]
@[simp] theorem raise_xptCount (d : Dev) (code : Nat) (src : W32) (detail : Nat) : (raise d code src detail).xptCount = d.xptCount := by rw [raise_frame]
@[simp] theorem raise_out (d : Dev) (code : Nat) (src : W32) (detail : Nat) : (raise d code src detail).out = d.out := by rw [raise_frame]

/-- `completeRing` changes no field but fns. -/
theorem completeRing_frame (d : Dev) (f : Fn) (r idx : Nat) (tag failTag : W32) (flags : W16) (st : Status) (detail extra : W64) : completeRing d f r idx tag failTag flags st detail extra = { d with fns := (completeRing d f r idx tag failTag flags st detail extra).fns } := by
  unfold completeRing; dsimp only; split <;> rfl
@[simp] theorem completeRing_tclk (d : Dev) (f : Fn) (r idx : Nat) (tag failTag : W32) (flags : W16) (st : Status) (detail extra : W64) : (completeRing d f r idx tag failTag flags st detail extra).tclk = d.tclk := by rw [completeRing_frame]
@[simp] theorem completeRing_boot (d : Dev) (f : Fn) (r idx : Nat) (tag failTag : W32) (flags : W16) (st : Status) (detail extra : W64) : (completeRing d f r idx tag failTag flags st detail extra).boot = d.boot := by rw [completeRing_frame]
@[simp] theorem completeRing_flash (d : Dev) (f : Fn) (r idx : Nat) (tag failTag : W32) (flags : W16) (st : Status) (detail extra : W64) : (completeRing d f r idx tag failTag flags st detail extra).flash = d.flash := by rw [completeRing_frame]
@[simp] theorem completeRing_pins (d : Dev) (f : Fn) (r idx : Nat) (tag failTag : W32) (flags : W16) (st : Status) (detail extra : W64) : (completeRing d f r idx tag failTag flags st detail extra).pins = d.pins := by rw [completeRing_frame]
@[simp] theorem completeRing_regs (d : Dev) (f : Fn) (r idx : Nat) (tag failTag : W32) (flags : W16) (st : Status) (detail extra : W64) : (completeRing d f r idx tag failTag flags st detail extra).regs = d.regs := by rw [completeRing_frame]
@[simp] theorem completeRing_ipHeld (d : Dev) (f : Fn) (r idx : Nat) (tag failTag : W32) (flags : W16) (st : Status) (detail extra : W64) : (completeRing d f r idx tag failTag flags st detail extra).ipHeld = d.ipHeld := by rw [completeRing_frame]
@[simp] theorem completeRing_locks (d : Dev) (f : Fn) (r idx : Nat) (tag failTag : W32) (flags : W16) (st : Status) (detail extra : W64) : (completeRing d f r idx tag failTag flags st detail extra).locks = d.locks := by rw [completeRing_frame]
@[simp] theorem completeRing_keys (d : Dev) (f : Fn) (r idx : Nat) (tag failTag : W32) (flags : W16) (st : Status) (detail extra : W64) : (completeRing d f r idx tag failTag flags st detail extra).keys = d.keys := by rw [completeRing_frame]
@[simp] theorem completeRing_keyData (d : Dev) (f : Fn) (r idx : Nat) (tag failTag : W32) (flags : W16) (st : Status) (detail extra : W64) : (completeRing d f r idx tag failTag flags st detail extra).keyData = d.keyData := by rw [completeRing_frame]
@[simp] theorem completeRing_numVfs (d : Dev) (f : Fn) (r idx : Nat) (tag failTag : W32) (flags : W16) (st : Status) (detail extra : W64) : (completeRing d f r idx tag failTag flags st detail extra).numVfs = d.numVfs := by rw [completeRing_frame]
@[simp] theorem completeRing_vfEnable (d : Dev) (f : Fn) (r idx : Nat) (tag failTag : W32) (flags : W16) (st : Status) (detail extra : W64) : (completeRing d f r idx tag failTag flags st detail extra).vfEnable = d.vfEnable := by rw [completeRing_frame]
@[simp] theorem completeRing_aer (d : Dev) (f : Fn) (r idx : Nat) (tag failTag : W32) (flags : W16) (st : Status) (detail extra : W64) : (completeRing d f r idx tag failTag flags st detail extra).aer = d.aer := by rw [completeRing_frame]
@[simp] theorem completeRing_host (d : Dev) (f : Fn) (r idx : Nat) (tag failTag : W32) (flags : W16) (st : Status) (detail extra : W64) : (completeRing d f r idx tag failTag flags st detail extra).host = d.host := by rw [completeRing_frame]
@[simp] theorem completeRing_hostBad (d : Dev) (f : Fn) (r idx : Nat) (tag failTag : W32) (flags : W16) (st : Status) (detail extra : W64) : (completeRing d f r idx tag failTag flags st detail extra).hostBad = d.hostBad := by rw [completeRing_frame]
@[simp] theorem completeRing_hbm (d : Dev) (f : Fn) (r idx : Nat) (tag failTag : W32) (flags : W16) (st : Status) (detail extra : W64) : (completeRing d f r idx tag failTag flags st detail extra).hbm = d.hbm := by rw [completeRing_frame]
@[simp] theorem completeRing_hbmBad (d : Dev) (f : Fn) (r idx : Nat) (tag failTag : W32) (flags : W16) (st : Status) (detail extra : W64) : (completeRing d f r idx tag failTag flags st detail extra).hbmBad = d.hbmBad := by rw [completeRing_frame]
@[simp] theorem completeRing_ts (d : Dev) (f : Fn) (r idx : Nat) (tag failTag : W32) (flags : W16) (st : Status) (detail extra : W64) : (completeRing d f r idx tag failTag flags st detail extra).ts = d.ts := by rw [completeRing_frame]
@[simp] theorem completeRing_tsBad (d : Dev) (f : Fn) (r idx : Nat) (tag failTag : W32) (flags : W16) (st : Status) (detail extra : W64) : (completeRing d f r idx tag failTag flags st detail extra).tsBad = d.tsBad := by rw [completeRing_frame]
@[simp] theorem completeRing_pool (d : Dev) (f : Fn) (r idx : Nat) (tag failTag : W32) (flags : W16) (st : Status) (detail extra : W64) : (completeRing d f r idx tag failTag flags st detail extra).pool = d.pool := by rw [completeRing_frame]
@[simp] theorem completeRing_dredge (d : Dev) (f : Fn) (r idx : Nat) (tag failTag : W32) (flags : W16) (st : Status) (detail extra : W64) : (completeRing d f r idx tag failTag flags st detail extra).dredge = d.dredge := by rw [completeRing_frame]
@[simp] theorem completeRing_tileMap (d : Dev) (f : Fn) (r idx : Nat) (tag failTag : W32) (flags : W16) (st : Status) (detail extra : W64) : (completeRing d f r idx tag failTag flags st detail extra).tileMap = d.tileMap := by rw [completeRing_frame]
@[simp] theorem completeRing_tileFreeW (d : Dev) (f : Fn) (r idx : Nat) (tag failTag : W32) (flags : W16) (st : Status) (detail extra : W64) : (completeRing d f r idx tag failTag flags st detail extra).tileFreeW = d.tileFreeW := by rw [completeRing_frame]
@[simp] theorem completeRing_tileFreeE (d : Dev) (f : Fn) (r idx : Nat) (tag failTag : W32) (flags : W16) (st : Status) (detail extra : W64) : (completeRing d f r idx tag failTag flags st detail extra).tileFreeE = d.tileFreeE := by rw [completeRing_frame]
@[simp] theorem completeRing_parts (d : Dev) (f : Fn) (r idx : Nat) (tag failTag : W32) (flags : W16) (st : Status) (detail extra : W64) : (completeRing d f r idx tag failTag flags st detail extra).parts = d.parts := by rw [completeRing_frame]
@[simp] theorem completeRing_stallCyc (d : Dev) (f : Fn) (r idx : Nat) (tag failTag : W32) (flags : W16) (st : Status) (detail extra : W64) : (completeRing d f r idx tag failTag flags st detail extra).stallCyc = d.stallCyc := by rw [completeRing_frame]
@[simp] theorem completeRing_stallCnt (d : Dev) (f : Fn) (r idx : Nat) (tag failTag : W32) (flags : W16) (st : Status) (detail extra : W64) : (completeRing d f r idx tag failTag flags st detail extra).stallCnt = d.stallCnt := by rw [completeRing_frame]
@[simp] theorem completeRing_links (d : Dev) (f : Fn) (r idx : Nat) (tag failTag : W32) (flags : W16) (st : Status) (detail extra : W64) : (completeRing d f r idx tag failTag flags st detail extra).links = d.links := by rw [completeRing_frame]
@[simp] theorem completeRing_composing (d : Dev) (f : Fn) (r idx : Nat) (tag failTag : W32) (flags : W16) (st : Status) (detail extra : W64) : (completeRing d f r idx tag failTag flags st detail extra).composing = d.composing := by rw [completeRing_frame]
@[simp] theorem completeRing_health (d : Dev) (f : Fn) (r idx : Nat) (tag failTag : W32) (flags : W16) (st : Status) (detail extra : W64) : (completeRing d f r idx tag failTag flags st detail extra).health = d.health := by rw [completeRing_frame]
@[simp] theorem completeRing_stepResults (d : Dev) (f : Fn) (r idx : Nat) (tag failTag : W32) (flags : W16) (st : Status) (detail extra : W64) : (completeRing d f r idx tag failTag flags st detail extra).stepResults = d.stepResults := by rw [completeRing_frame]
@[simp] theorem completeRing_clearPages (d : Dev) (f : Fn) (r idx : Nat) (tag failTag : W32) (flags : W16) (st : Status) (detail extra : W64) : (completeRing d f r idx tag failTag flags st detail extra).clearPages = d.clearPages := by rw [completeRing_frame]
@[simp] theorem completeRing_objNo (d : Dev) (f : Fn) (r idx : Nat) (tag failTag : W32) (flags : W16) (st : Status) (detail extra : W64) : (completeRing d f r idx tag failTag flags st detail extra).objNo = d.objNo := by rw [completeRing_frame]
@[simp] theorem completeRing_bases (d : Dev) (f : Fn) (r idx : Nat) (tag failTag : W32) (flags : W16) (st : Status) (detail extra : W64) : (completeRing d f r idx tag failTag flags st detail extra).bases = d.bases := by rw [completeRing_frame]
@[simp] theorem completeRing_tasks (d : Dev) (f : Fn) (r idx : Nat) (tag failTag : W32) (flags : W16) (st : Status) (detail extra : W64) : (completeRing d f r idx tag failTag flags st detail extra).tasks = d.tasks := by rw [completeRing_frame]
@[simp] theorem completeRing_taskNo (d : Dev) (f : Fn) (r idx : Nat) (tag failTag : W32) (flags : W16) (st : Status) (detail extra : W64) : (completeRing d f r idx tag failTag flags st detail extra).taskNo = d.taskNo := by rw [completeRing_frame]
@[simp] theorem completeRing_cancelled (d : Dev) (f : Fn) (r idx : Nat) (tag failTag : W32) (flags : W16) (st : Status) (detail extra : W64) : (completeRing d f r idx tag failTag flags st detail extra).cancelled = d.cancelled := by rw [completeRing_frame]
@[simp] theorem completeRing_staging (d : Dev) (f : Fn) (r idx : Nat) (tag failTag : W32) (flags : W16) (st : Status) (detail extra : W64) : (completeRing d f r idx tag failTag flags st detail extra).staging = d.staging := by rw [completeRing_frame]
@[simp] theorem completeRing_ports (d : Dev) (f : Fn) (r idx : Nat) (tag failTag : W32) (flags : W16) (st : Status) (detail extra : W64) : (completeRing d f r idx tag failTag flags st detail extra).ports = d.ports := by rw [completeRing_frame]
@[simp] theorem completeRing_podOps (d : Dev) (f : Fn) (r idx : Nat) (tag failTag : W32) (flags : W16) (st : Status) (detail extra : W64) : (completeRing d f r idx tag failTag flags st detail extra).podOps = d.podOps := by rw [completeRing_frame]
@[simp] theorem completeRing_podTxn (d : Dev) (f : Fn) (r idx : Nat) (tag failTag : W32) (flags : W16) (st : Status) (detail extra : W64) : (completeRing d f r idx tag failTag flags st detail extra).podTxn = d.podTxn := by rw [completeRing_frame]
@[simp] theorem completeRing_fences (d : Dev) (f : Fn) (r idx : Nat) (tag failTag : W32) (flags : W16) (st : Status) (detail extra : W64) : (completeRing d f r idx tag failTag flags st detail extra).fences = d.fences := by rw [completeRing_frame]
@[simp] theorem completeRing_peerLost (d : Dev) (f : Fn) (r idx : Nat) (tag failTag : W32) (flags : W16) (st : Status) (detail extra : W64) : (completeRing d f r idx tag failTag flags st detail extra).peerLost = d.peerLost := by rw [completeRing_frame]
@[simp] theorem completeRing_beats (d : Dev) (f : Fn) (r idx : Nat) (tag failTag : W32) (flags : W16) (st : Status) (detail extra : W64) : (completeRing d f r idx tag failTag flags st detail extra).beats = d.beats := by rw [completeRing_frame]
@[simp] theorem completeRing_repl (d : Dev) (f : Fn) (r idx : Nat) (tag failTag : W32) (flags : W16) (st : Status) (detail extra : W64) : (completeRing d f r idx tag failTag flags st detail extra).repl = d.repl := by rw [completeRing_frame]
@[simp] theorem completeRing_replVer (d : Dev) (f : Fn) (r idx : Nat) (tag failTag : W32) (flags : W16) (st : Status) (detail extra : W64) : (completeRing d f r idx tag failTag flags st detail extra).replVer = d.replVer := by rw [completeRing_frame]
@[simp] theorem completeRing_replPosts (d : Dev) (f : Fn) (r idx : Nat) (tag failTag : W32) (flags : W16) (st : Status) (detail extra : W64) : (completeRing d f r idx tag failTag flags st detail extra).replPosts = d.replPosts := by rw [completeRing_frame]
@[simp] theorem completeRing_replTag (d : Dev) (f : Fn) (r idx : Nat) (tag failTag : W32) (flags : W16) (st : Status) (detail extra : W64) : (completeRing d f r idx tag failTag flags st detail extra).replTag = d.replTag := by rw [completeRing_frame]
@[simp] theorem completeRing_replQueue (d : Dev) (f : Fn) (r idx : Nat) (tag failTag : W32) (flags : W16) (st : Status) (detail extra : W64) : (completeRing d f r idx tag failTag flags st detail extra).replQueue = d.replQueue := by rw [completeRing_frame]
@[simp] theorem completeRing_camW (d : Dev) (f : Fn) (r idx : Nat) (tag failTag : W32) (flags : W16) (st : Status) (detail extra : W64) : (completeRing d f r idx tag failTag flags st detail extra).camW = d.camW := by rw [completeRing_frame]
@[simp] theorem completeRing_camE (d : Dev) (f : Fn) (r idx : Nat) (tag failTag : W32) (flags : W16) (st : Status) (detail extra : W64) : (completeRing d f r idx tag failTag flags st detail extra).camE = d.camE := by rw [completeRing_frame]
@[simp] theorem completeRing_policers (d : Dev) (f : Fn) (r idx : Nat) (tag failTag : W32) (flags : W16) (st : Status) (detail extra : W64) : (completeRing d f r idx tag failTag flags st detail extra).policers = d.policers := by rw [completeRing_frame]
@[simp] theorem completeRing_layouts (d : Dev) (f : Fn) (r idx : Nat) (tag failTag : W32) (flags : W16) (st : Status) (detail extra : W64) : (completeRing d f r idx tag failTag flags st detail extra).layouts = d.layouts := by rw [completeRing_frame]
@[simp] theorem completeRing_tables (d : Dev) (f : Fn) (r idx : Nat) (tag failTag : W32) (flags : W16) (st : Status) (detail extra : W64) : (completeRing d f r idx tag failTag flags st detail extra).tables = d.tables := by rw [completeRing_frame]
@[simp] theorem completeRing_tags (d : Dev) (f : Fn) (r idx : Nat) (tag failTag : W32) (flags : W16) (st : Status) (detail extra : W64) : (completeRing d f r idx tag failTag flags st detail extra).tags = d.tags := by rw [completeRing_frame]
@[simp] theorem completeRing_farWait (d : Dev) (f : Fn) (r idx : Nat) (tag failTag : W32) (flags : W16) (st : Status) (detail extra : W64) : (completeRing d f r idx tag failTag flags st detail extra).farWait = d.farWait := by rw [completeRing_frame]
@[simp] theorem completeRing_tableHeld (d : Dev) (f : Fn) (r idx : Nat) (tag failTag : W32) (flags : W16) (st : Status) (detail extra : W64) : (completeRing d f r idx tag failTag flags st detail extra).tableHeld = d.tableHeld := by rw [completeRing_frame]
@[simp] theorem completeRing_barges (d : Dev) (f : Fn) (r idx : Nat) (tag failTag : W32) (flags : W16) (st : Status) (detail extra : W64) : (completeRing d f r idx tag failTag flags st detail extra).barges = d.barges := by rw [completeRing_frame]
@[simp] theorem completeRing_pageSrcs (d : Dev) (f : Fn) (r idx : Nat) (tag failTag : W32) (flags : W16) (st : Status) (detail extra : W64) : (completeRing d f r idx tag failTag flags st detail extra).pageSrcs = d.pageSrcs := by rw [completeRing_frame]
@[simp] theorem completeRing_dsts (d : Dev) (f : Fn) (r idx : Nat) (tag failTag : W32) (flags : W16) (st : Status) (detail extra : W64) : (completeRing d f r idx tag failTag flags st detail extra).dsts = d.dsts := by rw [completeRing_frame]
@[simp] theorem completeRing_homes (d : Dev) (f : Fn) (r idx : Nat) (tag failTag : W32) (flags : W16) (st : Status) (detail extra : W64) : (completeRing d f r idx tag failTag flags st detail extra).homes = d.homes := by rw [completeRing_frame]
@[simp] theorem completeRing_xferNo (d : Dev) (f : Fn) (r idx : Nat) (tag failTag : W32) (flags : W16) (st : Status) (detail extra : W64) : (completeRing d f r idx tag failTag flags st detail extra).xferNo = d.xferNo := by rw [completeRing_frame]
@[simp] theorem completeRing_mooredNo (d : Dev) (f : Fn) (r idx : Nat) (tag failTag : W32) (flags : W16) (st : Status) (detail extra : W64) : (completeRing d f r idx tag failTag flags st detail extra).mooredNo = d.mooredNo := by rw [completeRing_frame]
@[simp] theorem completeRing_inbox (d : Dev) (f : Fn) (r idx : Nat) (tag failTag : W32) (flags : W16) (st : Status) (detail extra : W64) : (completeRing d f r idx tag failTag flags st detail extra).inbox = d.inbox := by rw [completeRing_frame]
@[simp] theorem completeRing_requests (d : Dev) (f : Fn) (r idx : Nat) (tag failTag : W32) (flags : W16) (st : Status) (detail extra : W64) : (completeRing d f r idx tag failTag flags st detail extra).requests = d.requests := by rw [completeRing_frame]
@[simp] theorem completeRing_ended (d : Dev) (f : Fn) (r idx : Nat) (tag failTag : W32) (flags : W16) (st : Status) (detail extra : W64) : (completeRing d f r idx tag failTag flags st detail extra).ended = d.ended := by rw [completeRing_frame]
@[simp] theorem completeRing_badCancels (d : Dev) (f : Fn) (r idx : Nat) (tag failTag : W32) (flags : W16) (st : Status) (detail extra : W64) : (completeRing d f r idx tag failTag flags st detail extra).badCancels = d.badCancels := by rw [completeRing_frame]
@[simp] theorem completeRing_classes (d : Dev) (f : Fn) (r idx : Nat) (tag failTag : W32) (flags : W16) (st : Status) (detail extra : W64) : (completeRing d f r idx tag failTag flags st detail extra).classes = d.classes := by rw [completeRing_frame]
@[simp] theorem completeRing_budgets (d : Dev) (f : Fn) (r idx : Nat) (tag failTag : W32) (flags : W16) (st : Status) (detail extra : W64) : (completeRing d f r idx tag failTag flags st detail extra).budgets = d.budgets := by rw [completeRing_frame]
@[simp] theorem completeRing_programs (d : Dev) (f : Fn) (r idx : Nat) (tag failTag : W32) (flags : W16) (st : Status) (detail extra : W64) : (completeRing d f r idx tag failTag flags st detail extra).programs = d.programs := by rw [completeRing_frame]
@[simp] theorem completeRing_steps (d : Dev) (f : Fn) (r idx : Nat) (tag failTag : W32) (flags : W16) (st : Status) (detail extra : W64) : (completeRing d f r idx tag failTag flags st detail extra).steps = d.steps := by rw [completeRing_frame]
@[simp] theorem completeRing_qps (d : Dev) (f : Fn) (r idx : Nat) (tag failTag : W32) (flags : W16) (st : Status) (detail extra : W64) : (completeRing d f r idx tag failTag flags st detail extra).qps = d.qps := by rw [completeRing_frame]
@[simp] theorem completeRing_qpDestroys (d : Dev) (f : Fn) (r idx : Nat) (tag failTag : W32) (flags : W16) (st : Status) (detail extra : W64) : (completeRing d f r idx tag failTag flags st detail extra).qpDestroys = d.qpDestroys := by rw [completeRing_frame]
@[simp] theorem completeRing_qpClock (d : Dev) (f : Fn) (r idx : Nat) (tag failTag : W32) (flags : W16) (st : Status) (detail extra : W64) : (completeRing d f r idx tag failTag flags st detail extra).qpClock = d.qpClock := by rw [completeRing_frame]
@[simp] theorem completeRing_towBad (d : Dev) (f : Fn) (r idx : Nat) (tag failTag : W32) (flags : W16) (st : Status) (detail extra : W64) : (completeRing d f r idx tag failTag flags st detail extra).towBad = d.towBad := by rw [completeRing_frame]
@[simp] theorem completeRing_xptCount (d : Dev) (f : Fn) (r idx : Nat) (tag failTag : W32) (flags : W16) (st : Status) (detail extra : W64) : (completeRing d f r idx tag failTag flags st detail extra).xptCount = d.xptCount := by rw [completeRing_frame]
@[simp] theorem completeRing_out (d : Dev) (f : Fn) (r idx : Nat) (tag failTag : W32) (flags : W16) (st : Status) (detail extra : W64) : (completeRing d f r idx tag failTag flags st detail extra).out = d.out := by rw [completeRing_frame]

/-- `complete` changes no field but fns and stepResults. -/
theorem complete_frame (d : Dev) (p : Post) (st : Status) (detail extra : Nat) : complete d p st detail extra = { d with fns := (complete d p st detail extra).fns, stepResults := (complete d p st detail extra).stepResults } := by
  unfold complete; split
  · rw [completeRing_frame]
  · rfl
@[simp] theorem complete_tclk (d : Dev) (p : Post) (st : Status) (detail extra : Nat) : (complete d p st detail extra).tclk = d.tclk := by rw [complete_frame]
@[simp] theorem complete_boot (d : Dev) (p : Post) (st : Status) (detail extra : Nat) : (complete d p st detail extra).boot = d.boot := by rw [complete_frame]
@[simp] theorem complete_flash (d : Dev) (p : Post) (st : Status) (detail extra : Nat) : (complete d p st detail extra).flash = d.flash := by rw [complete_frame]
@[simp] theorem complete_pins (d : Dev) (p : Post) (st : Status) (detail extra : Nat) : (complete d p st detail extra).pins = d.pins := by rw [complete_frame]
@[simp] theorem complete_regs (d : Dev) (p : Post) (st : Status) (detail extra : Nat) : (complete d p st detail extra).regs = d.regs := by rw [complete_frame]
@[simp] theorem complete_ipHeld (d : Dev) (p : Post) (st : Status) (detail extra : Nat) : (complete d p st detail extra).ipHeld = d.ipHeld := by rw [complete_frame]
@[simp] theorem complete_locks (d : Dev) (p : Post) (st : Status) (detail extra : Nat) : (complete d p st detail extra).locks = d.locks := by rw [complete_frame]
@[simp] theorem complete_keys (d : Dev) (p : Post) (st : Status) (detail extra : Nat) : (complete d p st detail extra).keys = d.keys := by rw [complete_frame]
@[simp] theorem complete_keyData (d : Dev) (p : Post) (st : Status) (detail extra : Nat) : (complete d p st detail extra).keyData = d.keyData := by rw [complete_frame]
@[simp] theorem complete_numVfs (d : Dev) (p : Post) (st : Status) (detail extra : Nat) : (complete d p st detail extra).numVfs = d.numVfs := by rw [complete_frame]
@[simp] theorem complete_vfEnable (d : Dev) (p : Post) (st : Status) (detail extra : Nat) : (complete d p st detail extra).vfEnable = d.vfEnable := by rw [complete_frame]
@[simp] theorem complete_aer (d : Dev) (p : Post) (st : Status) (detail extra : Nat) : (complete d p st detail extra).aer = d.aer := by rw [complete_frame]
@[simp] theorem complete_host (d : Dev) (p : Post) (st : Status) (detail extra : Nat) : (complete d p st detail extra).host = d.host := by rw [complete_frame]
@[simp] theorem complete_hostBad (d : Dev) (p : Post) (st : Status) (detail extra : Nat) : (complete d p st detail extra).hostBad = d.hostBad := by rw [complete_frame]
@[simp] theorem complete_hbm (d : Dev) (p : Post) (st : Status) (detail extra : Nat) : (complete d p st detail extra).hbm = d.hbm := by rw [complete_frame]
@[simp] theorem complete_hbmBad (d : Dev) (p : Post) (st : Status) (detail extra : Nat) : (complete d p st detail extra).hbmBad = d.hbmBad := by rw [complete_frame]
@[simp] theorem complete_ts (d : Dev) (p : Post) (st : Status) (detail extra : Nat) : (complete d p st detail extra).ts = d.ts := by rw [complete_frame]
@[simp] theorem complete_tsBad (d : Dev) (p : Post) (st : Status) (detail extra : Nat) : (complete d p st detail extra).tsBad = d.tsBad := by rw [complete_frame]
@[simp] theorem complete_pool (d : Dev) (p : Post) (st : Status) (detail extra : Nat) : (complete d p st detail extra).pool = d.pool := by rw [complete_frame]
@[simp] theorem complete_dredge (d : Dev) (p : Post) (st : Status) (detail extra : Nat) : (complete d p st detail extra).dredge = d.dredge := by rw [complete_frame]
@[simp] theorem complete_tileMap (d : Dev) (p : Post) (st : Status) (detail extra : Nat) : (complete d p st detail extra).tileMap = d.tileMap := by rw [complete_frame]
@[simp] theorem complete_tileFreeW (d : Dev) (p : Post) (st : Status) (detail extra : Nat) : (complete d p st detail extra).tileFreeW = d.tileFreeW := by rw [complete_frame]
@[simp] theorem complete_tileFreeE (d : Dev) (p : Post) (st : Status) (detail extra : Nat) : (complete d p st detail extra).tileFreeE = d.tileFreeE := by rw [complete_frame]
@[simp] theorem complete_parts (d : Dev) (p : Post) (st : Status) (detail extra : Nat) : (complete d p st detail extra).parts = d.parts := by rw [complete_frame]
@[simp] theorem complete_stallCyc (d : Dev) (p : Post) (st : Status) (detail extra : Nat) : (complete d p st detail extra).stallCyc = d.stallCyc := by rw [complete_frame]
@[simp] theorem complete_stallCnt (d : Dev) (p : Post) (st : Status) (detail extra : Nat) : (complete d p st detail extra).stallCnt = d.stallCnt := by rw [complete_frame]
@[simp] theorem complete_links (d : Dev) (p : Post) (st : Status) (detail extra : Nat) : (complete d p st detail extra).links = d.links := by rw [complete_frame]
@[simp] theorem complete_composing (d : Dev) (p : Post) (st : Status) (detail extra : Nat) : (complete d p st detail extra).composing = d.composing := by rw [complete_frame]
@[simp] theorem complete_health (d : Dev) (p : Post) (st : Status) (detail extra : Nat) : (complete d p st detail extra).health = d.health := by rw [complete_frame]
@[simp] theorem complete_clearPages (d : Dev) (p : Post) (st : Status) (detail extra : Nat) : (complete d p st detail extra).clearPages = d.clearPages := by rw [complete_frame]
@[simp] theorem complete_objNo (d : Dev) (p : Post) (st : Status) (detail extra : Nat) : (complete d p st detail extra).objNo = d.objNo := by rw [complete_frame]
@[simp] theorem complete_bases (d : Dev) (p : Post) (st : Status) (detail extra : Nat) : (complete d p st detail extra).bases = d.bases := by rw [complete_frame]
@[simp] theorem complete_tasks (d : Dev) (p : Post) (st : Status) (detail extra : Nat) : (complete d p st detail extra).tasks = d.tasks := by rw [complete_frame]
@[simp] theorem complete_taskNo (d : Dev) (p : Post) (st : Status) (detail extra : Nat) : (complete d p st detail extra).taskNo = d.taskNo := by rw [complete_frame]
@[simp] theorem complete_cancelled (d : Dev) (p : Post) (st : Status) (detail extra : Nat) : (complete d p st detail extra).cancelled = d.cancelled := by rw [complete_frame]
@[simp] theorem complete_staging (d : Dev) (p : Post) (st : Status) (detail extra : Nat) : (complete d p st detail extra).staging = d.staging := by rw [complete_frame]
@[simp] theorem complete_ports (d : Dev) (p : Post) (st : Status) (detail extra : Nat) : (complete d p st detail extra).ports = d.ports := by rw [complete_frame]
@[simp] theorem complete_podOps (d : Dev) (p : Post) (st : Status) (detail extra : Nat) : (complete d p st detail extra).podOps = d.podOps := by rw [complete_frame]
@[simp] theorem complete_podTxn (d : Dev) (p : Post) (st : Status) (detail extra : Nat) : (complete d p st detail extra).podTxn = d.podTxn := by rw [complete_frame]
@[simp] theorem complete_fences (d : Dev) (p : Post) (st : Status) (detail extra : Nat) : (complete d p st detail extra).fences = d.fences := by rw [complete_frame]
@[simp] theorem complete_peerLost (d : Dev) (p : Post) (st : Status) (detail extra : Nat) : (complete d p st detail extra).peerLost = d.peerLost := by rw [complete_frame]
@[simp] theorem complete_beats (d : Dev) (p : Post) (st : Status) (detail extra : Nat) : (complete d p st detail extra).beats = d.beats := by rw [complete_frame]
@[simp] theorem complete_repl (d : Dev) (p : Post) (st : Status) (detail extra : Nat) : (complete d p st detail extra).repl = d.repl := by rw [complete_frame]
@[simp] theorem complete_replVer (d : Dev) (p : Post) (st : Status) (detail extra : Nat) : (complete d p st detail extra).replVer = d.replVer := by rw [complete_frame]
@[simp] theorem complete_replPosts (d : Dev) (p : Post) (st : Status) (detail extra : Nat) : (complete d p st detail extra).replPosts = d.replPosts := by rw [complete_frame]
@[simp] theorem complete_replTag (d : Dev) (p : Post) (st : Status) (detail extra : Nat) : (complete d p st detail extra).replTag = d.replTag := by rw [complete_frame]
@[simp] theorem complete_replQueue (d : Dev) (p : Post) (st : Status) (detail extra : Nat) : (complete d p st detail extra).replQueue = d.replQueue := by rw [complete_frame]
@[simp] theorem complete_camW (d : Dev) (p : Post) (st : Status) (detail extra : Nat) : (complete d p st detail extra).camW = d.camW := by rw [complete_frame]
@[simp] theorem complete_camE (d : Dev) (p : Post) (st : Status) (detail extra : Nat) : (complete d p st detail extra).camE = d.camE := by rw [complete_frame]
@[simp] theorem complete_policers (d : Dev) (p : Post) (st : Status) (detail extra : Nat) : (complete d p st detail extra).policers = d.policers := by rw [complete_frame]
@[simp] theorem complete_layouts (d : Dev) (p : Post) (st : Status) (detail extra : Nat) : (complete d p st detail extra).layouts = d.layouts := by rw [complete_frame]
@[simp] theorem complete_tables (d : Dev) (p : Post) (st : Status) (detail extra : Nat) : (complete d p st detail extra).tables = d.tables := by rw [complete_frame]
@[simp] theorem complete_tags (d : Dev) (p : Post) (st : Status) (detail extra : Nat) : (complete d p st detail extra).tags = d.tags := by rw [complete_frame]
@[simp] theorem complete_farWait (d : Dev) (p : Post) (st : Status) (detail extra : Nat) : (complete d p st detail extra).farWait = d.farWait := by rw [complete_frame]
@[simp] theorem complete_tableHeld (d : Dev) (p : Post) (st : Status) (detail extra : Nat) : (complete d p st detail extra).tableHeld = d.tableHeld := by rw [complete_frame]
@[simp] theorem complete_barges (d : Dev) (p : Post) (st : Status) (detail extra : Nat) : (complete d p st detail extra).barges = d.barges := by rw [complete_frame]
@[simp] theorem complete_pageSrcs (d : Dev) (p : Post) (st : Status) (detail extra : Nat) : (complete d p st detail extra).pageSrcs = d.pageSrcs := by rw [complete_frame]
@[simp] theorem complete_dsts (d : Dev) (p : Post) (st : Status) (detail extra : Nat) : (complete d p st detail extra).dsts = d.dsts := by rw [complete_frame]
@[simp] theorem complete_homes (d : Dev) (p : Post) (st : Status) (detail extra : Nat) : (complete d p st detail extra).homes = d.homes := by rw [complete_frame]
@[simp] theorem complete_xferNo (d : Dev) (p : Post) (st : Status) (detail extra : Nat) : (complete d p st detail extra).xferNo = d.xferNo := by rw [complete_frame]
@[simp] theorem complete_mooredNo (d : Dev) (p : Post) (st : Status) (detail extra : Nat) : (complete d p st detail extra).mooredNo = d.mooredNo := by rw [complete_frame]
@[simp] theorem complete_inbox (d : Dev) (p : Post) (st : Status) (detail extra : Nat) : (complete d p st detail extra).inbox = d.inbox := by rw [complete_frame]
@[simp] theorem complete_requests (d : Dev) (p : Post) (st : Status) (detail extra : Nat) : (complete d p st detail extra).requests = d.requests := by rw [complete_frame]
@[simp] theorem complete_ended (d : Dev) (p : Post) (st : Status) (detail extra : Nat) : (complete d p st detail extra).ended = d.ended := by rw [complete_frame]
@[simp] theorem complete_badCancels (d : Dev) (p : Post) (st : Status) (detail extra : Nat) : (complete d p st detail extra).badCancels = d.badCancels := by rw [complete_frame]
@[simp] theorem complete_classes (d : Dev) (p : Post) (st : Status) (detail extra : Nat) : (complete d p st detail extra).classes = d.classes := by rw [complete_frame]
@[simp] theorem complete_budgets (d : Dev) (p : Post) (st : Status) (detail extra : Nat) : (complete d p st detail extra).budgets = d.budgets := by rw [complete_frame]
@[simp] theorem complete_programs (d : Dev) (p : Post) (st : Status) (detail extra : Nat) : (complete d p st detail extra).programs = d.programs := by rw [complete_frame]
@[simp] theorem complete_steps (d : Dev) (p : Post) (st : Status) (detail extra : Nat) : (complete d p st detail extra).steps = d.steps := by rw [complete_frame]
@[simp] theorem complete_qps (d : Dev) (p : Post) (st : Status) (detail extra : Nat) : (complete d p st detail extra).qps = d.qps := by rw [complete_frame]
@[simp] theorem complete_qpDestroys (d : Dev) (p : Post) (st : Status) (detail extra : Nat) : (complete d p st detail extra).qpDestroys = d.qpDestroys := by rw [complete_frame]
@[simp] theorem complete_qpClock (d : Dev) (p : Post) (st : Status) (detail extra : Nat) : (complete d p st detail extra).qpClock = d.qpClock := by rw [complete_frame]
@[simp] theorem complete_towBad (d : Dev) (p : Post) (st : Status) (detail extra : Nat) : (complete d p st detail extra).towBad = d.towBad := by rw [complete_frame]
@[simp] theorem complete_xptCount (d : Dev) (p : Post) (st : Status) (detail extra : Nat) : (complete d p st detail extra).xptCount = d.xptCount := by rw [complete_frame]
@[simp] theorem complete_out (d : Dev) (p : Post) (st : Status) (detail extra : Nat) : (complete d p st detail extra).out = d.out := by rw [complete_frame]

/-- `takePost` changes no field but fns and steps. -/
theorem takePost_frame (d : Dev) (p : Post) : takePost d p = { d with fns := (takePost d p).fns, steps := (takePost d p).steps } := by
  unfold takePost; split
  · rfl
  · dsimp only; split <;> rfl
@[simp] theorem takePost_tclk (d : Dev) (p : Post) : (takePost d p).tclk = d.tclk := by rw [takePost_frame]
@[simp] theorem takePost_boot (d : Dev) (p : Post) : (takePost d p).boot = d.boot := by rw [takePost_frame]
@[simp] theorem takePost_flash (d : Dev) (p : Post) : (takePost d p).flash = d.flash := by rw [takePost_frame]
@[simp] theorem takePost_pins (d : Dev) (p : Post) : (takePost d p).pins = d.pins := by rw [takePost_frame]
@[simp] theorem takePost_regs (d : Dev) (p : Post) : (takePost d p).regs = d.regs := by rw [takePost_frame]
@[simp] theorem takePost_ipHeld (d : Dev) (p : Post) : (takePost d p).ipHeld = d.ipHeld := by rw [takePost_frame]
@[simp] theorem takePost_locks (d : Dev) (p : Post) : (takePost d p).locks = d.locks := by rw [takePost_frame]
@[simp] theorem takePost_keys (d : Dev) (p : Post) : (takePost d p).keys = d.keys := by rw [takePost_frame]
@[simp] theorem takePost_keyData (d : Dev) (p : Post) : (takePost d p).keyData = d.keyData := by rw [takePost_frame]
@[simp] theorem takePost_numVfs (d : Dev) (p : Post) : (takePost d p).numVfs = d.numVfs := by rw [takePost_frame]
@[simp] theorem takePost_vfEnable (d : Dev) (p : Post) : (takePost d p).vfEnable = d.vfEnable := by rw [takePost_frame]
@[simp] theorem takePost_aer (d : Dev) (p : Post) : (takePost d p).aer = d.aer := by rw [takePost_frame]
@[simp] theorem takePost_host (d : Dev) (p : Post) : (takePost d p).host = d.host := by rw [takePost_frame]
@[simp] theorem takePost_hostBad (d : Dev) (p : Post) : (takePost d p).hostBad = d.hostBad := by rw [takePost_frame]
@[simp] theorem takePost_hbm (d : Dev) (p : Post) : (takePost d p).hbm = d.hbm := by rw [takePost_frame]
@[simp] theorem takePost_hbmBad (d : Dev) (p : Post) : (takePost d p).hbmBad = d.hbmBad := by rw [takePost_frame]
@[simp] theorem takePost_ts (d : Dev) (p : Post) : (takePost d p).ts = d.ts := by rw [takePost_frame]
@[simp] theorem takePost_tsBad (d : Dev) (p : Post) : (takePost d p).tsBad = d.tsBad := by rw [takePost_frame]
@[simp] theorem takePost_pool (d : Dev) (p : Post) : (takePost d p).pool = d.pool := by rw [takePost_frame]
@[simp] theorem takePost_dredge (d : Dev) (p : Post) : (takePost d p).dredge = d.dredge := by rw [takePost_frame]
@[simp] theorem takePost_tileMap (d : Dev) (p : Post) : (takePost d p).tileMap = d.tileMap := by rw [takePost_frame]
@[simp] theorem takePost_tileFreeW (d : Dev) (p : Post) : (takePost d p).tileFreeW = d.tileFreeW := by rw [takePost_frame]
@[simp] theorem takePost_tileFreeE (d : Dev) (p : Post) : (takePost d p).tileFreeE = d.tileFreeE := by rw [takePost_frame]
@[simp] theorem takePost_parts (d : Dev) (p : Post) : (takePost d p).parts = d.parts := by rw [takePost_frame]
@[simp] theorem takePost_stallCyc (d : Dev) (p : Post) : (takePost d p).stallCyc = d.stallCyc := by rw [takePost_frame]
@[simp] theorem takePost_stallCnt (d : Dev) (p : Post) : (takePost d p).stallCnt = d.stallCnt := by rw [takePost_frame]
@[simp] theorem takePost_links (d : Dev) (p : Post) : (takePost d p).links = d.links := by rw [takePost_frame]
@[simp] theorem takePost_composing (d : Dev) (p : Post) : (takePost d p).composing = d.composing := by rw [takePost_frame]
@[simp] theorem takePost_health (d : Dev) (p : Post) : (takePost d p).health = d.health := by rw [takePost_frame]
@[simp] theorem takePost_stepResults (d : Dev) (p : Post) : (takePost d p).stepResults = d.stepResults := by rw [takePost_frame]
@[simp] theorem takePost_clearPages (d : Dev) (p : Post) : (takePost d p).clearPages = d.clearPages := by rw [takePost_frame]
@[simp] theorem takePost_objNo (d : Dev) (p : Post) : (takePost d p).objNo = d.objNo := by rw [takePost_frame]
@[simp] theorem takePost_bases (d : Dev) (p : Post) : (takePost d p).bases = d.bases := by rw [takePost_frame]
@[simp] theorem takePost_tasks (d : Dev) (p : Post) : (takePost d p).tasks = d.tasks := by rw [takePost_frame]
@[simp] theorem takePost_taskNo (d : Dev) (p : Post) : (takePost d p).taskNo = d.taskNo := by rw [takePost_frame]
@[simp] theorem takePost_cancelled (d : Dev) (p : Post) : (takePost d p).cancelled = d.cancelled := by rw [takePost_frame]
@[simp] theorem takePost_staging (d : Dev) (p : Post) : (takePost d p).staging = d.staging := by rw [takePost_frame]
@[simp] theorem takePost_ports (d : Dev) (p : Post) : (takePost d p).ports = d.ports := by rw [takePost_frame]
@[simp] theorem takePost_podOps (d : Dev) (p : Post) : (takePost d p).podOps = d.podOps := by rw [takePost_frame]
@[simp] theorem takePost_podTxn (d : Dev) (p : Post) : (takePost d p).podTxn = d.podTxn := by rw [takePost_frame]
@[simp] theorem takePost_fences (d : Dev) (p : Post) : (takePost d p).fences = d.fences := by rw [takePost_frame]
@[simp] theorem takePost_peerLost (d : Dev) (p : Post) : (takePost d p).peerLost = d.peerLost := by rw [takePost_frame]
@[simp] theorem takePost_beats (d : Dev) (p : Post) : (takePost d p).beats = d.beats := by rw [takePost_frame]
@[simp] theorem takePost_repl (d : Dev) (p : Post) : (takePost d p).repl = d.repl := by rw [takePost_frame]
@[simp] theorem takePost_replVer (d : Dev) (p : Post) : (takePost d p).replVer = d.replVer := by rw [takePost_frame]
@[simp] theorem takePost_replPosts (d : Dev) (p : Post) : (takePost d p).replPosts = d.replPosts := by rw [takePost_frame]
@[simp] theorem takePost_replTag (d : Dev) (p : Post) : (takePost d p).replTag = d.replTag := by rw [takePost_frame]
@[simp] theorem takePost_replQueue (d : Dev) (p : Post) : (takePost d p).replQueue = d.replQueue := by rw [takePost_frame]
@[simp] theorem takePost_camW (d : Dev) (p : Post) : (takePost d p).camW = d.camW := by rw [takePost_frame]
@[simp] theorem takePost_camE (d : Dev) (p : Post) : (takePost d p).camE = d.camE := by rw [takePost_frame]
@[simp] theorem takePost_policers (d : Dev) (p : Post) : (takePost d p).policers = d.policers := by rw [takePost_frame]
@[simp] theorem takePost_layouts (d : Dev) (p : Post) : (takePost d p).layouts = d.layouts := by rw [takePost_frame]
@[simp] theorem takePost_tables (d : Dev) (p : Post) : (takePost d p).tables = d.tables := by rw [takePost_frame]
@[simp] theorem takePost_tags (d : Dev) (p : Post) : (takePost d p).tags = d.tags := by rw [takePost_frame]
@[simp] theorem takePost_farWait (d : Dev) (p : Post) : (takePost d p).farWait = d.farWait := by rw [takePost_frame]
@[simp] theorem takePost_tableHeld (d : Dev) (p : Post) : (takePost d p).tableHeld = d.tableHeld := by rw [takePost_frame]
@[simp] theorem takePost_barges (d : Dev) (p : Post) : (takePost d p).barges = d.barges := by rw [takePost_frame]
@[simp] theorem takePost_pageSrcs (d : Dev) (p : Post) : (takePost d p).pageSrcs = d.pageSrcs := by rw [takePost_frame]
@[simp] theorem takePost_dsts (d : Dev) (p : Post) : (takePost d p).dsts = d.dsts := by rw [takePost_frame]
@[simp] theorem takePost_homes (d : Dev) (p : Post) : (takePost d p).homes = d.homes := by rw [takePost_frame]
@[simp] theorem takePost_xferNo (d : Dev) (p : Post) : (takePost d p).xferNo = d.xferNo := by rw [takePost_frame]
@[simp] theorem takePost_mooredNo (d : Dev) (p : Post) : (takePost d p).mooredNo = d.mooredNo := by rw [takePost_frame]
@[simp] theorem takePost_inbox (d : Dev) (p : Post) : (takePost d p).inbox = d.inbox := by rw [takePost_frame]
@[simp] theorem takePost_requests (d : Dev) (p : Post) : (takePost d p).requests = d.requests := by rw [takePost_frame]
@[simp] theorem takePost_ended (d : Dev) (p : Post) : (takePost d p).ended = d.ended := by rw [takePost_frame]
@[simp] theorem takePost_badCancels (d : Dev) (p : Post) : (takePost d p).badCancels = d.badCancels := by rw [takePost_frame]
@[simp] theorem takePost_classes (d : Dev) (p : Post) : (takePost d p).classes = d.classes := by rw [takePost_frame]
@[simp] theorem takePost_budgets (d : Dev) (p : Post) : (takePost d p).budgets = d.budgets := by rw [takePost_frame]
@[simp] theorem takePost_programs (d : Dev) (p : Post) : (takePost d p).programs = d.programs := by rw [takePost_frame]
@[simp] theorem takePost_qps (d : Dev) (p : Post) : (takePost d p).qps = d.qps := by rw [takePost_frame]
@[simp] theorem takePost_qpDestroys (d : Dev) (p : Post) : (takePost d p).qpDestroys = d.qpDestroys := by rw [takePost_frame]
@[simp] theorem takePost_qpClock (d : Dev) (p : Post) : (takePost d p).qpClock = d.qpClock := by rw [takePost_frame]
@[simp] theorem takePost_towBad (d : Dev) (p : Post) : (takePost d p).towBad = d.towBad := by rw [takePost_frame]
@[simp] theorem takePost_xptCount (d : Dev) (p : Post) : (takePost d p).xptCount = d.xptCount := by rw [takePost_frame]
@[simp] theorem takePost_out (d : Dev) (p : Post) : (takePost d p).out = d.out := by rw [takePost_frame]

/-- `keepPost` changes no field but fns. -/
theorem keepPost_frame (d : Dev) (p : Post) (why : Stall) : keepPost d p why = { d with fns := (keepPost d p why).fns } := by
  unfold keepPost; split <;> rfl
@[simp] theorem keepPost_tclk (d : Dev) (p : Post) (why : Stall) : (keepPost d p why).tclk = d.tclk := by rw [keepPost_frame]
@[simp] theorem keepPost_boot (d : Dev) (p : Post) (why : Stall) : (keepPost d p why).boot = d.boot := by rw [keepPost_frame]
@[simp] theorem keepPost_flash (d : Dev) (p : Post) (why : Stall) : (keepPost d p why).flash = d.flash := by rw [keepPost_frame]
@[simp] theorem keepPost_pins (d : Dev) (p : Post) (why : Stall) : (keepPost d p why).pins = d.pins := by rw [keepPost_frame]
@[simp] theorem keepPost_regs (d : Dev) (p : Post) (why : Stall) : (keepPost d p why).regs = d.regs := by rw [keepPost_frame]
@[simp] theorem keepPost_ipHeld (d : Dev) (p : Post) (why : Stall) : (keepPost d p why).ipHeld = d.ipHeld := by rw [keepPost_frame]
@[simp] theorem keepPost_locks (d : Dev) (p : Post) (why : Stall) : (keepPost d p why).locks = d.locks := by rw [keepPost_frame]
@[simp] theorem keepPost_keys (d : Dev) (p : Post) (why : Stall) : (keepPost d p why).keys = d.keys := by rw [keepPost_frame]
@[simp] theorem keepPost_keyData (d : Dev) (p : Post) (why : Stall) : (keepPost d p why).keyData = d.keyData := by rw [keepPost_frame]
@[simp] theorem keepPost_numVfs (d : Dev) (p : Post) (why : Stall) : (keepPost d p why).numVfs = d.numVfs := by rw [keepPost_frame]
@[simp] theorem keepPost_vfEnable (d : Dev) (p : Post) (why : Stall) : (keepPost d p why).vfEnable = d.vfEnable := by rw [keepPost_frame]
@[simp] theorem keepPost_aer (d : Dev) (p : Post) (why : Stall) : (keepPost d p why).aer = d.aer := by rw [keepPost_frame]
@[simp] theorem keepPost_host (d : Dev) (p : Post) (why : Stall) : (keepPost d p why).host = d.host := by rw [keepPost_frame]
@[simp] theorem keepPost_hostBad (d : Dev) (p : Post) (why : Stall) : (keepPost d p why).hostBad = d.hostBad := by rw [keepPost_frame]
@[simp] theorem keepPost_hbm (d : Dev) (p : Post) (why : Stall) : (keepPost d p why).hbm = d.hbm := by rw [keepPost_frame]
@[simp] theorem keepPost_hbmBad (d : Dev) (p : Post) (why : Stall) : (keepPost d p why).hbmBad = d.hbmBad := by rw [keepPost_frame]
@[simp] theorem keepPost_ts (d : Dev) (p : Post) (why : Stall) : (keepPost d p why).ts = d.ts := by rw [keepPost_frame]
@[simp] theorem keepPost_tsBad (d : Dev) (p : Post) (why : Stall) : (keepPost d p why).tsBad = d.tsBad := by rw [keepPost_frame]
@[simp] theorem keepPost_pool (d : Dev) (p : Post) (why : Stall) : (keepPost d p why).pool = d.pool := by rw [keepPost_frame]
@[simp] theorem keepPost_dredge (d : Dev) (p : Post) (why : Stall) : (keepPost d p why).dredge = d.dredge := by rw [keepPost_frame]
@[simp] theorem keepPost_tileMap (d : Dev) (p : Post) (why : Stall) : (keepPost d p why).tileMap = d.tileMap := by rw [keepPost_frame]
@[simp] theorem keepPost_tileFreeW (d : Dev) (p : Post) (why : Stall) : (keepPost d p why).tileFreeW = d.tileFreeW := by rw [keepPost_frame]
@[simp] theorem keepPost_tileFreeE (d : Dev) (p : Post) (why : Stall) : (keepPost d p why).tileFreeE = d.tileFreeE := by rw [keepPost_frame]
@[simp] theorem keepPost_parts (d : Dev) (p : Post) (why : Stall) : (keepPost d p why).parts = d.parts := by rw [keepPost_frame]
@[simp] theorem keepPost_stallCyc (d : Dev) (p : Post) (why : Stall) : (keepPost d p why).stallCyc = d.stallCyc := by rw [keepPost_frame]
@[simp] theorem keepPost_stallCnt (d : Dev) (p : Post) (why : Stall) : (keepPost d p why).stallCnt = d.stallCnt := by rw [keepPost_frame]
@[simp] theorem keepPost_links (d : Dev) (p : Post) (why : Stall) : (keepPost d p why).links = d.links := by rw [keepPost_frame]
@[simp] theorem keepPost_composing (d : Dev) (p : Post) (why : Stall) : (keepPost d p why).composing = d.composing := by rw [keepPost_frame]
@[simp] theorem keepPost_health (d : Dev) (p : Post) (why : Stall) : (keepPost d p why).health = d.health := by rw [keepPost_frame]
@[simp] theorem keepPost_stepResults (d : Dev) (p : Post) (why : Stall) : (keepPost d p why).stepResults = d.stepResults := by rw [keepPost_frame]
@[simp] theorem keepPost_clearPages (d : Dev) (p : Post) (why : Stall) : (keepPost d p why).clearPages = d.clearPages := by rw [keepPost_frame]
@[simp] theorem keepPost_objNo (d : Dev) (p : Post) (why : Stall) : (keepPost d p why).objNo = d.objNo := by rw [keepPost_frame]
@[simp] theorem keepPost_bases (d : Dev) (p : Post) (why : Stall) : (keepPost d p why).bases = d.bases := by rw [keepPost_frame]
@[simp] theorem keepPost_tasks (d : Dev) (p : Post) (why : Stall) : (keepPost d p why).tasks = d.tasks := by rw [keepPost_frame]
@[simp] theorem keepPost_taskNo (d : Dev) (p : Post) (why : Stall) : (keepPost d p why).taskNo = d.taskNo := by rw [keepPost_frame]
@[simp] theorem keepPost_cancelled (d : Dev) (p : Post) (why : Stall) : (keepPost d p why).cancelled = d.cancelled := by rw [keepPost_frame]
@[simp] theorem keepPost_staging (d : Dev) (p : Post) (why : Stall) : (keepPost d p why).staging = d.staging := by rw [keepPost_frame]
@[simp] theorem keepPost_ports (d : Dev) (p : Post) (why : Stall) : (keepPost d p why).ports = d.ports := by rw [keepPost_frame]
@[simp] theorem keepPost_podOps (d : Dev) (p : Post) (why : Stall) : (keepPost d p why).podOps = d.podOps := by rw [keepPost_frame]
@[simp] theorem keepPost_podTxn (d : Dev) (p : Post) (why : Stall) : (keepPost d p why).podTxn = d.podTxn := by rw [keepPost_frame]
@[simp] theorem keepPost_fences (d : Dev) (p : Post) (why : Stall) : (keepPost d p why).fences = d.fences := by rw [keepPost_frame]
@[simp] theorem keepPost_peerLost (d : Dev) (p : Post) (why : Stall) : (keepPost d p why).peerLost = d.peerLost := by rw [keepPost_frame]
@[simp] theorem keepPost_beats (d : Dev) (p : Post) (why : Stall) : (keepPost d p why).beats = d.beats := by rw [keepPost_frame]
@[simp] theorem keepPost_repl (d : Dev) (p : Post) (why : Stall) : (keepPost d p why).repl = d.repl := by rw [keepPost_frame]
@[simp] theorem keepPost_replVer (d : Dev) (p : Post) (why : Stall) : (keepPost d p why).replVer = d.replVer := by rw [keepPost_frame]
@[simp] theorem keepPost_replPosts (d : Dev) (p : Post) (why : Stall) : (keepPost d p why).replPosts = d.replPosts := by rw [keepPost_frame]
@[simp] theorem keepPost_replTag (d : Dev) (p : Post) (why : Stall) : (keepPost d p why).replTag = d.replTag := by rw [keepPost_frame]
@[simp] theorem keepPost_replQueue (d : Dev) (p : Post) (why : Stall) : (keepPost d p why).replQueue = d.replQueue := by rw [keepPost_frame]
@[simp] theorem keepPost_camW (d : Dev) (p : Post) (why : Stall) : (keepPost d p why).camW = d.camW := by rw [keepPost_frame]
@[simp] theorem keepPost_camE (d : Dev) (p : Post) (why : Stall) : (keepPost d p why).camE = d.camE := by rw [keepPost_frame]
@[simp] theorem keepPost_policers (d : Dev) (p : Post) (why : Stall) : (keepPost d p why).policers = d.policers := by rw [keepPost_frame]
@[simp] theorem keepPost_layouts (d : Dev) (p : Post) (why : Stall) : (keepPost d p why).layouts = d.layouts := by rw [keepPost_frame]
@[simp] theorem keepPost_tables (d : Dev) (p : Post) (why : Stall) : (keepPost d p why).tables = d.tables := by rw [keepPost_frame]
@[simp] theorem keepPost_tags (d : Dev) (p : Post) (why : Stall) : (keepPost d p why).tags = d.tags := by rw [keepPost_frame]
@[simp] theorem keepPost_farWait (d : Dev) (p : Post) (why : Stall) : (keepPost d p why).farWait = d.farWait := by rw [keepPost_frame]
@[simp] theorem keepPost_tableHeld (d : Dev) (p : Post) (why : Stall) : (keepPost d p why).tableHeld = d.tableHeld := by rw [keepPost_frame]
@[simp] theorem keepPost_barges (d : Dev) (p : Post) (why : Stall) : (keepPost d p why).barges = d.barges := by rw [keepPost_frame]
@[simp] theorem keepPost_pageSrcs (d : Dev) (p : Post) (why : Stall) : (keepPost d p why).pageSrcs = d.pageSrcs := by rw [keepPost_frame]
@[simp] theorem keepPost_dsts (d : Dev) (p : Post) (why : Stall) : (keepPost d p why).dsts = d.dsts := by rw [keepPost_frame]
@[simp] theorem keepPost_homes (d : Dev) (p : Post) (why : Stall) : (keepPost d p why).homes = d.homes := by rw [keepPost_frame]
@[simp] theorem keepPost_xferNo (d : Dev) (p : Post) (why : Stall) : (keepPost d p why).xferNo = d.xferNo := by rw [keepPost_frame]
@[simp] theorem keepPost_mooredNo (d : Dev) (p : Post) (why : Stall) : (keepPost d p why).mooredNo = d.mooredNo := by rw [keepPost_frame]
@[simp] theorem keepPost_inbox (d : Dev) (p : Post) (why : Stall) : (keepPost d p why).inbox = d.inbox := by rw [keepPost_frame]
@[simp] theorem keepPost_requests (d : Dev) (p : Post) (why : Stall) : (keepPost d p why).requests = d.requests := by rw [keepPost_frame]
@[simp] theorem keepPost_ended (d : Dev) (p : Post) (why : Stall) : (keepPost d p why).ended = d.ended := by rw [keepPost_frame]
@[simp] theorem keepPost_badCancels (d : Dev) (p : Post) (why : Stall) : (keepPost d p why).badCancels = d.badCancels := by rw [keepPost_frame]
@[simp] theorem keepPost_classes (d : Dev) (p : Post) (why : Stall) : (keepPost d p why).classes = d.classes := by rw [keepPost_frame]
@[simp] theorem keepPost_budgets (d : Dev) (p : Post) (why : Stall) : (keepPost d p why).budgets = d.budgets := by rw [keepPost_frame]
@[simp] theorem keepPost_programs (d : Dev) (p : Post) (why : Stall) : (keepPost d p why).programs = d.programs := by rw [keepPost_frame]
@[simp] theorem keepPost_steps (d : Dev) (p : Post) (why : Stall) : (keepPost d p why).steps = d.steps := by rw [keepPost_frame]
@[simp] theorem keepPost_qps (d : Dev) (p : Post) (why : Stall) : (keepPost d p why).qps = d.qps := by rw [keepPost_frame]
@[simp] theorem keepPost_qpDestroys (d : Dev) (p : Post) (why : Stall) : (keepPost d p why).qpDestroys = d.qpDestroys := by rw [keepPost_frame]
@[simp] theorem keepPost_qpClock (d : Dev) (p : Post) (why : Stall) : (keepPost d p why).qpClock = d.qpClock := by rw [keepPost_frame]
@[simp] theorem keepPost_towBad (d : Dev) (p : Post) (why : Stall) : (keepPost d p why).towBad = d.towBad := by rw [keepPost_frame]
@[simp] theorem keepPost_xptCount (d : Dev) (p : Post) (why : Stall) : (keepPost d p why).xptCount = d.xptCount := by rw [keepPost_frame]
@[simp] theorem keepPost_out (d : Dev) (p : Post) (why : Stall) : (keepPost d p why).out = d.out := by rw [keepPost_frame]

end Sys2Proof.Machine
end

