-- ==== Sys2Proof/Laws/Ops.lean ====
section
/-! SUPPORT. What each shared operation can do, said once: performing a descriptor and the answers of a meaning. -/
namespace Sys2Proof.Machine

/-- A descriptor whose own rules are reached does what they answer. -/
theorem perform_ready {d : Dev} {p : Post} {op : Nat} (h : ready d p op = true) (eff : Dev → Res) :
    perform op p eff d =
      match eff (takePost d p) with
      | .done st detail extra d2 => complete d2 p st detail extra
      | .later d2 => d2
      | .wait why d2 => keepPost d2 p why := by
  simp only [ready, Bool.and_eq_true, Bool.not_eq_true', beq_iff_eq, Option.isNone_iff_eq_none] at h
  obtain ⟨⟨⟨⟨⟨⟨⟨h1, h2⟩, h3⟩, h4⟩, h5⟩, h6⟩, h7⟩, h8⟩ := h
  unfold perform
  simp [h1, h2, h3, h4, h5, h6, h7, h8] <;> rfl

theorem perform_done {d : Dev} {p : Post} {op : Nat} (h : ready d p op = true) {eff : Dev → Res} {st : Status}
    {detail extra : Nat} {d2 : Dev} (he : eff (takePost d p) = .done st detail extra d2) :
    perform op p eff d = complete d2 p st detail extra := by rw [perform_ready h, he]

theorem perform_later {d : Dev} {p : Post} {op : Nat} (h : ready d p op = true) {eff : Dev → Res} {d2 : Dev}
    (he : eff (takePost d p) = .later d2) : perform op p eff d = d2 := by rw [perform_ready h, he]

theorem perform_wait {d : Dev} {p : Post} {op : Nat} (h : ready d p op = true) {eff : Dev → Res} {why : Stall} {d2 : Dev}
    (he : eff (takePost d p) = .wait why d2) : perform op p eff d = keepPost d2 p why := by rw [perform_ready h, he]

/-- A descriptor that is not performable leaves the device as it is. -/
theorem perform_idle {d : Dev} {p : Post} (op : Nat) (eff : Dev → Res) (h : performable d p = false) :
    perform op p eff d = d := by simp [perform, h]

/-- A descriptor of another operation is left to its own row. -/
theorem perform_other {d : Dev} {p : Post} {op : Nat} (eff : Dev → Res) (h : opcode p ≠ op) (h' : op ≠ 0xFFFF) :
    perform op p eff d = d := by
  have : (op != 0xFFFF && opcode p != op) = true := by simp [h, h']
  simp [perform, this]

/-- Taking a descriptor does not change who posted it. -/
@[simp] theorem poster_takePost (d : Dev) (p q : Post) : poster (takePost d p) q = poster d q := by
  unfold poster; split <;> simp

@[simp] theorem answer_eq (s : State) (d : Dev) : answer s d = .next { s with dev := d } := rfl

/-- The answer of a descriptor whose own rules complete it. -/
theorem answer_completes {s : State} {p : Post} {op : Nat} (h : ready s.dev p op = true) {eff : Dev → Res} {st : Status}
    {detail extra : Nat} {f : Dev → Dev} (he : eff (takePost s.dev p) = .done st detail extra (f (takePost s.dev p))) :
    answer s (perform op p eff s.dev) = completes s p f st detail extra := by rw [perform_done h he]; rfl

/-- The answer of a descriptor whose own rules start it. -/
theorem answer_starts {s : State} {p : Post} {op : Nat} (h : ready s.dev p op = true) {eff : Dev → Res} {f : Dev → Dev}
    (he : eff (takePost s.dev p) = .later (f (takePost s.dev p))) :
    answer s (perform op p eff s.dev) = starts s p f := by rw [perform_later h he]; rfl

/-- The answer of a command of the lock or of serving while a lock-keeper runs. -/
theorem lockAnswer_kept {s : State} (h : keeperRuns s.dev = true) (d : Dev) :
    lockAnswer s d = .next { s with dev := settle 4096 d } := by simp [lockAnswer, h]

/-- The same for a descriptor that starts. -/
theorem kept_starts {s : State} {p : Post} {op : Nat} (hk : keeperRuns s.dev = true) (h : ready s.dev p op = true) {eff : Dev → Res}
    {f : Dev → Dev} (he : eff (takePost s.dev p) = .later (f (takePost s.dev p))) :
    lockAnswer s (perform op p eff s.dev) = kept s (fun d => f (takePost d p)) := by rw [lockAnswer_kept hk, perform_later h he]; rfl

/-- The same for a descriptor that completes. -/
theorem kept_completes {s : State} {p : Post} {op : Nat} (hk : keeperRuns s.dev = true) (h : ready s.dev p op = true) {eff : Dev → Res}
    {st : Status} {detail extra : Nat} {f : Dev → Dev} (he : eff (takePost s.dev p) = .done st detail extra (f (takePost s.dev p))) :
    lockAnswer s (perform op p eff s.dev) = kept s (fun d => complete (f (takePost d p)) p st detail extra) := by
  rw [lockAnswer_kept hk, perform_done h he]; rfl

end Sys2Proof.Machine
end

