-- ==== Sys2Proof/WellFormed.lean ====
section
/-! DEFINITION. Which commands are well formed: what a sender of the block can send by the spec's own ranges. exec gives every
command a meaning, well formed or not. -/
namespace Sys2Proof

/-- The descriptor that a command carries, with the opcode of its row (04 to 15 tables). -/
def descriptorOf : Instr → Option (Nat × Post)
  | .pwrStateDormant p => some (0x04B4, p)
  | .pwrStateActive p => some (0x04B4, p)
  | .optWrite p _ => some (0x04B2, p)
  | .fwWrite p _ => some (0x04B3, p)
  | .attest p => some (0x04B0, p)
  | .jrnlRead p => some (0x04B1, p)
  | .matmul p => some (0x0101, p)
  | .groupedMatmul p => some (0x0102, p)
  | .route p => some (0x0103, p)
  | .norm p => some (0x0104, p)
  | .elementwise p => some (0x0105, p)
  | .softmax p => some (0x0106, p)
  | .gather p => some (0x0107, p)
  | .sample p => some (0x0108, p)
  | .convert p => some (0x0109, p)
  | .compress p => some (0x010A, p)
  | .reduce p => some (0x010B, p)
  | .copy p => some (0x010C, p)
  | .gradWeight p => some (0x0110, p)
  | .actBwd p => some (0x0111, p)
  | .normBwd p => some (0x0112, p)
  | .optimAdamw p => some (0x0113, p)
  | .kvAppend p => some (0x0120, p)
  | .attend p => some (0x0121, p)
  | .kvVerify p => some (0x0122, p)
  | .basisReplace p => some (0x0410, p)
  | .basisRetire p => some (0x0411, p)
  | .partCreate p => some (0x0400, p)
  | .partDestroy p => some (0x0401, p)
  | .partRole p => some (0x0402, p)
  | .partSuspend p => some (0x0403, p)
  | .partResume p => some (0x0404, p)
  | .partSwitch p => some (0x0405, p)
  | .compose p => some (0x0408, p)
  | .composeRemove p => some (0x0408, p)
  | .liftStart p => some (0x0420, p)
  | .liftStop p => some (0x0421, p)
  | .kvLayout p => some (0x0430, p)
  | .kvLayoutRemove p => some (0x0430, p)
  | .kvPolicy p => some (0x0431, p)
  | .ptCreate p => some (0x0432, p)
  | .ptFork p => some (0x0433, p)
  | .ptTruncate p => some (0x0434, p)
  | .ptDestroy p => some (0x0435, p)
  | .ptQuery p => some (0x0436, p)
  | .lockMove p => some (0x0440, p)
  | .lockResolve p => some (0x0441, p)
  | .bargeQuery p => some (0x0442, p)
  | .bargeRehome p => some (0x0443, p)
  | .bargeRelease p => some (0x0444, p)
  | .requestSubmit p => some (0x0500, p)
  | .requestCancel p => some (0x0501, p)
  | .requestMoor p => some (0x0502, p)
  | .requestResume p => some (0x0503, p)
  | .reqClass p => some (0x0504, p)
  | .budgetSet p => some (0x0505, p)
  | .stepProgram p => some (0x0450, p)
  | .memMap p => some (0x0460, p)
  | .memUnmap p => some (0x0461, p)
  | .memModePool p => some (0x0462, p)
  | .memModeNormal p => some (0x0462, p)
  | .memHeap p => some (0x0463, p)
  | .podAtomic p => some (0x0600, p)
  | .podFence p => some (0x0601, p)
  | .replRegion p => some (0x0470, p)
  | .replRegionRemove p => some (0x0470, p)
  | .replicateUpdate p => some (0x0602, p)
  | .qpCreate p => some (0x0480, p)
  | .qpConnect p => some (0x0481, p)
  | .qpDestroy p => some (0x0482, p)
  | .qpQuery p => some (0x0483, p)
  | .xptPut p => some (0x0610, p)
  | .xptGet p => some (0x0611, p)
  | .xptAtomic p => some (0x0612, p)
  | .xptSignal p => some (0x0613, p)
  | .qpWait p => some (0x0614, p)
  | .classifyInsert p => some (0x0490, p)
  | .classifyRemove p => some (0x0491, p)
  | .policerSet p => some (0x0492, p)
  | .policerQuery p => some (0x0493, p)
  | .locateScan p => some (0x0494, p)
  | .hltRepairSubstitute p => some (0x04A1, p)
  | .hltRepairUnfence p => some (0x04A1, p)
  | .hltRepairClearFlag p => some (0x04A1, p)
  | .hltRepairFullSelftest p _ => some (0x04A1, p)
  | .admitDevice p _ => some (0x04A8, p)
  | .powerOnDetect | .sysRstNLow | .pwrOkLow | .resetRelease | .referenceCheck _ _ _ | .optionLoad | .pllLock _
  | .domainRelease _ | .imageVerify | .endpointReady | .hbmTrainingDone _ | .hbmClearDone | .deviceReady
  | .pllLockLoss _ | .clockMonitorTrip _ _ | .supplyMonitorTrip _ _ | .thermTrip | .thermalSample _ _ | .d3hotEntry
  | .d0Entry | .journalCommit _ | .registerWrite _ _ _ _ | .barInvalidAccess _ _ _ _ | .bitAliasWrite _ _ _
  | .lockOptSet | .lockPartSet | .lockRouteSet | .lockKeysSet | .lockDebugSet | .secKeyCmd _ | .xptIpLowWrite _ _
  | .xptIpHighWrite _ _ | .camCfgWrite _ _ | .fabPortMode _ _ | .fabPortRetrain _ | .alertClear _ | .lkpFailoverGo
  | .vfEnableWrite _ _ | .busMasterEnable _ _ | .msixUnmask _ _ | .vfFlr _ | .pfFlr | .pcieHotReset | .pcieLinkDown
  | .vfPageClearDone _ | .ringEnable _ _ _ | .ringDisable _ _ | .producedDoorbell _ _ _ _ | .consumedDoorbell _ _ _
  | .cancelDoorbell _ _ | .descriptorFetch _ _ _ | .completionRecordWrite _ _ | .eventPost _ | .ringModTimer _ _
  | .appendSlotWaitEnd _ | .farLegQuery _ | .partialRecords _ _ _ _ _ | .farLegTimeout _ | .tileBoundary _
  | .chunkEnd _ _ | .workItemComplete _ _ | .basisDrainDone _ | .passAbandonTimeout _ | .partSaveComplete _
  | .partRestoreComplete _ | .composeConfirmTimeout _ _ | .liftLoadComplete _ | .liftLoadFailure _ _ _
  | .liftFenceTimeout _ | .weirRetry _ | .fillOpen _ _ | .ready _ | .fillData _ _ _ _ | .fillRoundEnd _ | .seal _ _ _
  | .accept _ _ | .refuse _ | .commit _ _ _ _ | .abort _ | .drainDone _ | .homeQuery _ | .homeReply _ _
  | .resolve _ _ _ _ _ | .resolved _ _ _ | .release _ | .loss _ _ | .token _ _ _ | .tokenAck _ _ | .tokenAckTimeout _
  | .gateTimerExpiry _ | .fillReadyTimeout _ | .partyQueryTimeout _ | .drainResendTimeout _ | .queryReplyTimeout _
  | .requestAdmitRetry _ _ | .stepAdmission _ | .stepEnd _ | .deadlineCheck _ | .mooringTtlExpiry _
  | .budgetWindowStart _ | .output _ _ _ | .consumerWordReread _ _ _ | .outputModTimer _ _ | .leaseAsk _ _
  | .leaseGrant _ _ | .ringHold _ | .ringFree _ | .cancel _ | .report _ _ _ _ _ _ | .hbmDredgeTick _ _
  | .tsDredgeTick _ _ | .replCoordinatorUpdate _ _ _ _ _ | .replMemberAck _ _ _ | .laneFailure _ _ | .trainingLock _
  | .trainingTimeout _ | .helloTimer _ | .hello _ _ | .helloTimeout _ | .retrainLock _ | .retrainTimeout _
  | .cellCrcFailure _ | .nak _ _ | .idle _ _ | .routerForward _ _ | .load _ _ | .store _ _ | .atomic _ _
  | .loadRsp _ _ | .storeAck _ _ | .atomicRsp _ _ | .podCompletionTimeout _ _ | .beatSend | .beat _
  | .peerLossTimeout _ | .aqueductCrcFailure | .qpWaitSatisfied _ _ | .qpWaitTimeout _ _ | .data _ _ _ _
  | .getReq _ _ _ _ _ | .atomicReq _ _ _ _ _ _ | .atomicRspPacket _ _ _ _ | .signal _ _ _ _ | .tow _ _ _ _
  | .ack _ _ _ _ | .msgNak _ _ _ | .contextWait _ _ | .backoffEnd _ | .ackTimer _ | .rtoExpiry _
  | .contextFetchDone _ | .frameReceive _ _ | .frameClassify _ | .policerCreditTick | .camShadowCheck _ _ _ _
  | .egressServe _ | .voteSweep _ | .lockstepMismatch _ | .failoverResume | .selftestSliceStart _ _
  | .selftestSliceEnd _ _ | .healthWindowEnd | .healthGrantRequest _ _ | .admitOpen _ _ _ | .admitLoadDone _ _
  | .admitStallTimeout _ | .joinCall _ _ | .joinArrive _ | .joinGo _ | .joinCancel _ | .joinBarrierTimeout
  | .smbReadGlbId | .smbReadRstStat | .smbReadOptStat | .smbReadHltStat | .smbReadTemperature | .smbReadRails
  | .smbAlertResponse | .jtagBypass | .jtagSamplePreload _ | .jtagExtest | .jtagIdcode | .trainingRestart _
  | .suppliesGood | .composePeerConfirm _ _ _ | .expelGrant _ _ | .admitPartnerRefuse | .hbmLaneFailing _ _ _
  | .trstNLow | .jtagPrivateInstruction _ => none

/-- Whether a descriptor's OPCODE field is `op` and, when a ring carries it, the ring is one of the function's (R456). -/
def Post.wellFormed (op : Nat) (p : Post) : Bool :=
  p.desc.toNat % 65536 == op &&
    match p.src with
    | .ring f r _ => decide (r < if f.val = 0 then 511 else 64)
    | .step _ _ => true

/-- A cell's payload is at most 256 bytes (Table 10.4). -/
def Cell.wellFormed (c : Cell) : Bool := decide (c.payload.length ≤ 256)

/-- The check of one command: a descriptor's opcode and ring; a ring, vector, row or slice number within its table; the
readings of one half's eight sensors; cells of Table 10.4. -/
def wellFormed (i : Instr) : Bool :=
  match descriptorOf i with
  | some (op, p) => p.wellFormed op
  | none =>
    match i with
    | .thermalSample _ readings => readings.length == 8
    | .ringEnable f r _ | .ringDisable f r | .ringModTimer f r | .descriptorFetch f r _ | .completionRecordWrite f r
    | .producedDoorbell f r _ _ | .consumedDoorbell f r _ => decide (r < if f.val = 0 then 511 else 64)
    | .msixUnmask f v => decide (v < if f.val = 0 then 2048 else 64)
    | .vfEnableWrite _ n => decide (n ≤ 63)
    | .idle _ c | .routerForward _ c | .load _ c | .store _ c | .atomic _ c | .loadRsp _ c | .storeAck _ c
    | .atomicRsp _ c => c.wellFormed
    | .camShadowCheck _ _ row _ => decide (row < 131072)
    | .hbmLaneFailing _ ch _ => decide (ch < 32)
    | _ => true

end Sys2Proof
end

