-- ==== Sys2Proof/Tests/Slice0.lean ====
section
/-! SUPPORT. Small states for the witnesses of the statements, a concrete state and operands that meet each statement's hypotheses, and
the smoke tests of WellFormed. -/
namespace Sys2Proof.Tests
open Sys2Proof.Machine
-- each small evaluation is checked in its turn
set_option Elab.async false

/-! ## Small states for the witnesses -/

/-- A submission ring of a kind, set up with completion ring 1. -/
def subRing (kind : BitVec 3) : RingSt := { RingSt.reset with enable := true, kind := kind, log2 := 6, cplRing := 1, base := 0x1000 }

/-- The PF with a TASK ring 2, a TRANSPORT ring 3, a REQUEST ring 4, a CONTROL ring 5, completion ring 1, event ring 6. -/
def fnUp : FnSt := { FnSt.reset with
  busMaster := true
  unmasked := [3]
  rings := [(1, { RingSt.reset with enable := true, kind := 4, log2 := 6, base := 0x2000 }), (2, subRing 0), (3, subRing 1),
    (4, subRing 2), (5, subRing 3), (6, { RingSt.reset with enable := true, kind := 5, log2 := 6, base := 0x3000 })] }

/-- A device that is ready, with the PF's rings set up. -/
def devUp : Dev := { Dev.reset with
  boot := { BootSt.reset with phase := .ready, supplies := true, endpoint := true, lkpStarted := true, optLoaded := true,
                              clkLocked := 0xFF, clkReleased := 0xFF }
  fns := [(0, fnUp)] }

/-- That device with no command waiting. -/
def up : State := { dev := devUp, pending := [] }

/-- A descriptor from fields given as byte offset and value, the first of ring `r` of the PF. -/
def mkPost (r op : Nat) (fields : List (Nat × Nat)) (arg : List Byte) : Post :=
  { src := .ring 0 r 0, desc := BitVec.ofNat 512 (fields.foldl (fun a e => a + e.2 * 2 ^ (8 * e.1)) op), arg := arg, rows := [],
    staged := [] }

/-- A device in a phase of bring-up, with domains locked and released. -/
def bootAt (ph : Phase) (lk rel : BitVec 8) : Dev := { Dev.reset with boot := { BootSt.reset with
  phase := ph, supplies := true, clkLocked := lk, clkReleased := rel } }

/-! ## A good option copy -/

/-- The bytes 0 to 251 of an option copy with MAGIC, FORMAT 1 and SEQ 1, every other byte 0. -/
def optHead : List Byte := [0x50, 0x4F, 0x54, 0x4C, 1, 0, 0, 0, 1, 0, 0, 0] ++ List.replicate 240 0

theorem crc_part_0 : ([0x50, 0x4F, 0x54, 0x4C, 1, 0, 0, 0, 1, 0, 0, 0] ++ List.replicate 16 (0 : Byte)).foldl crcByte 0xFFFFFFFF = 0x779E93CE := by
  decide +kernel
theorem crc_part_1 : (List.replicate 32 (0 : Byte)).foldl crcByte 0x779E93CE = 0xF23708E5 := by decide +kernel
theorem crc_part_2 : (List.replicate 32 (0 : Byte)).foldl crcByte 0xF23708E5 = 0x7B91C577 := by decide +kernel
theorem crc_part_3 : (List.replicate 32 (0 : Byte)).foldl crcByte 0x7B91C577 = 0x9E092A16 := by decide +kernel
theorem crc_part_4 : (List.replicate 32 (0 : Byte)).foldl crcByte 0x9E092A16 = 0x696BEA04 := by decide +kernel
theorem crc_part_5 : (List.replicate 32 (0 : Byte)).foldl crcByte 0x696BEA04 = 0xE59A5369 := by decide +kernel
theorem crc_part_6 : (List.replicate 32 (0 : Byte)).foldl crcByte 0xE59A5369 = 0xD7D5376F := by decide +kernel
theorem crc_part_7 : (List.replicate 32 (0 : Byte)).foldl crcByte 0xD7D5376F = 0xAE23C5C1 := by decide +kernel

theorem crc_optHead : crc32 optHead = 0x51DC3A3E := by
  have h : optHead = ([0x50, 0x4F, 0x54, 0x4C, 1, 0, 0, 0, 1, 0, 0, 0] ++ List.replicate 16 (0 : Byte)) ++ List.replicate 32 0 ++ List.replicate 32 0 ++
    List.replicate 32 0 ++ List.replicate 32 0 ++ List.replicate 32 0 ++ List.replicate 32 0 ++ List.replicate 32 0 := by decide +kernel
  unfold crc32
  rw [h]
  rw [List.foldl_append, List.foldl_append, List.foldl_append, List.foldl_append, List.foldl_append, List.foldl_append, List.foldl_append]
  rw [crc_part_0, crc_part_1, crc_part_2, crc_part_3, crc_part_4, crc_part_5, crc_part_6, crc_part_7]
  rfl

/-- An option copy with SEQ 1. -/
def optCopy : List Byte := optHead ++ leBytes 0x51DC3A3E 4

/-- It is good (R521): MAGIC, FORMAT 1 and the CRC of its 252 bytes. -/
theorem test_option_copy_good : optGood optCopy = true := by
  have h : slice optCopy 0 252 = optHead := by decide +kernel
  unfold optGood
  rw [h, crc_optHead]
  decide +kernel

/-- A device in pod 0 with index 0 among members 0 and 1, port 0 in pod mode in a link state. -/
def linkDev (l : LinkPhase) : Dev := { devUp with
  regs := [(0x9000, 0x21), (0x9110, 3)]
  ports := [(0, { PortSt.reset with link := l })] }

/-- A LOAD of 64 bytes from device 1 to `dst`, the first cell of its link. -/
def loadCell (kind : Byte) (dst : DevIx) : Cell := { idleCell with kind := kind, vc := 1, dst := dst, src := 1, length := 64, lseq := 0, lack := 0xFFF }

/-- Ports 0 and 15 UP, members 0 to 2, device 2 reached by port 15. -/
def meshDev : Dev := { linkDev .up with
  regs := [(0x9000, 0x21), (0x903C, 0x21), (0x9110, 7), (0x9208, 0x18000)]
  ports := [(0, { PortSt.reset with link := .up }), (15, { PortSt.reset with link := .up })] }

/-- Queue pairs 8 to 15 of the PF, partition 3 ACTIVE. -/
def qpRegs : Tab (BitVec 128) := [(0x9000, 0x21), (0x903C, 0x21), (0x9110, 7), (0x9208, 0x18000), (0xB000, 8 + 8 * 2 ^ 32)]
def qpDev0 : Dev := { meshDev with regs := qpRegs, parts := [(3, { PartSt.reset with state := .active })] }

/-- Queue pair 8 CONNECTED to queue pair 9 of device 2, cached. -/
def qp8 : QpSt := { QpSt.fresh 3 0 none false with
  state := .connected, dev := 2, peer := 9, tc := 1, window := 16, winInit := 16, rto := 100, retryMax := 3, ackEvery := 1
  resident := true }
def qpDev : Dev := { qpDev0 with qps := [(8, qp8)] }

/-- A partition 3 that holds logical tiles 0 and 1, with two basis slots. -/
def taskDev : Dev := { devUp with
  regs := qpRegs
  parts := [(3, { PartSt.reset with state := .active, tiles := Tri.same 3, basisCount := Tri.same 2 })] }

/-- An operand descriptor. -/
def opdB (role fmt layout addr extent : Nat) : List Byte :=
  leBytes role 1 ++ leBytes fmt 1 ++ [0] ++ leBytes layout 1 ++ leBytes 0 4 ++ leBytes addr 8 ++ leBytes 0 8 ++ leBytes extent 4 ++ leBytes 0 4

/-- The fields of a KV_LAYOUT of partition 3: one layer, one head of 64, pages of 16 rows, a basin of 64, rank 16, BF16. -/
def kvFields : List (Nat × Nat) :=
  [(16, 3), (18, 1), (19, 1), (20, 64), (22, 1), (23, 16), (24, 64), (27, 3), (28, 16), (29, 3), (40, 0x3F800000), (44, 0x3F800000)]

/-- That layout. -/
def kvLay : KvLayout := ⟨BitVec.ofNat 304 (dNat (mkPost 5 0 kvFields []) 18 38), [], none⟩

/-- A live table of partition 3 with no page. -/
def kvTable : TableSt :=
  { dev := 0, part := 3, index := 0, tag := 0, hold := 3, layoutId := 0, layout := kvLay, request := 0, isRing := false, w := 0
    windowPos := 0, epoch := 1, entries := [], layers := [⟨0, 0, 0⟩], root := 1, basin := 2, leaves := [], buckets := [], retired := []
    live := true, atHost := false, rsv := [] }

/-- A device that holds it, in pod 0 with index 0 among members 0 to 2. -/
def kvDev : Dev := { taskDev with tables := [(9, kvTable)], layouts := [(48, kvLay)] }

/-- A task of partition 3 with FLAGS 1, M, N and K of 1, and operands. -/
def taskPost (op : Nat) (fields : List (Nat × Nat)) (n : Nat) (arg : List Byte) : Post :=
  mkPost 2 op ([(16, 1), (17, 3), (20, 1), (24, 1), (40, n)] ++ fields) arg

/-- A REQUEST_SUBMIT of request 77: a prompt of 2 tokens, at most 10 more, on REQUEST ring 4. -/
def rqPost : Post := mkPost 4 0x500 [(8, 77), (18, 0), (20, 2), (24, 10), (48, 0x10000)] (leBytes 0 8 ++ leBytes 0x3F800000 4 ++ leBytes 0 16 ++ leBytes 6 1 ++ leBytes 0 35)

/-- Request 77 at its origin, admitted. -/
def rqSt : ReqSt := { newReq meshDev rqPost 0 4 3 { flags := 0, failTtl := 0 } with phase := .live, home := 2 }

/-- Its barge at device 0 in partition 3, UNDERWAY at epoch 3. -/
def rqBarge : Barge := { newBarge meshDev rqSt 3 9 [] with epoch := 3 }

/-- A message of transfer 5 of request 77 at epoch 3. -/
def lkHdr : LockHdr := { reason := 0, xfer := 5, request := 77, epoch := 3, sender := 1, senderPart := 3, party := 0, home := 0 }

/-- Its source: transfer 5 to device 2, or to devices 2 and 1. -/
def srcTo (pages : Option Holder) : SrcSt := newSrc 5 (some ⟨2, 3⟩) pages false false false none

def bargeDev (b : Barge) : Dev := { taskDev with ports := meshDev.ports, barges := [(77, b)] }
def rqDev (r : ReqSt) : Dev := { bargeDev rqBarge with requests := [(77, r)] }

/-- A CLASSIFY entry, and a device whose half W holds it. -/
def clsHeld : ClsEntry := { index := 0, id := 6, priority := 3, value := 1, care := 15, result := 0x200 }
def clsDev : Dev := { devUp with camW := { devUp.camW with cls := [clsHeld] } }


/-! ## StepPerformsFrontCommand -/

theorem test_idle_queue_empty : State.reset.pending = [] := by decide

/-! ## RingRegistersAct -/

/-- A value of PCI_RING_CTL that sets ring 7 up as a CONTROL ring of 64 entries with completion ring 1, and one with LOG2 0. -/
theorem test_ring_registers_met :
    barOpen devUp 0 = true ∧ (getRing devUp 0 7).enable = false ∧
      setupStatus devUp 0 7 { getRing devUp 0 7 with kind := 3, log2 := 6, cplRing := 1, vector := 0xFFF } = .ok ∧
      setupStatus devUp 0 7 { getRing devUp 0 7 with kind := 3, log2 := 0, cplRing := 1, vector := 0xFFF } = .badLength ∧
      (getRing devUp 0 5).enable = true ∧ kindSubmission (getRing devUp 0 5).kind = true ∧
      ((64 : W32) - (getRing devUp 0 5).fetched).toNat ≤ ringEntries (getRing devUp 0 5) ∧
      cplBusy { devUp with fns := [(0, { fnUp with rings := [(1, { RingSt.reset with enable := true, kind := 4, log2 := 6 })] })] } 0 1
        = false ∧
      kindSubmission (getRing devUp 0 1).kind = false ∧
      ((getRing devUp 0 1).fetched - (0 : W32)).toNat ≤ ringEntries (getRing devUp 0 1) := by decide

/-! ## RecordsAndInterruptsAct -/

/-- A waiting record with room, a waiting event with a ring, a running moderation timer, a masked vector. -/
theorem test_records_met :
    let R1 : RingSt := { RingSt.reset with enable := true, kind := 4, log2 := 6, base := 0x2000, modTimer := true, modUsec := 5,
                                           waiting := [⟨7, .ok, 5, 0, 0, false⟩] }
    let F : FnSt := { fnUp with rings := [(1, R1), (6, { RingSt.reset with enable := true, kind := 5, log2 := 6 })]
                                events := [⟨1, 0, 0, 0⟩], pendVec := [4] }
    let d := setFn devUp 0 F
    (getRing d 0 1).waiting = [⟨7, .ok, 5, 0, 0, false⟩] ∧ (getRing d 0 1).enable = true ∧
      kindCompletion (getRing d 0 1).kind = true ∧ hostOpen d 0 = true ∧ hasRoom (getRing d 0 1) = true ∧
      (getFn d 0).events = [⟨1, 0, 0, 0⟩] ∧ (eventRing d 0).isSome = true ∧ (getRing d 0 1).modTimer = true ∧
      hasRoom { RingSt.reset with enable := true, kind := 5, log2 := 6, fetched := 64 } = false ∧
      eventRing { devUp with fns := [] } 0 = none ∧
      2047 < vecCount 0 ∧ fnExists d 0 = true ∧ (getFn d 0).unmasked.contains 2047 = false ∧ (getFn d 0).inReset = false := by
  decide

/-! ## ResetEventsResetTheDevice -/

theorem test_resets_met :
    devUp.boot.phase ≠ .held ∧ State.reset.dev.boot.phase = .held ∧
      ({ Dev.reset with boot := { BootSt.reset with supplies := true } } : Dev).boot.supplies = true := by decide

/-! ## BringUpStepsAdvance -/

theorem test_bringup_met :
    (bootAt .refCheck 0 0).boot.phase = .refCheck ∧ mayRelease (bootAt .clkRelease 0xFF 0xBF).boot .hclk = true ∧
      mayRelease (bootAt .clkRelease 0x83 0x81).boot .kclk = true ∧
      slotPasses OptVals.factory (bootAt .boot 0xFF 0xFF).flash.imgA = false ∧
      (bootAt .boot 0xFF 0xFF).boot.clkReleased.getLsbD 6 = true ∧ (bootAt .region 0xFF 0xFF).boot.phase = .region := by decide +kernel

/-- A copy without MAGIC is not good, whatever else it holds. -/
theorem option_copy_bad (bs : List Byte) (h : leAt bs 0 4 ≠ 0x4C544F50) : optGood bs = false := by simp [optGood, h]

/-- The erased option copies of reset are not good. -/
theorem test_erased_copies_bad :
    optGood (bootAt .optLoad 0x81 0x81).flash.optA = false ∧ optGood (bootAt .optLoad 0x81 0x81).flash.optB = false :=
  ⟨option_copy_bad _ (by decide +kernel), option_copy_bad _ (by decide +kernel)⟩

/-! ## MonitorsFenceOrReset -/

theorem test_monitors_met :
    devUp.boot.clkLocked.getLsbD 1 = true ∧ devUp.boot.phase = .ready ∧ devUp.boot.clkFenced.getLsbD 1 = false ∧
      monEn devUp = true ∧ (bootAt .hbmTrain 0xFF 0xFF).boot.phase ≠ .ready ∧ (bootAt .hbmTrain 0xFF 0xFF).boot.phase ≠ .held ∧
      monEn (bootAt .hbmTrain 0xFF 0xFF) = true ∧ hottest devUp (liveSensors devUp 0) = some 0 ∧
      devUp.boot.clkReleased.getLsbD 2 = true := by decide +kernel

/-! ## PowerStatesChange -/

theorem test_power_met :
    let pd := mkPost 5 0x04B4 [(16, 2)] []
    let pa := mkPost 5 0x04B4 [(16, 0)] []
    let low : Dev := { devUp with boot := { devUp.boot with dormant := true } }
    ready devUp pd 0x04B4 = true ∧ flashHead devUp pd [] = true ∧ dNat pd 16 1 = 2 ∧ ready low pa 0x04B4 = true ∧ flashHead low pa [] = true ∧ dNat pa 16 1 = 0 ∧ mayDormant devUp = true ∧
      ({ low with boot := { low.boot with d3hot := true, byD3hot := true } } : Dev).boot.d3hot = true := by decide +kernel

/-! ## FlashDescriptorsComplete -/

theorem test_flash_met :
    let po := mkPost 5 0x04B2 [(20, 256)] optCopy
    let pf := mkPost 5 0x04B3 [(16, 1), (20, 0x1000)] []
    let pa := mkPost 5 0x04B0 [(32, 0x40), (40, 0x80)] []
    let pj := mkPost 5 0x04B1 [(20, 0x100), (40, 0x80)] []
    ready devUp po 0x04B2 = true ∧ flashOpen devUp = true ∧ flashHead devUp po [32] = true ∧ dNat po 20 4 = 256 ∧
      lockOpt devUp = false ∧ ready devUp pf 0x04B3 = true ∧ flashHead devUp pf [32] = true ∧ dNat pf 16 1 = 1 ∧
      devUp.boot.imgUsed = false ∧ dNat pf 20 4 = 0x1000 ∧ ready devUp pa 0x04B0 = true ∧ flashHead devUp pa [32, 40] = true ∧
      devUp.boot.pufFail = false ∧
      4 * jSize (journal devUp ++ jNumber (jNext (journal devUp)) ([⟨1, [1, 2]⟩] ++ [⟨4, []⟩])) < 3 * jCap devUp ∧
      ready devUp pj 0x04B1 = true ∧ flashHead devUp pj [40] = true ∧ 0 < dNat pj 20 4 := by decide +kernel

/-- The SEQ of that good copy is later than OPT_SEQ. -/
theorem test_option_seq : devUp.boot.optSeq.toNat < leAt optCopy 8 4 := by decide +kernel

/-! ## LocksKeysAndAlertAct -/

theorem test_locks_met :
    barOpen devUp 0 = true ∧ keyRefused { devUp with keyData := 1 } 255 = false ∧ keyRefused devUp 255 = true ∧
      lockRoute devUp = false ∧ lockRoute { devUp with locks := Tri.same 4 } = true := by decide +kernel

/-! ## RegisterWritesChangeFields -/

theorem test_registers_met :
    barOpen devUp 0 = true ∧ regAt 0x9108 = some (.cplTo, 0) ∧ plainReg .cplTo = true ∧ regAt 0xB20C = some (.xptDscp, 4) ∧
      regAt 0xD278 = some (.tenW 15, 0) ∧ regBytes (.tenW 15) = 8 ∧ regAt 0x23FFC = none ∧
      regAt (0x124100 / 128 * 4) = some (.route 2, 0) := by decide +kernel

/-! ## ManagementPortsAnswer -/

theorem test_mgmt_met :
    smbOpen devUp = true ∧ smbAlert { devUp with health := { devUp.health with alert := true } } = true ∧
      lockDebug devUp = false ∧ lockDebug { devUp with locks := Tri.same 16 } = true := by decide +kernel

/-! ## LinkEventsMovePorts -/

theorem test_links_met :
    lockRoute devUp = false ∧ (1 : Nat) ≠ portMode devUp 0 ∧ portMode (linkDev .training) 0 = 1 ∧
      (getPort (linkDev .training) 0).link = .training ∧ portFenced (linkDev .down) 0 = false ∧
      portMode { devUp with regs := [(0x903C, 0x22)] } 15 = 2 ∧ helloOpen (linkDev .hello) 0 = true ∧
      helloCheck (linkDev .hello) ⟨true, 0, 1, 0, 0, 3, 0⟩ = 0 ∧ helloCheck (linkDev .hello) ⟨true, 0, 1, 1, 0, 3, 0⟩ = 1 ∧
      (getPort (linkDev .up) 0).spare ≠ 3 % 5 ∧ cfgField (linkDev .up) (.portCtl 0) 2 1 = 0 := by decide +kernel

/-! ## CellsArePerformedOrForwarded -/

theorem test_cells_met :
    let d := meshDev
    cellsOpen d 0 = true ∧ (getPort d 0).link = .up ∧ (loadCell 1 0).lseq.toNat = ((getPort d 0).rxSeq + 1) % 4096 ∧
      cellValid (loadCell 1 0) = true ∧ isLost d 1 = false ∧ (loadCell 1 0).dst = selfDev d ∧ cellValid idleCell = true ∧
      (getPort d 0).skip = false ∧ (ackCells (getPort d 0) 5).replay = [] ∧
      (ackCells { PortSt.reset with replay := [loadCell 1 0, loadCell 2 0] } 7).replay ≠ [] := by decide +kernel

theorem test_route_met : pickPort meshDev 2 1 0 0 0 = some 15 := by
  have h : routePorts meshDev 2 = [15] := by decide +kernel
  unfold pickPort; rw [h]; simp [Nat.mod_one]

/-! ## FabricServicesAct -/

theorem test_pod_met :
    let x : PartSt := { PartSt.reset with state := .active, t2En := true, grants2 := [(2 * 2 ^ 40 / pageSize, ⟨.none, true⟩)] }
    let d : Dev := { meshDev with parts := [(3, x)] }
    let pa := mkPost 3 0x0600 [(16, 3), (17, 1), (24, 2 * 2 ^ 40 + 8)] []
    let pf := mkPost 3 0x0601 [] []
    otherMembers meshDev = [1, 2] ∧ isMember meshDev 2 = true ∧ isLost meshDev 2 = false ∧
      ready d pa 0x0600 = true ∧ dZero pa 18 6 = true ∧ mayName (takePost d pa) 0 3 = true ∧
      podCheck (takePost d pa) (getPart (takePost d pa) 3) (dNat pa 24 8) 8 true = none ∧
      ready d pf 0x0601 = true ∧ dZero pf 8 56 = true := by decide +kernel

/-- A port with a cell waiting in class 1 that may leave. -/
def busyPort : PortSt := { PortSt.reset with
  link := .up, credits := [1, 1, 1, 1]
  queue := [⟨1, 64, .cell (loadCell 1 2)⟩], sched := schedJoin PortSt.reset.sched 1 64 }

theorem test_egress_met :
    pickClass busyPort.sched (eligible busyPort) = some 1 ∧ pickTenant busyPort.sched (eligible busyPort) 1 = some 64 ∧
      (eligible busyPort).find? (fun q => q.cls == 1 && q.tenant == 64) = some ⟨1, 64, .cell (loadCell 1 2)⟩ := by decide +kernel

theorem test_timeout_met :
    findOp { devUp with podOps := [⟨128, 7, 1, 2 ^ 40, 8, 3, 0, .taskLoad 0⟩] } 128 7 = some ⟨128, 7, 1, 2 ^ 40, 8, 3, 0, .taskLoad 0⟩ := by
  decide +kernel

/-! ## ReplicatedRegionsAct -/

theorem test_repl_met :
    let pd := mkPost 5 0x0470 [(16, 15), (20, 2), (24, 4 * pageSize)] []
    let pr := mkPost 5 0x0470 [(16, 15), (17, 1)] []
    let pu := mkPost 3 0x0602 [(16, 15), (18, 3), (19, 1), (20, 64), (24, 64), (32, 0)] []
    let x : PartSt := { PartSt.reset with state := .active, maps := [(0, ⟨9, .none, true, false⟩)] }
    let d : Dev := { meshDev with repl := [(15, ⟨4 * pageSize, 2⟩)], parts := [(3, x)] }
    let e := takePost devUp pd
    ready devUp pd 0x0470 = true ∧ lockPart e = false ∧ dNat pd 24 8 % pageSize = 0 ∧
      dNat pd 24 8 / pageSize + dNat pd 20 4 ≤ devicePages ∧ tget e.repl 15 = none ∧
      runClear (takenRuns e) (dNat pd 24 8 / pageSize) (dNat pd 20 4) = true ∧ crossesHalf (dNat pd 24 8 / pageSize) (dNat pd 20 4) = false ∧
      ready d pr 0x0470 = true ∧ runMapped (takePost d pr) 4 2 = false ∧ ready d pu 0x0602 = true ∧
      mayName (takePost d pu) 0 3 = true ∧ rangeOk (takePost d pu) x 1 0 64 false true = true ∧ badIn (takePost d pu) x 1 0 64 = [] ∧
      coordinator d = (selfDev d).val ∧ coordinator { d with regs := [(0x9100, 1), (0x9110, 7)] } = 0 := by decide +kernel

/-! ## QueuePairControlActs -/

theorem test_qp_met :
    let pc := mkPost 5 0x0480 [(8, 9), (16, 3), (20, 7)] []
    let pn := mkPost 5 0x0481 [(8, 8), (16, 2), (18, 0xFF), (20, 9), (23, 1), (50, 16), (52, 100), (54, 3), (55, 1)] []
    let pd := mkPost 5 0x0482 [(8, 8), (20, 1)] []
    let pq := mkPost 5 0x0483 [(8, 15), (40, 0x40)] []
    let d := takePost qpDev pc
    ready qpDev pc 0x0480 = true ∧ qpInRange d 0 9 7 = true ∧ d.qps.all (fun e => !(decide (9 ≤ e.1) && decide (e.1 < 16))) = true ∧
      (getPart d 3).state ≠ .free ∧ (getPart d 3).owner = fnId 0 ∧ regionFits d (256 * 7) = true ∧
      ready qpDev pn 0x0481 = true ∧ connectHead (takePost qpDev pn) pn = true ∧ connectRanges (takePost qpDev pn) pn qp8 = true ∧
      getQp (takePost qpDev pn) 8 = some qp8 ∧
      ready qpDev pd 0x0482 = true ∧ linkNames (takePost qpDev pd) 8 = false ∧ towNames (takePost qpDev pd) 8 = false ∧
      headOp qp8 = none ∧ getQp (freeQp (takePost qpDev pd) 8 .cancelled) 8 = none ∧
      ready qpDev pq 0x0483 = true ∧ qpInRange (takePost qpDev pq) 0 15 1 = true := by decide +kernel

/-! ## TransportOperationsStart -/

theorem test_xpt_met :
    let pp := mkPost 3 0x0610 [(8, 8), (16, 3), (17, 2), (20, 64), (24, 0x100), (32, 0x200)] []
    let pg := mkPost 3 0x0611 [(8, 8), (16, 3), (17, 2), (20, 64), (24, 0x100), (32, 0x200)] []
    let pa := mkPost 3 0x0612 [(8, 8), (16, 3), (18, 1), (32, 0x200)] []
    let ps := mkPost 3 0x0613 [(8, 8), (16, 3), (40, 5)] []
    let pw := mkPost 2 0x0614 [(8, 8), (40, 4)] []
    let x : PartSt := { PartSt.reset with state := .active, t3En := true, grants3 := [(0, ⟨.none, true⟩)] }
    let d : Dev := { qpDev with parts := [(3, x)] }
    ready d pp 0x0610 = true ∧ xFieldsOk 0x0610 pp = true ∧ xLocalOk (takePost d pp) 0x0610 pp x = true ∧
      ready d pg 0x0611 = true ∧ xFieldsOk 0x0611 pg = true ∧ xLocalOk (takePost d pg) 0x0611 pg x = true ∧
      ready d pa 0x0612 = true ∧ xFieldsOk 0x0612 pa = true ∧ ready d ps 0x0613 = true ∧ xFieldsOk 0x0613 ps = true ∧
      qp8.dev.toNat ≠ selfSys (takePost d pp) ∧ (xMessage (takePost d pp) 0x0610 pp x).result = none ∧
      (xMessage (takePost d pg) 0x0611 pg x).result = none ∧
      ready d pw 0x0614 = true ∧ xFieldsOk 0x0614 pw = true ∧ waitSource pw < 2 ∧ waitCount (takePost d pw) 0 pw < dNat pw 40 8 ∧
      (getRing (setRing d 0 2 { subRing 0 with qpWait := some ⟨pw, 0⟩ }) 0 2).qpWait = some ⟨pw, 0⟩ := by decide +kernel

/-! ## PacketsReachTheirQueuePair -/

/-- A header from queue pair 9 of device 2 to queue pair 8. -/
def hdr8 : PktHdr :=
  { first := true, last := true, notify := false, rsp := false, ece := false, retx := false, keyed := false, tc := 1, psn := 0, dstQp := 8
    srcQp := 9, srcDev := 2, dstDev := 0, msn := 0, offset := 0, mlen := 4, raddr := 0, status := 0 }

theorem test_packets_met :
    fromPeer qpDev hdr8 = some qp8 ∧ qp8.resident = true ∧ getQp (touchQp qpDev 8) 8 = some { qp8 with used := qpDev.qpClock } ∧
      2 ^ 31 ≤ ((0xFFFFFFFF : W32) - qp8.rxPsn).toNat ∧ 4096 ≤ ((4096 : W32) - qp8.rxPsn).toNat ∧
      getQp { qpDev with qps := [(8, { qp8 with fetching := true, resident := false })] } 8 = some { qp8 with fetching := true, resident := false } ∧
      (makeRoom qpDev (qpHalf 8)).isSome = true ∧ qp8.retries < qp8.retryMax := by decide +kernel

/-! ## SluiceCommands -/

/-- A CLASSIFY_INSERT of entry 5 into half W, a removal of entry 6 that half W holds, policer 7's set and query, a scan. -/
def clsArg : List Byte := leBytes 1 40 ++ leBytes 15 40 ++ leBytes 0 16
def clsPost : Post := mkPost 5 0x0490 [(16, 1), (20, 5)] clsArg

theorem test_sluice_descriptors_met :
    ready devUp clsPost 0x0490 = true ∧ entryOk devUp 0 clsPost.arg = true ∧ holdsEntry (getCam devUp 0) 5 = false ∧
      (getCam devUp 0).cls.length < clsCapacity devUp 0 ∧ clsHalves clsPost = [0] ∧
      ready clsDev (mkPost 5 0x0491 [(16, 1), (20, 6)] []) 0x0491 = true ∧ holdsEntry (getCam clsDev 0) 6 = true ∧
      ready devUp (mkPost 5 0x0492 [(16, 7), (19, 2), (20, 10), (24, 20), (28, 16777216), (32, 1)] []) 0x0492 = true ∧
      ready devUp (mkPost 5 0x0493 [(16, 1023), (40, 0x4000)] []) 0x0493 = true ∧
      ready devUp (mkPost 5 0x0494 [(16, 63), (20, 8), (32, 0x4000)] []) 0x0494 = true := by decide +kernel

/-- A port 3 in Ethernet mode and UP, with a frame at the head of its classification queue. -/
def ethFrame : Frame :=
  { fcsOk := true, plain := true, csumOk := false, dstMac := 0, dstIp := 0, srcIp := 0, dscp := 0, ecn := 0, vid := none, sport := 0
    dport := 0, flow := 0
    packet := ⟨.ack, { first := true, last := true, notify := false, rsp := false, ece := false, retx := false, keyed := false, tc := 1
                       psn := 0, dstQp := 8, srcQp := 9, srcDev := 2, dstDev := 0, msn := 0, offset := 0, mlen := 4, raddr := 0
                       status := 0 }, []⟩ }
def ethDev : Dev := { devUp with regs := [(0x9000, 0x22)], ports := [(0, { PortSt.reset with link := .up, frames := [ethFrame] })] }

theorem test_sluice_frames_met :
    barOpen devUp 0 = true ∧ portMode ethDev 0 = 2 ∧ (getPort ethDev 0).link = .up ∧ frameOk ethDev 0 ethFrame = false ∧
      (getPort ethDev 0).frames.length < 256 := by decide +kernel

/-! ## TasksStartAndEnd -/

/-- Three float operands: A, B and OUT; and others. -/
def opdA : List Byte := opdB 1 1 0 0 0
def opdO : List Byte := opdB 5 1 0 64 0
/-- A COPY of one byte. -/
def copyPost : Post := mkPost 2 0x010C [(16, 1), (17, 3), (20, 1), (40, 2)] (opdA ++ opdO)

def posts : List (Nat × Post) :=
  [(0x0101, taskPost 0x0101 [(28, 1), (56, 0x3F800000)] 3 (opdA ++ opdB 2 1 0 128 0 ++ opdO)),
   (0x0102, taskPost 0x0102 [(18, 256), (28, 1), (44, 2), (56, 0x3F800000), (60, 64)] 4 (opdA ++ opdB 2 1 0 128 0 ++ opdO ++ opdB 0x0B 0x0B 0 256 0)),
   (0x0103, taskPost 0x0103 [(18, 1)] 2 (opdA ++ opdB 5 0x0B 0 64 0)),
   (0x0104, taskPost 0x0104 [] 3 (opdA ++ opdB 9 1 0 128 0 ++ opdO)),
   (0x0105, taskPost 0x0105 [] 3 (opdA ++ opdB 2 1 0 128 0 ++ opdO)),
   (0x0106, taskPost 0x0106 [] 2 (opdA ++ opdO)),
   (0x0107, taskPost 0x0107 [(44, 1)] 3 (opdB 6 1 0 0 0 ++ opdB 7 0x0B 0 128 0 ++ opdO)),
   (0x0108, taskPost 0x0108 [] 3 (opdA ++ opdB 8 1 0 128 0 ++ opdB 5 0x0B 0 64 0)),
   (0x0109, taskPost 0x0109 [] 2 (opdA ++ opdO)),
   (0x010A, taskPost 0x010A [(18, 1), (56, 0x3F800000)] 2 (opdA ++ opdB 5 1 2 64 2)),
   (0x010B, taskPost 0x010B [] 2 (opdA ++ opdO)),
   (0x010C, copyPost),
   (0x0110, taskPost 0x0110 [(28, 1)] 3 (opdA ++ opdB 2 1 0 128 0 ++ opdO)),
   (0x0111, taskPost 0x0111 [] 3 (opdA ++ opdB 0x0E 1 0 128 0 ++ opdO)),
   (0x0112, taskPost 0x0112 [] 4 (opdA ++ opdB 9 1 0 128 0 ++ opdB 0x0E 1 0 192 0 ++ opdO)),
   (0x0113, taskPost 0x0113 [] 5 (opdA ++ opdB 0x0E 1 0 128 0 ++ opdB 0x0C 1 0 192 0 ++ opdB 0x0D 1 0 256 0 ++ opdB 8 1 0 320 0))]

/-- Whether the start of a descriptor meets what the statement asks. -/
def startsOk (d0 : Dev) (op : Nat) (p : Post) : Bool :=
  let d := takePost d0 p
  let x := getPart d (dNat p 17 1)
  let os := taskOpds p
  let k := kindOf op p os x
  ready d0 p op && decide (acceptTask d op p os k = .go) && !partHolds x &&
    decide (bindTask d (dNat p 17 1) p (tileRanges op p (shaped k os)) = .free) && !taskClockDown d &&
    !(shaped k os).any (fun e => e.2.tier == 1 && (taskRanges op p e.1 e.2).any (fun r => t1Barred d x r.1 r.2)) &&
    (podRefusal d x (podReads d x op p os) (podWrites op p os)).isNone

theorem test_tasks_start_met : posts.all (fun e => startsOk taskDev e.1 e.2) = true := by decide +kernel

/-- A running task with work items on tiles 0 and 1, and one whose last work item is on tile 1. -/
def taskSt : TaskSt := newTask devUp 3 (copyPost) [0, 1] [] 0 []
def runDev (t : TaskSt) : Dev := { taskDev with tasks := [(7, t)] }

theorem test_tasks_end_met :
    tget (runDev taskSt).tasks 7 = some taskSt ∧ itemStands (runDev taskSt) taskSt = false ∧ taskSt.tiles.contains 1 = true ∧
      (taskSt.tiles.erase 1).isEmpty = false ∧ ([1].erase 1 : List Nat).isEmpty = true ∧ taskSt.podLeft = 0 ∧ taskSt.legsLeft = 0 ∧
      taskSt.appendAt = none ∧ isAttn (opcode taskSt.post) = false ∧ taskSt.fail = none ∧ allSquashed taskSt = false ∧
      allSquashed { taskSt with rows := 1, squashed := [0] } = true ∧
      tasksOn (runDev taskSt) 1 = [7] := by decide +kernel

/-- What a COPY of a byte and a ROUTE of a bad index find. -/
theorem test_tasks_results_met :
    (computeTask (taskCtx (runDev taskSt) taskSt) 0x010C taskSt.post (taskOpds taskSt.post) [] []).fails = [] ∧
      writeFails (runDev taskSt) (getPart (runDev taskSt) 3) [] = [] ∧
      (computeTask (taskCtx { runDev taskSt with ts := [(128, 9)] } taskSt) 0x0107 (taskPost 0x0107 [(44, 1)] 3 (opdB 6 1 0 0 0 ++ opdB 7 0x0B 0 128 0 ++ opdO))
        (taskOpds (taskPost 0x0107 [(44, 1)] 3 (opdB 6 1 0 0 0 ++ opdB 7 0x0B 0 128 0 ++ opdO))) [] []).fails = [(.badDescriptor, 0)] := by
  decide +kernel

/-! ## AttentionTasksStart -/

/-- The handle of the table, and a length table of one entry of one row of it in tile store. -/
def kvHandle : Nat := 3 * 2 ^ 20
def lenBytes (h : Nat) (seq q : Nat) : List Byte := leBytes seq 4 ++ leBytes q 2 ++ leBytes 0 2 ++ leBytes h 8 ++ leBytes 0 16
def kvTaskDev (h seq q : Nat) : Dev := { kvDev with ts := memWrite [] 4096 (lenBytes h seq q) }

/-- An attention task of partition 3 over that length table. -/
def kvPost (op : Nat) (fields : List (Nat × Nat)) (n : Nat) (arg : List Byte) : Post :=
  mkPost 2 op ([(16, 1), (17, 3), (40, n), (44, 1)] ++ fields) (opdB 0x11 0x0B 0 4096 0 ++ arg)

def attnOk (d0 : Dev) (op : Nat) (p : Post) (pl : Place) : Bool :=
  let d := stageIn (takePost d0 p) p
  let part := dNat p 17 1
  let x := getPart d part
  let os := taskOpds p
  let k := kAttn d op p os part
  let es := taskEntries d x p os
  ready d0 p op && decide (acceptTask d op p os k = .go) && !attnHeld d op p es && !partHolds x &&
    decide (bindTask d part p (tileRanges op p (shaped k os)) = .free) && !taskClockDown d &&
    !((shaped k os).any (fun e => e.2.tier == 1 && (taskRanges op p e.1 e.2).any (fun r => t1Barred d x r.1 r.2)) ||
      es.any (fun e => tableBarred d e.handle.toNat)) &&
    (lengthsBad d x p os).isEmpty && (match readMaps d x es with | .inr _ => true | .inl _ => false) && taskPlace d part es == pl

def rowOpds : List Byte := opdB 0x0F 3 0 8192 0 ++ opdB 0x10 3 0 16384 0

/-- The PF's partition 3 as a generator, whose tables lie on device 2. -/
def genDev : Dev := { kvTaskDev (3 * 2 ^ 20 + 2 * 2 ^ 26) 1 0 with
  parts := [(3, { PartSt.reset with state := .active, role := Tri.same 2, tiles := Tri.same 3, basisCount := Tri.same 2 })] }

theorem test_attention_start_met :
    attnOk (kvTaskDev kvHandle 1 1) 0x0120 (kvPost 0x0120 [(20, 1)] 3 rowOpds) .here = true ∧
      attnOk (kvTaskDev kvHandle 1 1) 0x0121 (kvPost 0x0121 [(18, 1), (20, 1), (56, 0x3F800000)] 5
        (rowOpds ++ opdB 1 3 0 20480 0 ++ opdB 5 3 0 24576 0)) .here = true ∧
      attnOk (kvTaskDev kvHandle 0 0) 0x0122 (kvPost 0x0122 [] 1 []) .here = true ∧
      attnOk genDev 0x0122 (kvPost 0x0122 [] 1 []) (.far 2 3) = true := by decide +kernel

/-- A query for the table from device 1, once with the partition's tasks held. -/
def farQ : FarQuery :=
  { fromDev := 1, part := 3, task := 7, subop := 0, scale := 0, param1 := 0, fmtA := 0, fmtK := 0, fmtV := 0
    entries := [lenEntry (lenBytes kvHandle 0 0)], maps := [[]], rowsA := [], rowsK := [], rowsV := [] }
def cacheDev (st : PState) : Dev := { kvDev with
  parts := [(3, { PartSt.reset with state := st, role := Tri.same 3, tiles := Tri.same 3, basisCount := Tri.same 2 })] }
def legTask : TaskSt := { newTask devUp 3 (kvPost 0x0122 [] 1 []) [0] [] 0 [] with
  legsLeft := 1, ents := [lenEntry (lenBytes (3 * 2 ^ 20 + 2 * 2 ^ 26) 0 0)] }

theorem test_attention_legs_met :
    (farAnswer (cacheDev .suspended) farQ).isNone = true ∧ (farAnswer (cacheDev .active) farQ).isSome = true ∧
      farQ.fromDev ≠ selfDev (cacheDev .active) ∧ legTask.legsLeft ≠ 0 ∧
      tget { kvDev with tasks := [(7, legTask)] }.tasks 7 = some legTask ∧
      legTask.ents.map (fun e => hDev e.handle.toNat) = [2] := by decide +kernel

/-! ## BasesLayoutsAndTables -/

/-- The heap of partition 3 has a page, and its T1 address 0 is mapped. -/
def heapDev : Dev := { kvDev with
  parts := [(3, { PartSt.reset with
    state := .active, tiles := Tri.same 3, basisCount := Tri.same 2, t1Quota := Tri.same 8
    maps := [(0, ⟨200, .none, true, false⟩)] })] }

/-- BASIS_REPLACE of basis 0 of partition 3, rank 8 of 64 columns, generation 1, V at address 0; BASIS_RETIRE of it. -/
def replPost : Post := mkPost 5 0x0410 [(16, 0), (18, 8), (19, 3), (20, 64), (24, 1)] []
def retPost : Post := mkPost 5 0x0411 [(16, 0), (19, 3)] []

def allocOk (d : Dev) : Bool := match heapAlloc (freshObj d).2 3 .basis (freshObj d).1 1024 with | .ok _ _ => true | .lacks _ => false
def drainB (p : Post) : BasisSt := { BasisSt.reset with s0 := { BasisSlot.reset with state := .draining }, waiting := some p }

theorem test_bases_met :
    ready heapDev replPost 0x0410 = true ∧ (replaceCheck (takePost heapDev replPost) replPost).isNone = true ∧
      allocOk (takePost heapDev replPost) = true ∧ (slotOf (getBasis heapDev 0) false).pins = 0 ∧
      ready heapDev retPost 0x0411 = true ∧ basisNamed heapDev retPost = true ∧ bothEmpty (retireSlots heapDev 3 0) 0 = true ∧
      bothEmpty (retireSlots { heapDev with bases := [(0, { BasisSt.reset with s0 := { BasisSlot.reset with state := .current, pins := 1 } })] } 3 0) 0
        = false ∧
      opcode replPost = 0x0410 ∧ dNat replPost 40 1 = 0 ∧ (drainB replPost).s0.pins = 0 ∧
      (drainB replPost).s1.state ≠ .draining ∧
      bothEmpty (drainSlots { heapDev with bases := [(0, drainB retPost)] } (bPart retPost) 0) 0 = true := by decide +kernel

def layPost : Post := mkPost 5 0x0430 (kvFields ++ [(17, 1)]) []
def createPost : Post := mkPost 5 0x0432 [(16, 3)] []
def madeOk (m : Made) : Bool := match m with | .ok k d => (tget d.tables k).isSome | .lacks _ _ => false
/-- The table with a whole page 0. -/
def pageTable : TableSt := { kvTable with
  entries := [(0, { dropped := false, recompute := false, dev := 0, part := 3, frame := 5, dig := none, done := 1 })], layers := [⟨16, 0, 1⟩] }

theorem test_tables_met :
    ready heapDev layPost 0x0430 = true ∧ layoutHead heapDev layPost kvLay 3 = true ∧ layoutSized kvLay = true ∧ layoutRanges kvLay = true ∧
      layoutUsed heapDev 3 1 = false ∧ kvDigest kvLay = false ∧
      ready heapDev (mkPost 5 0x0430 [(16, 3), (31, 128)] []) 0x0430 = true ∧
      layoutUsed { heapDev with tables := [] } 3 0 = false ∧ (getLayout heapDev 3 0).isSome = true ∧
      ready heapDev (mkPost 5 0x0431 [(16, 3), (17, 1)] []) 0x0431 = true ∧
      ready heapDev createPost 0x0432 = true ∧ madeOk (makeTable (takePost heapDev createPost) 3 0 kvLay 0 false 0 0) = true ∧
      madeOk (makeTable (takePost heapDev createPost) 3 0 kvLay 0 true 4096 65536) = true ∧
      ready heapDev (mkPost 5 0x0433 [(8, 3 * 2 ^ 20)] []) 0x0433 = true ∧ (findTable heapDev (3 * 2 ^ 20)).isSome = true ∧
      allDone kvLay { dropped := false, recompute := false, dev := 0, part := 3, frame := 5, dig := none, done := 1 } = true ∧
      madeOk (forkTable { heapDev with tables := [(9, pageTable)] } pageTable 1) = true ∧
      truncateOk kvTable 0 = true ∧ truncateOk pageTable 16 = true ∧ tableWaits heapDev 0 .destroy = false := by decide +kernel

/-! ## MemoryAndLift -/

/-- Partition 3 with quotas in every tier, T2 and T3 enabled, a T1 page, a T2 and a T3 grant. -/
def memDev : Dev := { taskDev with
  regs := qpRegs ++ [(0xB800, 3)]
  parts := [(3, { PartSt.reset with
    state := .active, tiles := Tri.same 3, t1Quota := Tri.same 8, t2Quota := Tri.same 8, t3Quota := Tri.same 8, t2En := true, t3En := true
    maps := [(0, ⟨200, .none, true, false⟩)], grants2 := [(524300, ⟨.none, true⟩)], grants3 := [(7, ⟨.none, true⟩)] })] }

def mapP (t : Nat) (fs : List (Nat × Nat)) : Post := mkPost 5 0x0460 ([(16, 3), (17, t), (20, 1)] ++ fs) []
def unmapP (t : Nat) (fs : List (Nat × Nat)) : Post := mkPost 5 0x0461 ([(16, 3), (17, t), (20, 1)] ++ fs) []
def mapOk (p : Post) : Bool :=
  let d := takePost memDev p
  ready memDev p 0x0460 && mapHead d p && mapState d p (getPart d 3) && regionFits d (8 * mmCount p)

theorem test_mappings_met :
    mapOk (mapP 1 [(32, 2097152), (40, 4194304)]) = true ∧ t1Charge (getPart memDev 3) + 1 ≤ t1QuotaOf (getPart memDev 3) ∧
      mapOk (mapP 2 [(40, 2 ^ 40)]) = true ∧ 1 + 1 ≤ t2QuotaOf (getPart memDev 3) ∧
      mapOk (mapP 3 [(40, 2 ^ 46)]) = true ∧ 1 + 1 ≤ t3QuotaOf (getPart memDev 3) ∧
      ready memDev (unmapP 1 []) 0x0461 = true ∧ (tget (getPart memDev 3).maps 0).isSome = true ∧
      ready memDev (unmapP 2 [(40, 524300 * pageSize)]) 0x0461 = true ∧ (tget (getPart memDev 3).grants2 524300).isSome = true ∧
      ready memDev (unmapP 3 [(40, 7 * pageSize)]) 0x0461 = true ∧
      ready memDev (mkPost 5 0x0462 [(16, 1), (20, 1)] []) 0x0462 = true ∧ memDev.pool = none ∧
      ready { memDev with pool := some (0, 1) } (mkPost 5 0x0462 [] []) 0x0462 = true ∧ (overQuota memDev).isNone = true ∧
      spillInUse { memDev with pool := some (0, 1) } = false ∧
      ready memDev (mkPost 5 0x0463 [(16, 3), (17, 1), (18, 2)] []) 0x0463 = true ∧ xtsSlotOk memDev 0 2 = true := by decide +kernel

/-- A dredge in state, and a lift of partition 3. -/
def liftPost : Post := mkPost 5 0x0420 [(16, 3), (17, 2), (20, 1), (28, 10), (40, 4096), (44, 2), (48, 128)] []
def liftDev : Dev := { memDev with hbm := memWrite [] (200 * pageSize + 128) (leBytes 0 8 ++ [1, 0, 1, 0, 64, 0, 0, 0]) }
def oneLoad : LoadSt := { q := 0, complete := false, readers := [liftPost], waiting := [], unbound := 0 }
def oneLift : LiftSt := { LiftSt.reset with run := true, depth := 1, layers := [⟨0, 1, 1, 64⟩], nextQ := 1, loads := [oneLoad] }

theorem test_dredge_and_lift_met :
    hbmEn memDev = true ∧ tsEn memDev = true ∧ awake memDev = true ∧ tileFenced memDev 1 = false ∧
      ready liftDev liftPost 0x0420 = true ∧ partBusy liftDev 3 = false ∧ rangeOk liftDev (getPart liftDev 3) 0 0 8192 true true = true ∧
      rangeOk liftDev (getPart liftDev 3) 1 128 32 false true = true ∧ (getRing liftDev 0 2).enable = true ∧ (getRing liftDev 0 2).kind = 0 ∧
      (layerEnt (tierBytes liftDev (getPart liftDev 3) [] 1 128 32)).1.uses = 1 ∧
      layerOk liftDev (getPart liftDev 3) 4096 (layerEnt (tierBytes liftDev (getPart liftDev 3) [] 1 128 32)).1 = true ∧
      (layerEnt (tierBytes liftDev (getPart liftDev 3) [] 1 128 32)).2 = true ∧
      ready memDev (mkPost 5 0x0421 [(16, 3)] []) 0x0421 = true ∧
      (lateReaders oneLift).isEmpty = false ∧ inFlight oneLift = some 0 ∧ oneLift.podLeft = 0 := by decide +kernel

/-! ## PartitionLife -/

/-- PART_CREATE of partition 4 with tiles 4 and 5, T2 and T3, bases 8 and 9. -/
def pcreate : Post := mkPost 5 0x0400 [(16, 4), (17, 0), (18, 2), (19, 7), (20, 10), (24, 10), (28, 10), (32, 0x30), (40, 8), (42, 2)] []

/-- Partition 3 ACTIVE, partition 5 SUSPENDED, both with the T1 page 0 mapped; a queue pair of this device. -/
def lifeDev : Dev := { taskDev with
  qps := [(8, { qp8 with dev := 0 })]
  links := [(4, { src := 3, weir := false, qpBase := 8, qpCount := 1 })]
  parts := [(3, { PartSt.reset with state := .active, role := Tri.same 1, tiles := Tri.same 3, t1Quota := Tri.same 8, roleByOwner := true
                                    maps := [(0, ⟨200, .none, true, false⟩)] }),
    (5, { PartSt.reset with state := .suspended, tiles := Tri.same 1, maps := [(0, ⟨201, .none, true, false⟩)]
                            saved := some { addr := 0, bytes := 4096, cells := [] } })] }
def psus : Post := mkPost 5 0x0403 [(16, 3), (48, 2)] []
def pswi : Post := mkPost 5 0x0405 [(16, 3), (17, 5), (48, 2)] []
def pres : Post := mkPost 5 0x0404 [(16, 5)] []
def susp (inc : Option PartId) (n : Nat) : Suspend := { post := psus, map := [], saveAddr := 0, saveLen := n, incoming := inc }

theorem test_partition_checks_met :
    ready devUp pcreate 0x0400 = true ∧ partBusy devUp 4 = false ∧ createHead (takePost devUp pcreate) pcreate = true ∧
      (maskList 64 (pcMask pcreate)).any (fun t => tileFenced devUp t || tileTaken devUp 4 t) = false ∧ 10 ≤ pagesLeft devUp ∧
      ready lifeDev (mkPost 5 0x0401 [(16, 5)] []) 0x0401 = true ∧ holdsState lifeDev 5 = false ∧ linkSource lifeDev 5 = false ∧
      hasTasks lifeDev 5 = false ∧ lockPart lifeDev = false ∧ ready lifeDev (mkPost 5 0x0402 [(16, 5), (17, 3)] []) 0x0402 = true ∧
      ready lifeDev psus 0x0403 = true ∧ suspendFields psus = true ∧ mayName lifeDev 0 3 = true ∧
      rangeOk lifeDev (getPart lifeDev 3) 1 0 8192 true true = true ∧ saveMapOk psus (getPart lifeDev 3) = true ∧
      ready lifeDev pswi 0x0405 = true ∧ suspendFields pswi = true ∧ (getPart lifeDev 5).state = .suspended ∧
      (tileList (getPart lifeDev 5)).any (fun t => tileTaken lifeDev 3 t && !(tilesOf (getPart lifeDev 3)).testBit t) = false := by
  decide +kernel

theorem test_partition_moves_met :
    ready { lifeDev with parts := lifeDev.parts.drop 1 } pres 0x0404 = true ∧
      (tileBarred { lifeDev with parts := lifeDev.parts.drop 1 } 5).isNone = true ∧
      (saveNeeds lifeDev 3 (susp none 8192)).2 = 8192 ∧ (susp none 8191).saveLen < 8192 ∧
      (tileBarred (setPart lifeDev 3 { getPart lifeDev 3 with state := .suspended }) 5).isNone = true ∧
      badIn lifeDev (getPart lifeDev 5) 1 0 4096 = [] ∧ opcode pres = 0x0404 ∧
      ready lifeDev (mkPost 5 0x0408 [(16, 1), (17, 1), (18, 3), (20, 8), (24, 1)] []) 0x0408 = true ∧
      composeHead lifeDev (mkPost 5 0x0408 [(16, 1), (17, 1), (18, 3), (20, 8), (24, 1)] []) = true ∧
      farPairs lifeDev 8 1 = [] ∧ (getLink lifeDev 1 0).isSome = true := by decide +kernel

/-! ## HomeAnswersEachMessage -/

/-- Request 77 whose home is device 0 itself. -/
def homeRec (st : HomeSt) : HomeRec :=
  { newHome 3 ⟨1, 3⟩ ⟨2, 3⟩ [10, 11] 100 0 0 with state := st, xfer := 5, dstOwner := some ⟨2, 4⟩ }
def homeDev (st : HomeSt) : Dev := setHome meshDev 77 (homeRec st)

theorem test_home_met :
    keeperRuns (homeDev .idle) = true ∧ lkHdr.home.toNat = selfSys (homeDev .idle) ∧ getHome (homeDev .idle) 77 = some (homeRec .idle) ∧
      lkHdr.epoch.toNat = (homeRec .idle).epoch ∧ lkHdr.sender = (homeRec .idle).owner.dev ∧ (2 : Nat) ≤ (homeRec .idle).history.length ∧
      lkHdr.senderPart.toNat = (homeRec .idle).owner.part.val ∧ homeMatch (homeRec .fill) lkHdr = true ∧ (homeRec .fill).refused = none ∧
      (homeNeeds (homeRec .gate)).all (fun q => [2].contains (q + 2)) = true ∧
      (homeNeeds { homeRec .gate with dstPages := some ⟨1, 5⟩ }).all (fun q => [2].contains (q + 2)) = false ∧
      ({ lkHdr with epoch := 2 } : LockHdr).epoch.toNat + 1 = (homeRec .drain).epoch ∧ (homeRec .gate).srcLost = false := by decide +kernel

/-! ## PartiesAnswerEachMessage -/

/-- A destination owner of the transfer, reached by the sections 0 to 2. -/
def dstX : DstSt :=
  { hdr := lkHdr
    pay := { dstOwner := some ⟨0, 3⟩, dstPages := none, layout := none, bases := [], sizes := [], stepDuringFill := false, weir := false
             mooring := false }
    party := 2, part := 3, rsv := [], chunks := [], counts := [], digest := none, verified := false, table := none, querying := false
    adrift := false }
/-- A source that has sealed, and one whose only destination has answered READY. -/
def srcSealed : SrcSt := { srcTo none with frozen := true }
def srcStarted : SrcSt := { srcTo none with ready := [2] }
def withSrc (x : SrcSt) : Barge := { rqBarge with src := some x }
def rqEmpty (r : ReqSt) : Dev := { taskDev with requests := [(77, r)] }

theorem test_parties_met :
    keeperRuns (bargeDev rqBarge) = true ∧ getBarge (bargeDev (withSrc (srcTo none))) 77 = some (withSrc (srcTo none)) ∧
      (srcTo none).frozen = false ∧ lkHdr.xfer.toNat = (srcTo none).xfer ∧ lkHdr.epoch.toNat = rqBarge.epoch ∧
      2 ≤ ({ lkHdr with party := 2 } : LockHdr).party.toNat ∧ allReady (srcTo none) = false ∧ allReady { srcTo none with ready := [2] } = true ∧
      allReady (srcTo (some ⟨1, 3⟩)) = false ∧ allReady { srcTo (some ⟨1, 3⟩) with ready := [2] } = false ∧
      ({ lkHdr with epoch := 4 } : LockHdr).epoch.toNat = rqBarge.epoch + 1 ∧ rqBarge.state ≠ .adrift ∧
      srcMatch (withSrc srcSealed) srcSealed { lkHdr with party := 4 } = true ∧
      (orphanPages (pageCommit (srcCommit (bargeDev (withSrc srcSealed)) (withSrc srcSealed) srcSealed 4 ⟨2, 3⟩ 9)
        { lkHdr with epoch := 4 }) 77 ⟨2, 3⟩).dsts = [] ∧
      getReq (bargeDev (withSrc { srcSealed with querying := true })) 77 = none ∧
      (bargeDev (withSrc { srcSealed with querying := true })).dsts = [] ∧
      (pageReply (afterFirst (some (withSrc { srcSealed with querying := true }))
        (setBarge (bargeDev (withSrc { srcSealed with querying := true })) (withSrc srcSealed)) 77) lkHdr ⟨1, 3, ⟨0, 3⟩, ⟨0, 3⟩, 5⟩).dsts = [] := by
  decide +kernel

theorem test_parties_met_dst :
    ({ taskDev with dsts := [dstX] } : Dev).dsts.find? (fun x => dstMatch x lkHdr && dstCovers x 0) = some dstX ∧ dstX.verified = false ∧
      keeperRuns { taskDev with dsts := [dstX] } = true := by decide +kernel

theorem test_parties_met_origin :
    getReq (rqEmpty rqSt) 77 = some rqSt ∧ getBarge (rqEmpty rqSt) 77 = none ∧ tget (rqEmpty rqSt).pageSrcs 77 = none ∧
      (rqEmpty rqSt).dsts = [] ∧ rqSt.phase = .live ∧ lkHdr.epoch.toNat = rqSt.epoch + 2 ∧ rqSt.cancelled = none ∧
      keeperRuns (rqEmpty rqSt) = true ∧ getReq (rqEmpty { rqSt with phase := .asking }) 77 = some { rqSt with phase := .asking } ∧
      getReq taskDev 77 = none := by decide +kernel

theorem test_parties_met_timers :
    rqBarge.unacked = [] ∧ rqBarge.homeLost = false ∧ allReady srcStarted = true ∧ srcStarted.sealPend = false ∧
      8 ≤ ({ srcStarted with rounds := 7 + 1 } : SrcSt).rounds ∧ srcDirty (bargeDev (withSrc srcStarted)) (withSrc srcStarted) srcStarted ≤ 4194304 ∧
      rqBarge.inStep = false ∧ (srcTo none).frozen = false ∧ srcSealed.querying = false ∧
      tget (lockSend (setBarge (bargeDev (withSrc srcSealed)) (withSrc { srcSealed with querying := true }))
        (ownerHdr (bargeDev (withSrc srcSealed)) (withSrc srcSealed) 5 0) .homeQuery rqBarge.hdr.home.toNat).pageSrcs 77 = none := by
  decide +kernel

/-! ## LockAndServingDescriptors -/

/-- A descriptor on the PF's CONTROL ring 5 about request 77. -/
def ctlOf (op : Nat) (fields : List (Nat × Nat)) : Post := mkPost 5 op ([(8, 77)] ++ fields) []
def rqUp : State := { dev := rqDev rqSt, pending := [] }
def rqLost : ReqSt := { rqSt with adrift := some 0x300000000 }
/-- Device 2, the home, is lost; the map names device 0. -/
def rehomeDev : Dev := { rqDev rqSt with peerLost := 4 }
/-- The PF's PROMPT partition 3, composed by links 0 and 1 of composition 0, with a layout; class 0 configured. -/
def submitDev : Dev := { devUp with
  regs := [(0x9000, 1)]
  parts := [(3, { PartSt.reset with state := .active, role := Tri.same 1, owner := 0 })]
  links := [(linkKey 0 0, ⟨3, false, 64, 1⟩), (linkKey 0 1, ⟨3, false, 65, 1⟩)], layouts := [(48, kvLay)], classes := [(0, ⟨0, 1⟩)] }
/-- A REQUEST_SUBMIT without a prompt. -/
def rqPost0 : Post := mkPost 4 0x500 [(8, 77), (24, 10), (48, 0x10000)] rqPost.arg

theorem test_lock_descriptors_met :
    keeperRuns (rqDev rqSt) = true ∧ ready (rqDev rqSt) (ctlOf 0x440 [(16, 1), (20, 2), (22, 3)]) 0x440 = true ∧
      ctlReq (takePost (rqDev rqSt) (ctlOf 0x440 [(16, 1), (20, 2), (22, 3)])) (ctlOf 0x440 [(16, 1), (20, 2), (22, 3)]) = some rqSt ∧
      moveFields (ctlOf 0x440 [(16, 1), (20, 2), (22, 3)]) rqSt = false ∧
      moveKnown (takePost (rqDev rqSt) (ctlOf 0x440 [(16, 1), (20, 2), (22, 3)])) rqSt (ctlOf 0x440 [(16, 1), (20, 2), (22, 3)]) = false ∧
      moveFields (ctlOf 0x440 [(16, 8)]) rqSt = true := by decide +kernel

theorem test_lock_resolve_met :
    ready (rqDev rqLost) (ctlOf 0x441 []) 0x441 = true ∧ ctlReq (takePost (rqDev rqLost) (ctlOf 0x441 [])) (ctlOf 0x441 []) = some rqLost ∧
      (0x300000000 : W64).getLsbD 32 = true ∧ (0x300000000 : W64).getLsbD 33 = true ∧ dZero (ctlOf 0x441 []) 17 47 = true ∧
      canReach (takePost (rqDev rqLost) (ctlOf 0x441 [])) (holderDev rqSt.owner) = true ∧
      canReach { rqDev rqLost with peerLost := 2 } 1 = false ∧ dNat (ctlOf 0x441 [(16, 1)]) 16 1 = 1 := by decide +kernel

theorem test_barge_query_met :
    ready (rqDev rqSt) (ctlOf 0x442 [(40, 0x8000)]) 0x442 = true ∧ dZero (ctlOf 0x442 [(40, 0x8000)]) 16 24 = true ∧
      dZero (ctlOf 0x442 [(40, 0x8000)]) 48 16 = true ∧ dNat (ctlOf 0x442 [(40, 0x8000)]) 40 8 % 64 = 0 ∧
      canReach (rqDev rqSt) rqSt.home.toNat = true := by decide +kernel

theorem test_barge_rehome_met :
    ready rehomeDev (ctlOf 0x443 []) 0x443 = true ∧ keeperRuns rehomeDev = true ∧ (poster rehomeDev (ctlOf 0x443 [])).val = 0 ∧
      canReach (takePost rehomeDev (ctlOf 0x443 [])) rqSt.home.toNat = false ∧ homeRefusal (takePost rehomeDev (ctlOf 0x443 [])) 77 = none ∧
      getBarge (takePost rehomeDev (ctlOf 0x443 [])) 77 = some rqBarge ∧
      homeSys (takePost rehomeDev (ctlOf 0x443 [])) 77 = selfSys (takePost rehomeDev (ctlOf 0x443 [])) ∧
      homeFull (takePost rehomeDev (ctlOf 0x443 [])) 77 12 = false := by decide +kernel

theorem test_moor_resume_met :
    ready (rqDev rqSt) (ctlOf 0x502 [(24, 5)]) 0x502 = true ∧ dZero (ctlOf 0x502 [(24, 5)]) 17 7 = true ∧
      dZero (ctlOf 0x502 [(24, 5)]) 28 36 = true ∧ dNat (ctlOf 0x502 [(24, 5)]) 24 4 ≠ 0 ∧
      ready (rqDev rqSt) (ctlOf 0x503 [(18, 0xFFFF)]) 0x503 = true ∧ resumeFields (ctlOf 0x503 [(18, 0xFFFF)]) = false ∧
      ready (rqDev rqSt) (ctlOf 0x503 [(18, 0xFFFF), (32, 2)]) 0x503 = true ∧ resumeFields (ctlOf 0x503 [(18, 0xFFFF), (32, 2)]) = false ∧
      resumeRoom (rqDev rqSt) 77 2 = true ∧ rqSt.historyLen + 2 + 0 ≤ 16777216 := by decide +kernel

theorem test_release_cancel_budget_met :
    ready (rqDev rqSt) (ctlOf 0x444 []) 0x444 = true ∧ getReq (takePost (rqDev rqSt) (ctlOf 0x444 [])) 77 = some rqSt ∧ rqSt.cancelled = none ∧
      ready (rqDev rqSt) (ctlOf 0x501 []) 0x501 = true ∧ rqSt.fn = poster (rqDev rqSt) (ctlOf 0x501 []) ∧
      ready { devUp with ended := [(0, 77)] } (ctlOf 0x501 []) 0x501 = true ∧
      (takePost { devUp with ended := [(0, 77)] } (ctlOf 0x501 [])).ended.contains (0, 77) = true ∧
      ready devUp (mkPost 5 0x505 [(16, 2), (17, 1), (18, 256), (20, 10000), (24, 9)] []) 0x505 = true ∧
      ready devUp (mkPost 5 0x505 [(16, 2)] []) 0x505 = true ∧ keeperRuns devUp = true := by decide +kernel

theorem test_submit_met :
    keeperRuns submitDev = true ∧ ready submitDev rqPost 0x500 = true ∧ submitBad (takePost submitDev rqPost) 0 rqPost = none ∧
      0 < rqPrompt rqPost ∧ 0 < rqMax rqPost ∧ getBudget (takePost submitDev rqPost) 0 = none ∧
      homeRefusal (takePost submitDev rqPost) (rqId rqPost) = none ∧ getReq (takePost submitDev rqPost) (rqId rqPost) = none ∧
      homeIx (takePost submitDev rqPost) (rqId rqPost) = (selfDev (takePost submitDev rqPost)).val ∧
      getHome (takePost submitDev rqPost) (rqId rqPost) = none ∧ compPart (takePost submitDev rqPost) 0 (rqComp rqPost) = some 3 ∧
      getClass (takePost submitDev rqPost) 0 (rqClass rqPost) = some ⟨0, 1⟩ := by decide +kernel

theorem test_submit_empty_met :
    ready submitDev rqPost0 0x500 = true ∧ submitBad (takePost submitDev rqPost0) 0 rqPost0 = none ∧ rqPrompt rqPost0 = 0 := by decide +kernel

/-! ## ServingMessagesAndTimers -/

/-- A message about request 77 at its origin's epoch 1, and one at the barge's epoch 3. -/
def oriHdr : LockHdr := { lkHdr with epoch := 1, party := 5 }
def ownHdr : LockHdr := { lkHdr with party := 4 }
/-- A held request of a class that cancels when late, with nothing left of its deadline. -/
def rqHeld : ReqSt := { rqSt with phase := .held, classFlags := 1, left := some 0 }
def heldDev : Dev := { taskDev with requests := [(77, rqHeld)] }
/-- A record, and a request with one waiting. -/
def rec0 : OutRec := ⟨7, 2, false, false, false, false, .ok, 0⟩
def waitDev : Dev := { taskDev with requests := [(77, { rqSt with waiting := [rec0] })] }
/-- A barge that is late, held for its ring; one moored; one held at its weir path. -/
def lateBarge : Barge := { rqBarge with holdRing := true, hdr := { rqBarge.hdr with deadline := some 0, classFlags := 1 } }
def oneBarge (b : Barge) : Dev := { taskDev with barges := [(77, b)] }
/-- The PROMPT partition 3 with a program, and a step of it whose one task has ended. -/
def prog0 : Program := ⟨[], 4, 16⟩
def rowTable : TableSt := { kvTable with request := 77, layers := [] }
def rowBarge : Barge := { rqBarge with hdr := { rqBarge.hdr with handle := BitVec.ofNat 64 (handleOf rowTable) } }
def stepDev : Dev := { bargeDev rowBarge with
  tables := [(9, rowTable)]
  parts := [(3, { PartSt.reset with state := .active, role := Tri.same 1, owner := 0 })], programs := [(6, prog0)] }
def step0 : StepSt := ⟨false, [], [], 1, none, 0, false⟩
def stepDone (st : Status) : Dev := { stepDev with steps := [(3, step0)], stepResults := [⟨3, 0, st, 0, 0⟩] }

theorem test_serving_met_origin :
    keeperRuns (rqDev rqSt) = true ∧ getReq (rqDev rqSt) oriHdr.request = some rqSt ∧ rqSt.phase = .live ∧ oriHdr.epoch.toNat = rqSt.epoch ∧
      rqSt.cancelled = none ∧ rqSt.ending = none ∧ rqSt.waiting = [] ∧ ({ rqSt with waiting := [rec0] } : ReqSt).waiting ≠ [] ∧
      (3 : Nat) ≤ rqSt.historyLen + [rec0].length ∧ rqSt.historyLen + [rec0].length < 4 ∧
      budgetFits (setReq (rqDev rqSt) 77 { rqSt with leaseAsk := 1 }) 0 256 = true ∧
      budgetFits (setReq { rqDev rqSt with budgets := [(0, ⟨true, 1, 10000, 0, 0, 0⟩)] } 77 { rqSt with leaseAsk := 1 }) 0 256 = false ∧
      holdReport rqSt.classFlags = false ∧ holdReport (4 : Byte) = true := by decide +kernel

theorem test_serving_met_owner :
    getBarge (rqDev rqSt) ownHdr.request = some rqBarge ∧ ownHdr.epoch.toNat = rqBarge.epoch ∧ rqBarge.state ≠ .adrift ∧
      ownHdr.party.toNat ≠ 0 ∧ rqBarge.src = none ∧ keeperRuns (oneBarge lateBarge) = true ∧
      getBarge (oneBarge lateBarge) 77 = some lateBarge ∧ (tickBarge (oneBarge lateBarge) lateBarge).holdRing = true ∧
      (tickBarge (oneBarge lateBarge) lateBarge).state = .underway ∧ deadlineGone (tickBarge (oneBarge lateBarge) lateBarge) = true ∧
      (tickBarge (oneBarge lateBarge) lateBarge).cancelled = none ∧
      cancelOnLate (tickBarge (oneBarge lateBarge) lateBarge).hdr.classFlags = true ∧
      getReq (sendLate (oneBarge lateBarge) lateBarge) 77 = none ∧ (oneBarge lateBarge).boot.dormant = false ∧
      ({ rqBarge with state := .moored } : Barge).state = .moored ∧ ({ rqBarge with holdWeir := true } : Barge).holdWeir = true ∧
      rqBarge.inStep = false := by decide +kernel

theorem test_serving_met_timers :
    keeperRuns heldDev = true ∧ getReq heldDev 77 = some rqHeld ∧ rqHeld.fn = 0 ∧ rqHeld.phase = .held ∧ rqHeld.cancelled = none ∧
      getBarge heldDev 77 = none ∧ cancelOnLate rqHeld.classFlags = true ∧
      rqHeld.left.any (fun n => decide (n ≤ (heldDev.tclk - rqHeld.since).toNat)) = true ∧ barOpen (rqDev rqSt) 0 = true ∧
      doorbellReq (rqDev rqSt) 0 0x4D00000000 = some 77 ∧ doorbellReq (rqDev rqSt) 0 0x4E00000000 = none ∧
      getBudget { devUp with budgets := [(0, ⟨true, 1, 10000, 5, 9, 0⟩)] } 0 = some ⟨true, 1, 10000, 5, 9, 0⟩ ∧
      waitDev.requests.find? (fun e => e.2.fn == 0 && e.2.slot == 0) = some (77, { rqSt with waiting := [rec0] }) ∧
      hostOpen waitDev 0 = true := by decide +kernel

theorem test_serving_met_steps :
    keeperRuns stepDev = true ∧ tget stepDev.programs 6 = some prog0 ∧ (getPart stepDev 3).state = .active ∧ roleOf (getPart stepDev 3) = 1 ∧
      tget stepDev.steps 3 = none ∧ stepDev.health.joinHold.isEmpty = true ∧
      (fillStep false false false prog0 [] stepDev 4 0 []).2.1 = [] ∧ (fillStep false false false prog0 [rowBarge] stepDev 4 0 []).2.1 ≠ [] ∧
      mayStep stepDev 3 rowBarge = true ∧ tget (stepDone .ok).steps 3 = some step0 ∧ step0.posts = [] ∧
      step0.count ≤ ((stepDone .ok).stepResults.filter (fun r => r.part == 3)).length ∧
      ((stepDone .ok).stepResults.filter (fun r => r.part == 3)).find? resFailed = none ∧
      (((stepDone .badLength).stepResults.filter (fun r => r.part == 3)).find? resFailed).isSome = true := by decide +kernel

/-! ## ClassesProgramsFetchAndLoss -/

/-- A REQ_CLASS with a TTL and one without. -/
def classPost (ttl : Nat) : Post := mkPost 5 0x504 [(16, 2), (17, 1), (20, ttl)] []
/-- A PROMPT program of one COPY of a byte, whose operands lie in host memory, for partition 3. -/
def copyTemp : List Byte :=
  leBytes (mkPost 2 0x010C [(16, 1), (17, 3), (20, 1), (32, 0x2000), (40, 2)] []).desc.toNat 64 ++ List.replicate 32 0
def progDev : Dev := { devUp with
  parts := [(3, { PartSt.reset with state := .active, tiles := Tri.same 3, role := Tri.same 1, owner := 0 })]
  host := memWrite [] 0x2000 (opdB 1 1 0 0 0 ++ opdB 5 1 0 64 0) }
def progPost : Post := mkPost 5 0x450 [(16, 3), (20, 1), (22, 4), (24, 16), (32, 0x3000)] copyTemp
/-- The PF's TASK ring 2 with one descriptor to fetch; its line good, or unreadable with what it names. -/
def fetchDev (bad : List Nat) : Dev := { devUp with
  hostBad := bad
  host := memWrite [] 0x1000 (leBytes (mkPost 2 0x010C [(2, 16), (32, 0x2000), (40, 2)] []).desc.toNat 64)
  fns := [(0, { fnUp with rings := (2, { subRing 0 with held := 1 }) :: fnUp.rings })] }
def modDev (on : Bool) : Dev := { devUp with requests := [(77, { rqSt with modTimer := on })] }

theorem test_class_program_met :
    ready devUp (classPost 9) 0x504 = true ∧ dZero (classPost 9) 8 8 = true ∧ dNat (classPost 9) 16 1 ≤ 15 ∧ dNat (classPost 9) 17 1 ≤ 15 ∧
      dZero (classPost 9) 18 2 = true ∧ dZero (classPost 9) 24 40 = true ∧ dNat (classPost 9) 20 4 ≠ 0 ∧ ready devUp (classPost 0) 0x504 = true ∧
      ready progDev progPost 0x450 = true ∧ dZero progPost 8 8 = true ∧ dNat progPost 17 1 = 0 ∧ dZero progPost 18 2 = true ∧
      dZero progPost 28 4 = true ∧ dZero progPost 40 24 = true ∧ mayName (takePost progDev progPost) 0 3 = true ∧ spCount progPost = 1 ∧
      spBatch progPost = 4 ∧ spChunk progPost = 16 ∧ roleOf (getPart (takePost progDev progPost) 3) = 1 ∧ patchResv progPost = false ∧
      (templatesOf (takePost progDev progPost) progPost).filter (fun t => patchEmit t.patch) = [] ∧
      firstBad ((templatesOf (takePost progDev progPost) progPost).map (templateBad (takePost progDev progPost) (partId (spPart progPost)))) =
        none := by decide +kernel

theorem test_fetch_met :
    fetchOpen (fetchDev []) 0 2 = true ∧ nextDesc (fetchDev []) (getRing (fetchDev []) 0 2) % 65536 ≠ 0x0600 ∧
      fetchBad (fetchDev []) (getRing (fetchDev []) 0 2) (nextDesc (fetchDev []) (getRing (fetchDev []) 0 2)) = none ∧
      fetchOpen (fetchDev [0x2000]) 0 2 = true ∧
      fetchBad (fetchDev [0x2000]) (getRing (fetchDev [0x2000]) 0 2) (nextDesc (fetchDev [0x2000]) (getRing (fetchDev [0x2000]) 0 2)) = some 0x2000 ∧
      hostLineBad (fetchDev [0x2000]) (entryAddr (getRing (fetchDev [0x2000]) 0 2)) 64 = none ∧ fetchOpen devUp 0 2 = false := by decide +kernel

theorem test_moderation_and_loss_met :
    (modDev true).requests.find? (fun e => e.2.fn == 0 && e.2.slot == 0) = some (77, { rqSt with modTimer := true }) ∧
      devUp.requests.find? (fun e => e.2.fn == 0 && e.2.slot == 0) = none ∧ isMember meshDev 1 = true ∧ (1 : DevIx) ≠ selfDev meshDev ∧
      isLost meshDev 1 = false ∧ coordinator meshDev ≠ 1 ∧ isMember meshDev 5 = false := by decide +kernel

/-! ## HealthAndRepair -/

/-- The device is coordinator of its pod's health, or has a part waiting for its grant, or a slice under way. -/
def hltDev : Dev := { meshDev with
  regs := (regBase .podSpares, 2) :: (regBase .hltCtl, 15) :: meshDev.regs
  health := { meshDev.health with asks := [180], standbyOk := true, parts := [(180, ⟨0, .watch, 3, false, false⟩)], slices := [(0, ⟨.farLoop, 0⟩)] } }
/-- A repair of the PF's CONTROL ring. -/
def repPost (action kind index sub : Nat) : Post := mkPost 5 0x4A1 [(16, action), (17, kind), (18, index), (20, sub)] []
/-- Logical tile 0 fenced. -/
def fencedDev : Dev := setTile devUp 0 { getTile devUp 0 with fenced := true }

theorem test_health_met :
    hltDev.boot.phase = .ready ∧ hltDev.boot.dormant = false ∧ isCoordinator hltDev = true ∧ isMember hltDev 1 = true ∧ isLost hltDev 1 = false ∧
      (hltDev.health.grants.filter (fun g => g != (1, 72))).length < cfgField hltDev .podSpares 0 8 ∧
      cfgField { hltDev with regs := meshDev.regs } .podSpares 0 8 ≤ 0 ∧ hltDev.health.asks.contains 180 = true ∧
      (getHealth hltDev 180).state = .watch ∧ sliceEn hltDev = true ∧ sliceFits hltDev 16 ⟨.pll, 1⟩ = true ∧
      tget hltDev.health.slices 16 = none ∧ tget hltDev.health.slices 0 = some ⟨.farLoop, 0⟩ ∧ (bootAt .held 0 0).boot.phase ≠ .ready := by
  decide +kernel

theorem test_lockstep_met :
    lockstepEn hltDev = true ∧ hltDev.health.halted = false ∧ hltDev.health.dead = false ∧ hltDev.boot.lkpStarted = true ∧
      lkpAuto hltDev = false ∧
      hltDev.health.standbyOk = true ∧ hltDev.health.failingOver = false ∧ lockstepEn { hltDev with regs := [(regBase .hltCtl, 0)] } = false ∧
      hbmAuto { devUp with regs := [(regBase .spareCtl, 8)] } = true ∧ hbmAuto { devUp with regs := [(regBase .spareCtl, 0)] } = false := by
  decide +kernel

theorem test_repair_met :
    ready fencedDev (repPost 1 1 0 0) 0x4A1 = true ∧ dZero (repPost 1 1 0 0) 8 8 = true ∧ dZero (repPost 1 1 0 0) 24 40 = true ∧
      tileFenced (takePost fencedDev (repPost 1 1 0 0)) 0 = true ∧ unsettled (takePost fencedDev (repPost 1 1 0 0)) 1 (physOf fencedDev 0) = false ∧
      (substTile (takePost fencedDev (repPost 1 1 0 0)) 0).isSome = true ∧
      unfenceable (takePost fencedDev (repPost 2 1 0 0)) 1 0 = true ∧ partOfUnit 1 0 = some 0 ∧ ready fencedDev (repPost 3 5 0 0) 0x4A1 = true ∧
      partOfUnit 5 0 = some 180 ∧ ready fencedDev (repPost 4 0 0 0) 0x4A1 = true ∧ selftestOpen fencedDev = true ∧
      selftestOpen { fencedDev with parts := [(3, { PartSt.reset with state := .suspending })] } = false := by decide +kernel

/-! ## AdmissionRuns -/

/-- The PF's ADMIT with partner 1: one pair, partition 3 here and there. -/
def admitPost : Post := mkPost 5 0x4A8 [(16, 1), (17, 1), (20, 100)] [3, 3]
def admitDev : Dev := { meshDev with parts := [(3, { PartSt.reset with state := .active })] }
def quarDev : Dev := { admitDev with ports := [(0, { PortSt.reset with link := .quarantined, peerDev := 1, peerPod := 0 })] }
/-- An admission that loads, or stands in the barrier. -/
def admSt (ph : AdmPhase) : AdmSt := { phase := ph, post := none, partner := 1, pairs := [(3, 3)], barrier := 100, group := 6, arrived := 0, bytes := 0 }
def admDev (ph : AdmPhase) : Dev := setAdmit admitDev (admSt ph)
def holdDev : Dev := { admitDev with health := { admitDev.health with joinHold := [1] } }

theorem test_admit_met :
    ready admitDev admitPost 0x4A8 = true ∧ dZero admitPost 8 8 = true ∧ dZero admitPost 18 2 = true ∧ dZero admitPost 40 24 = true ∧
      adPartner admitPost = 1 ∧ adPairs admitPost = 1 ∧ adBarrier admitPost = 100 ∧ (takePost admitDev admitPost).health.admState.phase = .idle ∧
      isMember (takePost admitDev admitPost) 1 = true ∧ selftestOpen (takePost admitDev admitPost) = true ∧
      (admitPairs admitPost).all (fun e => decide (e.1 < 64) && decide (e.2 < 64) &&
        (getPart (takePost admitDev admitPost) e.1).state == .active) = true ∧
      linkQuarantine (takePost admitDev admitPost) 1 = false ∧ ready quarDev admitPost 0x4A8 = true ∧
      linkQuarantine (takePost quarDev admitPost) 1 = true := by decide +kernel

theorem test_admit_partner_met :
    keeperRuns admitDev = true ∧ isMember admitDev 1 = true ∧
      (([((3 : PartId), (3 : PartId))].zip [shapeOf admitDev 3]).all (fun e => shapeOf admitDev e.1.2.val == e.2)) = true ∧
      (([((3 : PartId), (3 : PartId))].zip [(0, 9, 0, 0, [])]).all (fun e => shapeOf admitDev e.1.2.val == e.2)) = false ∧
      admitBad admitDev 3 = [] := by decide +kernel

theorem test_admission_phases_met :
    (admDev .loading).health.admState.phase = .loading ∧ isLost (admDev .loading) 1 = false ∧
      isLost { admDev .loading with peerLost := 2 } 1 = true ∧ (loadParts [(3, 3)] [] (admDev .loading)).1 = [] ∧
      (admDev .barrier).health.admState.phase = .barrier ∧ holdDev.health.admState.phase ≠ .barrier ∧ holdDev.health.joinHold = [1] := by
  decide +kernel

/-! ## FunctionResetsLeave -/

/-- VF 1 exists, with a class, an ended request and a page to be cleared. -/
def vfDev : Dev := { devUp with vfEnable := true, numVfs := 2, classes := [(16, ⟨1, 1⟩)], ended := [(1, 77)], clearPages := [(9, 1)] }
theorem test_function_resets_met :
    fnExists vfDev 1 = true ∧ (1 : Fn).val ≠ 0 ∧ fnExists vfDev 3 = false ∧ getClass vfDev 1 0 = some ⟨1, 1⟩ ∧
      (liveVfs vfDev).filter (fun v => !(true && decide (v.val ≤ 1))) = [2] := by decide +kernel

/-! ## EveryStepKeepsDevice -/

/-- A state that meets the invariant and has a command to perform. -/
def oneCommand : State := { State.reset with pending := [.powerOnDetect] }

theorem test_step_keeps_met : devOk oneCommand.dev = true ∧ ∃ t, step oneCommand = .next t := ⟨by decide +kernel, _, rfl⟩

/-! ## ResetMeetsInvariant -/

theorem test_reset_lock_bits : (4 : Nat) < 5 := by decide

/-! ## MemoryReadsBack -/

theorem test_bytes_met : Memory.wf [(5, 1)] = true ∧ (1 : Nat) < [0, 7].length ∧ ((4 : Nat) < 5 ∨ 7 ≤ 4) := by decide

/-! ## StacksInterleave -/

theorem test_stacks_met : (1 : Nat) < 2 ∧ (0x47FFFFFFFF : Nat) < 0x4800000000 := by decide

/-! ## ClassifyRemoveFrees -/

theorem test_classify_remove_met :
    ready clsDev (mkPost 5 0x0491 [(16, 1), (20, 6)] []) 0x0491 = true ∧ holdsEntry (getCam clsDev 0) 6 = true ∧
      ready clsDev (mkPost 5 0x0491 [(16, 3), (20, 6)] []) 0x0491 = true ∧ holdsEntry (getCam clsDev 1) 6 = false ∧
      clsHalves (mkPost 5 0x0491 [(16, 3), (20, 6)] []) = [0, 1] := by decide +kernel

/-! ## PolicerQueryReports -/

/-- VF 3 owns policer 1023; VF 2 does not. -/
def polDev (f : Fn) : Dev := { devUp with
  numVfs := 3, vfEnable := true, fns := (0, fnUp) :: [(f.val, fnUp)], policers := [(1023, { Policer.reset with owner := 3 })] }
def polPost (f : Fn) : Post := { mkPost 5 0x0493 [(16, 1023), (40, 0x4000)] [] with src := .ring f 5 0 }

theorem test_policer_query_met :
    ready devUp (mkPost 5 0x0493 [(16, 1023), (40, 0x4000)] []) 0x0493 = true ∧ ready (polDev 3) (polPost 3) 0x0493 = true ∧
      poster (polDev 3) (polPost 3) = (getPolicer (polDev 3) 1023).owner ∧ ready (polDev 2) (polPost 2) 0x0493 = true ∧
      poster (polDev 2) (polPost 2) ≠ (getPolicer (polDev 2) 1023).owner := by decide +kernel

/-! ## FlashDescriptorsFromPf -/

/-- VF 2 posts a descriptor on its CONTROL ring. -/
def vfDev2 : Dev := { devUp with numVfs := 3, vfEnable := true, fns := [(0, fnUp), (2, fnUp)] }
def vfPost2 (op : Nat) : Post := { mkPost 5 op [] [] with src := .ring 2 5 0 }

theorem test_flash_pf_met :
    ready vfDev2 (vfPost2 0x04B0) 0x04B0 = true ∧ ready vfDev2 (vfPost2 0x04B1) 0x04B1 = true ∧ ready vfDev2 (vfPost2 0x04B2) 0x04B2 = true ∧
      ready vfDev2 (vfPost2 0x04B3) 0x04B3 = true ∧ ready vfDev2 (vfPost2 0x04B4) 0x04B4 = true ∧
      (poster vfDev2 (vfPost2 0x04B0)).val = 2 ∧ ready devUp (mkPost 5 0x04B2 [] []) 0x04B2 = true ∧
      ready devUp (mkPost 5 0x04B3 [] []) 0x04B3 = true ∧ flashHead devUp (mkPost 5 0x04B2 [] []) [32] = true ∧ flashOpen devUp = true ∧ flashOpen vfDev2 = true := by decide +kernel

/-! ## LiftStopStops -/

/-- Partition 3 of the PF with a running lift; and with a reader bound to a load. -/
def liftDev3 (readers : List Post) : Dev := { devUp with parts := [(3, { PartSt.reset with
  state := .active, lift := { LiftSt.reset with run := true, loads := [⟨0, true, readers, [], 0⟩] } })] }
def liftPost3 : Post := mkPost 5 0x0421 [(16, 3)] []

theorem test_lift_stop_met :
    ready (liftDev3 []) liftPost3 0x0421 = true ∧ partBusy (liftDev3 []) 3 = false ∧ partBusy (liftDev3 [liftPost3]) 3 = false ∧
      mayName (liftDev3 []) (poster (liftDev3 []) liftPost3) 3 = true ∧
      (getPart (liftDev3 []) 3).lift.loads.any (fun l => !l.readers.isEmpty) = false ∧ ready (liftDev3 [liftPost3]) liftPost3 0x0421 = true ∧
      (getPart (liftDev3 [liftPost3]) 3).lift.loads.any (fun l => !l.readers.isEmpty) = true := by decide +kernel

/-! ## Int32Saturates -/

theorem test_int32_met : ∀ x ∈ [(16384 : Int), -16384], -16384 ≤ x ∧ x ≤ 16384 := by decide

/-! ## NansAreCanonical -/

/-- A signalling and a quiet NaN of binary32. -/
theorem test_nan_met : isNan (dec32 0x7F800001) = true ∧ isNan (dec32 0x7FC12345) = true ∧
    signOf (dec32 0x7F800001) = signOf (dec32 0x7FC12345) ∧ isNan (Machine.Num.mk (.nan true) 0).v = true := by decide +kernel

/-! ## WellFormed: an ill-formed command for each check -/

/-- A cell whose payload is one byte longer than Table 10.4 allows. -/
def longCell : Cell :=
  { kind := 0, vc := 0, tc := 0, hops := 0, dst := 0, src := 0, engine := 0, txn := 0, addr := 0, length := 0, aop := 0, status := 0, resvOk := true,
    lseq := 0, lack := 0, credVc := 0, cred := 0, payload := List.replicate 257 0 }

theorem test_refuses_other_opcode : wellFormed (.matmul (mkPost 2 0x0102 [] [])) = false := by decide +kernel
theorem test_takes_own_opcode : wellFormed (.matmul (mkPost 2 0x0101 [] [])) = true := by decide +kernel
theorem test_refuses_ring_511 : wellFormed (.matmul (mkPost 511 0x0101 [] [])) = false := by decide +kernel
theorem test_refuses_seven_readings : wellFormed (.thermalSample .w (List.replicate 7 0)) = false := by decide +kernel
theorem test_refuses_pf_ring : wellFormed (.ringDisable 0 511) = false := by decide +kernel
theorem test_refuses_vf_ring : wellFormed (.ringDisable 1 64) = false := by decide +kernel
theorem test_refuses_pf_vector : wellFormed (.msixUnmask 0 2048) = false := by decide +kernel
theorem test_refuses_vf_vector : wellFormed (.msixUnmask 1 64) = false := by decide +kernel
theorem test_refuses_64_vfs : wellFormed (.vfEnableWrite true 64) = false := by decide +kernel
theorem test_refuses_long_cell : wellFormed (.load 0 longCell) = false := by decide +kernel
theorem test_refuses_cam_row : wellFormed (.camShadowCheck .w false 131072 false) = false := by decide +kernel
theorem test_refuses_channel_32 : wellFormed (.hbmLaneFailing 0 32 0) = false := by decide +kernel

end Sys2Proof.Tests
end

/-! The numbers of 02_numbers.md: the saturating INT32 sums of R64 and R68. -/
namespace Sys2Proof.Machine

/-- The values the INT32 accumulator of R64 can hold. -/
def Int32Range (x : Int) : Prop := -2147483647 ≤ x ∧ x ≤ 2147483647

theorem int32Range_max : Int32Range 2147483647 := ⟨by decide, le_rfl⟩
theorem int32Range_min : Int32Range (-2147483647) := ⟨le_rfl, by decide⟩

/-! ## One addition -/

theorem satAdd_of_above {a b : Int × NumFlags} (h : 2147483647 < a.1 + b.1) :
    satAdd a b = (2147483647, a.2 ||| b.2 ||| fISAT) := by
  simp only [satAdd, if_pos h]

theorem satAdd_of_below {a b : Int × NumFlags} (h : a.1 + b.1 < -2147483647) :
    satAdd a b = (-2147483647, a.2 ||| b.2 ||| fISAT) := by
  have hnot : ¬ 2147483647 < a.1 + b.1 := by omega
  simp only [satAdd, if_neg hnot, if_pos h]

theorem satAdd_of_inRange {a b : Int × NumFlags} (h : Int32Range (a.1 + b.1)) :
    satAdd a b = (a.1 + b.1, a.2 ||| b.2) := by
  simp only [satAdd, if_neg h.2.not_gt, if_neg h.1.not_gt]

/-- The accumulator never leaves its range, whatever is added. -/
theorem satAdd_inRange (a b : Int × NumFlags) : Int32Range (satAdd a b).1 := by
  rcases lt_or_ge 2147483647 (a.1 + b.1) with habove | hle
  · rw [satAdd_of_above habove]
    exact int32Range_max
  · rcases lt_or_ge (a.1 + b.1) (-2147483647) with hbelow | hge
    · rw [satAdd_of_below hbelow]
      exact int32Range_min
    · rw [satAdd_of_inRange ⟨hge, hle⟩]
      exact ⟨hge, hle⟩

theorem foldl_satAdd_inRange {t : Int × NumFlags} (ts : List (Int × NumFlags)) (ht : Int32Range t.1) :
    Int32Range (ts.foldl satAdd t).1 :=
  List.foldlRecOn (motive := fun acc => Int32Range acc.1) ts satAdd ht fun acc _ a _ => satAdd_inRange acc a

/-! ## The exact total of a chunk -/

/-- 256 INT8 products sum to at most 2^22 in magnitude, so a chunk's total needs no saturation. -/
theorem chunkTotal_inRange {c : List Int} (hlen : c.length ≤ 256) (hc : ∀ x ∈ c, -16384 ≤ x ∧ x ≤ 16384) :
    Int32Range (c.foldl (· + ·) 0) := by
  have hupper : c.sum ≤ c.length • 16384 := List.sum_le_card_nsmul c 16384 fun x hx => (hc x hx).2
  have hlower : c.length • (-16384) ≤ c.sum := List.card_nsmul_le_sum c (-16384) fun x hx => (hc x hx).1
  rw [← List.sum_eq_foldl]
  simp only [nsmul_eq_mul] at hupper hlower
  constructor <;> omega

theorem intTotals_inRange (n : Nat) {l : List Int} (hl : ∀ x ∈ l, -16384 ≤ x ∧ x ≤ 16384) :
    ∀ t ∈ intTotals l n, Int32Range t.1 := by
  induction n generalizing l with
  | zero => simp [intTotals]
  | succ n ih =>
    have hhead := chunkTotal_inRange (List.length_take_le 256 l) fun x hx => hl x (List.mem_of_mem_take hx)
    have htail := ih (l := l.drop 256) fun x hx => hl x (List.mem_of_mem_drop hx)
    exact List.forall_mem_cons.2 ⟨hhead, htail⟩

/-! ## A whole reduction -/

theorem reduceInt_inRange {l : List Int} (hl : ∀ x ∈ l, -16384 ≤ x ∧ x ≤ 16384) : Int32Range (reduceInt l).1 := by
  have htotals := intTotals_inRange (ceilDiv l.length 256) hl
  unfold reduceInt
  split
  case h_1 => exact ⟨by decide, by decide⟩
  case h_2 t ts heq => exact foldl_satAdd_inRange ts (htotals t (heq ▸ List.mem_cons_self))

/-- Settles O42: each addition by the three cases of `satAdd`; a whole reduction because the first chunk's total is exact
and in range and every later addition of the chain lands in range. -/
theorem int32Saturates : Obligations.Int32Saturates :=
  ⟨fun _ _ => ⟨satAdd_of_above, satAdd_of_below, fun hge hle => satAdd_of_inRange ⟨hge, hle⟩⟩,
    fun _ hl => reduceInt_inRange hl⟩

end Sys2Proof.Machine

/-! The partitions of 05_partitions.md: LIFT_STOP (R191). -/
namespace Sys2Proof.Machine

/-! ## What taking a descriptor leaves of the partitions -/

@[simp] theorem getPart_takePost (d : Dev) (p : Post) (n : Nat) : getPart (takePost d p) n = getPart d n := by
  simp only [getPart, takePost_parts]

@[simp] theorem mayName_takePost (d : Dev) (p : Post) (f : Fn) (n : Nat) : mayName (takePost d p) f n = mayName d f n := by
  simp only [mayName, getPart_takePost]

@[simp] theorem partBusy_takePost (d : Dev) (p : Post) (n : Nat) : partBusy (takePost d p) n = partBusy d n := by
  simp only [partBusy, getPart_takePost, takePost_composing, takePost_parts]

/-! ## Setting a partition's lift, and dropping its loads -/

@[simp] theorem getPart_setPart_same (d : Dev) (n : Nat) (x : PartSt) : getPart (setPart d n x) n = x :=
  tgetD_tset_same d.parts n x PartSt.reset

@[simp] theorem getPart_setLift_same (d : Dev) (n : Nat) (x : LiftSt) :
    getPart (setLift d n x) n = { getPart d n with lift := x } :=
  getPart_setPart_same d n _

@[simp] theorem setLift_podOps (d : Dev) (n : Nat) (x : LiftSt) : (setLift d n x).podOps = d.podOps := rfl
@[simp] theorem setLift_ts (d : Dev) (n : Nat) (x : LiftSt) : (setLift d n x).ts = d.ts := rfl
@[simp] theorem dropLoads_ts (d : Dev) (n : Nat) : (dropLoads d n).ts = d.ts := rfl

/-- No pod operation that is left is a load of the partition's lift. -/
theorem dropLoads_no_load {d : Dev} {n : Nat} {o : PodOp} (ho : o ∈ (dropLoads d n).podOps) {q : PartId} (hq : o.use = .lift q) :
    q.val ≠ n := by
  obtain ⟨-, hkept⟩ := List.mem_filter.1 ho
  simpa [hq] using hkept

/-! ## The rule of LIFT_STOP -/

/-- A descriptor whose partition no other descriptor holds is performed by its own rule (R163). -/
theorem inTurn_of_not_busy {d : Dev} {n : Nat} (rule : Dev → Res) (h : partBusy d n = false) : inTurn [n] rule d = rule d := by
  simp [inTurn, h]

theorem liftStopRule_of_reader {p : Post} {d : Dev}
    (h : (getPart d (dNat p 16 1)).lift.loads.any (fun l => !l.readers.isEmpty) = true) :
    liftStopRule p d = .plain .badDescriptor d := by
  simp only [liftStopRule, h, Bool.or_true, if_true]

theorem liftStopRule_of_no_reader {p : Post} {d : Dev} (hheader : dZero p 8 8 = true)
    (hname : mayName d (poster d p) (dNat p 16 1) = true) (hzero : dZero p 17 47 = true)
    (h : (getPart d (dNat p 16 1)).lift.loads.any (fun l => !l.readers.isEmpty) = false) :
    liftStopRule p d = .plain .ok (setLift (dropLoads d (dNat p 16 1)) (dNat p 16 1) LiftSt.reset) := by
  simp [liftStopRule, hheader, hname, hzero, h]

/-- LIFT_STOP that is reached and finds its partition free completes as its rule answers. -/
theorem exec_liftStop_completes {s : State} {p : Post} {st : Status} {f : Dev → Dev} (hready : ready s.dev p 0x0421 = true)
    (hfree : partBusy s.dev (dNat p 16 1) = false)
    (hrule : liftStopRule p (takePost s.dev p) = .plain st (f (takePost s.dev p))) :
    exec (.liftStop p) s = completes s p f st 0 0 :=
  answer_completes hready <| (inTurn_of_not_busy (liftStopRule p) (by simpa using hfree)).trans hrule

/-- Settles O40: a bound reader makes the rule refuse; without one the device left is that whose partition has its loads
dropped from pod memory and a lift at reset. -/
theorem liftStopStops : Obligations.LiftStopStops := by
  rintro s p _ hready rfl hheader hzero hname hfree
  constructor
  · intro hreader
    exact exec_liftStop_completes hready hfree (liftStopRule_of_reader (by simpa using hreader))
  · intro hnone
    have hrule := liftStopRule_of_no_reader (d := takePost s.dev p) hheader (by simpa using hname) hzero (by simpa using hnone)
    refine ⟨setLift (dropLoads (takePost s.dev p) (dNat p 16 1)) (dNat p 16 1) LiftSt.reset, ?_, ?_, ?_, ?_, ?_, ?_⟩
    · exact exec_liftStop_completes (f := fun d => setLift (dropLoads d (dNat p 16 1)) (dNat p 16 1) LiftSt.reset) hready hfree hrule
    · rw [getPart_setLift_same]; rfl
    · rw [getPart_setLift_same]; rfl
    · rw [getPart_setLift_same]; rfl
    · exact fun o ho q hq => dropLoads_no_load ho hq
    · rw [setLift_ts, dropLoads_ts, takePost_ts]

end Sys2Proof.Machine

/-! The sluice of 12_sluice.md: CLASSIFY_REMOVE (R435). -/
namespace Sys2Proof.Machine

/-! ## What each update leaves of the two halves of the CAM -/

@[simp] theorem getCam_takePost (d : Dev) (p : Post) (h : Nat) : getCam (takePost d p) h = getCam d h := by
  simp only [getCam, takePost_camW, takePost_camE]

@[simp] theorem getCam_reclassify (d : Dev) (k h : Nat) : getCam (reclassify d k) h = getCam d h := rfl

@[simp] theorem getCam_setCam_same (d : Dev) (h : Nat) (x : CamHalf) : getCam (setCam d h x) h = x := by
  unfold getCam setCam
  split <;> rfl

theorem getCam_setCam_other (d : Dev) {h k : Nat} (hh : h < 2) (hk : k < 2) (hne : h ≠ k) (x : CamHalf) :
    getCam (setCam d k x) h = getCam d h := by
  obtain ⟨rfl, rfl⟩ | ⟨rfl, rfl⟩ : h = 0 ∧ k = 1 ∨ h = 1 ∧ k = 0 := by omega
  · rfl
  · rfl

/-! ## An entry taken out of the halves -/

/-- A half without its CLASSIFY entries of ENTRY_ID `i`; those that stay keep their indexes. -/
def CamHalf.without (c : CamHalf) (i : Nat) : CamHalf := { c with cls := c.cls.filter (fun e => e.id != i) }

@[simp] theorem CamHalf.without_loc (c : CamHalf) (i : Nat) : (c.without i).loc = c.loc := rfl
@[simp] theorem CamHalf.without_cls (c : CamHalf) (i : Nat) : (c.without i).cls = c.cls.filter (fun e => e.id != i) := rfl

@[simp] theorem CamHalf.without_without (c : CamHalf) (i : Nat) : (c.without i).without i = c.without i := by
  simp [CamHalf.without]

@[simp] theorem getCam_dropEntry_same (i : Nat) (d : Dev) (h : Nat) : getCam (dropEntry i d h) h = (getCam d h).without i :=
  getCam_setCam_same d h _

theorem getCam_dropEntry_other (i : Nat) (d : Dev) {h k : Nat} (hh : h < 2) (hk : k < 2) (hne : h ≠ k) :
    getCam (dropEntry i d k) h = getCam d h :=
  getCam_setCam_other d hh hk hne _

/-- Dropping an entry from each half of a list touches the listed halves alone, a half that is listed twice as one listed once. -/
theorem getCam_foldl_dropEntry (i : Nat) {h : Nat} (hh : h < 2) {hs : List Nat} (hlt : ∀ k ∈ hs, k < 2) (d : Dev) :
    getCam (hs.foldl (dropEntry i) d) h = if hs.contains h then (getCam d h).without i else getCam d h := by
  induction hs generalizing d with
  | nil => rfl
  | cons k ks ih =>
    obtain ⟨hk, hks⟩ := List.forall_mem_cons.1 hlt
    rw [List.foldl_cons, ih hks]
    by_cases hhk : h = k
    · subst hhk
      simp
    · rw [getCam_dropEntry_other i d hh hk hhk]
      simp [hhk]

theorem clsHalves_lt {p : Post} {h : Nat} (hmem : h ∈ clsHalves p) : h < 2 :=
  List.mem_range.1 (List.mem_of_mem_filter hmem)

/-! ## The rule of CLASSIFY_REMOVE -/

/-- Past the checks of its fields, CLASSIFY_REMOVE turns on whether every named half holds the entry. -/
theorem classifyRemoveRule_of_fields {p : Post} {d : Dev} (hpf : (poster d p).val = 0) (hheader : dZero p 8 8 = true)
    (hmask : dNat p 16 1 ≤ 3) (hzero : dZero p 17 3 = true) (hid : clsId p < 2 ^ 17) (htail : dZero p 24 40 = true)
    (hnamed : (clsHalves p).isEmpty = false) :
    classifyRemoveRule p d =
      if (clsHalves p).any (fun h => !holdsEntry (getCam d h) (clsId p)) then .plain .badDescriptor d
      else .plain .ok ((clsHalves p).foldl (dropEntry (clsId p)) d) := by
  simp only [classifyRemoveRule, hpf, hheader, hzero, htail, hnamed, hmask.not_gt, hid.not_ge, bne_self_eq_false, Bool.not_true,
    decide_false, Bool.or_self, Bool.false_or]

/-- Settles O37: past the field checks the rule either refuses, or folds the removal of the entry over the named halves, and
each half of the device left is read back from that fold. -/
theorem classifyRemoveFrees : Obligations.ClassifyRemoveFrees := by
  rintro s p _ hready hpf hheader hmask hzero hid htail rfl hnamed
  have hrule := classifyRemoveRule_of_fields (d := takePost s.dev p) (by simpa using hpf) hheader hmask hzero hid htail hnamed
  simp only [getCam_takePost] at hrule
  constructor
  · intro hheld
    rw [hheld] at hrule
    refine ⟨(clsHalves p).foldl (dropEntry (clsId p)) (takePost s.dev p), ?_, fun h hh => ?_⟩
    · exact answer_completes (f := fun d => (clsHalves p).foldl (dropEntry (clsId p)) d) hready hrule
    · rw [getCam_foldl_dropEntry (clsId p) hh (fun _ => clsHalves_lt), getCam_takePost]
      split <;> simp
  · intro hmissing
    rw [hmissing] at hrule
    exact ⟨answer_completes (f := id) hready hrule, fun h _ => getCam_takePost s.dev p h⟩

end Sys2Proof.Machine

/-! The policers of 12_sluice.md: POLICER_QUERY (R445). -/
namespace Sys2Proof.Machine

@[simp] theorem getPolicer_takePost (d : Dev) (p : Post) (n : Nat) : getPolicer (takePost d p) n = getPolicer d n := by
  simp only [getPolicer, takePost_policers]

/-- The poster may ask for the policer's record: it is the PF or the policer's owner (R445). -/
def mayQueryPolicer (d : Dev) (p : Post) : Prop :=
  (poster d p).val = 0 ∨ poster d p = (getPolicer d (dNat p 16 2)).owner

theorem mayQueryPolicer_takePost (d : Dev) (p : Post) : mayQueryPolicer (takePost d p) p ↔ mayQueryPolicer d p := by
  simp only [mayQueryPolicer, poster_takePost, getPolicer_takePost]

theorem policerQueryRule_of_may {p : Post} {d : Dev} (hn : dNat p 16 2 ≤ 1023) (hheader : dZero p 8 8 = true)
    (hzero : dZero p 18 22 = true) (htail : dZero p 48 16 = true) (hdest : dNat p 40 8 % 64 = 0)
    (hmay : mayQueryPolicer d p) :
    policerQueryRule p d = .plain .ok (hostWrite d (dNat p 40 8) (policerRecord (getPolicer d (dNat p 16 2)))) := by
  have hasker : ((poster d p).val != 0 && (getPolicer d (dNat p 16 2)).owner != poster d p) = false := by
    rcases hmay with hpf | howner
    · simp [hpf]
    · simp [← howner]
  simp [policerQueryRule, hheader, hzero, htail, hdest, hn.not_gt, hasker]

theorem policerQueryRule_of_stranger {p : Post} {d : Dev} (hmay : ¬ mayQueryPolicer d p) :
    policerQueryRule p d = .plain .badDescriptor d := by
  obtain ⟨hpf, howner⟩ := not_or.1 hmay
  have hasker : ((poster d p).val != 0 && (getPolicer d (dNat p 16 2)).owner != poster d p) = true := by
    simp [hpf, Ne.symm howner]
  simp only [policerQueryRule, hasker, Bool.or_true, if_true]

/-- Settles O38: the rule is split by whether the poster may ask; the record is its definition with `packetUnits` read as 2^20. -/
theorem policerQueryReports : Obligations.PolicerQueryReports := by
  refine ⟨?_, fun x => by simp only [policerRecord, packetUnits]⟩
  rintro s p _ hready rfl hn hheader hzero htail hdest
  constructor
  · intro hmay
    have hrule := policerQueryRule_of_may (d := takePost s.dev p) hn hheader hzero htail hdest
      ((mayQueryPolicer_takePost s.dev p).2 hmay)
    rw [getPolicer_takePost] at hrule
    exact answer_completes (f := fun d => hostWrite d (dNat p 40 8) (policerRecord (getPolicer s.dev (dNat p 16 2)))) hready hrule
  · intro hpf howner
    have hstranger : ¬ mayQueryPolicer s.dev p := not_or.2 ⟨hpf, howner⟩
    rw [← mayQueryPolicer_takePost] at hstranger
    exact answer_completes (f := id) hready (policerQueryRule_of_stranger hstranger)

end Sys2Proof.Machine

/-! The flash and power descriptors of 15_bringup.md, Table 15.6 (R524). -/
namespace Sys2Proof.Machine

/-! ## The checks before a descriptor's own -/

theorem flashHead_of_not_pf {d : Dev} {p : Post} (h : (poster d p).val ≠ 0) (addrs : List Nat) : flashHead d p addrs = false := by
  have hposter : (poster d p == 0) = false := beq_false_of_ne fun heq => h (congrArg Fin.val heq)
  simp only [flashHead, hposter, Bool.false_and]

@[simp] theorem flashHead_takePost (d : Dev) (p : Post) (addrs : List Nat) :
    flashHead (takePost d p) p addrs = flashHead d p addrs := by
  simp only [flashHead, poster_takePost]

/-! ## What each rule answers when these checks fail -/

theorem attest_of_badHead {p : Post} {d : Dev} (h : flashHead d p [32, 40] = false) : attest p d = .plain .badDescriptor d := by
  simp only [attest, h, Bool.not_false, if_true]

theorem jrnlRead_of_badHead {p : Post} {d : Dev} (h : flashHead d p [40] = false) : jrnlRead p d = .plain .badDescriptor d := by
  simp only [jrnlRead, h, Bool.not_false, if_true]

theorem optWrite_of_badHead {p : Post} {d : Dev} (readBackOk : Bool) (h : flashHead d p [32] = false) :
    optWrite p readBackOk d = .plain .badDescriptor d := by
  simp only [optWrite, h, Bool.not_false, if_true]

theorem fwWrite_of_badHead {p : Post} {d : Dev} (img : Image) (h : flashHead d p [32] = false) :
    fwWrite p img d = .plain .badDescriptor d := by
  simp only [fwWrite, h, Bool.not_false, Bool.true_or, if_true]

theorem pwrState_of_badHead {p : Post} {d : Dev} (h : flashHead d p [] = false) : pwrState p d = .plain .badDescriptor d := by
  simp only [pwrState, h, Bool.not_false, Bool.true_or, if_true]

/-! ## A write of LENGTH 0 -/

theorem optWrite_of_length_zero {p : Post} {d : Dev} (readBackOk : Bool) (hhead : flashHead d p [32] = true) (hlen : dNat p 20 4 = 0) :
    optWrite p readBackOk d = .plain .ok d := by
  simp [optWrite, hhead, hlen]

theorem fwWrite_of_length_zero {p : Post} {d : Dev} (img : Image) (hhead : flashHead d p [32] = true) (hslot : dNat p 16 1 ≤ 1)
    (hlen : dNat p 20 4 = 0) : fwWrite p img d = .plain .ok d := by
  simp [fwWrite, hhead, hlen, hslot.not_gt]

/-! ## The descriptors that wait for the flash -/

/-- Behind the gate of Table 15.2, a descriptor whose rule changes nothing completes once the flash can be reached. -/
theorem gated_completes {s : State} {p : Post} {op : Nat} {st : Status} {rule : Dev → Res} (hopen : flashOpen s.dev = true)
    (hready : ready s.dev p op = true) (hrule : rule (takePost s.dev p) = .plain st (takePost s.dev p)) :
    answer s (if flashOpen s.dev then perform op p rule s.dev else s.dev) = completes s p id st 0 0 := by
  rw [if_pos hopen]
  exact answer_completes (f := id) hready hrule

/-- Settles O39: a poster that is not the PF fails `flashHead`, the first check of every rule of Table 15.6; a write of LENGTH 0
answers before its rule looks at the lock, the block or image, or the read-back. -/
theorem flashDescriptorsFromPf : Obligations.FlashDescriptorsFromPf := by
  constructor
  · intro s p hvf hopen
    have hhead (addrs : List Nat) : flashHead (takePost s.dev p) p addrs = false :=
      (flashHead_takePost s.dev p addrs).trans (flashHead_of_not_pf hvf addrs)
    have hpwr := pwrState_of_badHead (hhead [])
    refine ⟨fun hready => ?attest, fun hready => ?jrnlRead, fun ok hready => ?optWrite, fun img hready => ?fwWrite,
      fun hready => ?dormant, fun hready => ?active⟩
    case attest => exact answer_completes (f := id) hready (attest_of_badHead (hhead [32, 40]))
    case jrnlRead => exact gated_completes hopen hready (jrnlRead_of_badHead (hhead [40]))
    case optWrite => exact gated_completes hopen hready (optWrite_of_badHead ok (hhead [32]))
    case fwWrite => exact gated_completes hopen hready (fwWrite_of_badHead img (hhead [32]))
    case dormant => exact answer_completes (f := id) hready hpwr
    case active => exact answer_completes (f := id) hready hpwr
  · intro s p hhead hlen hopen
    rw [← flashHead_takePost] at hhead
    constructor
    · intro ok hready
      exact gated_completes hopen hready (optWrite_of_length_zero ok hhead hlen)
    · intro img hslot hready
      exact gated_completes hopen hready (fwWrite_of_length_zero img hhead hslot hlen)

end Sys2Proof.Machine

/-! One step, the invariant that every step keeps, and the state after reset. -/
namespace Sys2Proof.Machine

theorem step_nil {s : State} (h : s.pending = []) : step s = .next (idleTick s) := by
  unfold step
  rw [h]

theorem step_cons {s : State} {c : Instr} {rest : List Instr} (h : s.pending = c :: rest) :
    step s = exec c { s with pending := rest } := by
  unfold step
  rw [h]

/-- Settles O1, by the two cases of the queue. -/
theorem stepPerformsFrontCommand : Obligations.StepPerformsFrontCommand :=
  ⟨fun _ _ => step_cons rfl, fun _ => step_nil⟩

/-- The idle tick touches nothing but the time counter. -/
theorem keep_idleTick {s : State} (h : keptD s.dev) : keptD (idleTick s).dev := by
  unfold idleTick
  split
  · exact kept_upd id id id id id h
  · exact h

theorem keep_step {s : State} (h : keptD s.dev) : keptOut (step s) := by
  cases hq : s.pending with
  | nil =>
    rw [step_nil hq]
    exact keptOut_next (keep_idleTick h)
  | cons c rest =>
    rw [step_cons hq]
    exact keep_exec h

/-- Settles O33: a step is the idle tick or the meaning of one command, and `keep_exec` says of each command that it keeps the
invariant. -/
theorem everyStepKeepsDevice : Obligations.EveryStepKeepsDevice := by
  intro s t hok hstep
  have hkeep : keptOut (step s) := keep_step hok
  rwa [hstep] at hkeep

/-- Settles O34: reset lists no byte, no partition, function or port, and no lock bit is set. -/
theorem resetMeetsInvariant : Obligations.ResetMeetsInvariant := by
  have hlocks : ∀ b < 5, locked State.reset.dev b = false := by decide
  exact ⟨rfl, rfl, hlocks, rfl, rfl, rfl, rfl, rfl, fun _ => rfl, fun _ _ => rfl, fun _ => rfl, rfl, rfl, rfl, rfl⟩

/-- Settles O41, register name by register name. -/
theorem wideRegisters : Obligations.WideRegisters := by
  intro r
  cases r <;> simp [regBytes]

end Sys2Proof.Machine

/-! The byte memories of 09_memory.md and the byte order of 00_scope.md R4. -/
namespace Sys2Proof.Machine

/-- Byte `i` of a list that is written reads at its own address. -/
theorem memGet_memWrite_at (bs : List Byte) (m : Mem) (a : Nat) {i : Nat} (hi : i < bs.length) :
    memGet (memWrite m a bs) (a + i) = bs.getD i 0 := by
  induction bs generalizing m a i with
  | nil => exact absurd hi (Nat.not_lt_zero i)
  | cons b bs ih =>
    cases i with
    | zero => exact (memGet_memWrite_other (memPut m a b) bs (.inl (Nat.lt_succ_self a))).trans (memGet_memPut_same m a b)
    | succ i =>
      have hnext : a + (i + 1) = a + 1 + i := by omega
      rw [hnext]
      exact ih (memPut m a b) (a + 1) (Nat.lt_of_succ_lt_succ hi)

/-- A number written in `n` bytes, least significant first, reads back modulo 256 to the `n`. -/
theorem leNat_leBytes (v n : Nat) : leNat (leBytes v n) = v % 256 ^ n := by
  induction n generalizing v with
  | zero => simp [leBytes, leNat, Nat.mod_one]
  | succ n ih =>
    have hbyte : (BitVec.ofNat 8 v).toNat = v % 256 := BitVec.toNat_ofNat v 8
    rw [leBytes, leNat, ih, hbyte, Nat.pow_succ', Nat.mod_mul]

/-- Settles O35: read-back by induction on the bytes; the frame and the canonical form are laws of the memories. -/
theorem memoryReadsBack : Obligations.MemoryReadsBack :=
  ⟨fun m a _ bs _ hi => memGet_memWrite_at bs m a hi, fun m _ _ bs _ hout => memGet_memWrite_other m bs hout,
    fun _ a bs hwf => wf_memWrite a bs hwf, leNat_leBytes⟩

end Sys2Proof.Machine

/-! The register writes of 16_registers.md: R541 to R552, with R106, R453 and R483. -/
namespace Sys2Proof.Machine

/-- The answer of a command whose meaning, on the device of the state, is the change `f`. -/
theorem answer_becomes {s : State} {d : Dev} {f : Dev → Dev} (h : d = f s.dev) : answer s d = becomes s f := by
  rw [h]
  rfl

/-- The answer of a command that changes nothing. -/
theorem answer_same {s : State} {d : Dev} (h : d = s.dev) : answer s d = .next s := by
  rw [h]
  rfl

/-! ## Which accesses a BAR takes -/

theorem accessOk_four {o : Nat} (h : o % 4 = 0) : accessOk o 4 = true := by simp [accessOk, h]

theorem accessOk_eight {o : Nat} (h : o % 8 = 0) : accessOk o 8 = true := by simp [accessOk, h]

theorem accessOk_misaligned {o size : Nat} (h : o % size ≠ 0) : accessOk o size = false := by simp [accessOk, h]

theorem accessOk_bad {o size : Nat} (h : (size ≠ 4 ∧ size ≠ 8) ∨ o % size ≠ 0) : accessOk o size = false := by
  rcases h with ⟨h4, h8⟩ | h
  · simp [accessOk, h4, h8]
  · exact accessOk_misaligned h

/-- An aligned write to the PF's open BAR reaches the map of Table 13.2. -/
theorem barWrite_pf {d : Dev} {o : Nat} {eight : Bool} (v : W64) (hopen : barOpen d 0 = true)
    (hok : accessOk o (if eight then 8 else 4) = true) : barWrite d 0 o eight v = writePf d o eight v := by
  simp [barWrite, hopen, hok]

theorem barWrite_misaligned {d : Dev} {f : Fn} {o : Nat} (v : W64) (hopen : barOpen d f = true) (ho : o % 8 ≠ 0) :
    barWrite d f o true v = badAccess d f o 8 true := by
  simp [barWrite, hopen, accessOk_misaligned ho]

theorem writePf_regs {d : Dev} {o : Nat} (eight : Bool) (v : W64) (h : o < 0x40000) : writePf d o eight v = writeRegs d o eight v := by
  simp only [writePf, h, if_true]

theorem writePf_alias {d : Dev} {a : Nat} (eight : Bool) (v : W64) (h : a < 0x800000) :
    writePf d (0x1000000 + a) eight v = writeAlias d a eight v := by
  have hlow : ¬ 0x1000000 + a < 0x40000 := by omega
  have hin : 0x1000000 ≤ 0x1000000 + a ∧ 0x1000000 + a < 0x1800000 := by omega
  simp only [writePf, if_neg hlow, if_pos hin, Nat.add_sub_cancel_left]

/-! ## A write to a plain register -/

/-- A plain register takes the fields written and sets nothing else off. -/
theorem regPut_plain {d : Dev} {r : RegName} (h : plainReg r = true) (mask val : BitVec 128) :
    regPut d r mask val = cfgSet d r (fieldsWritten d r mask val) := by
  cases r <;> simp only [plainReg, reduceCtorEq] at h <;> rfl

theorem regBytesPut_plain {d : Dev} {r : RegName} (h : plainReg r = true) (b n : Nat) (v : W64) :
    regBytesPut d r b n v = cfgSet d r
      (fieldsWritten d r (maskOf (8 * b) (8 * n)) (BitVec.ofNat 128 (v.toNat % 2 ^ (8 * n) * 2 ^ (8 * b)))) := by
  rw [← regPut_plain h]
  cases r <;> simp only [plainReg, reduceCtorEq] at h <;> rfl

theorem writeRegs_word {d : Dev} {o b : Nat} {r : RegName} (v : W64) (hreg : regAt o = some (r, b)) (hplain : plainReg r = true) :
    writeRegs d o false v = cfgSet d r
      (fieldsWritten d r (maskOf (8 * b) 32) (BitVec.ofNat 128 (v.toNat % 2 ^ 32 * 2 ^ (8 * b)))) := by
  have hlow : ((v.setWidth 32).setWidth 64).toNat % 2 ^ (8 * 4) = v.toNat % 2 ^ 32 := by
    simp only [BitVec.toNat_setWidth]
    omega
  simp only [writeRegs, writeWord, hreg, Bool.not_false, if_true, regBytesPut_plain hplain, hlow]

theorem writeRegs_eight {d : Dev} {o : Nat} {r : RegName} (v : W64) (hreg : regAt o = some (r, 0)) (hplain : plainReg r = true)
    (hwide : regBytes r = 8) :
    writeRegs d o true v = cfgSet d r (fieldsWritten d r (maskOf 0 64) (v.setWidth 128)) := by
  have hval : BitVec.ofNat 128 (v.toNat % 2 ^ (8 * 8) * 2 ^ (8 * 0)) = v.setWidth 128 := by
    apply BitVec.eq_of_toNat_eq
    simp only [BitVec.toNat_ofNat, BitVec.toNat_setWidth]
    omega
  simp only [writeRegs, hreg, hwide, Bool.not_true, regBytesPut_plain hplain, hval, le_refl, if_true, Bool.false_eq_true, if_false]

theorem writeRegs_unassigned {d : Dev} {o : Nat} (v : W64) (hreg : regAt o = none) : writeRegs d o false v = d := by
  simp only [writeRegs, writeWord, hreg, Bool.not_false, if_true]

/-- One bit of a plain register written through the window. -/
theorem writeAlias_plain {d : Dev} {a b : Nat} {r : RegName} (v : W64) (hreg : regAt (a / 128 * 4) = some (r, b))
    (hplain : plainReg r = true) :
    writeAlias d a false v = cfgSet d r (fieldsWritten d r (maskOf (8 * b + a / 4 % 32) 1)
      (BitVec.ofNat 128 (b2n (v.getLsbD 0) * 2 ^ (8 * b + a / 4 % 32)))) := by
  have hword : a / 4 / 32 * 4 = a / 128 * 4 := by omega
  rw [← regPut_plain hplain]
  simp only [writeAlias, aliasBit, hword, hreg, Bool.false_eq_true, if_false]
  cases r <;> simp only [plainReg, reduceCtorEq] at hplain <;> rfl

/-- Settles O10: each access is followed from the BAR to the register at its offset. -/
theorem registerWritesChangeFields : Obligations.RegisterWritesChangeFields := by
  refine ⟨?word, ?eight, ?unassigned, ?misaligned, ?invalid, ?aliased⟩
  case word =>
    intro s o b r v hopen ho halign hreg hplain
    exact answer_becomes <| (barWrite_pf v hopen (accessOk_four halign)).trans <| (writePf_regs false v ho).trans
      (writeRegs_word v hreg hplain)
  case eight =>
    intro s o r v hopen ho halign hreg hplain hwide
    exact answer_becomes <| (barWrite_pf v hopen (accessOk_eight halign)).trans <| (writePf_regs true v ho).trans
      (writeRegs_eight v hreg hplain hwide)
  case unassigned =>
    intro s o v hopen ho halign hreg
    exact answer_same <| (barWrite_pf v hopen (accessOk_four halign)).trans <| (writePf_regs false v ho).trans
      (writeRegs_unassigned v hreg)
  case misaligned =>
    intro s f o v hopen ho
    exact answer_becomes (barWrite_misaligned v hopen ho)
  case invalid =>
    intro s f o size hopen hbad
    have htaken : (barOpen s.dev f && !accessOk o size) = true := by rw [hopen, accessOk_bad hbad]; rfl
    exact ⟨answer_becomes (if_pos htaken), answer_becomes (if_pos htaken)⟩
  case aliased =>
    rintro s _ a b r v hopen rfl ha halign hreg hplain
    have hin : 0x1000000 ≤ 0x1000000 + a ∧ 0x1000000 + a < 0x1800000 := by omega
    have hword : (0x1000000 + a) % 4 = 0 := by omega
    exact answer_becomes <| (if_pos hin).trans <| (barWrite_pf v hopen (accessOk_four hword)).trans <|
      (writePf_alias false v ha).trans (writeAlias_plain v hreg hplain)

/-! ## Lock bits -/

/-- Bits set in all three copies are set in their majority. -/
theorem voteBits_or_same {w : Nat} (t : Tri (BitVec w)) (m : BitVec w) :
    voteBits ⟨t.a ||| m, t.b ||| m, t.c ||| m⟩ = voteBits t ||| m := by
  ext i hi
  simp only [voteBits, BitVec.getElem_or, BitVec.getElem_and]
  cases t.a[i] <;> cases t.b[i] <;> cases t.c[i] <;> cases m[i] <;> rfl

theorem locked_setLocks (d : Dev) (m : BitVec 5) (j : Nat) : locked (setLocks d m) j = (locked d j || m.getLsbD j) := by
  rw [locked, setLocks, voteBits_or_same, BitVec.getLsbD_or, locked]

theorem lockRow_open {s : State} (i : Nat) (hopen : barOpen s.dev 0 = true) :
    lockRow i s = .next { s with dev := setLocks s.dev (BitVec.ofNat 5 (2 ^ i)) } := by
  simp only [lockRow, hopen, if_true, answer_eq]

/-- The row of Table 16.2 that sets bit `i` of GLB_LOCK. -/
def lockInstr (i : Fin 5) : Instr :=
  match i with
  | 0 => .lockOptSet
  | 1 => .lockPartSet
  | 2 => .lockRouteSet
  | 3 => .lockKeysSet
  | 4 => .lockDebugSet

theorem exec_lockInstr (i : Fin 5) (s : State) : exec (lockInstr i) s = lockRow i.val s := by
  fin_cases i <;> rfl

/-! ## XPT_IP halves -/

theorem ipPut_locked {d : Dev} (h : lockRoute d = true) (n : Nat) (mask val : BitVec 128) : ipPut d n mask val = d := by
  simp only [ipPut, h, if_true]

theorem ipPut_low {d : Dev} (h : lockRoute d = false) (n : Nat) (v : W64) :
    ipPut d n (maskOf 0 64) (v.setWidth 128) = { d with ipHeld := tset d.ipHeld n v } := by
  have hhigh : (maskOf 0 64).extractLsb' 64 64 = 0 := by decide
  have hlow : (maskOf 0 64).extractLsb' 0 64 = BitVec.allOnes 64 := by decide
  have hval : (v.setWidth 128).extractLsb' 0 64 = v := by
    apply BitVec.eq_of_toNat_eq
    simp only [BitVec.extractLsb'_toNat, BitVec.toNat_setWidth, Nat.shiftRight_zero]
    omega
  have hones : ¬ BitVec.allOnes 64 = 0 := by decide
  simp only [ipPut, h, hhigh, hlow, hval, Bool.false_eq_true, if_false, if_true, if_neg hones, BitVec.not_allOnes,
    BitVec.and_zero, BitVec.and_allOnes, BitVec.zero_or]

theorem ipPut_high {d : Dev} (h : lockRoute d = false) (n : Nat) (v : W64) :
    ipPut d n (maskOf 64 64) (v ++ (0 : W64)) =
      { cfgSet d (.xptIp n) (v ++ tgetD d.ipHeld n ((cfgGet d (.xptIp n)).extractLsb' 0 64)) with
        ipHeld := tdel d.ipHeld n } := by
  have hhigh : (maskOf 64 64).extractLsb' 64 64 = BitVec.allOnes 64 := by decide
  have hval : (v ++ (0 : W64)).extractLsb' 64 64 = v := BitVec.extractLsb'_append_eq_left
  have hones : ¬ BitVec.allOnes 64 = 0 := by decide
  simp only [ipPut, h, hhigh, hval, Bool.false_eq_true, if_false, if_neg hones, BitVec.not_allOnes, BitVec.and_zero,
    BitVec.and_allOnes, BitVec.zero_or]

/-! ## Key loads -/

theorem keyCmd_refused {d : Dev} {n : Nat} (h : keyRefused d n = true) :
    keyCmd d n = { d with keys := tset d.keys n { getKey d n with refused := true }, keyData := 0 } := by
  simp only [keyCmd, h, if_true]

theorem keyCmd_loaded {d : Dev} {n : Nat} (h : keyRefused d n = false) :
    keyCmd d n = { d with
      keys := tset d.keys n { getKey d n with
        loaded := true
        key := if (getKey d n).gcm then (d.keyData.extractLsb' 0 256).setWidth 512 else d.keyData }
      keyData := 0 } := by
  simp only [keyCmd, h, Bool.false_eq_true, if_false]

/-- Settles O9: one lemma per kind of register; a lock bit that is set in all copies is set in their majority. -/
theorem locksKeysAndAlertAct : Obligations.LocksKeysAndAlertAct := by
  refine ⟨?lock, ?key, ?ipOpen, ?ipLocked, ?alert⟩
  case lock =>
    intro s i c hopen hc
    have hrow : exec c s = .next { s with dev := setLocks s.dev (BitVec.ofNat 5 (2 ^ i.val)) } := by
      have hci : c = lockInstr i := hc
      rw [hci, exec_lockInstr, lockRow_open i.val hopen]
    refine ⟨_, hrow, ?_, fun j hj => ?_, rfl⟩
    · have hbit : (BitVec.ofNat 5 (2 ^ i.val)).getLsbD i.val = true := by fin_cases i <;> rfl
      rw [locked_setLocks, hbit, Bool.or_true]
    · rw [locked_setLocks, hj, Bool.true_or]
  case key =>
    intro s n hopen
    exact ⟨fun href => answer_becomes ((if_pos hopen).trans (keyCmd_refused href)),
      fun href => answer_becomes ((if_pos hopen).trans (keyCmd_loaded href))⟩
  case ipOpen =>
    intro s n v hopen hlock
    exact ⟨answer_becomes ((if_pos hopen).trans (ipPut_low hlock n.val v)),
      answer_becomes ((if_pos hopen).trans (ipPut_high hlock n.val v))⟩
  case ipLocked =>
    intro s n v hopen hlock
    exact ⟨answer_same ((if_pos hopen).trans (ipPut_locked hlock n.val _ _)),
      answer_same ((if_pos hopen).trans (ipPut_locked hlock n.val _ _))⟩
  case alert =>
    intro s hopen
    exact ⟨answer_becomes (if_pos (by rw [hopen]; rfl)), answer_same (if_neg (by rw [hopen]; decide))⟩

end Sys2Proof.Machine

/-! Rings, doorbells, records and interrupts: 13_host.md R457 to R467, R475. -/
namespace Sys2Proof.Machine

/-! ## Setting a ring up and stopping it -/

/-- The ring `R` with the fields that a whole write of RING_CTL carries. -/
def ctlFields (R : RingSt) (ctl : W64) : RingSt :=
  { R with
    kind := ctl.extractLsb' 1 3, log2 := ctl.extractLsb' 4 5, cplRing := ctl.extractLsb' 10 9, vector := ctl.extractLsb' 32 12 }

theorem extractLsb'_or_one (ctl : W64) {lo : Nat} (w : Nat) (hlo : 0 < lo) : (ctl ||| 1).extractLsb' lo w = ctl.extractLsb' lo w := by
  ext i hi
  simp [hlo.ne']

theorem extractLsb'_allOnes {n lo w : Nat} (h : lo + w ≤ n) : (BitVec.allOnes n).extractLsb' lo w = BitVec.allOnes w := by
  ext i hi
  have hin : lo + i < n := by omega
  simp [hin]

/-- A whole write to the control register of a stopped ring with ENABLE set sets the ring up. -/
theorem ringCtlWrite_enable {d : Dev} {f : Fn} {r : Nat} (ctl : W64) (hr : r < ringCount f) (hstopped : (getRing d f r).enable = false) :
    ringCtlWrite d f r (BitVec.allOnes 64) (ctl ||| 1) = ringSetup d f r (ctlFields (getRing d f r) ctl) := by
  have hmask : (BitVec.allOnes 64).getLsbD 0 = true := by decide
  have hen : (ctl ||| 1).getLsbD 0 = true := by simp
  simp only [ringCtlWrite, hmask, hen, hstopped, if_neg (Nat.not_le.2 hr), if_true, Bool.false_eq_true, if_false,
    extractLsb'_allOnes (by omega : 1 + 3 ≤ 64), extractLsb'_allOnes (by omega : 4 + 5 ≤ 64),
    extractLsb'_allOnes (by omega : 10 + 9 ≤ 64), extractLsb'_allOnes (by omega : 32 + 12 ≤ 64), BitVec.not_allOnes,
    BitVec.and_zero, BitVec.and_allOnes, BitVec.zero_or, extractLsb'_or_one ctl _ (by omega : 0 < 1),
    extractLsb'_or_one ctl _ (by omega : 0 < 4), extractLsb'_or_one ctl _ (by omega : 0 < 10),
    extractLsb'_or_one ctl _ (by omega : 0 < 32)]
  rfl

theorem ringSetup_ok {d : Dev} {f : Fn} {r : Nat} {R : RingSt} (h : setupStatus d f r R = .ok) :
    ringSetup d f r R = setRing d f r { R with
      enable := true, setupErr := 0, fetched := 0, held := 0, done := 0, modPend := 0, modTimer := false, stalls := [],
      fails := [] } := by
  simp only [ringSetup, h]

theorem ringSetup_fails {d : Dev} {f : Fn} {r : Nat} {R : RingSt} (h : setupStatus d f r R ≠ .ok) :
    ringSetup d f r R = setRing d f r { R with enable := false, setupErr := statusCode (setupStatus d f r R) } := by
  unfold ringSetup
  split
  case h_1 heq => exact absurd heq h
  case h_2 => rfl

/-- A write of ENABLE 0 to a ring that runs stops it. -/
theorem ringCtlWrite_disable {d : Dev} {f : Fn} {r : Nat} (hr : r < ringCount f) (hruns : (getRing d f r).enable = true) :
    ringCtlWrite d f r 1 0 = ringStop d f r := by
  have hmask : (1 : W64).getLsbD 0 = true := by decide
  have hen : (0 : W64).getLsbD 0 = false := by decide
  simp only [ringCtlWrite, hmask, hen, hruns, if_neg (Nat.not_le.2 hr), if_true, Bool.false_eq_true, if_false]

theorem ringStop_free {d : Dev} {f : Fn} {r : Nat} (h : kindCompletion (getRing d f r).kind = true → cplBusy d f r = false) :
    ringStop d f r = setRing d f r { getRing d f r with enable := false } := by
  have hfree : (kindCompletion (getRing d f r).kind && cplBusy d f r) = false := by
    cases hk : kindCompletion (getRing d f r).kind with
    | false => rfl
    | true => rw [h hk]; rfl
  simp only [ringStop, hfree, Bool.false_eq_true, if_false]

/-! ## Doorbells -/

/-- A value of 32 bits has no bit above them. -/
theorem extractLsb'_high_zero {v : W64} (h : v.toNat < 2 ^ 32) : (v.extractLsb' 32 32 != 0) = false := by
  have hzero : v.extractLsb' 32 32 = 0 := by
    apply BitVec.eq_of_toNat_eq
    rw [BitVec.extractLsb'_toNat, Nat.shiftRight_eq_div_pow, Nat.div_eq_of_lt h]
    rfl
  rw [hzero]
  rfl

theorem doorbell_produced {d : Dev} {f : Fn} {r : Nat} {v : W64} (hopen : barOpen d f = true) (hr : r < ringCount f)
    (hen : (getRing d f r).enable = true) (hkind : kindSubmission (getRing d f r).kind = true) (hv : v.toNat < 2 ^ 32)
    (hfits : (v.setWidth 32 - (getRing d f r).fetched).toNat ≤ ringEntries (getRing d f r))
    (hfwd : ((getRing d f r).held - (getRing d f r).fetched).toNat ≤ (v.setWidth 32 - (getRing d f r).fetched).toNat) :
    doorbell d f r v = setRing d f r { getRing d f r with held := v.setWidth 32 } := by
  simp only [doorbell, hopen, hen, hkind, extractLsb'_high_zero hv, decide_eq_false (Nat.not_le.2 hr), if_neg (Nat.not_lt.2 hfits),
    if_neg (Nat.not_lt.2 hfwd), Bool.not_true, Bool.or_false, Bool.false_eq_true, if_false, if_true, ge_iff_le]

theorem doorbell_consumed {d : Dev} {f : Fn} {r : Nat} {v : W64} (hopen : barOpen d f = true) (hr : r < ringCount f)
    (hen : (getRing d f r).enable = true) (hkind : kindSubmission (getRing d f r).kind = false) (hv : v.toNat < 2 ^ 32)
    (hfits : ((getRing d f r).fetched - v.setWidth 32).toNat ≤ ringEntries (getRing d f r))
    (hfwd : ((getRing d f r).fetched - v.setWidth 32).toNat ≤ ((getRing d f r).fetched - (getRing d f r).held).toNat) :
    doorbell d f r v = setRing d f r { getRing d f r with held := v.setWidth 32 } := by
  simp only [doorbell, hopen, hen, hkind, extractLsb'_high_zero hv, decide_eq_false (Nat.not_le.2 hr), if_neg (Nat.not_lt.2 hfits),
    if_neg (Nat.not_lt.2 hfwd), Bool.not_true, Bool.or_false, Bool.false_eq_true, if_false, ge_iff_le]

/-- Settles O2: the control write is read field by field; each doorbell passes every check of R459. -/
theorem ringRegistersAct : Obligations.RingRegistersAct := by
  refine ⟨?enable, ?disable, ?produced, ?consumed⟩
  case enable =>
    rintro s fn ring ctl _ hopen hr hstopped rfl
    have hexec : exec (.ringEnable fn ring ctl) s = answer s (ringSetup s.dev fn ring (ctlFields (getRing s.dev fn ring) ctl)) :=
      congrArg (answer s) ((if_pos hopen).trans (ringCtlWrite_enable ctl hr hstopped))
    exact ⟨fun hok => hexec.trans (answer_becomes (ringSetup_ok hok)), fun hbad => hexec.trans (answer_becomes (ringSetup_fails hbad))⟩
  case disable =>
    intro s fn ring hopen hr hruns hfree
    exact answer_becomes <| (if_pos hopen).trans <| (ringCtlWrite_disable hr hruns).trans (ringStop_free hfree)
  case produced =>
    intro s fn ring value wrote hopen hr hen hkind hv hfits hfwd
    exact answer_becomes (doorbell_produced hopen hr hen hkind hv hfits hfwd)
  case consumed =>
    intro s fn ring value hopen hr hen hkind hv hfits hfwd
    exact answer_becomes (doorbell_consumed hopen hr hen hkind hv hfits hfwd)

/-! ## Records -/

theorem writeRecord_oldest {d : Dev} {f : Fn} {r : Nat} {c : CplRec} {rest : List CplRec} (hwait : (getRing d f r).waiting = c :: rest)
    (hen : (getRing d f r).enable = true) (hkind : kindCompletion (getRing d f r).kind = true) (hopen : hostOpen d f = true)
    (hroom : hasRoom (getRing d f r) = true) :
    writeRecord d f r =
      let R := getRing d f r
      let d1 := setRing { d with host := memWrite d.host (recordAddr R R.fetched) (cplBytes d R c) } f r
        { R with fetched := R.fetched + 1, waiting := rest }
      moderate (setRing d1 f c.ring { getRing d1 f c.ring with done := (getRing d1 f c.ring).done + 1 }) f r c.irq := by
  simp only [writeRecord, hwait, hen, hkind, hopen, hroom, Bool.and_self, if_true]

theorem postEvent_written {d : Dev} {f : Fn} {e : EventRec} {rest : List EventRec} {r : Nat} {R : RingSt}
    (hev : (getFn d f).events = e :: rest) (hring : eventRing d f = some (r, R)) (hopen : hostOpen d f = true) (hroom : hasRoom R = true) :
    postEvent d f =
      let d1 := setFn { d with host := memWrite d.host (recordAddr R R.fetched) (eventBytes d R e (getFn d f).evMark) } f
        { getFn d f with events := rest, evMark := false }
      moderate (setRing d1 f r { R with fetched := R.fetched + 1 }) f r false := by
  simp only [postEvent, hev, hring, hopen, hroom, Bool.not_true, Bool.false_eq_true, if_false]

theorem postEvent_full {d : Dev} {f : Fn} {e : EventRec} {rest : List EventRec} {r : Nat} {R : RingSt}
    (hev : (getFn d f).events = e :: rest) (hring : eventRing d f = some (r, R)) (hopen : hostOpen d f = true) (hroom : hasRoom R = false) :
    postEvent d f = loseEvent d f rest := by
  simp only [postEvent, hev, hring, hopen, hroom, Bool.not_true, Bool.not_false, Bool.false_eq_true, if_false, if_true]

theorem postEvent_noRing {d : Dev} {f : Fn} {e : EventRec} {rest : List EventRec} (hev : (getFn d f).events = e :: rest)
    (hring : eventRing d f = none) : postEvent d f = loseEvent d f rest := by
  simp only [postEvent, hev, hring]

/-! ## Interrupts -/

theorem modTimerEnd_running {d : Dev} {f : Fn} {r : Nat} (htimer : (getRing d f r).modTimer = true) (hen : (getRing d f r).enable = true) :
    modTimerEnd d f r =
      fireVector (setRing d f r { getRing d f r with modPend := 0, modTimer := false }) f (getRing d f r).vector.toNat := by
  simp only [modTimerEnd, htimer, hen, Bool.and_self, if_true]

theorem execMsixUnmask_masked {s : State} {f : Fn} {vec : Nat} (hvec : vec < vecCount f) (hfn : fnExists s.dev f = true)
    (hmasked : (getFn s.dev f).unmasked.contains vec = false) :
    execMsixUnmask f vec s = becomes s (fun d =>
      let d1 := setFn d f { getFn d f with unmasked := (getFn d f).unmasked ++ [vec], pendVec := (getFn d f).pendVec.erase vec }
      if (getFn d f).pendVec.contains vec then fireVector d1 f vec else d1) := by
  simp only [execMsixUnmask, hfn, hmasked, ge_iff_le, decide_eq_false (Nat.not_le.2 hvec), Bool.not_true, Bool.or_false,
    Bool.false_eq_true, if_false, answer_eq, becomes]

theorem execBusMasterEnable_off {s : State} {f : Fn} (hfn : fnExists s.dev f = true) (hrun : (getFn s.dev f).inReset = false) :
    execBusMasterEnable f false s = becomes s (fun d => setFn d f { getFn d f with busMaster := false }) := by
  simp only [execBusMasterEnable, hfn, hrun, Bool.not_true, Bool.not_false, Bool.or_false, Bool.false_eq_true, if_false, if_true,
    answer_eq, becomes]

theorem execBusMasterEnable_on {s : State} {f : Fn} (hfn : fnExists s.dev f = true) (hrun : (getFn s.dev f).inReset = false) :
    execBusMasterEnable f true s = becomes s (fun d =>
      ((getFn d f).pendVec.filter (fun v => (getFn d f).unmasked.contains v)).foldl (fun d v => fireVector d f v)
        (setFn d f { getFn d f with
          busMaster := true, pendVec := (getFn d f).pendVec.filter (fun v => !(getFn d f).unmasked.contains v) })) := by
  simp only [execBusMasterEnable, hfn, hrun, Bool.not_true, Bool.or_false, Bool.false_eq_true, if_false, answer_eq, becomes]

/-- Settles O3, row by row. -/
theorem recordsAndInterruptsAct : Obligations.RecordsAndInterruptsAct := by
  refine ⟨?record, ?event, ?noRing, ?timer, ?unmask, ?busMaster⟩
  case record =>
    intro s fn ring c rest hwait hen hkind hopen hroom
    exact answer_becomes (writeRecord_oldest hwait hen hkind hopen hroom)
  case event =>
    intro s fn e rest r R hev hring hopen
    exact ⟨fun hroom => answer_becomes (postEvent_written hev hring hopen hroom),
      fun hroom => answer_becomes (postEvent_full hev hring hopen hroom)⟩
  case noRing =>
    intro s fn e rest hev hring
    exact answer_becomes (postEvent_noRing hev hring)
  case timer =>
    intro s fn ring htimer hen
    exact answer_becomes (modTimerEnd_running htimer hen)
  case unmask =>
    intro s fn vec hvec hfn hmasked
    exact execMsixUnmask_masked hvec hfn hmasked
  case busMaster =>
    intro s fn hfn hrun
    exact ⟨execBusMasterEnable_off hfn hrun, execBusMasterEnable_on hfn hrun⟩

end Sys2Proof.Machine

/-! The clock, supply and thermal monitors: 15_bringup.md R513, R516, R519, 14_reliability.md R487, R488, 12_sluice.md R438. -/
namespace Sys2Proof.Machine

/-! ## Clocks -/

theorem domainBit_eq_six (m : Domain) : domainBit m = 6 ↔ m = .hclk := by
  cases m <;> simp [domainBit]

/-- A domain that is not fenced yet is fenced; with HCLK the PCIe link goes. -/
theorem loseDomain_unfenced {d : Dev} {m : Domain} (off : Bool) (h : d.boot.clkFenced.getLsbD (domainBit m) = false) :
    loseDomain d (domainBit m) off =
      if m = .hclk then linkLost (fenceDomain d (domainBit m) off) else fenceDomain d (domainBit m) off := by
  simp only [loseDomain, h, Bool.false_eq_true, if_false, domainBit_eq_six]

theorem lockLoss_ready {d : Dev} {i : Nat} (hlock : d.boot.clkLocked.getLsbD i = true) (hready : d.boot.phase = .ready) :
    lockLoss d i =
      loseDomain { d with boot := { d.boot with clkLocked := d.boot.clkLocked &&& ~~~(bit8 i) } } i (Config.lockLossCause i) := by
  have hheld : (d.boot.phase == .held) = false := by rw [hready]; rfl
  have hup : bringingUp d = false := by rw [bringingUp, hready]; rfl
  simp only [lockLoss, hlock, hheld, hup, Bool.not_true, Bool.false_eq_true, if_false]

theorem resetEvent_of_not_held {d : Dev} (h : d.boot.phase ≠ .held) : resetEvent d = deviceReset d := by
  simp only [resetEvent, beq_eq_false_iff_ne.2 h, Bool.false_eq_true, if_false]

theorem lockLoss_bringup {d : Dev} {i : Nat} (hlock : d.boot.clkLocked.getLsbD i = true) (hready : d.boot.phase ≠ .ready)
    (hheld : d.boot.phase ≠ .held) :
    lockLoss d i = deviceReset { d with boot := { d.boot with clkLocked := d.boot.clkLocked &&& ~~~(bit8 i) } } := by
  have hup : bringingUp d = true := by simp [bringingUp, hready, hheld]
  simp only [lockLoss, hlock, beq_eq_false_iff_ne.2 hheld, hup, Bool.not_true, Bool.false_eq_true, if_false, if_true]
  exact resetEvent_of_not_held hheld

/-! ## Supplies -/

theorem supplyTrip_ready {d : Dev} {rail : Nat} (mV : W16) (hmon : monEn d = true) (hready : d.boot.phase = .ready) :
    supplyTrip d rail mV =
      fenceRail (raise { d with
        pins := { d.pins with rails := d.pins.rails.set rail mV }
        health := { d.health with railTrip := tset d.health.railTrip rail d.tclk } } 0x0307 (unitOf 8 rail) mV.toNat) rail := by
  have hphase : (d.boot.phase == .ready) = true := by rw [hready]; rfl
  simp only [supplyTrip, hmon, hphase, Bool.not_true, Bool.false_eq_true, if_false, if_true]

theorem supplyTrip_bringup {d : Dev} {rail : Nat} (mV : W16) (hmon : monEn d = true) (hready : d.boot.phase ≠ .ready)
    (hheld : d.boot.phase ≠ .held) :
    supplyTrip d rail mV =
      let d1 := deviceReset { d with pins := { d.pins with rails := d.pins.rails.set rail mV } }
      { d1 with boot := { d1.boot with supplies := false } } := by
  have hreset : resetEvent { d with pins := { d.pins with rails := d.pins.rails.set rail mV } } =
      deviceReset { d with pins := { d.pins with rails := d.pins.rails.set rail mV } } := resetEvent_of_not_held hheld
  simp only [supplyTrip, hmon, beq_eq_false_iff_ne.2 hready, hreset, Bool.not_true, Bool.false_eq_true, if_false]

/-! ## Temperature -/

/-- The device with the readings of half `h` stored, and SMB_ALERT_N asserted when a sensor has passed 105 °C. -/
def sampled (d : Dev) (h : Nat) (readings : List (BitVec 16)) : Dev :=
  let sensors := d.pins.sensors.zipIdx.map (fun e => if e.2 / 8 = h then readings.getD (e.2 % 8) e.1 else e.1)
  { d with pins := { d.pins with
    sensors := sensors
    smbReleased := if sensors.any (fun v => decide (1050 < v.toInt)) && !d.pins.sensors.any (fun v => decide (1050 < v.toInt))
      then false else d.pins.smbReleased } }

/-- The model stores the readings first and releases the alert after. -/
theorem sampled_eq (d : Dev) (h : Nat) (readings : List (BitVec 16)) :
    (let d1 := { d with pins := { d.pins with
        sensors := d.pins.sensors.zipIdx.map (fun e => if e.2 / 8 = h then readings.getD (e.2 % 8) e.1 else e.1) } }
      if d1.pins.sensors.any (fun v => decide (1050 < v.toInt)) && !d.pins.sensors.any (fun v => decide (1050 < v.toInt))
      then { d1 with pins := { d1.pins with smbReleased := false } } else d1) = sampled d h readings := by
  unfold sampled
  dsimp only
  split <;> rfl

theorem camThrottle_sampled (d : Dev) (h k : Nat) (readings : List (BitVec 16)) :
    camThrottle (sampled d h readings) k = camThrottle d k := rfl

/-- A sample of a half with a live sensor, while the CAM's clock runs: the rate follows the hottest reading. -/
theorem thermalSample_live {d : Dev} {h i : Nat} {readings : List (BitVec 16)}
    (hhot : hottest (sampled d h readings) (liveSensors (sampled d h readings) h) = some i)
    (hclk : d.boot.clkReleased.getLsbD 2 = true) :
    thermalSample d h readings =
      let d1 := sampled d h readings
      let r := sensorAt d1 i
      let new := throttleNext (camThrottle d h) r
      let d2 := if new = camThrottle d h then d1 else raise (setThrottle d1 h new) 0x0401 (unitOf 0x0F i) new
      if 1050 < r ∧ (match hottest d (liveSensors d h) with | some j => sensorAt d j | none => 0) ≤ 1050
      then raise d2 0x0402 (unitOf 0x0F i) r.toNat else d2 := by
  have hstored := sampled_eq d h readings
  dsimp only at hstored
  simp only [thermalSample, hstored, hhot, hclk, Bool.not_true, Bool.false_eq_true, if_false, camThrottle_sampled] <;> rfl

/-- Settles O6, monitor by monitor. -/
theorem monitorsFenceOrReset : Obligations.MonitorsFenceOrReset := by
  refine ⟨?lock, ?clock, ?supply, ?thermal⟩
  case lock =>
    intro s m hlock
    exact ⟨fun hready hfence => answer_becomes ((lockLoss_ready hlock hready).trans (loseDomain_unfenced _ hfence)),
      fun hready hheld => answer_becomes (lockLoss_bringup hlock hready hheld)⟩
  case clock =>
    intro s m off hready hmon hfence
    have hacts : (s.dev.boot.phase == .ready && monEn s.dev) = true := by rw [hready, hmon]; rfl
    exact answer_becomes ((if_pos hacts).trans (loseDomain_unfenced off hfence))
  case supply =>
    intro s rail mV hmon
    exact ⟨fun hready => answer_becomes (supplyTrip_ready mV hmon hready),
      fun hready hheld => answer_becomes (supplyTrip_bringup mV hmon hready hheld)⟩
  case thermal =>
    rintro s h readings _ _ i rfl rfl hhot hclk
    exact answer_becomes (thermalSample_live hhot hclk)

end Sys2Proof.Machine

/-! The SMBus and JTAG commands: 17_package.md R560 to R562, Table 17.3. -/
namespace Sys2Proof.Machine

/-- Settles O11: a Block Read answers while the port is open; the JTAG rows are their own definitions, and a private instruction
turns on LOCK_DEBUG alone. -/
theorem managementPortsAnswer : Obligations.ManagementPortsAnswer := by
  refine ⟨?reads, ?alert, ?jtag, ?guarded⟩
  case reads =>
    intro s hopen
    exact ⟨answer_becomes (if_pos hopen), answer_becomes (if_pos hopen), answer_becomes (if_pos hopen),
      answer_becomes (if_pos hopen), answer_becomes (if_pos hopen), answer_becomes (if_pos hopen)⟩
  case alert =>
    intro s halert
    exact answer_becomes (if_pos halert)
  case jtag =>
    intro s pre
    exact ⟨rfl, rfl, rfl, rfl, rfl⟩
  case guarded =>
    intro s code
    exact ⟨fun hlock => if_pos hlock, fun hlock => if_neg (ne_true_of_eq_false hlock)⟩

end Sys2Proof.Machine

/-! The events of a link: 10_pod_fabric.md R343, R344, R355, Table 10.8. -/
namespace Sys2Proof.Machine

/-! ## Training and retraining -/

/-- A write of a new MODE (Table 10.8). -/
theorem writeMode_changed {d : Dev} {n mode : Nat} (hlock : lockRoute d = false) (hlegal : mode ≠ 3) (hnew : mode ≠ portMode d n) :
    writeMode d n mode =
      let d1 := cfgSet d (.portCtl n) ((cfgGet d (.portCtl n) &&& ~~~(3 : BitVec 128)) ||| BitVec.ofNat 128 mode)
      let d2 := setPort d1 n { portDown (getPort d n) with laneBad := 0 }
      if mode = 0 then (if (getPort d n).link = .down then d2 else raise d2 0x0101 (unitOf 2 n) 4) else startTraining d2 n := by
  simp only [writeMode, hlock, beq_eq_false_iff_ne.2 hlegal, beq_eq_false_iff_ne.2 hnew, Bool.or_self, Bool.false_eq_true, if_false,
    beq_iff_eq]
  rfl

theorem startTraining_starts {d : Dev} {n : Nat} (hfence : portFenced d n = false) (hmode : portMode d n ≠ 0)
    (hawake : d.boot.dormant = false) :
    startTraining d n =
      setPort d n { portDown (getPort d n) with link := .training, spare := cfgField d (.portCtl n) 3 3 } := by
  simp only [startTraining, hfence, beq_eq_false_iff_ne.2 hmode, hawake, Bool.or_self, Bool.false_eq_true, if_false]

theorem writeRetrain_up {d : Dev} {n : Nat} (h : (getPort d n).link = .up) : writeRetrain d n = startRetrain d n := by
  simp only [writeRetrain, h]

theorem writeRetrain_down {d : Dev} {n : Nat} (h : (getPort d n).link = .down) : writeRetrain d n = startTraining d n := by
  simp only [writeRetrain, h]

/-- An event of a port acts in the state of the link that Table 10.8 gives it. -/
theorem link_beq {d : Dev} {n : Nat} {l : LinkPhase} (h : (getPort d n).link = l) : ((getPort d n).link == l) = true := beq_iff_eq.2 h

theorem execTrainingLock_pod {s : State} {n : PortNo} (hlink : (getPort s.dev n.val).link = .training)
    (hmode : portMode s.dev n.val = 1) :
    execTrainingLock n s = becomes s (fun d =>
      sendHello (setPort d n.val { getPort d n.val with link := .hello, credits := [16, 0, 0, 0] }) n) := by
  simp only [execTrainingLock, bne, link_beq hlink, hmode, beq_self_eq_true, Bool.not_true, Bool.false_eq_true, if_false, if_true,
    answer_eq, becomes]

theorem execTrainingLock_ethernet {s : State} {n : PortNo} (hlink : (getPort s.dev n.val).link = .training)
    (hmode : portMode s.dev n.val = 2) :
    execTrainingLock n s = becomes s (fun d =>
      raise (setPort d n.val { getPort d n.val with link := .up }) 0x0102 (unitOf 2 n.val) 0) := by
  have hpod : (2 == 1) = false := rfl
  simp only [execTrainingLock, bne, link_beq hlink, hmode, hpod, Bool.not_true, Bool.false_eq_true, if_false, answer_eq, becomes, linkUp]

/-! ## HELLO -/

/-- The port after a HELLO has been read, before its checks (R355). -/
def helloRead (P : PortSt) (m : Hello) : PortSt :=
  { P with seen := true, peerSeen := P.peerSeen || m.seen, peerDev := m.dev.val, peerPod := m.pod.toNat }

theorem helloIn_passes {d : Dev} {n : Nat} {m : Hello} (hopen : helloOpen d n = true) (hcheck : helloCheck d m = 0)
    (hseen : m.seen = true) (hlink : (getPort d n).link ≠ .up) :
    helloIn d n m =
      let P := helloRead (getPort d n) m
      raise (setPort d n { P with link := .up, credits := [P.credits.getD 0 0, 160, 160, 224] }) 0x0102 (unitOf 2 n)
        (m.dev.val + 64 * m.pod.toNat) := by
  simp only [helloIn, helloRead, hopen, hcheck, hseen, beq_eq_false_iff_ne.2 hlink, bne_self_eq_false, Bool.not_true, Bool.and_false,
    Bool.or_self, Bool.false_eq_true, if_false]
  rfl

theorem helloIn_fails {d : Dev} {n : Nat} {m : Hello} (hopen : helloOpen d n = true) (hcheck : helloCheck d m ≠ 0)
    (hlink : (getPort d n).link ≠ .quarantined) :
    helloIn d n m =
      let P := helloRead (getPort d n) m
      raise (setPort d n { P with
        link := .quarantined, credits := [P.credits.getD 0 0, 0, 0, 0]
        queue := P.queue.filter (fun q => match q.item with | .cell c => c.vc == 0 | .frame _ => true) }) 0x0103 (unitOf 2 n)
        (helloCheck d m) := by
  simp only [helloIn, hopen, bne_iff_ne.2 hcheck, beq_eq_false_iff_ne.2 hlink, Bool.not_true, Bool.false_eq_true, if_false, if_true] <;>
    rfl

/-! ## Lanes -/

/-- The failure of a lane in use of an UP link without AUTOSPARE. -/
theorem laneFail_noSpare {d : Dev} {lane : Nat} (cause : Nat) (hlink : (getPort d (lane / 5)).link = .up)
    (hspare : (getPort d (lane / 5)).spare ≠ lane % 5) (hauto : cfgField d (.portCtl (lane / 5)) 2 1 = 0) :
    laneFail d lane cause =
      let d1 := markLane d (lane / 5) (lane % 5) cause
      raise (setPort d1 (lane / 5) (portDown (getPort d1 (lane / 5)))) 0x0101 (unitOf 2 (lane / 5)) 3 := by
  have hoff : (0 == 1) = false := rfl
  simp only [laneFail, beq_eq_false_iff_ne.2 hspare, bne, link_beq hlink, hauto, hoff, Bool.not_true, Bool.or_self, Bool.false_and,
    Bool.false_eq_true, if_false, linkDown]

/-- Settles O12, event by event of Table 10.8. -/
theorem linkEventsMovePorts : Obligations.LinkEventsMovePorts := by
  refine ⟨?mode, ?retrain, ?training, ?helloTimer, ?helloTimeout, ?hello, ?retraining, ?lane⟩
  case mode =>
    rintro s n mode _ hlock hlegal hnew rfl
    exact answer_becomes (writeMode_changed hlock hlegal hnew)
  case retrain =>
    intro s n
    refine ⟨fun hup => answer_becomes (writeRetrain_up hup), fun hdown hfence hmode hawake c hc => ?_⟩
    have hstart := startTraining_starts hfence hmode hawake
    rcases hc with rfl | rfl
    · exact answer_becomes ((writeRetrain_down hdown).trans hstart)
    · exact answer_becomes ((if_pos (link_beq hdown)).trans hstart)
  case training =>
    intro s n hlink
    exact ⟨execTrainingLock_pod hlink, execTrainingLock_ethernet hlink, answer_becomes (if_pos (link_beq hlink))⟩
  case helloTimer =>
    intro s n hopen hseen
    exact answer_becomes (if_pos (by rw [hopen, hseen]; rfl))
  case helloTimeout =>
    intro s n hlink
    exact answer_becomes (if_pos (link_beq hlink))
  case hello =>
    rintro s n m _ hopen rfl
    exact ⟨fun hcheck hseen hlink => answer_becomes (helloIn_passes hopen hcheck hseen hlink),
      fun hcheck hlink => answer_becomes (helloIn_fails hopen hcheck hlink)⟩
  case retraining =>
    intro s n hlink
    exact ⟨answer_becomes (if_pos (link_beq hlink)), answer_becomes (if_pos (link_beq hlink))⟩
  case lane =>
    intro s lane cause hlink hspare hauto
    exact answer_becomes (laneFail_noSpare cause hlink hspare hauto)

end Sys2Proof.Machine

/-! Cells: 10_pod_fabric.md R348, R351, R353, R358, R361 to R366. -/
namespace Sys2Proof.Machine

/-- The port after a sequenced cell that arrives in order (R351, R353). -/
def cellRead (P : PortSt) (c : Cell) : PortSt :=
  { linkIn P c with rxSeq := c.lseq.toNat, skip := false, owed := listMod (linkIn P c).owed c.vc.toNat (· + 1) }

/-- A valid cell in order on an UP link, of a source that is not lost, is forwarded or acted on. -/
theorem cellIn_inOrder {d : Dev} {n : Nat} {c : Cell} (hopen : cellsOpen d n = true) (hlink : (getPort d n).link = .up)
    (hseq : c.lseq.toNat = ((getPort d n).rxSeq + 1) % 4096) (hvalid : cellValid c = true) (hlost : isLost d c.src.val = false)
    (act : Dev → Cell → Dev) :
    cellIn act d n c =
      let d1 := setPort d n (cellRead (getPort d n) c)
      if c.dst != selfDev d then forward d1 n c else act d1 c := by
  have hinOrder : (c.lseq.toNat != ((getPort d n).rxSeq + 1) % 4096) = false := by rw [hseq, bne_self_eq_false]
  have hup : ((getPort d n).link != .up) = false := by rw [hlink, bne_self_eq_false]
  simp only [cellIn, hopen, hinOrder, hvalid, hup, hlost, Bool.not_true, Bool.or_self, Bool.false_and, Bool.false_eq_true, if_false]
  rfl

/-- The row of a cell's kind, for a cell addressed to this device. -/
theorem cellOf_home {d : Dev} {n : Nat} {c : Cell} {kind : Nat} (hkind : c.kind.toNat = kind) (hopen : cellsOpen d n = true)
    (hlink : (getPort d n).link = .up) (hseq : c.lseq.toNat = ((getPort d n).rxSeq + 1) % 4096) (hvalid : cellValid c = true)
    (hlost : isLost d c.src.val = false) (hdst : c.dst = selfDev d) (act : Dev → Cell → Dev) :
    cellOf kind act d n c = act (setPort d n (cellRead (getPort d n) c)) c := by
  have hhere : (c.dst != selfDev d) = false := by rw [hdst, bne_self_eq_false]
  simp only [cellOf, if_pos hkind, cellIn_inOrder hopen hlink hseq hvalid hlost, hhere, Bool.false_eq_true, if_false]

theorem forward_routed {d : Dev} {n : Nat} {c : Cell} {port key : Nat} (hhops : c.hops.toNat < 3)
    (hkey : key = if c.vc = 2 then c.txn.toNat else c.addr.toNat % 2 ^ 46 / 64)
    (hroute : pickPort d c.dst.val c.src.val c.engine.toNat c.tc.toNat key = some port) :
    forward d n c = egPush d port c.tc.toNat 64 (.cell { c with hops := c.hops + 1 }) := by
  subst hkey
  simp only [forward, if_neg (Nat.not_le.2 hhops), beq_iff_eq, hroute]

/-! ## Link-level retry -/

theorem execNak_acked {s : State} {n : PortNo} {lack : BitVec 12} (hopen : cellsOpen s.dev n.val = true)
    (hempty : (ackCells (getPort s.dev n.val) lack.toNat).replay = []) :
    execNak n lack s = becomes s (fun d => setPort d n.val (ackCells (getPort d n.val) lack.toNat)) := by
  simp only [execNak, hopen, hempty, List.isEmpty_nil, Bool.not_true, Bool.false_eq_true, if_false, if_true, answer_eq, becomes]

theorem execNak_replays {s : State} {n : PortNo} {lack : BitVec 12} (hopen : cellsOpen s.dev n.val = true)
    (hleft : (ackCells (getPort s.dev n.val) lack.toNat).replay ≠ []) (htries : (ackCells (getPort s.dev n.val) lack.toNat).tries < 15) :
    execNak n lack s = becomes s (fun d =>
      let P := ackCells (getPort d n.val) lack.toNat
      replayAll (setPort d n.val { P with tries := P.tries + 1 }) n.val) := by
  have hmore : (ackCells (getPort s.dev n.val) lack.toNat).replay.isEmpty = false := by simpa using hleft
  simp only [execNak, hopen, hmore, decide_eq_false (Nat.not_le.2 htries), Bool.not_true, Bool.false_and, Bool.false_eq_true, if_false,
    answer_eq, becomes]

/-- Settles O13: every sequenced cell passes the same checks; what is left is to say who acts on it. -/
theorem cellsArePerformedOrForwarded : Obligations.CellsArePerformedOrForwarded := by
  refine ⟨?cell, fun _ _ _ => rfl, ?idle, ?crc, ?nak⟩
  case cell =>
    rintro s n c _ hopen hlink hseq hvalid hlost rfl
    constructor
    · intro hdst
      have hact {kind : Nat} (act : Dev → Cell → Dev) (hkind : c.kind.toNat = kind) :=
        cellOf_home hkind hopen hlink hseq hvalid hlost hdst act
      exact ⟨fun hk => answer_becomes (hact (requestIn 1) (by rw [hk]; rfl)), fun hk => answer_becomes (hact (requestIn 2) (by rw [hk]; rfl)),
        fun hk => answer_becomes (hact (requestIn 3) (by rw [hk]; rfl)), fun hk => answer_becomes (hact responseIn (by rw [hk]; rfl)),
        fun hk => answer_becomes (hact responseIn (by rw [hk]; rfl)), fun hk => answer_becomes (hact responseIn (by rw [hk]; rfl))⟩
    · intro port key hdst hk0 hk7 hhops hkey hroute
      have hrow : (c.dst != selfDev s.dev && c.kind != 0 && c.kind != 7) = true := by
        simp only [bne_iff_ne.2 hdst, bne_iff_ne.2 hk0, bne_iff_ne.2 hk7, Bool.and_self]
      exact answer_becomes <| (if_pos hrow).trans <| (cellIn_inOrder hopen hlink hseq hvalid hlost _).trans <|
        (if_pos (bne_iff_ne.2 hdst)).trans (forward_routed hhops hkey hroute)
  case idle =>
    intro s n c hopen hkind hvalid
    exact answer_becomes (if_pos (by rw [hopen, hkind, hvalid]; rfl))
  case crc =>
    intro s n hopen
    exact ⟨fun hskip => answer_becomes (if_pos (by rw [hopen, hskip]; rfl)), fun hskip => answer_same (if_neg (by rw [hopen, hskip]; decide))⟩
  case nak =>
    rintro s n lack _ hopen rfl
    exact ⟨execNak_acked hopen, execNak_replays hopen⟩

end Sys2Proof.Machine

/-! Heartbeats, the egress turn, pod atomics, fences and replicated regions: 10_pod_fabric.md R356 to R371, 12_sluice.md R447. -/
namespace Sys2Proof.Machine

/-! ## Heartbeats and the aqueduct -/

/-- Sending one message for each element of a list. -/
theorem foldl_send {α : Type} (f : α → Sent) (l : List α) (d : Dev) :
    l.foldl (fun d i => send d (f i)) d = { d with out := d.out ++ l.map f } := by
  induction l generalizing d with
  | nil => simp
  | cons a l ih =>
    rw [List.foldl_cons, ih]
    simp [send]

theorem execAqueductCrcFailure_retry {s : State} (hfence : s.dev.health.aqFence = false) (hfew : s.dev.health.aqRetries < 15) :
    execAqueductCrcFailure s = becomes s (fun d =>
      charge { d with health := { d.health with aqRetries := d.health.aqRetries + 1 } } partDevice wAqRetry 1) := by
  have hmore : s.dev.health.aqRetries + 1 < 16 := by omega
  simp only [execAqueductCrcFailure, hfence, hmore, Bool.false_eq_true, if_false, if_true, answer_eq, becomes]

theorem execAqueductCrcFailure_fences {s : State} (hfence : s.dev.health.aqFence = false) (hlast : s.dev.health.aqRetries = 15) :
    execAqueductCrcFailure s = becomes s (fun d =>
      let d1 := charge { d with health := { d.health with aqRetries := 16 } } partDevice wAqRetry 1
      raise (assertAlert { d1 with health := { d1.health with aqFence := true } }) 0x0304 (unitOf 6 0) 16) := by
  simp only [execAqueductCrcFailure, hfence, hlast, Bool.false_eq_true, if_false, Nat.reduceAdd, lt_irrefl, answer_eq, becomes]

/-! ## The egress turn -/

theorem egressTurn_serves {d : Dev} {n cls t : Nat} {q : QItem} (hcls : pickClass (getPort d n).sched (eligible (getPort d n)) = some cls)
    (hten : pickTenant (getPort d n).sched (eligible (getPort d n)) cls = some t)
    (hitem : (eligible (getPort d n)).find? (fun q => q.cls == cls && q.tenant == t) = some q) :
    egressTurn d n =
      let rest := (getPort d n).queue.erase q
      let x := schedServe d n (getPort d n).sched cls t (rest.any (fun e => e.cls == cls))
        (rest.any (fun e => e.cls == cls && e.tenant == t))
      let d1 := setPort d n { getPort d n with queue := rest, sched := x }
      match q.item with
      | .cell c => cellOut d1 n c
      | .frame f => send d1 (.link n (.frame f)) := by
  simp only [egressTurn, hcls, hten, hitem] <;> rfl

/-! ## Pod operations -/

theorem execPodCompletionTimeout_found {s : State} {engine txn : W16} {op : PodOp} (h : findOp s.dev engine.toNat txn.toNat = some op) :
    execPodCompletionTimeout engine txn s = becomes s (fun d =>
      raise (podDone d op .targetLost []) 0x0105 (unitOf 0x0B op.dst.val) op.addr) := by
  simp only [execPodCompletionTimeout, h, answer_eq, becomes]

theorem podAtomicRule_issues {p : Post} {d : Dev} (h8 : dZero p 8 8 = true) (h18 : dZero p 18 6 = true) (h48 : dZero p 48 16 = true)
    (hname : mayName d (poster d p) (dNat p 16 1) = true) (haop : aopOk (dNat p 17 1) = true)
    (hcompare : dNat p 17 1 ≠ 7 → dZero p 40 8 = true) (halign : dNat p 24 8 % 8 = 0)
    (hcheck : podCheck d (getPart d (dNat p 16 1)) (dNat p 24 8) 8 true = none) :
    podAtomicRule p d = .later (podIssue d (poster d p) (engXfer (poster d p)) (reqTc d (dNat p 16 1)) ckAtomic (dNat p 24 8) 16
      (dNat p 17 1) (leBytes (dNat p 32 8) 8 ++ leBytes (dNat p 40 8) 8) (.atomic p)) := by
  have h40 : (dNat p 17 1 != 7 && !dZero p 40 8) = false := by
    by_cases h7 : dNat p 17 1 = 7
    · simp [h7]
    · simp [hcompare h7]
  simp only [podAtomicRule, h8, h18, h48, hname, haop, h40, halign, hcheck, bne_self_eq_false, Bool.not_true, Bool.or_self,
    Bool.false_eq_true, if_false]

/-- The stores and atomics of a function that are in flight. -/
def fencedOps (d : Dev) (f : Fn) : List PodOp := d.podOps.filter (fun o => o.fn == f && (o.kind == ckStore || o.kind == ckAtomic))

theorem podFenceRule_idle {p : Post} {d : Dev} (hzero : dZero p 8 56 = true) (hnone : fencedOps d (poster d p) = []) :
    podFenceRule p d = .plain .ok d := by
  rw [fencedOps] at hnone
  simp only [podFenceRule, hzero, hnone, List.isEmpty_nil, Bool.not_true, Bool.false_eq_true, if_false, if_true]

theorem podFenceRule_waits {p : Post} {d : Dev} (hzero : dZero p 8 56 = true) (hsome : fencedOps d (poster d p) ≠ []) :
    podFenceRule p d = .later { d with
      fences := d.fences ++ [⟨p, (fencedOps d (poster d p)).map (fun o => (o.engine, o.txn)), none⟩] } := by
  have hops : (fencedOps d (poster d p)).isEmpty = false := by simpa using hsome
  simp only [fencedOps] at hops
  simp only [podFenceRule, hzero, hops, Bool.not_true, Bool.false_eq_true, if_false, fencedOps]

theorem fencedOps_takePost (d : Dev) (p : Post) (f : Fn) : fencedOps (takePost d p) f = fencedOps d f := by
  simp only [fencedOps, takePost_podOps]

/-- Settles O14, service by service. -/
theorem fabricServicesAct : Obligations.FabricServicesAct := by
  refine ⟨?beatSend, ?beat, ?aqueduct, ?egress, ?timeout, ?atomic, ?fence⟩
  case beatSend =>
    intro s hawake hclk
    have hsends : (s.dev.boot.dormant || s.dev.boot.clkFenced.getLsbD 4) = false := by rw [hawake, hclk]; rfl
    exact answer_becomes ((if_neg (ne_true_of_eq_false hsends)).trans (foldl_send _ _ _))
  case beat =>
    intro s m hmember hlost
    exact answer_becomes (if_pos (by rw [hmember, hlost]; rfl))
  case aqueduct =>
    intro s hfence
    exact ⟨execAqueductCrcFailure_retry hfence, execAqueductCrcFailure_fences hfence⟩
  case egress =>
    rintro s n _ cls t q rfl hcls hten hitem
    exact answer_becomes (egressTurn_serves hcls hten hitem)
  case timeout =>
    intro s engine txn op hop
    exact execPodCompletionTimeout_found hop
  case atomic =>
    rintro s p _ hready rfl h8 h18 h48 hname haop hcompare halign hcheck
    exact answer_starts hready (podAtomicRule_issues h8 h18 h48 hname haop hcompare halign hcheck)
  case fence =>
    rintro s p _ hready hzero rfl
    have hops : fencedOps (takePost s.dev p) (poster (takePost s.dev p) p) = fencedOps s.dev (poster s.dev p) := by
      rw [fencedOps_takePost, poster_takePost]
    constructor
    · intro hnone
      exact answer_completes hready (podFenceRule_idle hzero (hops.trans hnone))
    · intro hsome
      have hrule := podFenceRule_waits (d := takePost s.dev p) hzero (by rwa [hops])
      rw [hops] at hrule
      exact answer_starts hready hrule

end Sys2Proof.Machine

/-! Replicated regions: 10_pod_fabric.md R368 to R371. -/
namespace Sys2Proof.Machine

/-! ## REPL_REGION -/

/-- The checks that both forms of REPL_REGION share (R368). -/
def replHeadOk (p : Post) (d : Dev) : Prop :=
  poster d p = 0 ∧ lockPart d = false ∧ dZero p 8 8 = true ∧ dNat p 16 1 ≤ 15 ∧ dZero p 18 2 = true ∧ dZero p 32 32 = true

theorem replRegionRule_defines {p : Post} {d : Dev} (hhead : replHeadOk p d) (hform : dNat p 17 1 = 0)
    (halign : dNat p 24 8 % pageSize = 0) (hsome : 0 < dNat p 20 4) (hmany : dNat p 20 4 ≤ 65536)
    (hend : dNat p 24 8 / pageSize + dNat p 20 4 ≤ devicePages) (hfree : tget d.repl (dNat p 16 1) = none)
    (hclear : runClear (takenRuns d) (dNat p 24 8 / pageSize) (dNat p 20 4) = true)
    (hhalf : crossesHalf (dNat p 24 8 / pageSize) (dNat p 20 4) = false) :
    replRegionRule p d = .plain .ok (podDigest { d with
      repl := tset d.repl (dNat p 16 1) ⟨dNat p 24 8, dNat p 20 4⟩, replVer := tset d.replVer (dNat p 16 1) 0
      hbm := memZeroRange d.hbm (dNat p 24 8) (dNat p 20 4 * pageSize) }) := by
  obtain ⟨hposter, hlock, h8, hregion, h18, h32⟩ := hhead
  simp [replRegionRule, hposter, hlock, h8, hregion.not_gt, h18, h32, hform, halign, hsome.ne', hmany.not_gt, hend.not_gt, hfree,
    hclear, hhalf]

theorem replRegionRule_removes {p : Post} {d : Dev} {g : ReplReg} (hhead : replHeadOk p d) (hform : dNat p 17 1 = 1)
    (hdef : tget d.repl (dNat p 16 1) = some g) (hunmapped : runMapped d (g.offset / pageSize) g.count = false) :
    replRegionRule p d = .plain .ok (podDigest { d with repl := tdel d.repl (dNat p 16 1) }) := by
  obtain ⟨hposter, hlock, h8, hregion, h18, h32⟩ := hhead
  simp [replRegionRule, hposter, hlock, h8, hregion.not_gt, h18, h32, hform, hdef, hunmapped]

/-! ## REPLICATE_UPDATE -/

/-- An admissible update joins the coordinator's queue here, or is sent to the coordinator (R370). -/
theorem replicateUpdateRule_posts {p : Post} {d : Dev} {g : ReplReg} (h8 : dZero p 8 8 = true) (hregion : dNat p 16 1 ≤ 15)
    (h17 : dZero p 17 1 = true) (hname : mayName d (poster d p) (dNat p 18 1) = true) (htier : dNat p 19 1 = 1 ∨ dNat p 19 1 = 3)
    (hsome : 0 < dNat p 20 4) (hmany : dNat p 20 4 ≤ 16777216) (hlen : dNat p 20 4 % 64 = 0) (hoff : dNat p 24 8 % 64 = 0)
    (haddr : dNat p 32 8 % 64 = 0) (h40 : dZero p 40 24 = true) (hdef : tget d.repl (dNat p 16 1) = some g)
    (hfits : dNat p 24 8 + dNat p 20 4 ≤ g.count * pageSize)
    (hrange : rangeOk d (getPart d (dNat p 18 1)) (dNat p 19 1) (dNat p 32 8) (dNat p 20 4) false true = true)
    (hgood : badIn d (getPart d (dNat p 18 1)) (dNat p 19 1) (dNat p 32 8) (dNat p 20 4) = []) :
    replicateUpdateRule p d = .later (
      let bytes := tierBytes d (getPart d (dNat p 18 1)) [] (dNat p 19 1) (dNat p 32 8) (dNat p 20 4)
      let d1 := { d with replTag := d.replTag + 1, replPosts := d.replPosts ++ [(d.replTag, p)] }
      if coordinator d = (selfDev d).val then replPush d1 (selfDev d) d.replTag (dNat p 16 1) (dNat p 24 8) bytes
      else send d1 (.replUpdate (devIx (coordinator d)) d.replTag (dNat p 16 1) (dNat p 24 8) bytes)) := by
  have htiers : (dNat p 19 1 == 1 || dNat p 19 1 == 3) = true := by simpa using htier
  simp only [replicateUpdateRule, h8, h17, hname, htiers, h40, hdef, hrange, hgood, hlen, hoff, haddr, decide_eq_false hregion.not_gt,
    decide_eq_false hmany.not_gt, beq_eq_false_iff_ne.2 hsome.ne', if_neg hfits.not_gt, bne_self_eq_false, Bool.not_true, Bool.or_self,
    Bool.false_eq_true, if_false, beq_iff_eq]
  split <;> rfl

/-! ## The messages of an update -/

theorem execReplCoordinatorUpdate_joins {s : State} {m : DevIx} {tag offset : Nat} {region : Fin 16} {bytes : List Byte}
    (hmember : isMember s.dev m.val = true) (hlost : isLost s.dev m.val = false) (hdef : (tget s.dev.repl region.val).isSome = true)
    (hhere : coordinator s.dev = (selfDev s.dev).val) :
    execReplCoordinatorUpdate m tag region offset bytes s = becomes s (fun d => replPush d m tag region.val offset bytes) := by
  have hnone : (tget s.dev.repl region.val).isNone = false := by rw [← Option.not_isSome, hdef]; rfl
  simp only [execReplCoordinatorUpdate, hmember, hlost, hnone, beq_iff_eq.2 hhere, Bool.not_true, Bool.or_self, Bool.false_eq_true,
    if_false, if_true, answer_eq, becomes]

theorem execReplCoordinatorUpdate_writes {s : State} {m : DevIx} {tag offset : Nat} {region : Fin 16} {bytes : List Byte}
    (hmember : isMember s.dev m.val = true) (hlost : isLost s.dev m.val = false) (hdef : (tget s.dev.repl region.val).isSome = true)
    (hthere : coordinator s.dev ≠ (selfDev s.dev).val) (hfrom : coordinator s.dev = m.val) :
    execReplCoordinatorUpdate m tag region offset bytes s = becomes s (fun d =>
      send (writeCopy d region.val offset bytes tag) (.replAck m region.val tag)) := by
  have hnone : (tget s.dev.repl region.val).isNone = false := by rw [← Option.not_isSome, hdef]; rfl
  simp only [execReplCoordinatorUpdate, hmember, hlost, hnone, beq_eq_false_iff_ne.2 hthere, beq_iff_eq.2 hfrom, Bool.not_true,
    Bool.or_self, Bool.false_eq_true, if_false, if_true, answer_eq, becomes]

theorem execReplMemberAck_next {s : State} {m : DevIx} {region : Fin 16} {v : W64} {u : ReplUpd} {rest : List ReplUpd}
    (hhere : coordinator s.dev = (selfDev s.dev).val) (hqueue : s.dev.replQueue = u :: rest) (hregion : u.region = region.val)
    (hversion : u.version = some v.toNat) :
    execReplMemberAck m region v s = becomes s (fun d => replNext d m.val false) := by
  simp only [execReplMemberAck, beq_iff_eq.2 hhere, hqueue, hregion, hversion, beq_self_eq_true, Bool.and_self, if_true, answer_eq,
    becomes]

theorem execReplMemberAck_own {s : State} {m : DevIx} {region : Fin 16} {v : W64} {tag : Nat} {p : Post} {rest : List (Nat × Post)}
    (hthere : coordinator s.dev ≠ (selfDev s.dev).val) (hfrom : coordinator s.dev = m.val) (hposts : s.dev.replPosts = (tag, p) :: rest) :
    execReplMemberAck m region v s = becomes s (fun d =>
      replFinish d tag v.toNat ((List.range 64).filter (fun i => isMember d i && isLost d i))) := by
  simp only [execReplMemberAck, beq_eq_false_iff_ne.2 hthere, beq_iff_eq.2 hfrom, hposts, Bool.false_eq_true, if_false, if_true,
    answer_eq, becomes]

/-- Settles O15, by the rules of the two descriptors and the two places of each message. -/
theorem replicatedRegionsAct : Obligations.ReplicatedRegionsAct := by
  refine ⟨?region, ?update, ?coordinator, ?ack, ?ownAck⟩
  case region =>
    rintro s p _ hready rfl hposter hlock h8 hregion h18 h32
    have hhead : replHeadOk p (takePost s.dev p) := ⟨hposter, hlock, h8, hregion, h18, h32⟩
    constructor
    · intro hform halign hsome hmany hend hfree hclear hhalf
      exact answer_completes hready (replRegionRule_defines hhead hform halign hsome hmany hend hfree hclear hhalf)
    · intro g hform hdef hunmapped
      exact answer_completes hready (replRegionRule_removes hhead hform hdef hunmapped)
  case update =>
    rintro s p _ _ g _ hready rfl rfl h8 hregion h17 hname htier hsome hmany hlen hoff haddr h40 hdef hfits hrange hgood rfl
    exact answer_starts hready
      (replicateUpdateRule_posts h8 hregion h17 hname htier hsome hmany hlen hoff haddr h40 hdef hfits hrange hgood)
  case coordinator =>
    intro s m tag offset region bytes hmember hlost hdef
    exact ⟨execReplCoordinatorUpdate_joins hmember hlost hdef, execReplCoordinatorUpdate_writes hmember hlost hdef⟩
  case ack =>
    intro s m region v u rest hhere hqueue hregion hversion
    exact execReplMemberAck_next hhere hqueue hregion hversion
  case ownAck =>
    intro s m region v tag p rest hthere hfrom hposts
    exact execReplMemberAck_own hthere hfrom hposts

end Sys2Proof.Machine

/-! Queue pairs, their operations and waits: 11_transport.md R379 to R384, R394 to R398, R403. -/
namespace Sys2Proof.Machine

/-! ## QP_CREATE -/

/-- The fields of a QP_CREATE of plain queue pairs that Table 11.2 admits. -/
structure QpCreateFields (p : Post) (d : Dev) : Prop where
  h11 : dZero p 11 5 = true
  h24 : dZero p 24 8 = true
  h40 : dZero p 40 24 = true
  owner : dNat p 17 1 ≤ 63
  place : dNat p 18 1 ≤ 1
  plain : dNat p 19 1 = 0
  device : dNat p 18 1 = 0 → dZero p 32 8 = true
  align : dNat p 32 8 % 256 = 0
  poster : (poster d p).val = 0 ∨ dNat p 17 1 = (poster d p).val
  part : dNat p 16 1 ≤ 63
  some : 0 < dNat p 20 4
  many : dNat p 20 4 ≤ 65536

theorem qpCreateRule_creates {p : Post} {d : Dev} (hf : QpCreateFields p d)
    (hrange : qpInRange d (fnId (dNat p 17 1)) (qpOf p) (dNat p 20 4) = true)
    (hfree : ∀ e ∈ d.qps, ¬ (qpOf p ≤ e.1 ∧ e.1 < qpOf p + dNat p 20 4)) (hpart : (getPart d (dNat p 16 1)).state ≠ .free)
    (howner : (getPart d (dNat p 16 1)).owner = fnId (dNat p 17 1)) (hroom : dNat p 18 1 = 0 → regionFits d (256 * dNat p 20 4) = true) :
    qpCreateRule p d = .plain .ok ((List.range (dNat p 20 4)).foldl (fun d i => setQp d (qpOf p + i)
      (QpSt.fresh (partId (dNat p 16 1)) (fnId (dNat p 17 1))
        (if dNat p 18 1 = 1 then some (BitVec.ofNat 64 (dNat p 32 8 + 256 * i)) else none) false)) d) := by
  have hposter : ((poster d p).val != 0 && dNat p 17 1 != (poster d p).val) = false := by
    rcases hf.poster with h | h <;> simp [h]
  have hdevice : (dNat p 18 1 == 0 && !dZero p 32 8) = false := by
    by_cases h : dNat p 18 1 = 0
    · simp [hf.device h]
    · simp [h]
  have hfits : (dNat p 18 1 == 0 && !regionFits d (256 * dNat p 20 4)) = false := by
    by_cases h : dNat p 18 1 = 0
    · simp [hroom h]
    · simp [h]
  have hnone : d.qps.any (fun e => decide (qpOf p ≤ e.1) && decide (e.1 < qpOf p + dNat p 20 4)) = false := by
    rw [List.any_eq_false]
    intro e he
    simpa using hfree e he
  simp only [qpCreateRule, hf.h11, hf.h24, hf.h40, hf.align, hf.plain, hposter, hdevice, hfits, hnone, hrange, howner,
    decide_eq_false hf.owner.not_gt, decide_eq_false hf.place.not_gt, decide_eq_false hf.part.not_gt, decide_eq_false hf.many.not_gt,
    if_neg hf.some.ne', beq_eq_false_iff_ne.2 hpart, bne_self_eq_false, Bool.not_true, Nat.zero_testBit, Bool.false_and, Bool.or_self,
    Bool.false_eq_true, if_false, decide_false, Nat.not_lt_zero]

/-! ## QP_CONNECT -/

/-- A plain queue pair connected: the descriptor's peer and settings, both streams fresh. -/
def connected (p : Post) (q : QpSt) : QpSt :=
  { q with
    state := .connected, dev := BitVec.ofNat 14 (dNat p 16 2), lport := dNat p 18 1, keyEn := (dNat p 19 1).testBit 0
    peer := BitVec.ofNat 24 (dNat p 20 3), tc := BitVec.ofNat 3 (dNat p 23 1), txPsn := BitVec.ofNat 32 (dNat p 24 4)
    rxPsn := BitVec.ofNat 32 (dNat p 28 4), ip := BitVec.ofNat 128 (dNat p 32 16), mtu := dNat p 48 1, keySlot := dNat p 49 1
    winInit := dNat p 50 2, window := dNat p 50 2, rto := dNat p 52 2, retryMax := dNat p 54 1, ackEvery := dNat p 55 1
    txMsn := 0, rxMsn := 0, pkts := [], msgs := [], marked := [], ops := [], waiting := [], err := .ok, errDet := 0
    winAck := 0, noHalve := none, retries := 0, rtoMul := 1, backoff := false, unacked := 0, ece := false, inj := none
    redHeld := [] }

theorem qpConnectRule_connects {p : Post} {d : Dev} {q : QpSt} (hhead : connectHead d p = true) (hwin : 0 < dNat p 50 2)
    (hq : getQp d (qpOf p) = some q) (hplain : q.towpath = false) (hranges : connectRanges d p q = true)
    (hstate : q.state = .idle ∨ q.state = .error ∨ (q.state = .connected ∧ q.ops = [])) :
    qpConnectRule p d = .plain .ok (setQp d (qpOf p) (connected p q)) := by
  have htakes : (q.state == .idle || q.state == .error || (q.state == .connected && q.ops.isEmpty)) = true := by
    rcases hstate with h | h | ⟨h, hops⟩
    · simp [h]
    · simp [h]
    · simp [h, hops]
  simp only [qpConnectRule, hhead, if_neg hwin.ne', hq, hplain, hranges, htakes, connected, Bool.not_true, Bool.or_self,
    Bool.false_eq_true, if_false]

/-! ## QP_DESTROY and QP_QUERY -/

/-- The numbers of the queue pairs of a descriptor's range. -/
def qpRun (p : Post) : List Nat := (List.range (dNat p 20 4)).map (fun i => qpOf p + i)

/-- QP_DESTROY past its checks: each queue pair of the range is destroyed, and the descriptor waits for those that drain (R382). -/
theorem qpDestroyRule_range {p : Post} {d : Dev} (h11 : dZero p 11 9 = true) (h24 : dZero p 24 40 = true) (hsome : 0 < dNat p 20 4)
    (hmany : dNat p 20 4 ≤ 65536) (hrange : qpInRange d (poster d p) (qpOf p) (dNat p 20 4) = true)
    (hall : ∀ i ∈ qpRun p, (getQp d i).isSome = true ∧ linkNames d i = false ∧ towNames d i = false) :
    qpDestroyRule p d =
      let d1 := (qpRun p).foldl qpDestroyOne d
      if (qpRun p).any (fun i => (getQp d1 i).isSome) then .later { d1 with qpDestroys := d1.qpDestroys ++ [(p, qpOf p, dNat p 20 4)] }
      else .plain .ok d1 := by
  have hgood : (qpRun p).any (fun i => (getQp d i).isNone || linkNames d i || towNames d i) = false := by
    rw [List.any_eq_false]
    intro i hi
    obtain ⟨hqp, hlink, htow⟩ := hall i hi
    simp [hlink, htow, Option.isSome_iff_ne_none.1 hqp]
  rw [qpRun] at hgood
  simp only [qpDestroyRule, qpRun, h11, h24, Nat.min_eq_left hmany, decide_eq_false hmany.not_gt, if_neg hsome.ne', hrange, hgood,
    Bool.not_true, Bool.or_self, Bool.false_eq_true, if_false]
  rfl

theorem qpQueryRule_writes {p : Post} {d : Dev} (h11 : dZero p 11 29 = true) (h48 : dZero p 48 16 = true) (halign : dNat p 40 8 % 64 = 0)
    (hrange : qpInRange d (poster d p) (qpOf p) 1 = true) :
    qpQueryRule p d = .plain .ok (hostWrite d (dNat p 40 8) (qpRecord d (qpOf p))) := by
  simp only [qpQueryRule, h11, h48, halign, hrange, bne_self_eq_false, Bool.not_true, Bool.or_self, Bool.false_eq_true, if_false]

/-- Settles O16, descriptor by descriptor. -/
theorem queuePairControlActs : Obligations.QueuePairControlActs := by
  refine ⟨?create, fun _ _ _ => ⟨rfl, rfl, rfl, rfl, rfl⟩, ?connect, ?destroy, ?query⟩
  case create =>
    rintro s p _ hready rfl h11 h24 h40 howner hplace hplain hdevice halign hposter hpart hsome hmany hrange hfree hstate hpartOwner hroom
    exact answer_completes hready <| qpCreateRule_creates
      ⟨h11, h24, h40, howner, hplace, hplain, hdevice, halign, hposter, hpart, hsome, hmany⟩ hrange hfree hstate hpartOwner hroom
  case connect =>
    rintro s p _ q hready rfl hhead hwin hq hplain hranges hstate
    exact answer_completes (f := fun d => setQp d (qpOf p) (connected p q)) hready
      (qpConnectRule_connects hhead hwin hq hplain hranges hstate)
  case destroy =>
    rintro s p _ _ qs hready rfl h11 h24 hsome hmany hrange hqs hall rfl
    obtain rfl : qs = qpRun p := hqs
    have hrule := qpDestroyRule_range h11 h24 hsome hmany hrange hall
    constructor
    · intro hgone
      have hnone : (qpRun p).any (fun i => (getQp ((qpRun p).foldl qpDestroyOne (takePost s.dev p)) i).isSome) = false := by
        rw [List.any_eq_false]
        intro i hi
        simpa using hgone i hi
      exact answer_completes (f := fun _ => (qpRun p).foldl qpDestroyOne (takePost s.dev p)) hready
        (hrule.trans (if_neg (ne_true_of_eq_false hnone)))
    · intro hleft
      have hsomeLeft : (qpRun p).any (fun i => (getQp ((qpRun p).foldl qpDestroyOne (takePost s.dev p)) i).isSome) = true :=
        List.any_eq_true.2 hleft
      exact answer_starts (f := fun _ =>
        let d1 := (qpRun p).foldl qpDestroyOne (takePost s.dev p)
        { d1 with qpDestroys := d1.qpDestroys ++ [(p, qpOf p, dNat p 20 4)] }) hready (hrule.trans (if_pos hsomeLeft))
  case query =>
    rintro s p _ hready rfl h11 h48 halign hrange
    exact answer_completes (f := fun d => hostWrite d (dNat p 40 8) (qpRecord d (qpOf p))) hready
      (qpQueryRule_writes h11 h48 halign hrange)

/-! ## PUT, GET, ATOMIC and SIGNAL -/

/-- An admissible operation on a CONNECTED queue pair to another device joins its send stream (R394). -/
theorem xptRule_joins {op : Nat} {p : Post} {d : Dev} {q : QpSt} (hfields : xFieldsOk op p = true)
    (hrange : qpInRange d (poster d p) (qpOf p) 1 = true) (hq : getQp d (qpOf p) = some q) (howner : q.owner = poster d p)
    (hpart : q.part.val = dNat p 16 1) (hlocal : xLocalOk d op p (getPart d q.part.val) = true) (hlen : xLen p ≤ 2 ^ 30)
    (hstate : q.state = .connected) (hroom : (q.ops.filter (fun o => o.post.isSome)).length < 256)
    (hkey : q.keyEn = true → keyUsable d (.line q.keySlot) = true) (hmsn : q.txMsn < 2 ^ 56) (hfar : q.dev.toNat ≠ selfSys d)
    (hresult : (xMessage d op p (getPart d q.part.val)).result = none) :
    xptRule op p d = .later (settleQp (pump (wantCtx (touchQp (pushOp d (qpOf p) (xMessage d op p (getPart d q.part.val))) (qpOf p))
      (qpOf p)) (qpOf p)) (qpOf p)) := by
  have hkeys : (q.keyEn && !keyUsable d (.line q.keySlot)) = false := by
    cases hen : q.keyEn with
    | false => rfl
    | true => rw [hkey hen]; rfl
  have hopen : xClosed q d = none := by simp only [xClosed, hstate]
  rw [hpart] at hlocal hresult
  simp only [xptRule, hfields, hrange, hq, howner, hpart, hlocal, hopen, hkeys, hresult, decide_eq_false hlen.not_gt,
    if_neg hroom.not_ge, decide_eq_false hmsn.not_ge, if_neg hfar, bne_self_eq_false, Bool.not_true, Bool.false_and, Bool.or_self,
    Bool.false_eq_true, if_false]

theorem xMessage_post (d : Dev) (op : Nat) (p : Post) (x : PartSt) : (xMessage d op p x).post = some p := by
  unfold xMessage
  dsimp only
  repeat' split
  all_goals rfl

theorem xMessage_get (d : Dev) {p : Post} (x : PartSt) (hlen : xLen p ≠ 0) :
    (xMessage d 0x0611 p x).kind = .getReq ∧
      (xMessage d 0x0611 p x).bytes = leBytes (xLocal p) 8 ++ leBytes (xLen p) 4 ++ leBytes 0 4 := by
  simp only [xMessage, if_neg hlen, and_self]

/-! ## QP_WAIT -/

/-- QP_WAIT past its checks, on a queue pair that counts (R403). -/
theorem qpWaitRule_open {p : Post} {d : Dev} {q : QpSt} (hfields : xFieldsOk 0x0614 p = true)
    (hrange : qpInRange d (poster d p) (waitQp p) 1 = true) (hsource : waitSource p < 2) (hq : getQp d (waitQp p) = some q)
    (howner : q.owner = poster d p) (hstate : q.state = .connected ∨ q.state = .idle) :
    qpWaitRule p d =
      if dNat p 40 8 ≤ waitCount d (poster d p) p then .plain .ok d
      else
        match p.src with
        | .step .. => .plain .badDescriptor d
        | .ring g r idx =>
          .later (setRing d g r { getRing d g r with qpWait := some ⟨p, idx⟩, stalls := .qpWait :: (getRing d g r).stalls }) := by
  have hdrain : (q.state == .draining) = false := by rcases hstate with h | h <;> rw [h] <;> rfl
  have herror : (q.state == .error) = false := by rcases hstate with h | h <;> rw [h] <;> rfl
  simp only [qpWaitRule, hfields, hrange, beq_eq_false_iff_ne.2 hsource.ne, if_neg hsource.ne, hq, howner, hdrain, herror,
    bne_self_eq_false, Bool.not_true, Bool.false_and, Bool.or_self, Bool.false_eq_true, if_false] <;> rfl

theorem execQpWaitSatisfied_reached {s : State} {f : Fn} {r : Nat} {w : QpWaitSt} (hwait : (getRing s.dev f r).qpWait = some w)
    (hcount : dNat w.post 40 8 ≤ waitCount s.dev f w.post) :
    execQpWaitSatisfied f r s = becomes s (fun d => endWait d f r w .ok) := by
  simp only [execQpWaitSatisfied, hwait, if_pos hcount, answer_eq, becomes]

theorem execQpWaitTimeout_bounded {s : State} {f : Fn} {r : Nat} {w : QpWaitSt} (hwait : (getRing s.dev f r).qpWait = some w)
    (hbound : dNat w.post 56 4 ≠ 0) : execQpWaitTimeout f r s = becomes s (fun d => endWait d f r w .remoteTimeout) := by
  simp only [execQpWaitTimeout, hwait, if_neg hbound, answer_eq, becomes]

/-- Settles O17: the four operations are one rule; a wait is decided by its count. -/
theorem transportOperationsStart : Obligations.TransportOperationsStart := by
  refine ⟨?ops, ?message, ?wait, ?ends, ?endWait⟩
  case ops =>
    rintro s op c p _ q _ _ hmem hready rfl hfields hrange hq rfl howner hpart hlocal hlen hstate hroom hkey hmsn hfar rfl hresult
    have hrule := xptRule_joins hfields hrange hq howner hpart hlocal hlen hstate hroom hkey hmsn hfar hresult
    have hexec : exec c s = answer s (perform op p (xptRule op p) s.dev) := by
      simp only [List.mem_cons, Prod.mk.injEq, List.not_mem_nil, or_false] at hmem
      rcases hmem with ⟨rfl, rfl⟩ | ⟨rfl, rfl⟩ | ⟨rfl, rfl⟩ | ⟨rfl, rfl⟩ <;> rfl
    rw [hexec]
    exact answer_starts (f := fun d => settleQp (pump (wantCtx (touchQp (pushOp d (qpOf p)
      (xMessage (takePost s.dev p) op p (getPart (takePost s.dev p) q.part.val))) (qpOf p)) (qpOf p)) (qpOf p)) (qpOf p)) hready hrule
  case message =>
    intro d op p x
    refine ⟨xMessage_post d op p x, ?_, ?_, ?_⟩
    · rintro rfl hlen
      exact xMessage_get d x hlen
    · rintro rfl
      rfl
    · rintro rfl
      rfl
  case wait =>
    rintro s p _ q hready rfl hfields hrange hsource hq howner hstate
    have hrule := qpWaitRule_open hfields hrange hsource hq howner hstate
    constructor
    · intro hreached
      exact answer_completes (f := id) hready (hrule.trans (if_pos hreached))
    · intro f r idx hsrc hshort
      rw [if_neg hshort.not_ge, hsrc] at hrule
      exact answer_starts (f := fun d => setRing d f r { getRing d f r with
        qpWait := some ⟨p, idx⟩, stalls := .qpWait :: (getRing d f r).stalls }) hready hrule
  case ends =>
    intro s fn ring w hwait
    exact ⟨execQpWaitSatisfied_reached hwait, execQpWaitTimeout_bounded hwait⟩
  case endWait =>
    intro d f r w st
    rfl

end Sys2Proof.Machine

/-! Packets and the transport's timers: 11_transport.md R400 to R415. -/
namespace Sys2Proof.Machine

/-! ## A packet at a cached context -/

/-- A packet of the peer of a queue pair whose context is cached is taken there, a message packet only under a usable key. -/
theorem rxPacket_cached {d : Dev} {r : RxPkt} {q : QpSt} (hpeer : fromPeer d r.pkt.hdr = some q) (hcached : q.resident = true)
    (husable : isMessage r.pkt.kind = true → q.keyEn = true → keyUsable d (.line q.keySlot) = true) :
    rxPacket d r = packetIn d r.pkt.hdr.dstQp.toNat r := by
  have hkey : (isMessage r.pkt.kind && !(!q.keyEn || keyUsable d (.line q.keySlot))) = false := by
    cases hmsg : isMessage r.pkt.kind with
    | false => rfl
    | true =>
      cases hen : q.keyEn with
      | false => rfl
      | true => rw [husable hmsg hen]; rfl
  simp only [rxPacket, hpeer, hkey, hcached, Bool.false_eq_true, if_false, if_true]

theorem packetIn_message {d : Dev} {qn : Nat} {r : RxPkt} {q : QpSt} (hq : getQp (touchQp d qn) qn = some q)
    (hmsg : isMessage r.pkt.kind = true) : packetIn d qn r = messageIn (touchQp d qn) qn q r := by
  simp only [packetIn, hq]
  cases hk : r.pkt.kind <;> simp only [hk, isMessage, Bool.false_eq_true] at hmsg <;> rfl

/-- A message packet at a cached context goes to the receive stream. -/
theorem rowPacket_message {s : State} {kind : PKind} {k : PktHdr} {pay : List Byte} {ce tag : Bool} {q q' : QpSt}
    (hmsg : isMessage kind = true) (hpeer : fromPeer s.dev k = some q) (hcached : q.resident = true)
    (husable : q.keyEn = true → keyUsable s.dev (.line q.keySlot) = true)
    (hq : getQp (touchQp s.dev k.dstQp.toNat) k.dstQp.toNat = some q') :
    rowPacket kind k pay ce tag none s = becomes s (fun d =>
      messageIn (touchQp d k.dstQp.toNat) k.dstQp.toNat q' ⟨⟨kind, k, pay⟩, ce, tag, none⟩) :=
  answer_becomes ((rxPacket_cached hpeer hcached fun _ => husable).trans (packetIn_message hq hmsg))

/-- A control packet at a cached context is taken whatever the key. -/
theorem rowPacket_control {s : State} {kind : PKind} {k : PktHdr} {pay : List Byte} {ce tag : Bool} {q : QpSt}
    (hctl : isMessage kind = false) (hpeer : fromPeer s.dev k = some q) (hcached : q.resident = true) :
    rowPacket kind k pay ce tag none s = becomes s (fun d => packetIn d k.dstQp.toNat ⟨⟨kind, k, pay⟩, ce, tag, none⟩) :=
  answer_becomes (rxPacket_cached hpeer hcached fun hmsg => absurd hmsg (ne_true_of_eq_false hctl))

/-! ## The window of the receive stream -/

/-- A packet already received only draws an ACK. -/
theorem messageIn_stale {d : Dev} {qn : Nat} {q : QpSt} {r : RxPkt}
    (h : 2 ^ 31 ≤ (r.pkt.hdr.psn - q.rxPsn).toNat ∨ q.marked.contains r.pkt.hdr.psn = true) :
    messageIn d qn q r = sendAck (setQp d qn { q with ece := q.ece || r.ce }) qn := by
  have hstale : (decide (2 ^ 31 ≤ (r.pkt.hdr.psn - q.rxPsn).toNat) || q.marked.contains r.pkt.hdr.psn) = true := by simpa using h
  simp only [messageIn, hstale, if_true]

/-- A packet 4,096 or more beyond the lowest missing one is dropped and counted. -/
theorem messageIn_beyond {d : Dev} {qn : Nat} {q : QpSt} {r : RxPkt} (hfar : 4096 ≤ (r.pkt.hdr.psn - q.rxPsn).toNat)
    (hnew : (r.pkt.hdr.psn - q.rxPsn).toNat < 2 ^ 31) (hunmarked : q.marked.contains r.pkt.hdr.psn = false) :
    messageIn d qn q r = sendAck (xptAdd (setQp d qn { q with ece := q.ece || r.ce }) 2 (qpHalf qn)) qn := by
  have hfresh : (decide (2 ^ 31 ≤ (r.pkt.hdr.psn - q.rxPsn).toNat) || q.marked.contains r.pkt.hdr.psn) = false := by
    rw [decide_eq_false hnew.not_ge, hunmarked]
    rfl
  simp only [messageIn, hfresh, if_pos hfar, Bool.false_eq_true, if_false]

/-! ## Timers and the context fetch -/

theorem execBackoffEnd_held {s : State} {qp : BitVec 24} {q : QpSt} (hq : getQp s.dev qp.toNat = some q) (hback : q.backoff = true) :
    execBackoffEnd qp s = becomes s (fun d =>
      pump ((q.pkts.filter (·.held)).foldl (fun d p => resendPkt d qp.toNat p.pkt.hdr.psn)
        (setQp d qp.toNat { q with backoff := false })) qp.toNat) := by
  simp only [execBackoffEnd, hq, hback, Bool.not_true, Bool.false_eq_true, if_false, answer_eq, becomes]

theorem execAckTimer_owed {s : State} {qp : BitVec 24} {q : QpSt} (hq : getQp s.dev qp.toNat = some q) (howed : 0 < q.unacked) :
    execAckTimer qp s = becomes s (fun d => sendAck d qp.toNat) := by
  simp only [execAckTimer, hq, if_pos howed, answer_eq, becomes]

theorem execRtoExpiry_resends {s : State} {qp : BitVec 24} {q : QpSt} {p : SentPkt} {rest : List SentPkt}
    (hq : getQp s.dev qp.toNat = some q) (hpkts : q.pkts = p :: rest) (hback : q.backoff = false)
    (hred : q.redHeld.contains p.pkt.hdr.psn = false) (htries : q.retries < q.retryMax) :
    execRtoExpiry qp s = becomes s (fun d =>
      resendPkt (setQp d qp.toNat { q with retries := q.retries + 1, rtoMul := min 64 (2 * q.rtoMul) }) qp.toNat p.pkt.hdr.psn) := by
  have hmore : ¬ q.retryMax < q.retries + 1 := by omega
  simp only [execRtoExpiry, hq, hpkts, hback, hred, if_neg hmore, Bool.or_self, Bool.false_eq_true, if_false, answer_eq, becomes]

theorem execRtoExpiry_gives_up {s : State} {qp : BitVec 24} {q : QpSt} {p : SentPkt} {rest : List SentPkt}
    (hq : getQp s.dev qp.toNat = some q) (hpkts : q.pkts = p :: rest) (hback : q.backoff = false)
    (hred : q.redHeld.contains p.pkt.hdr.psn = false) (hlast : q.retries = q.retryMax) :
    execRtoExpiry qp s = becomes s (fun d => qpError d qp.toNat .remoteTimeout p.pkt.hdr.psn.toNat) := by
  have hpassed : q.retryMax < q.retries + 1 := by omega
  simp only [execRtoExpiry, hq, hpkts, hback, hred, if_pos hpassed, Bool.or_self, Bool.false_eq_true, if_false, answer_eq, becomes]

theorem execContextFetchDone_installs {s : State} {qp : BitVec 24} {q : QpSt} {d1 : Dev} (hq : getQp s.dev qp.toNat = some q)
    (hfetch : q.fetching = true) (hroom : makeRoom s.dev (qpHalf qp.toNat) = some d1) :
    execContextFetchDone qp s = becomes s (fun _ =>
      pump (q.waiting.foldl (fun d r => packetIn d qp.toNat r) (touchQp (setQp d1 qp.toNat
        { classifyQp d1 { q with inj := none } qp.toNat with resident := true, fetching := false, waiting := [] }) qp.toNat))
        qp.toNat) := by
  simp only [execContextFetchDone, hq, hfetch, hroom, Bool.not_true, Bool.false_eq_true, if_false, answer_eq, becomes]

/-- Settles O18: six rows give message packets and three control packets; each is taken by the stream of its kind. -/
theorem packetsReachTheirQueuePair : Obligations.PacketsReachTheirQueuePair := by
  refine ⟨?message, fun d qn q r => ⟨messageIn_stale, messageIn_beyond⟩, ?control, ?timers⟩
  case message =>
    rintro s k bytes dest operand compare former len value aop cls ce tagOk _ q q' kind pay tag con c hmem rfl hpeer hcached husable hq
    have hrow : exec c s = rowPacket kind k pay con tag none s ∧ isMessage kind = true := by
      simp only [List.mem_cons, Prod.mk.injEq, List.not_mem_nil, or_false] at hmem
      rcases hmem with ⟨rfl, rfl, rfl, rfl, rfl⟩ | ⟨rfl, rfl, rfl, rfl, rfl⟩ | ⟨rfl, rfl, rfl, rfl, rfl⟩ | ⟨rfl, rfl, rfl, rfl, rfl⟩ |
        ⟨rfl, rfl, rfl, rfl, rfl⟩ | ⟨rfl, rfl, rfl, rfl, rfl⟩ <;> exact ⟨rfl, rfl⟩
    rw [hrow.1]
    exact rowPacket_message hrow.2 hpeer hcached husable hq
  case control =>
    rintro s k cack done sacks detail resend w _ q q' rfl hpeer hcached hq
    refine ⟨?ack, ?nak, ?wait⟩
    case ack =>
      rintro _ rfl
      refine (rowPacket_control rfl hpeer hcached).trans (answer_becomes ?_)
      simp only [packetIn, hq]
    case nak =>
      rintro _ rfl
      refine (rowPacket_control rfl hpeer hcached).trans (answer_becomes ?_)
      simp only [packetIn, hq]
    case wait =>
      refine (rowPacket_control rfl hpeer hcached).trans (answer_becomes ?_)
      simp only [packetIn, hq, waitIn]
  case timers =>
    intro s qp q hq
    exact ⟨execBackoffEnd_held hq, execAckTimer_owed hq,
      fun p rest hpkts hback hred => ⟨execRtoExpiry_resends hq hpkts hback hred, execRtoExpiry_gives_up hq hpkts hback hred⟩,
      fun d1 hfetch hroom => execContextFetchDone_installs hq hfetch hroom⟩

end Sys2Proof.Machine

/-! The sluice: 12_sluice.md R422 to R445, 11_transport.md R389. -/
namespace Sys2Proof.Machine

/-! ## CLASSIFY_INSERT -/

theorem classifyInsertRule_inserts {p : Post} {d : Dev} (hpf : (poster d p).val = 0) (h8 : dZero p 8 8 = true) (hmask : dNat p 16 1 ≤ 3)
    (h17 : dZero p 17 3 = true) (hid : clsId p < 2 ^ 17) (h28 : dZero p 28 4 = true) (halign : dNat p 32 8 % 64 = 0)
    (h40 : dZero p 40 24 = true) (hnamed : (clsHalves p).isEmpty = false)
    (hnew : (clsHalves p).any (fun h => holdsEntry (getCam d h) (clsId p) || !entryOk d h p.arg) = false)
    (hroom : (clsHalves p).any (fun h => decide (clsCapacity d h ≤ (getCam d h).cls.length)) = false) :
    classifyInsertRule p d =
      .done .ok ((clsHalves p).foldl (putEntry (clsEntry p)) (d, 0)).2 0 ((clsHalves p).foldl (putEntry (clsEntry p)) (d, 0)).1 := by
  simp only [classifyInsertRule, hpf, h8, decide_eq_false hmask.not_gt, h17, decide_eq_false hid.not_ge, h28, halign, h40, hnamed, hnew,
    hroom, bne_self_eq_false, Bool.not_true, Bool.or_self, Bool.false_eq_true, if_false]

/-! ## POLICER_SET -/

/-- The policer of a descriptor: both buckets full (R440). -/
def policerOf (p : Post) (x : Policer) : Policer :=
  { x with
    owner := fnId (dNat p 18 1), mode := BitVec.ofNat 8 (dNat p 19 1), cir := dNat p 20 4, pir := dNat p 24 4, cbs := dNat p 28 4
    xbs := dNat p 32 4, tc := dNat p 28 4 * packetUnits, tx := dNat p 32 4 * packetUnits, remC := 0, remX := 0 }

theorem policerSetRule_sets {p : Post} {d : Dev} (hpf : (poster d p).val = 0) (h8 : dZero p 8 8 = true) (hn : dNat p 16 2 ≤ 1023)
    (hown : dNat p 18 1 ≤ 63) (hmode : dNat p 19 1 % 4 = 1 ∨ dNat p 19 1 % 4 = 2) (haction : bits (dNat p 19 1) 3 2 ≠ 3)
    (hhigh : dNat p 19 1 < 64) (h36 : dZero p 36 28 = true) (hpir : dNat p 19 1 % 4 = 1 → dZero p 24 4 = true)
    (hcir : 0 < dNat p 20 4) (hrates : dNat p 19 1 % 4 = 2 → dNat p 20 4 ≤ dNat p 24 4) (hcbs : 0 < dNat p 28 4)
    (hcbsMax : dNat p 28 4 ≤ 2 ^ 24) (hxbs : 0 < dNat p 32 4) (hxbsMax : dNat p 32 4 ≤ 2 ^ 24) :
    policerSetRule p d = .plain .ok (setPolicer d (dNat p 16 2) (policerOf p (getPolicer d (dNat p 16 2)))) := by
  have hfields : (dNat p 19 1 % 4 == 1 && !dZero p 24 4) = false := by
    by_cases h : dNat p 19 1 % 4 = 1
    · simp [hpir h]
    · simp [h]
  have horder : (dNat p 19 1 % 4 == 2 && decide (dNat p 24 4 < dNat p 20 4)) = false := by
    by_cases h : dNat p 19 1 % 4 = 2
    · simp [(hrates h).not_gt]
    · simp [h]
  have hnot3 : (dNat p 19 1 % 4 == 3) = false := by rcases hmode with h | h <;> rw [h] <;> rfl
  have hnot0 : (dNat p 19 1 % 4 == 0) = false := by rcases hmode with h | h <;> rw [h] <;> rfl
  simp only [policerSetRule, hpf, h8, decide_eq_false hn.not_gt, decide_eq_false hown.not_gt, hnot3, hnot0, bne,
    beq_eq_false_iff_ne.2 haction, decide_eq_false hhigh.not_ge, h36, hfields, horder, beq_eq_false_iff_ne.2 hcir.ne',
    beq_eq_false_iff_ne.2 hcbs.ne', beq_eq_false_iff_ne.2 hxbs.ne', decide_eq_false hcbsMax.not_gt, decide_eq_false hxbsMax.not_gt,
    beq_self_eq_true, Bool.not_true, Bool.not_false, Bool.true_and, Bool.false_and, Bool.or_self, Bool.false_eq_true, if_false]
  rfl

/-! ## LOCATE_SCAN -/

/-- The fields of a LOCATE_SCAN that Table 12.3 admits. -/
def scanFieldsOk (p : Post) (d : Dev) : Prop :=
  (poster d p).val = 0 ∧ dZero p 8 8 = true ∧ dNat p 16 1 ≤ 63 ∧ dNat p 17 1 ≤ 63 ∧ dNat p 18 1 ≤ 3 ∧ dZero p 19 1 = true ∧
    dZero p 24 8 = true ∧ dNat p 32 8 % 8 = 0 ∧ dZero p 40 24 = true ∧ dNat p 20 4 % 8 = 0

/-- The LOCATE entries that a scan asks for. -/
def scanned (p : Post) (d : Dev) : List (Nat × W64) :=
  (d.camW.loc ++ d.camE.loc).filter (locHit d (dNat p 18 1) (dNat p 16 1) (dNat p 17 1))

theorem locateScanRule_of_fields {p : Post} {d : Dev} (h : scanFieldsOk p d) :
    locateScanRule p d =
      if dNat p 20 4 = 0 then .plain .ok d
      else .done .ok (scanned p d).length 0
        (hostWrite d (dNat p 32 8) (((scanned p d).take (dNat p 20 4 / 8)).flatMap (fun e => leBytes e.2.toNat 8))) := by
  obtain ⟨hpf, h8, hfn, hdev, hsel, h19, h24, halign, h40, hlen⟩ := h
  simp only [locateScanRule, hpf, h8, decide_eq_false hfn.not_gt, decide_eq_false hdev.not_gt, decide_eq_false hsel.not_gt, h19, h24,
    halign, h40, hlen, bne_self_eq_false, Bool.not_true, Bool.or_self, Bool.false_eq_true, if_false, scanned]

theorem locateScan_completes {s : State} {p : Post} (hready : ready s.dev p 0x0494 = true) (h : scanFieldsOk p (takePost s.dev p))
    (hsome : 0 < dNat p 20 4) :
    exec (.locateScan p) s = completes s p (fun d =>
      hostWrite d (dNat p 32 8) (((scanned p (takePost s.dev p)).take (dNat p 20 4 / 8)).flatMap (fun e => leBytes e.2.toNat 8)))
      .ok (scanned p (takePost s.dev p)).length 0 := by
  have hrule := locateScanRule_of_fields h
  rw [if_neg hsome.ne'] at hrule
  have hdone := answer_completes (f := fun d =>
    hostWrite d (dNat p 32 8) (((scanned p (takePost s.dev p)).take (dNat p 20 4 / 8)).flatMap (fun e => leBytes e.2.toNat 8))) hready hrule
  exact hdone

/-! ## The CAM's configuration and shadow -/

theorem camCfgPut_accepted {d : Dev} {h : Nat} {mask val old v : BitVec 128} (hold : old = cfgGet d (.camCfg h))
    (hv : v = fieldsWritten d (.camCfg h) mask val) (hne : v ≠ old) (hwidth : bits v.toNat 5 2 ≠ 3) (hpitch : bits v.toNat 7 3 ≤ 4)
    (hsome : 0 < bits v.toNat 0 5) (hmany : bits v.toNat 0 5 ≤ 16) (hdiv : bits v.toNat 0 5 % 2 ^ bits v.toNat 5 2 = 0)
    (hloc : bits v.toNat 0 5 = bits old.toNat 0 5 ∨ (getCam d h).loc.isEmpty = true) :
    camCfgPut d h mask val = reclassify (setCam (cfgSet d (.camCfg h) v) h { getCam d h with cls := [] }) h := by
  subst hold hv
  have hkept : ¬ (bits (fieldsWritten d (.camCfg h) mask val).toNat 0 5 ≠ bits (cfgGet d (.camCfg h)).toNat 0 5 ∧
      (!(getCam d h).loc.isEmpty) = true) := by
    rintro ⟨hdiff, hheld⟩
    rcases hloc with heq | hempty
    · exact hdiff heq
    · rw [hempty] at hheld
      exact Bool.false_ne_true hheld
  refine if_neg ?_
  rintro (h | h | h | h | h | h | h)
  · exact hne h
  · exact hwidth h
  · exact hpitch.not_gt h
  · exact hsome.ne' h
  · exact hmany.not_gt h
  · exact h hdiv
  · exact hkept h

/-- A write with LOC_BANKS 0 is ignored. -/
theorem camCfgPut_noBanks {d : Dev} {h : Nat} {mask val : BitVec 128} (hzero : bits (fieldsWritten d (.camCfg h) mask val).toNat 0 5 = 0) :
    camCfgPut d h mask val = d :=
  if_pos (.inr (.inr (.inr (.inl hzero))))

theorem execCamShadowCheck_mismatch {s : State} {h : Half} {row : Nat} {d1 : Dev}
    (hd1 : d1 = raise (charge s.dev partDevice wVote 1) 0x0308 (unitOf 0x0A (halfNo h * 16 + row / 8192)) (row % 8192)) :
    execCamShadowCheck h true row true s = answer s (if camAuto s.dev then
      match substCamRow d1 (halfNo h * 16 + row / 8192) (row % 8192) with
      | some (d2, n) => postSpared d2 (unitOf 0x0A (halfNo h * 16 + row / 8192)) n
      | none => d1
      else d1) := by
  subst hd1
  simp only [execCamShadowCheck, Bool.not_true, Bool.false_eq_true, if_false, if_true] <;> rfl

/-! ## Frames -/

/-- A frame on an UP link of an Ethernet-mode port (R389, R437). -/
theorem execFrameReceive_up {s : State} {n : PortNo} {f : Frame} (hmode : portMode s.dev n.val = 2)
    (hlink : (getPort s.dev n.val).link = .up) :
    execFrameReceive n f s = answer s (
      if !frameOk s.dev n.val f then xptAdd s.dev 2 (n.val / 8)
      else if 256 ≤ (getPort s.dev n.val).frames.length then countSluice s.dev n.val true
      else setPort s.dev n.val { getPort s.dev n.val with frames := (getPort s.dev n.val).frames ++ [f] }) := by
  simp only [execFrameReceive, hmode, hlink, bne_self_eq_false, Bool.or_self, Bool.false_eq_true, if_false]
  split
  · rfl
  · split <;> rfl

theorem execFrameClassify_hit {s : State} {n : PortNo} {f : Frame} {rest : List Frame} (hframes : (getPort s.dev n.val).frames = f :: rest)
    {r : BitVec 64} (hfound : camSearch (getCam s.dev (n.val / 8)) (frameKey n.val f) = some r) :
    execFrameClassify n s = becomes s (fun d =>
      frameJudge (setPort d n.val { getPort d n.val with frames := rest }) n.val f (resDiscard r) (resPolicer r) (resColour r)) := by
  simp only [execFrameClassify, hframes, hfound, answer_eq, becomes]

theorem execFrameClassify_miss {s : State} {n : PortNo} {f : Frame} {rest : List Frame} (hframes : (getPort s.dev n.val).frames = f :: rest)
    (hmiss : camSearch (getCam s.dev (n.val / 8)) (frameKey n.val f) = none) :
    execFrameClassify n s = becomes s (fun d =>
      let c := cfgGet d (.sluDefault n.val)
      frameJudge (setPort d n.val { getPort d n.val with frames := rest }) n.val f (c.getLsbD 0)
        (if c.getLsbD 11 then some (bits c.toNat 1 10) else none) 0) := by
  simp only [execFrameClassify, hframes, hmiss, answer_eq, becomes]

/-- Settles O19, command by command; CLASSIFY_REMOVE and POLICER_QUERY cite the lemmas of their own statements. -/
theorem sluiceCommands : Obligations.SluiceCommands := by
  refine ⟨?insert, ?remove, ?set, ?query, ?scan, fun _ => rfl, ?config, ?shadow, ?receive, ?classify⟩
  case insert =>
    rintro s p _ _ hready rfl hpf h8 hmask h17 hid h28 halign h40 rfl hnamed hnew hroom
    exact answer_completes (f := fun d => ((clsHalves p).foldl (putEntry (clsEntry p)) (d, 0)).1) hready
      (classifyInsertRule_inserts ((congrArg Fin.val (poster_takePost s.dev p p)).trans hpf) h8 hmask h17 hid h28 halign h40 hnamed hnew hroom)
  case remove =>
    rintro s p _ _ hready rfl hpf h8 hmask h17 hid h24 rfl hnamed hheld
    have hrule := classifyRemoveRule_of_fields (d := takePost s.dev p) (by simpa using hpf) h8 hmask h17 hid h24 hnamed
    rw [hheld] at hrule
    exact answer_completes (f := fun d => (clsHalves p).foldl (dropEntry (clsId p)) d) hready hrule
  case set =>
    rintro s p _ _ _ hready hpf rfl rfl rfl h8 hn hown hmode haction hhigh h36 hpir hcir hrates hcbs hcbsMax hxbs hxbsMax
    exact answer_completes (f := fun d => setPolicer d (dNat p 16 2) (policerOf p (getPolicer d (dNat p 16 2)))) hready
      (policerSetRule_sets (by simpa using hpf) h8 hn hown hmode haction hhigh h36 hpir hcir hrates hcbs hcbsMax hxbs hxbsMax)
  case query =>
    rintro s p _ hready hpf rfl h8 hn h18 h48 halign
    exact answer_completes (f := fun d => hostWrite d (dNat p 40 8) (policerRecord (getPolicer d (dNat p 16 2)))) hready
      (policerQueryRule_of_may hn h8 h18 h48 halign (.inl (by simpa using hpf)))
  case scan =>
    rintro s p _ _ _ found hready rfl hpf rfl rfl h8 hfn hdev hsel h19 h24 halign h40 hlen hfound
    obtain rfl : found = scanned p (takePost s.dev p) := hfound
    have hrule := locateScanRule_of_fields (d := takePost s.dev p) ⟨by simpa using hpf, h8, hfn, hdev, hsel, h19, h24, halign, h40, hlen⟩
    constructor
    · intro hsome
      exact locateScan_completes hready ⟨by simpa using hpf, h8, hfn, hdev, hsel, h19, h24, halign, h40, hlen⟩ hsome
    · intro hzero
      exact answer_completes (f := id) hready (hrule.trans (if_pos hzero))
  case config =>
    intro s h value old v hopen hold hv
    constructor
    · intro hne hwidth hpitch hsome hmany hdiv hloc
      exact answer_becomes ((if_pos hopen).trans (camCfgPut_accepted hold hv hne hwidth hpitch hsome hmany hdiv hloc))
    · intro hzero
      rw [hv] at hzero
      exact answer_becomes ((if_pos hopen).trans (camCfgPut_noBanks hzero))
  case shadow =>
    rintro s h row d1 d2 _ n
    refine ⟨rfl, ?_⟩
    rintro rfl hd1
    have hexec := execCamShadowCheck_mismatch hd1
    constructor
    · intro hmanual
      exact hexec.trans (answer_becomes (if_neg (ne_true_of_eq_false hmanual)))
    · intro hauto hsubst
      refine hexec.trans (answer_becomes ?_)
      rw [if_pos hauto, hsubst]
  case receive =>
    intro s n f hmode hlink
    have hexec := execFrameReceive_up (f := f) hmode hlink
    refine ⟨fun hbad => hexec.trans (answer_becomes (if_pos (by rw [hbad]; rfl))), fun hok => ?_⟩
    rw [if_neg (by rw [hok]; decide)] at hexec
    exact ⟨fun hfull => hexec.trans (answer_becomes (if_pos hfull)), fun hroom => hexec.trans (answer_becomes (if_neg hroom.not_ge))⟩
  case classify =>
    rintro s n f rest _ _ hframes rfl rfl
    exact ⟨fun r hfound => execFrameClassify_hit hframes hfound, execFrameClassify_miss hframes⟩

end Sys2Proof.Machine

/-! The start and the end of the tasks of Table 4.6 (04_tasks.md R119 to R136). -/
namespace Sys2Proof.Machine

/-! ## Acceptance and start -/

theorem admitTask_starts {part : Nat} {p : Post} {rs : List (List (Nat × Nat))} {start : Dev → Dev} {d : Dev}
    (hheld : partHolds (getPart d part) = false) (hfree : bindTask d part p rs = .free) :
    admitTask part p rs start d = .later (start d) := by
  simp only [admitTask, hheld, hfree, Bool.false_and, Bool.false_eq_true, if_false]

theorem taskRule_starts {op : Nat} {p : Post} {d : Dev} {x : PartSt} {os : List Opd} {k : Kind} (hx : x = getPart d (dNat p 17 1))
    (hos : os = taskOpds p) (hk : k = kindOf op p os x) (hgo : acceptTask d op p os k = .go) (hheld : partHolds x = false)
    (hfree : bindTask d (dNat p 17 1) p (tileRanges op p (shaped k os)) = .free) :
    taskRule op p d = .later (startTask op p d) := by
  subst hx hos hk
  simp only [taskRule, hgo]
  exact admitTask_starts hheld hfree

/-- The record of a task as it starts: newTask with its pod loads outstanding. -/
def startedTask (op : Nat) (p : Post) (d : Dev) (pins : List (Nat × Bool)) : TaskSt :=
  let x := getPart d (dNat p 17 1)
  let k := kindOf op p (taskOpds p) x
  { newTask d (partId (dNat p 17 1)) p (workTiles d x) pins (if k.mixes then 0 else tM p) (if k.mixes then [] else rowOwners p (tM p)) with
    podLeft := ((podReads d x op p (taskOpds p)).flatMap (fun r => podPieces r.1 r.2)).length }

theorem startTask_starts {op : Nat} {p : Post} {d : Dev} {x : PartSt} {pins : List (Nat × Bool)} {so : List (Shape × Opd)}
    {rd : List (Nat × Nat)} (hx : x = getPart d (dNat p 17 1)) (hclock : taskClockDown d = false)
    (hso : so = shaped (kindOf op p (taskOpds p) x) (taskOpds p))
    (hbar : so.any (fun e => e.2.tier == 1 && (taskRanges op p e.1 e.2).any (fun r => t1Barred d x r.1 r.2)) = false)
    (hrd : rd = podReads d x op p (taskOpds p)) (hpod : podRefusal d x rd (podWrites op p (taskOpds p)) = none)
    (hpins : pins = (basisIds d x op p (taskOpds p)).flatMap (pinsOf d)) :
    startTask op p d =
      podLoads (addPins (setTask (stageIn { d with taskNo := d.taskNo + 1 } p) d.taskNo (startedTask op p d pins)) pins
        (workTiles d x).length) x.owner (engTile ((workTiles d x).headD 0))
        (if op = 0x010C then bulkTc d (dNat p 17 1) else reqTc d (dNat p 17 1)) rd (.taskLoad d.taskNo) := by
  subst hx hso hrd hpins
  simp only [startTask, hclock, hbar, hpod, Bool.or_self, Bool.false_eq_true, if_false, startedTask, beq_iff_eq]

/-- The descriptors of Table 4.6 with their opcodes. -/
def table46 : List ((Post → Instr) × Nat) :=
  [(Instr.matmul, 0x0101), (.groupedMatmul, 0x0102), (.route, 0x0103), (.norm, 0x0104), (.elementwise, 0x0105),
    (.softmax, 0x0106), (.gather, 0x0107), (.sample, 0x0108), (.convert, 0x0109), (.compress, 0x010A), (.reduce, 0x010B),
    (.copy, 0x010C), (.gradWeight, 0x0110), (.actBwd, 0x0111), (.normBwd, 0x0112), (.optimAdamw, 0x0113)]

theorem exec_of_table46 {c : Post → Instr} {op : Nat} (h : (c, op) ∈ table46) (p : Post) (s : State) :
    exec (c p) s = answer s (perform op p (taskRule op p) s.dev) := by
  simp only [table46, List.mem_cons, Prod.mk.injEq, List.not_mem_nil, or_false] at h
  rcases h with ⟨rfl, rfl⟩ | ⟨rfl, rfl⟩ | ⟨rfl, rfl⟩ | ⟨rfl, rfl⟩ | ⟨rfl, rfl⟩ | ⟨rfl, rfl⟩ | ⟨rfl, rfl⟩ | ⟨rfl, rfl⟩ | ⟨rfl, rfl⟩ |
    ⟨rfl, rfl⟩ | ⟨rfl, rfl⟩ | ⟨rfl, rfl⟩ | ⟨rfl, rfl⟩ | ⟨rfl, rfl⟩ | ⟨rfl, rfl⟩ | ⟨rfl, rfl⟩ <;> rfl

/-! ## The end of a work item -/

theorem execWorkItemComplete_runs {s : State} {n : Nat} {tile : TileId} {t : TaskSt} (ht : tget s.dev.tasks n = some t)
    (hruns : itemStands s.dev t = false) :
    execWorkItemComplete n tile s = answer s (itemEnd conclude s.dev n tile.val) := by
  simp only [execWorkItemComplete, ht, hruns, Bool.false_eq_true, if_false]

theorem itemEnd_more {concl : Dev → Nat → TaskSt → Dev} {d : Dev} {n tile : Nat} {t t1 : TaskSt} (ht : tget d.tasks n = some t)
    (hon : t.tiles.contains tile = true) (ht1 : t1 = { t with tiles := t.tiles.erase tile }) (hmore : t1.tiles.isEmpty = false) :
    itemEnd concl d n tile = dropPins (setTask d n t1) t.pins := by
  subst ht1
  have hlength : (t.tiles.length == 1) = false := by
    have herase := List.length_erase_of_mem (List.contains_iff_mem.1 hon)
    have hpos : (t.tiles.erase tile).length ≠ 0 := by simpa using hmore
    simpa using (by omega : t.tiles.length ≠ 1)
  simp only [itemEnd, ht, hon, hlength, hmore, Bool.not_true, Bool.false_and, Bool.or_self, Bool.false_eq_true, if_false]

theorem itemEnd_last {concl : Dev → Nat → TaskSt → Dev} {d : Dev} {n tile : Nat} {t t1 : TaskSt} (ht : tget d.tasks n = some t)
    (hon : t.tiles.contains tile = true) (ht1 : t1 = { t with tiles := t.tiles.erase tile }) (hlast : t1.tiles.isEmpty = true)
    (hpod : t.podLeft = 0) (hlegs : t.legsLeft = 0) (happend : t.appendAt = none) :
    itemEnd concl d n tile = dropPins (concl (setTask d n t1) n t1) t.pins := by
  subst ht1
  simp only [itemEnd, ht, hon, hlast, hpod, hlegs, happend, bne_self_eq_false, Option.isSome_none, Bool.not_true, Bool.or_self,
    Bool.and_false, Bool.false_eq_true, if_false, if_true]

/-! ## The conclusion -/

theorem conclude_of_not_attn {d : Dev} {n : Nat} {t : TaskSt} (h : isAttn (opcode t.post) = false) :
    conclude d n t = concludeTask d n t := by simp only [conclude, h, Bool.false_eq_true, if_false]

theorem concludeTask_squashed {d : Dev} {n : Nat} {t : TaskSt} (hfail : t.fail = none) (hall : allSquashed t = true) :
    concludeTask d n t = finishTask (liftDone d t.part.val t.post) n := by
  rw [allSquashed] at hall
  simp only [concludeTask, hfail, Option.isNone_none, Bool.true_and, hall, if_true]

theorem concludeTask_computes {d : Dev} {n : Nat} {t : TaskSt} (hall : allSquashed t = false) :
    concludeTask d n t =
      applyOut d n t (computeTask (taskCtx d t) (opcode t.post) t.post (taskOpds t.post) t.seeds t.squashed) := by
  rw [allSquashed] at hall
  simp only [concludeTask, Bool.and_assoc, hall, Bool.and_false, Bool.false_eq_true, if_false]

theorem applyOut_commits {d : Dev} {n : Nat} {t : TaskSt} {o : TaskOut} (hfail : t.fail = none)
    (hgood : o.fails ++ writeFails d (getPart d t.part.val) (liveWrites o.writes t.squashed) = [])
    (hpod : (liveWrites o.writes t.squashed).filter (fun w => w.tier == 2) = []) :
    applyOut d n t o = finishTask (liftDone (commitWrites
      (setTask d n { t with flags := t.flags ||| rowFlags o.flags t.squashed, computed := true })
      (getPart d t.part.val) (liveWrites o.writes t.squashed)) t.part.val t.post) n := by
  simp only [applyOut, hfail, hgood, hpod, List.getElem?_nil, List.isEmpty_nil, if_true]

theorem applyOut_fails {d : Dev} {n : Nat} {t : TaskSt} {o : TaskOut} {st : Status} {detail : Nat} (hfail : t.fail = none)
    (hbad : o.fails = [(st, detail)]) (hwrites : writeFails d (getPart d t.part.val) (liveWrites o.writes t.squashed) = []) :
    applyOut d n t o = failOut (failTask
      (setTask d n { t with flags := t.flags ||| rowFlags o.flags t.squashed, computed := true }) n st detail) n o.writes := by
  simp only [applyOut, hfail, hbad, hwrites, List.append_nil, List.length_singleton, Nat.mod_one, List.getElem?_cons_zero]

theorem finishTask_completes {d : Dev} {n : Nat} {t : TaskSt} {st : Status} {detail : Nat} (ht : tget d.tasks n = some t)
    (hst : taskStatus t = (st, detail)) :
    finishTask d n = complete { taskReport d st detail with tasks := tdel d.tasks n } t.post st detail (taskExtra t) := by
  simp only [finishTask, ht, hst]

/-! ## The end of a chunk -/

theorem chunkEndOn_good {d : Dev} {tile n : Nat} {ns : List Nat} {t : TaskSt} (hon : tasksOn d tile = n :: ns)
    (ht : tget d.tasks n = some t) :
    chunkEndOn d tile none = if t.fail.isSome then itemEnd conclude d n tile else d := by
  simp only [chunkEndOn, hon, ht, Option.bind_some]

theorem chunkEndOn_mismatch {d : Dev} {tile n : Nat} {ns : List Nat} (hon : tasksOn d tile = n :: ns) (r : Residue) :
    chunkEndOn d tile (some r) =
      fenceTile ((n :: ns).foldl (fun d n => itemEnd conclude (failTask d n .residueMismatch (residueDetail tile r)) n tile)
        (raise d 0x0301 (unitOf 1 (physOf d tile)) (residueDetail tile r))) tile := by
  simp only [chunkEndOn, hon]

/-- Settles O20: the start by acceptance, binding and the start's checks; the end by its work items, its conclusion and its chunks. -/
theorem tasksStartAndEnd : Obligations.TasksStartAndEnd := by
  refine ⟨?start, ?item, ?conclusion, fun _ _ _ _ _ => finishTask_completes, fun _ _ => rfl, ?chunk⟩
  case start =>
    rintro s p c op _ x os k _ rd pins _ htable hready rfl hx rfl rfl hgo hheld hfree hclock hbar hrd hpod rfl hpins rfl
    have hrule := taskRule_starts hx rfl rfl hgo hheld hfree
    rw [startTask_starts hx hclock rfl hbar hrd hpod hpins] at hrule
    subst hx hrd hpins
    exact (exec_of_table46 htable p s).trans (answer_starts hready hrule)
  case item =>
    intro s n tile t t1 ht hruns hon ht1
    have hexec := execWorkItemComplete_runs (tile := tile) ht hruns
    exact ⟨fun hmore => hexec.trans (answer_becomes (itemEnd_more ht hon ht1 hmore)),
      fun hlast hpod hlegs happend => hexec.trans (answer_becomes (itemEnd_last ht hon ht1 hlast hpod hlegs happend))⟩
  case conclusion =>
    intro d n t o hattn
    refine ⟨fun hfail hall => (conclude_of_not_attn hattn).trans (concludeTask_squashed hfail hall), ?_⟩
    rintro hfail hall rfl
    have hcomputes := (conclude_of_not_attn (d := d) (n := n) hattn).trans (concludeTask_computes hall)
    exact ⟨hcomputes, fun hgood hpod => hcomputes.trans (applyOut_commits hfail hgood hpod),
      fun st detail hbad hwrites => hcomputes.trans (applyOut_fails hfail hbad hwrites)⟩
  case chunk =>
    intro s tile n ns t hon ht
    have hgood := chunkEndOn_good hon ht
    refine ⟨fun hfail => answer_same ?_, fun hfail => answer_becomes ?_, fun r => answer_becomes (chunkEndOn_mismatch hon r)⟩
    · rw [hgood, hfail]; rfl
    · rw [hgood, if_pos hfail]

end Sys2Proof.Machine

/-! The attention tasks and the messages of their far legs (06_attention.md R214, R221, R225 to R229, R235, R236). -/
namespace Sys2Proof.Machine

/-! ## Acceptance and start -/

theorem attnRule_starts {op part : Nat} {p : Post} {d0 d : Dev} {x : PartSt} {os : List Opd} {k : Kind} {es : List LenEntry}
    (hd : d = stageIn d0 p) (hpart : part = dNat p 17 1) (hx : x = getPart d part) (hos : os = taskOpds p) (hk : k = kAttn d op p os part)
    (hgo : acceptTask d op p os k = .go) (hes : es = taskEntries d x p os) (hfrees : attnHeld d op p es = false)
    (hheld : partHolds x = false) (hfree : bindTask d part p (tileRanges op p (shaped k os)) = .free) :
    attnRule op p d0 = .later (startAttn op p d) := by
  subst hd hpart hx hos hk hes
  simp only [attnRule, hgo, hfrees, Bool.false_eq_true, if_false]
  exact admitTask_starts hheld hfree

/-- The bases that an attention task pins: those of its tables when they lie here. -/
def attnPins (op : Nat) (p : Post) (d : Dev) (es : List LenEntry) : List (Nat × Bool) :=
  if taskPlace d (dNat p 17 1) es = .here then (attnIds op (taskLayout d es) (aLayer p)).flatMap (pinsOf d) else []

/-- The record of an attention task as it starts. -/
def startedAttn (p : Post) (d : Dev) (es : List LenEntry) (maps : List (List Byte)) (pins : List (Nat × Bool)) : TaskSt :=
  { newTask d (partId (dNat p 17 1)) p (workTiles d (getPart d (dNat p 17 1))) pins (tM p) (rowOwners p (tM p)) with
    ents := es, maps := maps }

/-- The device with an attention task's record set and its bases pinned. -/
def attnEntered (p : Post) (d : Dev) (t : TaskSt) (pins : List (Nat × Bool)) : Dev :=
  addPins (setTask (stageIn { d with taskNo := d.taskNo + 1 } p) d.taskNo t) pins (workTiles d (getPart d (dNat p 17 1))).length

theorem startAttn_starts {op : Nat} {p : Post} {d : Dev} {x : PartSt} {es : List LenEntry} {so : List (Shape × Opd)}
    {maps : List (List Byte)} (hx : x = getPart d (dNat p 17 1)) (hes : es = taskEntries d x p (taskOpds p))
    (hclock : taskClockDown d = false) (hso : so = shaped (kAttn d op p (taskOpds p) (dNat p 17 1)) (taskOpds p))
    (hbar : (so.any (fun e => e.2.tier == 1 && (taskRanges op p e.1 e.2).any (fun r => t1Barred d x r.1 r.2)) ||
      es.any (fun e => tableBarred d e.handle.toNat)) = false)
    (hlengths : lengthsBad d x p (taskOpds p) = []) (hattend : op = 0x0121 → readMaps d x es = .inr maps)
    (hother : op ≠ 0x0121 → maps = []) :
    startAttn op p d =
      let d1 := attnEntered p d (startedAttn p d es maps (attnPins op p d es)) (attnPins op p d es)
      match taskPlace d (dNat p 17 1) es with
      | .far dev _ => farStart d1 d.taskNo dev
      | _ => if op == 0x0121 then attendPhase d1 d.taskNo else d1 := by
  subst hx hes hso
  have hmaps : (if op == 0x0121 then readMaps d (getPart d (dNat p 17 1)) (taskEntries d (getPart d (dNat p 17 1)) p (taskOpds p))
      else .inr []) = .inr maps := by
    by_cases hop : op = 0x0121
    · rw [if_pos (beq_iff_eq.2 hop), hattend hop]
    · rw [if_neg (by simpa using hop), hother hop]
  simp only [startAttn, hclock, hbar, hlengths, hmaps, Bool.or_self, Bool.false_eq_true, if_false] <;> rfl

/-- The descriptors of Table 6.8 with their opcodes. -/
def table68 : List ((Post → Instr) × Nat) := [(Instr.kvAppend, 0x0120), (.attend, 0x0121), (.kvVerify, 0x0122)]

theorem exec_of_table68 {c : Post → Instr} {op : Nat} (h : (c, op) ∈ table68) (p : Post) (s : State) :
    exec (c p) s = answer s (perform op p (attnRule op p) s.dev) := by
  simp only [table68, List.mem_cons, Prod.mk.injEq, List.not_mem_nil, or_false] at h
  rcases h with ⟨rfl, rfl⟩ | ⟨rfl, rfl⟩ | ⟨rfl, rfl⟩ <;> rfl

/-! ## Far legs -/

theorem farHere_waits {d : Dev} {q : FarQuery} (h : farAnswer d q = none) : farHere d q = { d with farWait := d.farWait ++ [q] } := by
  simp only [farHere, h]

theorem farHere_sends {d d1 : Dev} {q : FarQuery} {st : Status} {detail : Nat} {recs : List Partial}
    (h : farAnswer d q = some (st, detail, recs, d1)) (hfar : q.fromDev ≠ selfDev d) :
    farHere d q = send d1 (.partials q.fromDev q.task st (BitVec.ofNat 64 detail) recs) := by simp only [farHere, h, if_neg hfar]

theorem farArrive_ends {d : Dev} {n : Nat} {t : TaskSt} (ht : tget d.tasks n = some t) (hlegs : t.legsLeft ≠ 0) (st : Status)
    (detail : Nat) (recs : List Partial) :
    farArrive d n st detail recs =
      if statusGood st then setTask d n { t with legsLeft := 0, recs := recs }
      else failTask (setTask d n { t with legsLeft := 0, recs := recs }) n st detail := by
  simp only [farArrive, ht, if_neg hlegs]

theorem execPartialRecords_fromTables {s : State} {n : Nat} {dev : DevIx} {t : TaskSt} {e : LenEntry} {es : List LenEntry}
    (ht : tget s.dev.tasks n = some t) (hents : t.ents = e :: es) (hdev : hDev e.handle.toNat = dev.val) (st : Status) (detail : W64)
    (recs : List Partial) :
    execPartialRecords n dev st detail recs s = answer s (farArrive s.dev n st detail.toNat recs) := by
  simp only [execPartialRecords, ht, hents, if_pos hdev]

/-- Settles O21: the start of the three descriptors, then the far leg's messages and the append that waited. -/
theorem attentionTasksStart : Obligations.AttentionTasksStart := by
  refine ⟨?start, ?query, ?records, fun _ _ => rfl⟩
  case start =>
    rintro s p c op part _ d x os k es maps pins _ htable hready hd hpart hx hos hk hgo hes hfrees hheld hfree hclock hbar hlengths
      hattend hother rfl hpins rfl
    have hrule := attnRule_starts hd hpart hx hos hk hgo hes hfrees hheld hfree
    subst hd hpart hos hk
    rw [startAttn_starts hx hes hclock rfl hbar hlengths hattend hother] at hrule
    subst hx hpins
    constructor
    · intro dv q hplace
      rw [hplace] at hrule
      exact (exec_of_table68 htable p s).trans (answer_starts hready hrule)
    · intro hplace
      rw [hplace] at hrule
      simp only [beq_iff_eq] at hrule
      exact (exec_of_table68 htable p s).trans (answer_starts hready hrule)
  case query =>
    intro s q
    exact ⟨fun h => answer_becomes (farHere_waits h), fun st detail recs d1 h hfar => answer_becomes (farHere_sends h hfar)⟩
  case records =>
    intro s n dev st detail recs t e es ht hlegs
    exact ⟨fun hents hdev => (execPartialRecords_fromTables ht hents hdev st detail recs).trans
        (answer_becomes (farArrive_ends ht hlegs st detail.toNat recs)),
      answer_becomes (farArrive_ends ht hlegs .remoteTimeout 0 [])⟩

end Sys2Proof.Machine

/-! The life of a partition: 05_partitions.md R163 to R184. -/
namespace Sys2Proof.Machine

/-! ## A descriptor whose partition has no other under way (R163) -/

theorem turn_completes {s : State} {p : Post} {op n : Nat} (h : ready s.dev p op = true) (hturn : partBusy (takePost s.dev p) n = false)
    {rule : Dev → Res} {st : Status} {detail extra : Nat} {f : Dev → Dev}
    (hrule : rule (takePost s.dev p) = .done st detail extra (f (takePost s.dev p))) :
    answer s (perform op p (inTurn [n] rule) s.dev) = completes s p f st detail extra :=
  answer_completes h ((inTurn_of_not_busy rule hturn).trans hrule)

theorem turn_starts {s : State} {p : Post} {op n : Nat} (h : ready s.dev p op = true) (hturn : partBusy (takePost s.dev p) n = false)
    {rule : Dev → Res} {f : Dev → Dev} (hrule : rule (takePost s.dev p) = .later (f (takePost s.dev p))) :
    answer s (perform op p (inTurn [n] rule) s.dev) = starts s p f := answer_starts h ((inTurn_of_not_busy rule hturn).trans hrule)

theorem inTurn_pair {d : Dev} {m n : Nat} (rule : Dev → Res) (hm : partBusy d m = false) (hn : partBusy d n = false) :
    inTurn [m, n] rule d = rule d := by
  simp only [inTurn, List.any_cons, List.any_nil, hm, hn, Bool.or_self, Bool.false_eq_true, if_false]

/-! ## Creation, removal, roles -/

/-- The partition that a PART_CREATE makes. -/
def createdPart (p : Post) : PartSt :=
  { PartSt.reset with
    state := .active, role := Tri.same (BitVec.ofNat 2 (dNat p 18 1)), tiles := Tri.same (BitVec.ofNat 64 (pcMask p))
    t1Quota := Tri.same (BitVec.ofNat 19 (dNat p 20 4)), t2Quota := Tri.same (BitVec.ofNat 25 (dNat p 24 4))
    t3Quota := Tri.same (BitVec.ofNat 24 (dNat p 28 4)), basisBase := Tri.same (BitVec.ofNat 14 (pcBase p))
    basisCount := Tri.same (BitVec.ofNat 15 (pcCount p)), owner := fnId (ptArg p), roleByOwner := (dNat p 19 1).testBit 0
    t2En := (dNat p 19 1).testBit 1, t3En := (dNat p 19 1).testBit 2 }

theorem partCreateRule_creates {p : Post} {d : Dev} (hhead : createHead d p = true) (hmask : 0 < pcMask p) (hcount : 0 < pcCount p)
    (ht1 : 0 < dNat p 20 4) (ht2 : (dNat p 19 1).testBit 1 = true → 0 < dNat p 24 4)
    (ht3 : (dNat p 19 1).testBit 2 = true → 0 < dNat p 28 4)
    (htiles : (maskList 64 (pcMask p)).any (fun t => tileFenced d t || tileTaken d (ptNo p) t) = false)
    (hpages : dNat p 20 4 ≤ pagesLeft d) :
    partCreateRule p d = .plain .ok (setPart (clearSlices d (maskList 64 (pcMask p))) (ptNo p) (createdPart p)) := by
  have hsizes : ¬(pcMask p = 0 ∨ pcCount p = 0 ∨ dNat p 20 4 = 0 ∨ ((dNat p 19 1).testBit 1 ∧ dNat p 24 4 = 0) ∨
      ((dNat p 19 1).testBit 2 ∧ dNat p 28 4 = 0)) := by
    rintro (h | h | h | ⟨h, hz⟩ | ⟨h, hz⟩)
    · exact hmask.ne' h
    · exact hcount.ne' h
    · exact ht1.ne' h
    · exact (ht2 h).ne' hz
    · exact (ht3 h).ne' hz
  simp only [partCreateRule, hhead, if_neg hsizes, htiles, if_neg hpages.not_gt, Bool.not_true, Bool.false_eq_true, if_false,
    createdPart]

theorem partDestroyRule_frees {p : Post} {d : Dev} {x : PartSt} (hx : x = getPart d (ptNo p)) (hno : ptNo p ≤ 63) (h8 : dZero p 8 8 = true)
    (hstate : x.state = .active ∨ x.state = .suspended) (hholds : holdsState d (ptNo p) = false) (hlink : linkSource d (ptNo p) = false)
    (hpf : (poster d p).val = 0) (hlock : lockPart d = false) (h17 : dZero p 17 47 = true) (htasks : hasTasks d (ptNo p) = false)
    (hlift : x.lift.run = false) : partDestroyRule p d = .plain .ok (freePart d (ptNo p)) := by
  subst hx
  have hlive : ((getPart d (ptNo p)).state == .active || (getPart d (ptNo p)).state == .suspended) = true := by
    rcases hstate with h | h <;> rw [h] <;> rfl
  simp only [partDestroyRule, hpf, hlock, h8, h17, decide_eq_false hno.not_gt, hlive, htasks, hholds, hlift, hlink, bne_self_eq_false,
    Bool.not_true, Bool.or_self, Bool.false_eq_true, if_false]

theorem partRoleRule_sets {p : Post} {d : Dev} {x : PartSt} (hx : x = getPart d (ptNo p)) (hno : ptNo p ≤ 63) (h8 : dZero p 8 8 = true)
    (hstate : x.state = .active ∨ x.state = .suspended) (hholds : holdsState d (ptNo p) = false) (hlink : linkSource d (ptNo p) = false)
    (h18 : dZero p 18 46 = true) (hrole : 0 < ptArg p) (hroleMax : ptArg p ≤ 3)
    (hmay : (poster d p).val = 0 ∨ (x.owner = poster d p ∧ x.roleByOwner = true)) :
    partRoleRule p d = .plain .ok (setPart d (ptNo p) { x with role := Tri.same (BitVec.ofNat 2 (ptArg p)) }) := by
  subst hx
  have hlive : ((getPart d (ptNo p)).state == .active || (getPart d (ptNo p)).state == .suspended) = true := by
    rcases hstate with h | h <;> rw [h] <;> rfl
  have hfree : ((getPart d (ptNo p)).state == .free) = false := by rcases hstate with h | h <;> rw [h] <;> rfl
  have hposter : ((poster d p).val == 0 || ((getPart d (ptNo p)).owner == poster d p && (getPart d (ptNo p)).roleByOwner)) = true := by
    simpa using hmay
  simp only [partRoleRule, h8, h18, decide_eq_false hno.not_gt, beq_eq_false_iff_ne.2 hrole.ne', decide_eq_false hroleMax.not_gt, hfree,
    hposter, hlive, hholds, hlink, Bool.not_true, Bool.or_self, Bool.false_eq_true, if_false]

/-! ## Suspension, switch, resumption -/

/-- What R174 asks of a suspension besides its own fields. -/
def suspendChecks (p : Post) (d : Dev) : Prop :=
  0 < dNat p 48 4 ∧ dNat p 48 4 ≤ 2 ^ 20 ∧ dNat p 24 4 ≤ 4096 ∧ (getPart d (ptNo p)).state = .active ∧
    rangeOk d (getPart d (ptNo p)) 1 (dNat p 40 8) (4096 * dNat p 48 4) true true = true ∧ saveMapOk p (getPart d (ptNo p)) = true

/-- A partition as its suspension starts. -/
def suspendingPart (p : Post) (x : PartSt) (incoming : Option PartId) : PartSt :=
  { x with
    state := .suspending
    suspend := some { post := p, map := saveMap p, saveAddr := dNat p 40 8, saveLen := 4096 * dNat p 48 4, incoming := incoming } }

theorem startSuspend_starts {p : Post} {d : Dev} (h : suspendChecks p d) (incoming : Option PartId) :
    startSuspend p d incoming = .later (setPart d (ptNo p) (suspendingPart p (getPart d (ptNo p)) incoming)) := by
  obtain ⟨hlen, hlenMax, hmap, hactive, hrange, hentries⟩ := h
  simp only [startSuspend, if_neg hlen.ne', decide_eq_false hlenMax.not_gt, decide_eq_false hmap.not_gt, hactive, hrange, hentries,
    bne_self_eq_false, Bool.not_true, Bool.or_self, Bool.false_eq_true, if_false, suspendingPart]

theorem partSuspendRule_starts {p : Post} {d : Dev} (hfields : suspendFields p = true) (harg : ptArg p = 0)
    (hmay : mayName d (poster d p) (ptNo p) = true) : partSuspendRule p d = startSuspend p d none := by
  simp only [partSuspendRule, hfields, harg, hmay, bne_self_eq_false, Bool.not_true, Bool.or_self, Bool.false_eq_true, if_false]

theorem partSwitchRule_starts {p : Post} {d : Dev} (hfields : suspendFields p = true) (hmay : mayName d (poster d p) (ptNo p) = true)
    (hmayIn : mayName d (poster d p) (ptArg p) = true) (hactive : (getPart d (ptNo p)).state = .active)
    (hsuspended : (getPart d (ptArg p)).state = .suspended)
    (htiles : (tileList (getPart d (ptArg p))).any (fun t => tileTaken d (ptNo p) t && !(tilesOf (getPart d (ptNo p))).testBit t) = false) :
    partSwitchRule p d = startSuspend p d (some (partId (ptArg p))) := by
  simp only [partSwitchRule, hfields, hmay, hmayIn, hactive, hsuspended, htiles, bne_self_eq_false, Bool.not_true, Bool.or_self,
    Bool.and_false, Bool.false_eq_true, if_false]

theorem partResumeRule_starts {p : Post} {d : Dev} (h8 : dZero p 8 8 = true) (h17 : dZero p 17 47 = true)
    (hmay : mayName d (poster d p) (ptNo p) = true) (hstate : (getPart d (ptNo p)).state = .suspended)
    (hfree : tileBarred d (ptNo p) = none) : partResumeRule p d = .later (startResume d (ptNo p) p) := by
  simp only [partResumeRule, h8, h17, hmay, hstate, hfree, bne_self_eq_false, Bool.not_true, Bool.or_self, Bool.false_eq_true, if_false]

/-- The device after the save of a suspension that fits its area. -/
def savedPart (d : Dev) (part : Nat) (u : Suspend) : Dev :=
  let x := getPart d part
  let rs := (saveNeeds d part u).1
  let need := (saveNeeds d part u).2
  setPart (clearSlices (tierWrite d x 1 u.saveAddr ((List.range need).map (Config.saveByte part))) (tileList x)) part
    { x with
      state := .suspended, suspend := none
      saved := some { addr := u.saveAddr, bytes := need
                      cells := d.ts.filter (fun c => rs.any (fun r => decide (r.1 ≤ c.1) && decide (c.1 < r.1 + r.2))) } }

theorem saveComplete_lacks {d : Dev} {part : Nat} {u : Suspend} (hu : (getPart d part).suspend = some u)
    (hlacks : u.saveLen < (saveNeeds d part u).2) :
    saveComplete d part = complete (setPart d part { getPart d part with state := .active, suspend := none }) u.post .quotaExceeded
      (saveNeeds d part u).2 0 := by
  simp only [saveComplete, hu, if_pos hlacks]

theorem saveComplete_fits {d : Dev} {part : Nat} {u : Suspend} (hu : (getPart d part).suspend = some u)
    (hfits : (saveNeeds d part u).2 ≤ u.saveLen) (hin : u.incoming = none) :
    saveComplete d part = complete (savedPart d part u) u.post .ok (saveNeeds d part u).2 0 := by
  simp only [saveComplete, hu, if_neg hfits.not_gt, hin, savedPart]

theorem saveComplete_switches {d : Dev} {part : Nat} {u : Suspend} {i : PartId} (hu : (getPart d part).suspend = some u)
    (hfits : (saveNeeds d part u).2 ≤ u.saveLen) (hin : u.incoming = some i) (hfree : tileBarred (savedPart d part u) i.val = none) :
    saveComplete d part = startResume (savedPart d part u) i.val u.post := by
  rw [savedPart] at hfree ⊢
  simp only [saveComplete, hu, if_neg hfits.not_gt, hin, hfree]

theorem restoreComplete_resumed {d : Dev} {part : Nat} {x : PartSt} {p : Post} {v : Saved} (hx : x = getPart d part)
    (hp : x.resuming = some p) (hv : x.saved = some v) (hgood : badIn d x 1 v.addr v.bytes = []) (hop : opcode p = 0x0404) :
    restoreComplete d part = complete (retryFar (startHeld (liftRefetch (setPart { d with
      ts := v.cells.foldl (fun m c => memPut m c.1 c.2) d.ts } part
      { x with state := .active, resuming := none, saved := none }) part) part)) p .ok 0 0 := by
  subst hx
  simp only [restoreComplete, hp, hv, hgood, hop] <;> rfl

/-! ## Composition -/

/-- The link that a COMPOSE binds. -/
def composedLink (p : Post) : LinkSt :=
  { src := partId (coSrc p), weir := (coFlags p).testBit 0, qpBase := coBase p, qpCount := coCount p }

theorem composeRule_binds {p : Post} {d : Dev} (hcount : 0 < coCount p) (hmax : coCount p ≤ 256)
    (hrole : roleOf (getPart d (coSrc p)) = (if coLink p = 2 then 2 else 1))
    (hpairs : ∀ q ∈ (List.range (min (coCount p) 256)).map (fun i => coBase p + i),
      ∃ y, getQp d q = some y ∧ y.owner = poster d p ∧ y.state = .connected) (hhere : farPairs d (coBase p) (coCount p) = []) :
    composeRule p d = .plain .ok (bindLink d (coComp p) (coLink p) (composedLink p)) := by
  rw [composeRule]
  simp only [if_neg hcount.ne', decide_eq_false hmax.not_gt, hrole, bne_self_eq_false, hhere, List.isEmpty_nil, if_true, Bool.or_self,
    Bool.false_or]
  refine if_neg ?_
  rw [Bool.not_eq_true, Bool.not_eq_false', List.all_eq_true]
  intro q hq
  obtain ⟨y, hy, howner, hstate⟩ := hpairs q hq
  simp [hy, howner, hstate]

theorem composeAny_composes {p : Post} {d : Dev} (hhead : composeHead d p = true) (hform : (coFlags p).testBit 1 = false) :
    composeAny p d = composeRule p d := by
  simp only [composeAny, hhead, hform, Bool.not_true, Bool.false_eq_true, if_false]

theorem composeAny_removes {p : Post} {d : Dev} {l : LinkSt} (hhead : composeHead d p = true) (hform : (coFlags p).testBit 1 = true)
    (hlink : getLink d (coComp p) (coLink p) = some l) (hsrc : l.src.val = coSrc p) :
    composeAny p d = .plain .ok { d with links := tdel d.links (linkKey (coComp p) (coLink p)) } := by
  simp only [composeAny, hhead, hform, Bool.not_true, Bool.false_eq_true, if_false, if_true, composeRemoveRule, hlink, hsrc,
    bne_self_eq_false]

theorem execComposePeerConfirm_waiting {s : State} {comp : Byte} {link : Fin 3} {c : ComposeSt} (qp : BitVec 24)
    (hc : waitingCompose s.dev comp.toNat link.val = some c) :
    execComposePeerConfirm comp link qp s =
      if (c.missing.filter (fun q => q != qp.toNat)).isEmpty then
        answer s (complete (bindLink { s.dev with composing := s.dev.composing.erase c } c.comp c.link c.next) c.post .ok 0 0)
      else
        answer s { s.dev with
          composing := s.dev.composing.map (fun e => if e = c then { c with missing := c.missing.filter (fun q => q != qp.toNat) } else e) } := by
  simp only [execComposePeerConfirm, hc]

theorem execComposeConfirmTimeout_waiting {s : State} {comp : Byte} {link : Fin 3} {c : ComposeSt}
    (hc : waitingCompose s.dev comp.toNat link.val = some c) :
    execComposeConfirmTimeout comp link s =
      answer s (complete { s.dev with composing := s.dev.composing.erase c } c.post .remoteTimeout 0 0) := by
  simp only [execComposeConfirmTimeout, hc]

/-- Settles O24, descriptor by descriptor, then the completions of a save and a restore and the links. -/
theorem partitionLife : Obligations.PartitionLife := by
  refine ⟨?create, ?change, ?suspend, ?resume, ?save, fun _ _ => rfl, ?restore, ?compose, ?confirm⟩
  case create =>
    rintro s p _ _ hready rfl hturn rfl hhead hmask hcount ht1 ht2 ht3 htiles hpages
    exact turn_completes (f := fun d => setPart (clearSlices d (maskList 64 (pcMask p))) (ptNo p) (createdPart p)) hready hturn
      (partCreateRule_creates hhead hmask hcount ht1 ht2 ht3 htiles hpages)
  case change =>
    rintro s p _ x rfl hturn hx hno h8 hstate hholds hlink
    rw [← poster_takePost s.dev p p]
    constructor
    · intro hready hpf hlock h17 htasks hlift
      exact turn_completes (f := fun d => freePart d (ptNo p)) hready hturn
        (partDestroyRule_frees hx hno h8 hstate hholds hlink hpf hlock h17 htasks hlift)
    · intro hready h18 hrole hroleMax hmay
      exact turn_completes (f := fun d => setPart d (ptNo p) { x with role := Tri.same (BitVec.ofNat 2 (ptArg p)) }) hready hturn
        (partRoleRule_sets hx hno h8 hstate hholds hlink h18 hrole hroleMax hmay)
  case suspend =>
    rintro s p _ _ rfl hturn rfl hfields hmay hlen hlenMax hmap hactive hrange hentries
    rw [← poster_takePost s.dev p p] at hmay ⊢
    have hstart := startSuspend_starts (p := p) (d := takePost s.dev p) ⟨hlen, hlenMax, hmap, hactive, hrange, hentries⟩
    constructor
    · intro hready harg
      exact turn_starts (f := fun d => setPart d (ptNo p) (suspendingPart p (getPart (takePost s.dev p) (ptNo p)) none)) hready hturn
        ((partSuspendRule_starts hfields harg hmay).trans (hstart none))
    · intro hready hturnIn hmayIn hsuspended htiles
      exact answer_starts
        (f := fun d => setPart d (ptNo p) (suspendingPart p (getPart (takePost s.dev p) (ptNo p)) (some (partId (ptArg p))))) hready
        ((inTurn_pair _ hturn hturnIn).trans
          ((partSwitchRule_starts hfields hmay hmayIn hactive hsuspended htiles).trans (hstart (some (partId (ptArg p))))))
  case resume =>
    rintro s p _ hready rfl hturn h8 h17 hmay hstate hfree
    rw [← poster_takePost s.dev p p] at hmay
    exact turn_starts (f := fun d => startResume d (ptNo p) p) hready hturn (partResumeRule_starts h8 h17 hmay hstate hfree)
  case save =>
    rintro s part _ u rs need _ rfl hu hneeds rfl
    obtain ⟨rfl, rfl⟩ : (saveNeeds s.dev part.val u).1 = rs ∧ (saveNeeds s.dev part.val u).2 = need := by rw [hneeds]; exact ⟨rfl, rfl⟩
    exact ⟨fun hlacks => answer_becomes (saveComplete_lacks hu hlacks), fun hfits hin => answer_becomes (saveComplete_fits hu hfits hin),
      fun i hfits hin hfree => answer_becomes (saveComplete_switches hu hfits hin hfree)⟩
  case restore =>
    rintro s part x p v _ hx hp hv hgood hop rfl
    exact answer_becomes (restoreComplete_resumed hx hp hv hgood hop)
  case compose =>
    rintro s p _ l hready rfl hturn hhead
    rw [← poster_takePost s.dev p p]
    constructor
    · intro hform hcount hmax hrole hpairs hhere
      exact turn_completes (f := fun d => bindLink d (coComp p) (coLink p) (composedLink p)) hready hturn
        ((composeAny_composes hhead hform).trans (composeRule_binds hcount hmax hrole hpairs hhere))
    · intro hform hlink hsrc
      exact turn_completes (f := fun d => { d with links := tdel d.links (linkKey (coComp p) (coLink p)) }) hready hturn
        (composeAny_removes hhead hform hlink hsrc)
  case confirm =>
    intro s comp link c qp hc
    have hexec := execComposePeerConfirm_waiting qp hc
    exact ⟨fun hlast => hexec.trans ((if_pos hlast).trans (answer_becomes rfl)),
      fun hmore => hexec.trans ((if_neg (ne_true_of_eq_false hmore)).trans (answer_becomes rfl)),
      (execComposeConfirmTimeout_waiting hc).trans (answer_becomes rfl)⟩

end Sys2Proof.Machine

/-! The home of a barge: 07_barges_locks.md R250, R259, R265 to R272, Table 7.13. -/
namespace Sys2Proof.Machine

/-- A command of the lock while the lock-keeper runs: what it makes of the device, with the device's own messages taken. -/
theorem lockAnswer_becomes {s : State} {d : Dev} {f : Dev → Dev} (hk : keeperRuns s.dev = true) (h : d = f s.dev) :
    lockAnswer s d = kept s f := by
  subst h
  exact lockAnswer_kept hk _

section
variable {d : Dev} {h : LockHdr} {r : HomeRec}

/-! ## Queries and tokens -/

theorem homeQueryIn_replies (hhere : h.home.toNat = selfSys d) (hr : getHome d h.request = some r) :
    homeQueryIn d h = homeTell d h.request r.epoch r.xfer 0 [h.sender.toNat]
      (.homeReply ⟨homeCode r.state, BitVec.ofNat 64 r.epoch, r.owner, r.pages, BitVec.ofNat 32 r.xfer⟩) := by
  simp only [homeQueryIn, if_neg (not_not.2 hhere), hr]

theorem homeToken_extends {pos : Nat} {toks : List W32} (hr : getHome d h.request = some r) (hlive : r.state ≠ .sunk)
    (hepoch : h.epoch.toNat = r.epoch) (howner : h.sender = r.owner.dev) (hpos : pos ≤ r.history.length) :
    homeToken d h pos toks =
      homeTell (setHome d h.request { r with history := r.history.take pos ++ toks }) h.request r.epoch 0 0 [h.sender.toNat]
        (.tokenAck (r.history.take pos ++ toks).length) := by
  have htaken : ¬(r.state = .sunk ∨ h.epoch.toNat ≠ r.epoch ∨ h.sender ≠ r.owner.dev) := by
    rintro (h1 | h2 | h3)
    · exact hlive h1
    · exact h2 hepoch
    · exact h3 howner
  simp only [homeToken, hr, if_neg htaken, if_pos hpos]

/-! ## FILL and GATE -/

theorem homeFillOpen_opens {pay : FillOpenPay} (hhere : h.home.toNat = selfSys d) (hr : getHome d h.request = some r)
    (hparty : h.party = 0) (hidle : r.state = .idle) (hepoch : h.epoch.toNat = r.epoch) (howner : h.sender = r.owner.dev)
    (hpart : h.senderPart.toNat = r.owner.part.val) :
    homeFillOpen d h pay = setHome d h.request { homeClear r with
      state := .fill, xfer := h.xfer.toNat, dstOwner := pay.dstOwner, dstPages := pay.dstPages } := by
  have hparty0 : h.party.toNat = 0 := by rw [hparty]; rfl
  have hsender : (h.sender != r.owner.dev || decide (h.senderPart.toNat ≠ r.owner.part.val)) = false := by simp [howner, hpart]
  simp only [homeFillOpen, hr, hparty0, hhere, hidle, hepoch, bne_self_eq_false, Bool.or_self, Bool.false_eq_true, if_false, ne_eq,
    not_true_eq_false, hsender]

theorem sealIn_home {cs : List Nat} {g : BitVec 256} (hr : getHome d h.request = some r) (hparty : h.party = 0)
    (hfill : r.state = .fill) (hmatch : homeMatch r h = true) (hgood : r.refused = none) :
    sealIn d h cs g = setHome d h.request { r with state := .gate } := by
  have hparty0 : h.party.toNat = 0 := by rw [hparty]; rfl
  simp only [sealIn, homeSeal, hr, Option.any_some, hparty0, hfill, hmatch, hgood, beq_self_eq_true, bne_self_eq_false, Bool.and_self,
    Bool.not_true, Bool.or_self, Bool.false_eq_true, if_false, if_true]

theorem homeAccept_notes {handle : W64} (hr : getHome d h.request = some r) (hgate : r.state = .gate) (hmatch : homeMatch r h = true)
    {r1 : HomeRec}
    (hr1 : r1 = { r with
      accepts := h.party.toNat :: r.accepts.filter (· != h.party.toNat), handle := if h.party.toNat = 3 then handle else r.handle }) :
    homeAccept d h handle =
      if (homeNeeds r).all (fun q => r1.accepts.contains (q + 2)) then homeCommit d h.request r1 else setHome d h.request r1 := by
  subst hr1
  simp only [homeAccept, hr, hgate, hmatch, bne_self_eq_false, Bool.not_true, Bool.or_self, Bool.false_eq_true, if_false]

theorem homeRefuse_aborts (hr : getHome d h.request = some r) (hgate : r.state = .gate) (hmatch : homeMatch r h = true)
    (hparty : 2 ≤ h.party.toNat) : homeRefuse d h = homeAbort d h.request r h.reason.toNat := by
  simp only [homeRefuse, hr, hgate, hmatch, decide_eq_false hparty.not_gt, Bool.not_true, Bool.or_self, Bool.false_eq_true, if_false,
    if_true]

/-! ## DRAIN, RELEASE, RESOLVE -/

theorem homeDrainIn_notes (hr : getHome d h.request = some r) (hdrain : r.state = .drain) (hxfer : h.xfer.toNat = r.xfer)
    (hepoch : h.epoch.toNat + 1 = r.epoch) :
    homeDrainIn d h = homeDrained (setHome d h.request { r with drained := h.party.toNat :: r.drained }) h.request := by
  simp only [homeDrainIn, hr, hdrain, hxfer, hepoch, bne_self_eq_false, Bool.or_self, Bool.false_eq_true, if_false]

theorem homeRelease_idle (hhere : h.home.toNat = selfSys d) (hr : getHome d h.request = some r) (hidle : r.state = .idle)
    (hparty : h.party.toNat ≠ 4) :
    homeRelease d h = homeTell (homeDrop d h.request) h.request r.epoch r.xfer h.reason.toNat
      [holderDev r.owner, holderDev r.pages, r.originDev.toNat] .release := by
  simp only [homeRelease, hr, hhere, hidle, decide_eq_false hparty, bne_self_eq_false, Bool.or_self, Bool.false_eq_true, if_false,
    reduceCtorEq, or_self, List.append_nil]

theorem homeResolve_resolves {dest : Bool} {owner pages : Holder} {parties : List (BitVec 14)} (hhere : h.home.toNat = selfSys d)
    (hr : getHome d h.request = some r) (hlive : r.state ≠ .sunk) :
    homeResolve d h dest owner pages parties =
      homeTell (setHome d h.request { homeClear r with epoch := h.epoch.toNat + 2, owner := owner, pages := pages }) h.request
        (h.epoch.toNat + 2) r.xfer 0 (h.sender.toNat :: parties.map (·.toNat) ++ homeParties r) (.resolved owner pages) := by
  simp only [homeResolve, if_neg (not_not.2 hhere), hr, if_neg hlive]

/-! ## Timers -/

theorem gateExpiry_aborts {req : W64} (hr : getHome d req = some r) (hgate : r.state = .gate) (hsrc : r.srcLost = false) :
    gateExpiry d req = homeAbort d req r rTimeout := by
  simp only [gateExpiry, hr, hgate, hsrc, bne_self_eq_false, Bool.false_eq_true, if_false]

theorem drainResend_tells {req : W64} (hr : getHome d req = some r) (hdrain : r.state = .drain) :
    drainResend d req = homeTell d req r.epoch r.xfer 0
      (((homeNeeds r).filter (fun p => !r.drained.contains p)).map (fun p => holderDev (if p = 0 then r.oldOwner else r.oldPages)))
      (.commit r.owner r.pages r.handle) := by
  simp only [drainResend, hr, hdrain, bne_self_eq_false, Bool.false_eq_true, if_false]

end

/-- Settles O25: each message and timer by the answer of the home's record. -/
theorem homeAnswersEachMessage : Obligations.HomeAnswersEachMessage := by
  intro s h r hk hhere hr
  refine ⟨lockAnswer_becomes hk (homeQueryIn_replies hhere hr), ?token, ?fillOpen, ?sealed, ?accept, ?refuse, ?drainDone, ?release,
    ?resolve, ?gate, ?drain⟩
  case token =>
    exact fun pos toks hlive hepoch howner hpos => lockAnswer_becomes hk (homeToken_extends hr hlive hepoch howner hpos)
  case fillOpen =>
    intro pay hparty hidle hepoch howner hpart
    exact lockAnswer_becomes hk
      (congrArg (fun d => pageOpen (dstOpen d h pay) h pay) (homeFillOpen_opens hhere hr hparty hidle hepoch howner hpart))
  case sealed =>
    exact fun cs g hparty hfill hmatch hgood => lockAnswer_becomes hk (sealIn_home hr hparty hfill hmatch hgood)
  case accept =>
    intro handle r1 hgate hmatch hr1
    have hnotes := homeAccept_notes hr hgate hmatch hr1
    exact ⟨fun hall => lockAnswer_becomes hk (hnotes.trans (if_pos hall)),
      fun hleft => lockAnswer_becomes hk (hnotes.trans (if_neg (ne_true_of_eq_false hleft)))⟩
  case refuse =>
    intro hgate hmatch hparty
    exact lockAnswer_becomes hk (congrArg (fun d => originRefuse (srcRefuse d h) h) (homeRefuse_aborts hr hgate hmatch hparty))
  case drainDone =>
    intro hdrain hparty hxfer hepoch
    exact lockAnswer_becomes hk ((if_neg hparty).trans (homeDrainIn_notes hr hdrain hxfer hepoch))
  case release =>
    intro hidle hparty
    exact lockAnswer_becomes hk ((if_pos ⟨hparty, hhere⟩).trans (homeRelease_idle hhere hr hidle hparty))
  case resolve => exact fun dest owner pages parties hlive => lockAnswer_becomes hk (homeResolve_resolves hhere hr hlive)
  case gate => exact fun hgate hsrc => lockAnswer_becomes hk (gateExpiry_aborts hr hgate hsrc)
  case drain => exact fun hdrain => lockAnswer_becomes hk (drainResend_tells hr hdrain)

end Sys2Proof.Machine

/-! The parties of a lock transfer: 07_barges_locks.md R250, R260 to R273, Table 7.14. -/
namespace Sys2Proof.Machine

/-! ## Messages at the source owner -/

section
variable {d : Dev} {h : LockHdr} {b : Barge} {x : SrcSt}

theorem srcReady_notes (hb : getBarge d h.request = some b) (hx : b.src = some x) (hfree : x.frozen = false)
    (hxfer : h.xfer.toNat = x.xfer) (hepoch : h.epoch.toNat = b.epoch) (hparty : 2 ≤ h.party.toNat) (hwaits : allReady x = false) :
    srcReady d h =
      let x1 := { x with ready := h.party.toNat :: x.ready }
      if allReady x1 then
        lockTell (srcStream (setBarge d { b with src := some x1 }) b x1) (ownerHdr d b x.xfer 0) .ready (farPageDev d b x)
      else setBarge d { b with src := some x1 } := by
  simp only [srcReady, hb, hx, hfree, hxfer, hepoch, decide_eq_false hparty.not_gt, hwaits, ne_eq, not_true_eq_false, decide_false,
    Bool.or_self, Bool.false_eq_true, if_false]

theorem srcCommitIn_commits {pages : Holder} {handle : W64} (hb : getBarge d h.request = some b) (hx : b.src = some x)
    (hfrozen : x.frozen = true) (hxfer : h.xfer.toNat = x.xfer) (hepoch : h.epoch.toNat = b.epoch + 1) (hstate : b.state ≠ .adrift) :
    srcCommitIn d h pages handle = srcCommit d b x h.epoch.toNat pages handle := by
  simp only [srcCommitIn, hb, hx, hfrozen, hxfer, hepoch, bne_iff_ne.2 hstate, beq_self_eq_true, Bool.and_self, if_true]

theorem commitIn_without_dst {owner pages : Holder} {handle : W64} {d1 : Dev} (hb : getBarge d h.request = some b) (hx : b.src = some x)
    (hfrozen : x.frozen = true) (hxfer : h.xfer.toNat = x.xfer) (hepoch : h.epoch.toNat = b.epoch + 1) (hstate : b.state ≠ .adrift)
    (hd1 : d1 = orphanPages (pageCommit (srcCommit d b x h.epoch.toNat pages handle) h) h.request pages)
    (hnone : d1.dsts.any (fun x => x.hdr.request == h.request && x.party == 2) = false) :
    commitIn d h owner pages handle = originCommit (dstCommit d1 h pages handle) h owner pages := by
  subst hd1
  simp only [commitIn, srcCommitIn_commits hb hx hfrozen hxfer hepoch hstate, hnone, Bool.false_eq_true, if_false]

theorem abortIn_restores (hb : getBarge d h.request = some b) (hx : b.src = some x) (hmatch : srcMatch b x h = true)
    (hparty : h.party.toNat = 4) :
    abortIn d h =
      originAbort (homeAbortIn (dstAbort (pageAbort (afterFirst (some b) (srcRestore d b x) h.request) h) h) h) h := by
  have hsrc : srcAbortIn d h = srcRestore d b x := by
    simp only [srcAbortIn, hb, hx, hmatch, hparty, beq_self_eq_true, Bool.and_self, if_true]
  simp only [abortIn, hsrc, hb]

theorem askAnswer_of_no_request {a : HomeAnswer} (hr : getReq d h.request = none) : askAnswer d h a = d := by
  simp only [askAnswer, hr]

theorem srcReply_goes_on {a : HomeAnswer} (hb : getBarge d h.request = some b) (hx : b.src = some x) (hquery : x.querying = true)
    (hstate : b.state ≠ .adrift) (hgoes : a.state = 1 ∨ a.state = 2 ∨ a.state = 3) (hxfer : a.xfer.toNat = x.xfer)
    (hepoch : a.epoch.toNat ≠ b.epoch + 1) :
    srcReply d h a = setBarge d { b with src := some { x with querying := false } } := by
  simp only [srcReply, hb, hx, hquery, beq_eq_false_iff_ne.2 hstate, Bool.not_true, Bool.or_self, Bool.false_eq_true, if_false,
    if_neg (fun hc : (a.state = 0 ∨ a.state = 4) ∧ a.epoch.toNat = b.epoch + 1 => hepoch hc.2), if_pos (And.intro hgoes hxfer)]

theorem replyIn_without_dst {a : HomeAnswer} {d0 d1 : Dev} (hr : getReq d h.request = none) (hsrc : srcReply d h a = d0)
    (hd1 : d1 = pageReply (afterFirst (getBarge d h.request) d0 h.request) h a) (hnone : d1.dsts = []) :
    replyIn d h a = dstReply d1 h a := by
  subst hsrc hd1
  simp only [replyIn, askAnswer_of_no_request hr, hnone, List.any_nil, Bool.false_eq_true, if_false]

end

/-! ## Messages at a destination, at the origin, from the home to the owner -/

theorem dstData_places {d : Dev} {h : LockHdr} {sec chunk : Nat} {c : FillSec} {x x1 : DstSt}
    (hx : d.dsts.find? (fun x => dstMatch x h && dstCovers x sec) = some x) (hopen : x.verified = false)
    (hx1 : x1 = { x with
      chunks := x.chunks.filter (fun e => !(e.1 == sec && e.2.1 == chunk)) ++ [(sec, chunk, c)], querying := false }) :
    dstData d h sec chunk c = dstCheck (dstSet d x1) x1 := by
  subst hx1
  simp only [dstData, hx, hopen, Bool.false_eq_true, if_false]

theorem srcResolved_of_no_part {d : Dev} {h : LockHdr} {owner pages : Holder} (hb : getBarge d h.request = none)
    (hp : tget d.pageSrcs h.request.toNat = none) : srcResolved d h owner pages = d := by
  simp only [srcResolved, hb, hp]

theorem dstResolved_of_no_dst {d : Dev} {h : LockHdr} {owner pages : Holder} (hnone : d.dsts = []) : dstResolved d h owner pages = d := by
  simp only [dstResolved, hnone, List.filter_nil, List.foldl_nil]

theorem originResolved_completes {d : Dev} {h : LockHdr} {owner pages : Holder} {r r1 : ReqSt} (hr : getReq d h.request = some r)
    (hlive : r.phase = .live) (hepoch : h.epoch.toNat = r.epoch + 2)
    (hr1 : r1 = { r with epoch := r.epoch + 2, adrift := none, dstOwner := none, dstPages := none, owner := owner, pages := pages }) :
    originResolved d h owner pages = endOps (setReq d h.request r1) h.request 0x0441 .ok r1.epoch 0 := by
  subst hr1
  simp only [originResolved, hr, hlive, hepoch, ne_eq, not_true_eq_false, or_self, if_false]

theorem originLoss_ends {d : Dev} {h : LockHdr} {r : ReqSt} (hr : getReq d h.request = some r) (hlive : r.cancelled = none)
    (detail : W64) :
    originLoss d h detail = finalReq (endAsks d h.request .stateLost rLost) h.request kLost .stateLost detail.toNat := by
  simp only [originLoss, hr, hlive, Option.isSome_none, Bool.false_eq_true, if_false]

theorem ownerAck_of_owner {d : Dev} {h : LockHdr} {b : Barge} (hb : getBarge d h.request = some b) (hepoch : h.epoch.toNat = b.epoch)
    (hstate : b.state ≠ .adrift) (len : Nat) :
    ownerAck d h len = if b.unacked.isEmpty then setBarge d { b with homeLen := len } else delivered d h.request := by
  simp only [ownerAck, hb, hepoch, hstate, ne_eq, not_true_eq_false, or_self, if_false]

/-! ## Rounds and timers -/

section
variable {d : Dev} {req : W64} {b : Barge} {x : SrcSt}

theorem ackTimeout_delivers (hb : getBarge d req = some b) (hunacked : b.unacked ≠ []) (hhome : b.homeLost = false) :
    ackTimeout d req = delivered (setBarge d { b with homeLost := true }) req := by
  have hsome : b.unacked.isEmpty = false := by simpa using hunacked
  simp only [ackTimeout, hb, hsome, hhome, Bool.or_self, Bool.false_eq_true, if_false]

theorem fillRound_of_src (hb : getBarge d req = some b) (hx : b.src = some x) : fillRound d req = roundEnd d b x := by
  simp only [fillRound, hb, Option.bind_some, hx, Option.map_some]

theorem roundEnd_seals {x1 : SrcSt} (hfree : x.frozen = false) (hready : allReady x = true) (hpend : x.sealPend = false)
    (hx1 : x1 = { x with rounds := x.rounds + 1 }) (hlast : 8 ≤ x1.rounds ∨ srcDirty d b x1 ≤ 4194304) :
    roundEnd d b x = if b.inStep then setBarge d { b with src := some { x1 with sealPend := true } } else doSeal d b x1 := by
  subst hx1
  have hruns : (x.frozen || !allReady x || x.sealPend) = false := by rw [hfree, hready, hpend]; rfl
  rw [roundEnd, if_neg (ne_true_of_eq_false hruns)]
  exact if_pos hlast

theorem readyTimeout_aborts (hb : getBarge d req = some b) (hx : b.src = some x) (hfree : x.frozen = false) (hstate : b.state ≠ .adrift) :
    readyTimeout d req = afterFirst (some b) (srcAbort d b x rTimeout) req := by
  simp only [readyTimeout, hb, Option.bind_some, hx, Option.map_some, hfree, beq_eq_false_iff_ne.2 hstate, Bool.or_self,
    Bool.false_eq_true, if_false]

theorem srcQuery_asks {d1 : Dev} (hb : getBarge d req = some b) (hx : b.src = some x) (hfrozen : x.frozen = true)
    (hquery : x.querying = false) (hstate : b.state ≠ .adrift)
    (hd1 : d1 = lockSend (setBarge d { b with src := some { x with querying := true } }) (ownerHdr d b x.xfer 0) .homeQuery b.hdr.home.toNat)
    (hpages : tget d1.pageSrcs req.toNat = none) : srcQuery d req = d1 := by
  subst hd1
  have hasks : (x.frozen && !x.querying && b.state != .adrift) = true := by rw [hfrozen, hquery, bne_iff_ne.2 hstate]; rfl
  simp only [srcQuery, hb, hx, hasks, if_true, hpages]

end

theorem replyTimeout_of_no_request {d : Dev} {req : W64} (hr : getReq d req = none) : replyTimeout d req = goAdrift d req := by
  simp only [replyTimeout, hr]

theorem replyTimeout_of_request {d : Dev} {req : W64} {r : ReqSt} (hr : getReq d req = some r) :
    replyTimeout d req =
      if r.phase = .asking then finalReq d req kEnded .targetLost (r.home.toNat % 64)
      else endOps (goAdrift d req) req 0x0441 .remoteTimeout 0 0 := by
  simp only [replyTimeout, hr]

/-- Settles O26: message by message and timer by timer. -/
theorem partiesAnswerEachMessage : Obligations.PartiesAnswerEachMessage := by
  refine ⟨?source, ?destination, ?origin, ?owner, ?timers, ?noReply⟩
  case source =>
    intro s h b x hk hb hx
    refine ⟨?ready, ?commit, ?abort, ?reply⟩
    case ready =>
      rintro _ hfree hxfer hepoch hparty hwaits rfl
      have hnotes := srcReady_notes hb hx hfree hxfer hepoch hparty hwaits
      exact ⟨fun hall => lockAnswer_becomes hk (congrArg (pageReady · h) (hnotes.trans (if_pos hall))),
        fun hsome => lockAnswer_becomes hk (congrArg (pageReady · h) (hnotes.trans (if_neg (ne_true_of_eq_false hsome))))⟩
    case commit =>
      exact fun owner pages handle d1 hfrozen hxfer hepoch hstate hd1 hnone =>
        lockAnswer_becomes hk (commitIn_without_dst hb hx hfrozen hxfer hepoch hstate hd1 hnone)
    case abort => exact fun hmatch hparty => lockAnswer_becomes hk (abortIn_restores hb hx hmatch hparty)
    case reply =>
      intro a hr _ hquery hstate hgoes hxfer hepoch d1 hd1 hnone
      rw [← hb] at hd1
      exact lockAnswer_becomes hk (replyIn_without_dst hr (srcReply_goes_on hb hx hquery hstate hgoes hxfer hepoch) hd1 hnone)
  case destination => exact fun s h sec chunk c x x1 hk hx hopen hx1 => lockAnswer_becomes hk (dstData_places hx hopen hx1)
  case origin =>
    intro s h r r1 owner pages hk hr
    refine ⟨fun hb hp hnone hlive hepoch hr1 => lockAnswer_becomes hk ?_,
      fun detail hlive => lockAnswer_becomes hk (originLoss_ends hr hlive detail)⟩
    have hparties : dstResolved (srcResolved s.dev h owner pages) h owner pages = s.dev := by
      rw [srcResolved_of_no_part hb hp, dstResolved_of_no_dst hnone]
    exact (congrArg (originResolved · h owner pages) hparties).trans (originResolved_completes hr hlive hepoch hr1)
  case owner =>
    intro s h b len hk hb hepoch hstate
    have hack := ownerAck_of_owner hb hepoch hstate len
    exact ⟨fun hnone => lockAnswer_becomes hk (hack.trans (if_pos (List.isEmpty_iff.2 hnone))),
      fun hsome => lockAnswer_becomes hk (hack.trans (if_neg (fun hempty => hsome (List.isEmpty_iff.1 hempty))))⟩
  case timers =>
    intro s req b hk hb
    refine ⟨fun hunacked hhome => lockAnswer_becomes hk (ackTimeout_delivers hb hunacked hhome), fun x hx => ⟨?round, ?noReady, ?query⟩⟩
    case round =>
      intro x1 hfree hready hpend hx1 hlast
      have hround := (fillRound_of_src hb hx).trans (roundEnd_seals hfree hready hpend hx1 hlast)
      exact ⟨fun hstep => lockAnswer_becomes hk (hround.trans (if_pos hstep)),
        fun hrest => lockAnswer_becomes hk (hround.trans (if_neg (ne_true_of_eq_false hrest)))⟩
    case noReady => exact fun hfree hstate => lockAnswer_becomes hk (readyTimeout_aborts hb hx hfree hstate)
    case query =>
      exact fun d1 hfrozen hquery hstate hd1 hpages =>
        lockAnswer_becomes hk (congrArg (dstQuery · req) (srcQuery_asks hb hx hfrozen hquery hstate hd1 hpages))
  case noReply =>
    intro s req hk
    refine ⟨fun hr => lockAnswer_becomes hk (replyTimeout_of_no_request hr), fun r hr => ?_⟩
    have htimeout := replyTimeout_of_request hr
    exact ⟨fun hasking => lockAnswer_becomes hk (htimeout.trans (if_pos hasking)),
      fun hother => lockAnswer_becomes hk (htimeout.trans (if_neg hother))⟩

end Sys2Proof.Machine

/-! The descriptors of the lock and of serving: 07_barges_locks.md R256, R257, R272, R274, R275, R279; 08_serving.md R281, R289, R298,
R304, R306. -/
namespace Sys2Proof.Machine

section
variable {p : Post} {d : Dev} {r : ReqSt}

/-! ## A request that its poster may name -/

theorem lockMoveRule_of_request (hr : ctlReq d p = some r) :
    lockMoveRule p d =
      if moveFields p r || moveKnown d r p then .plain .badDescriptor d else .later (passOn d (dHandle p) r p []) := by
  simp only [lockMoveRule, hr]

theorem lockResolveRule_of_side {v : W64} {own pgs : Holder} (hr : ctlReq d p = some r) (hside : dNat p 16 1 ≤ 1)
    (h17 : dZero p 17 47 = true) (hv : r.adrift = some v) (hbit : v.getLsbD (if dNat p 16 1 == 1 then 33 else 32) = true)
    (hown : own = if dNat p 16 1 == 1 then r.dstOwner.getD r.owner else r.owner)
    (hpgs : pgs = if dNat p 16 1 == 1 then r.dstPages.getD r.pages else r.pages) :
    lockResolveRule p d =
      if !canReach d (holderDev own) || !canReach d (holderDev pgs) then .plain .targetLost d
      else
        let r1 := { r with home := sysIx (homeSys d (dHandle p)), asks := r.asks ++ [p] }
        .later (lockSend (setReq d (dHandle p) r1) (lockHdr d (dHandle p) r.epoch 0 0 0xFF 5 r1.home)
          (.resolve (dNat p 16 1 == 1) own pgs (([some r.owner, some r.pages, r.dstOwner, r.dstPages].filterMap id).map (·.dev)))
          r1.home.toNat) := by
  have htest : (dNat p 16 1).testBit 0 = (dNat p 16 1 == 1) := by
    rcases Nat.le_one_iff_eq_zero_or_eq_one.1 hside with h | h <;> rw [h] <;> rfl
  subst hown hpgs
  simp only [lockResolveRule, hr, hv, htest, hbit, decide_eq_false hside.not_gt, h17, Bool.not_true, Bool.or_self, Bool.false_eq_true,
    if_false]

theorem bargeQueryRule_writes (hr : ctlReq d p = some r) (h16 : dZero p 16 24 = true) (h48 : dZero p 48 16 = true)
    (halign : dNat p 40 8 % 64 = 0) (hreach : canReach d r.home.toNat = true) :
    bargeQueryRule p d = .plain .ok (hostWrite d (dNat p 40 8) (queryRecord d (dHandle p) r)) := by
  simp only [bargeQueryRule, hr, h16, h48, halign, hreach, bne_self_eq_false, Bool.not_true, Bool.or_self, Bool.false_and,
    Bool.false_eq_true, if_false]

theorem bargeRehomeRule_enters {b : Barge} (hr : ctlReq d p = some r) (hpf : (poster d p).val = 0) (h16 : dZero p 16 48 = true)
    (hadrift : r.adrift = none) (hreach : canReach d r.home.toNat = false) (hhome : homeRefusal d (dHandle p) = none)
    (hb : getBarge d (dHandle p) = some b) (hhere : homeSys d (dHandle p) = selfSys d)
    (hroom : homeFull d (dHandle p) (b.history.length + b.hdr.tokensLeft) = false) :
    bargeRehomeRule p d =
      let r1 := { r with home := sysIx (selfSys d) }
      .plain .ok (toOwner (homeEnter (setReq d (dHandle p) r1) (dHandle p)
        (newHome r.epoch r.owner r.pages b.history (b.history.length + b.hdr.tokensLeft) (sysIx (selfSys d)) r.fn)) (dHandle p) r1
        (.order p.desc []) 0) := by
  simp only [bargeRehomeRule, hr, hpf, h16, hadrift, hreach, hhome, hb, hhere, hroom, Option.isSome_none, bne_self_eq_false,
    Bool.not_true, Bool.or_self, Bool.false_eq_true, and_false, if_false, if_true]

theorem requestMoorRule_passes (hr : ctlReq d p = some r) (htier : dNat p 16 1 ≤ 2) (h17 : dZero p 17 7 = true) (h28 : dZero p 28 36 = true)
    (httl : dNat p 24 4 ≠ 0) (hadrift : r.adrift = none) : requestMoorRule p d = .later (passOn d (dHandle p) r p []) := by
  simp only [requestMoorRule, hr, decide_eq_false htier.not_gt, h17, h28, if_neg httl, hadrift, Option.isSome_none, Bool.not_true,
    Bool.or_self, Bool.false_eq_true, if_false]

theorem requestResumeRule_empty (hr : ctlReq d p = some r) (hfields : resumeFields p = false) (hnone : dNat p 32 4 = 0)
    (hmax : dNat p 24 4 = 0) (hflag : (dNat p 17 1).testBit 0 = false) : requestResumeRule p d = .plain .ok d := by
  simp only [requestResumeRule, hr, hfields, hnone, hmax, hflag, Bool.false_eq_true, not_false_eq_true, and_self, if_true, if_false]

theorem requestResumeRule_passes {bs : List Byte} (hr : ctlReq d p = some r) (hfields : resumeFields p = false) (hsome : 0 < dNat p 32 4)
    (hfits : r.historyLen + dNat p 32 4 + dNat p 24 4 ≤ 16777216) (hadrift : r.adrift = none)
    (hroom : resumeRoom d (dHandle p) (dNat p 32 4 + dNat p 24 4) = true) (hbs : bs = memRead d.host (dNat p 40 8) (4 * dNat p 32 4)) :
    requestResumeRule p d = .later (passOn d (dHandle p) r { p with arg := bs }
      ((List.range (dNat p 32 4)).map (fun i => BitVec.ofNat 32 (leAt bs (4 * i) 4)))) := by
  subst hbs
  simp only [requestResumeRule, hr, hfields, hsome.ne', if_neg hfits.not_gt, hadrift, hroom, Option.isSome_none, Bool.not_true,
    Bool.false_eq_true, false_and, if_false]

/-! ## BARGE_RELEASE and REQUEST_CANCEL -/

theorem bargeReleaseRule_ends (hpf : (poster d p).val = 0) (h16 : dZero p 16 48 = true) (hr : getReq d (dHandle p) = some r)
    (hlive : r.cancelled = none) :
    bargeReleaseRule p d = .plain .ok (finalReq (endAsks
      (lockSend d (lockHdr d (dHandle p) r.epoch 0 rCancel 0xFF 5 r.home) .release r.home.toNat)
      (dHandle p) .cancelled rCancel) (dHandle p) kEnded .cancelled 0) := by
  simp only [bargeReleaseRule, hpf, h16, hr, hlive, Option.isSome_none, bne_self_eq_false, Bool.not_true, Bool.or_self,
    Bool.false_eq_true, if_false]

theorem requestCancelRule_of_request (h16 : dZero p 16 48 = true) (hr : getReq d (dHandle p) = some r) (hfn : r.fn = poster d p) :
    requestCancelRule p d =
      if r.cancelled.isSome then .done .ok 1 0 d else .plain .ok (cancelReq d (dHandle p) rCancel) := by
  simp only [requestCancelRule, h16, hr, hfn, ne_eq, not_true_eq_false, Bool.not_true, Bool.false_eq_true, if_false]

theorem requestCancelRule_of_ended {f : Fn} (hf : f = poster d p) (h16 : dZero p 16 48 = true) (hr : getReq d (dHandle p) = none)
    (hended : d.ended.contains (f, dHandle p) = true) : requestCancelRule p d = .done .ok 1 0 d := by
  subst hf
  simp only [requestCancelRule, h16, hr, hended, Bool.not_true, Bool.false_eq_true, if_false, if_true]

/-! ## REQUEST_SUBMIT -/

theorem requestSubmitRule_empty {f : Fn} (hf : f = poster d p) (hgood : submitBad d f p = none) (hempty : rqPrompt p = 0 ∨ rqMax p = 0) :
    requestSubmitRule p d =
      .done .ok 0 earlyExtra { d with ended := (f, rqId p) :: d.ended.filter (fun e => e != (f, rqId p)) } := by
  subst hf
  unfold requestSubmitRule
  simp only [hgood, if_pos hempty]

theorem requestSubmitRule_enters {f g : Fn} {ring ix : Nat} {part : PartId} {c : ClassCfg} (hf : f = poster d p)
    (hgood : submitBad d f p = none) (hprompt : 0 < rqPrompt p) (hmax : 0 < rqMax p) (hroom : d.requests.length < 1048576)
    (hbudget : getBudget d f = none) (hhome : homeRefusal d (rqId p) = none) (hnew : getReq d (rqId p) = none)
    (hhere : homeIx d (rqId p) = (selfDev d).val) (hno : getHome d (rqId p) = none) (hsrc : p.src = .ring g ring ix)
    (hpart : compPart d f (rqComp p) = some part) (hclass : getClass d f (rqClass p) = some c) :
    requestSubmitRule p d =
      .later (enterHome (setReq { d with ended := d.ended.filter (fun e => e != (f, rqId p)) } (rqId p) (newReq d p f ring part c))
        (rqId p)) := by
  subst hf
  unfold requestSubmitRule
  simp only [hgood, hprompt.ne', hmax.ne', or_self, if_neg hroom.not_ge, hbudget, hhome, hnew, hno, hhere, hsrc, hpart, hclass,
    Option.isSome_none, Bool.false_eq_true, and_false, if_false, if_true]

/-! ## BUDGET_SET -/

/-- The fields of BUDGET_SET that hold in both forms. -/
def budgetFieldsOk (p : Post) (d : Dev) : Prop :=
  (poster d p).val = 0 ∧ dZero p 8 8 = true ∧ dNat p 16 1 ≤ 63 ∧ dZero p 28 36 = true

/-- The budget of a function before BUDGET_SET. -/
def oldBudget (p : Post) (d : Dev) : Budget :=
  tgetD d.budgets (dNat p 16 1) { metered := false, weight := 0, window := 0, limit := 0, used := 0, reserved := 0 }

theorem budgetSetRule_off (h : budgetFieldsOk p d) (hoff : dNat p 17 1 = 0) :
    budgetSetRule p d = .plain .ok (grantLeases
      { d with budgets := tset d.budgets (dNat p 16 1) { oldBudget p d with metered := false } } (fnId (dNat p 16 1))) := by
  obtain ⟨hpf, h8, hfn, h28⟩ := h
  simp only [budgetSetRule, hpf, h8, decide_eq_false hfn.not_gt, h28, hoff, bne_self_eq_false, Bool.not_true, Bool.or_self, Nat.not_lt_zero,
    decide_false, Bool.false_eq_true, if_false, if_true, oldBudget]

theorem budgetSetRule_on (h : budgetFieldsOk p d) (hon : dNat p 17 1 = 1) (hlimit : dNat p 24 4 ≠ 0) (hlow : 10000 ≤ dNat p 20 4)
    (hhigh : dNat p 20 4 ≤ 10000000) :
    budgetSetRule p d = .plain .ok (grantLeases
      { d with budgets := tset d.budgets (dNat p 16 1) ⟨true, dNat p 18 2, dNat p 20 4, dNat p 24 4, 0, (oldBudget p d).reserved⟩ }
      (fnId (dNat p 16 1))) := by
  obtain ⟨hpf, h8, hfn, h28⟩ := h
  simp only [budgetSetRule, hpf, h8, decide_eq_false hfn.not_gt, h28, hon, bne_self_eq_false, Bool.not_true, Bool.or_self,
    Nat.lt_irrefl, decide_false, Bool.false_eq_true, Nat.one_ne_zero, if_neg hlimit, hlow.not_gt, hhigh.not_gt, or_self, if_false, oldBudget]

end

/-- A descriptor that completes without a change. -/
theorem kept_completes_same {s : State} {p : Post} {op : Nat} (hk : keeperRuns s.dev = true) (h : ready s.dev p op = true)
    {eff : Dev → Res} {st : Status} {detail extra : Nat} (he : eff (takePost s.dev p) = .done st detail extra (takePost s.dev p)) :
    lockAnswer s (perform op p eff s.dev) = kept s (fun d => complete (takePost d p) p st detail extra) :=
  kept_completes (f := id) hk h he

/-- Settles O27: Table 7.6's descriptors of a request that the poster may name, then those that name it otherwise. -/
theorem lockAndServingDescriptors : Obligations.LockAndServingDescriptors := by
  refine ⟨?named, ?free⟩
  case named =>
    rintro s p _ r hk rfl hr
    refine ⟨?move, ?moveBad, ?resolve, ?query, ?rehome, ?moor, ?resume⟩
    case move =>
      intro hready hfields hknown
      exact kept_starts (f := fun d => passOn d (dHandle p) r p []) hk hready
        ((lockMoveRule_of_request hr).trans (if_neg (by rw [hfields, hknown]; decide)))
    case moveBad =>
      intro hready hbad
      exact kept_completes_same hk hready ((lockMoveRule_of_request hr).trans (if_pos (Bool.or_eq_true_iff.2 hbad)))
    case resolve =>
      rintro v own pgs _ r1 hready hside h17 hv hsrc hdst rfl
      have hchoice : v.getLsbD (if dNat p 16 1 == 1 then 33 else 32) = true ∧
          own = (if dNat p 16 1 == 1 then r.dstOwner.getD r.owner else r.owner) ∧
          pgs = (if dNat p 16 1 == 1 then r.dstPages.getD r.pages else r.pages) := by
        rcases Nat.le_one_iff_eq_zero_or_eq_one.1 hside with h | h
        · rw [h]; exact hsrc h
        · rw [h]; exact hdst h
      obtain ⟨hbit, hown, hpgs⟩ := hchoice
      have hrule := lockResolveRule_of_side hr hside h17 hv hbit hown hpgs
      constructor
      · intro hlost
        exact kept_completes_same hk hready (hrule.trans (if_pos (by rw [hlost]; rfl)))
      · rintro hreach hreachPages rfl
        exact kept_starts (f := fun d => lockSend (setReq d (dHandle p)
            { r with home := sysIx (homeSys (takePost s.dev p) (dHandle p)), asks := r.asks ++ [p] })
          (lockHdr d (dHandle p) r.epoch 0 0 0xFF 5 (sysIx (homeSys (takePost s.dev p) (dHandle p))))
          (.resolve (dNat p 16 1 == 1) own pgs (([some r.owner, some r.pages, r.dstOwner, r.dstPages].filterMap id).map (·.dev)))
          (sysIx (homeSys (takePost s.dev p) (dHandle p))).toNat) hk hready
          (hrule.trans (if_neg (by rw [hreach, hreachPages]; decide)))
    case query =>
      intro hready h16 h48 halign hreach
      exact kept_completes (f := fun d => hostWrite d (dNat p 40 8) (queryRecord d (dHandle p) r)) hk hready
        (bargeQueryRule_writes hr h16 h48 halign hreach)
    case rehome =>
      rintro b _ _ hready hpf h16 hadrift hreach hhome hb hhere rfl hroom rfl
      rw [← poster_takePost s.dev p p] at hpf
      exact kept_completes (f := fun d => toOwner (homeEnter
          (setReq d (dHandle p) { r with home := sysIx (selfSys (takePost s.dev p)) }) (dHandle p)
          (newHome r.epoch r.owner r.pages b.history (b.history.length + b.hdr.tokensLeft) (sysIx (selfSys d)) r.fn)) (dHandle p)
          { r with home := sysIx (selfSys (takePost s.dev p)) } (.order p.desc []) 0) hk hready
        (bargeRehomeRule_enters hr hpf h16 hadrift hreach hhome hb hhere hroom)
    case moor =>
      intro hready htier h17 h28 httl hadrift
      exact kept_starts (f := fun d => passOn d (dHandle p) r p []) hk hready
        (requestMoorRule_passes hr htier h17 h28 httl hadrift)
    case resume =>
      intro hready hfields
      constructor
      · intro hnone hmax hflag
        exact kept_completes_same hk hready (requestResumeRule_empty hr hfields hnone hmax hflag)
      · intro bs hsome hfits hadrift hroom hbs
        exact kept_starts (f := fun d => passOn d (dHandle p) r { p with arg := bs }
            ((List.range (dNat p 32 4)).map (fun i => BitVec.ofNat 32 (leAt bs (4 * i) 4)))) hk hready
          (requestResumeRule_passes hr hfields hsome hfits hadrift hroom hbs)
  case free =>
    rintro s p _ hk rfl
    have hposter : poster s.dev p = poster (takePost s.dev p) p := (poster_takePost s.dev p p).symm
    refine ⟨?release, ?submit, ?cancel, ?budget⟩
    case release =>
      intro r hready hpf h16 hr hlive
      rw [hposter] at hpf
      exact kept_completes (f := fun d => finalReq (endAsks
          (lockSend d (lockHdr d (dHandle p) r.epoch 0 rCancel 0xFF 5 r.home) .release r.home.toNat)
          (dHandle p) .cancelled rCancel) (dHandle p) kEnded .cancelled 0) hk hready (bargeReleaseRule_ends hpf h16 hr hlive)
    case submit =>
      intro hready hgood
      constructor
      · intro hempty
        exact kept_completes
          (f := fun d => { d with ended := (poster s.dev p, rqId p) :: d.ended.filter (fun e => e != (poster s.dev p, rqId p)) }) hk hready
          (requestSubmitRule_empty hposter hgood hempty)
      · intro f ring ix part c hprompt hmax hroom hbudget hhome hnew hhere hno hsrc hpart hclass
        exact kept_starts (f := fun d => enterHome
            (setReq { d with ended := d.ended.filter (fun e => e != (poster s.dev p, rqId p)) } (rqId p)
              (newReq d p (poster s.dev p) ring part c)) (rqId p)) hk hready
          (requestSubmitRule_enters hposter hgood hprompt hmax hroom hbudget hhome hnew hhere hno hsrc hpart hclass)
    case cancel =>
      intro hready h16
      constructor
      · intro r hr hfn
        have hrule := requestCancelRule_of_request h16 hr (hfn.trans hposter)
        constructor
        · intro hlive
          exact kept_completes (f := fun d => cancelReq d (dHandle p) rCancel) hk hready (hrule.trans (if_neg (by simp [hlive])))
        · intro hcancelled
          exact kept_completes_same hk hready (hrule.trans (if_pos (Option.isSome_iff_ne_none.2 hcancelled)))
      · intro hr hended
        exact kept_completes_same hk hready (requestCancelRule_of_ended hposter h16 hr hended)
    case budget =>
      rintro _ _ nb hready hpf h8 rfl hfn h28 rfl
      rw [hposter] at hpf
      constructor
      · intro hoff
        exact kept_completes (f := fun d => grantLeases
            { d with budgets := tset d.budgets (dNat p 16 1) { oldBudget p (takePost s.dev p) with metered := false } } (fnId (dNat p 16 1)))
          hk hready (budgetSetRule_off ⟨hpf, h8, hfn, h28⟩ hoff)
      · rintro hon hlimit hlow hhigh rfl
        exact kept_completes (f := fun d => grantLeases
            { d with
              budgets := tset d.budgets (dNat p 16 1)
                ⟨true, dNat p 18 2, dNat p 20 4, dNat p 24 4, 0, (oldBudget p (takePost s.dev p)).reserved⟩ } (fnId (dNat p 16 1)))
          hk hready (budgetSetRule_on ⟨hpf, h8, hfn, h28⟩ hon hlimit hlow hhigh)

end Sys2Proof.Machine

/-! Origin, owner and the timers of serving: 08_serving.md R282, R283, R286, R290 to R298, R302, R305, R307. -/
namespace Sys2Proof.Machine

/-! ## The origin -/

section
variable {d : Dev} {h : LockHdr} {r : ReqSt}

theorem originReq_of_live (hr : getReq d h.request = some r) (hlive : r.phase = .live) (hepoch : h.epoch.toNat = r.epoch) :
    originReq d h = some r := by
  simp [originReq, hr, hlive, hepoch]

theorem originOutput_emits {recs : List OutRec} {len fed : Nat} (hr : originReq d h = some r) (hcancel : r.cancelled = none) :
    originOutput d h recs len fed =
      emitRecs (if fed = 0 then setReq d h.request { r with historyLen := len }
        else chargePositions (setReq d h.request { r with historyLen := len }) h.request fed) h.request recs := by
  simp only [originOutput, hr, hcancel, Option.isSome_none, Bool.false_eq_true, if_false]

theorem outputIn_of_request {recs : List OutRec} {len : Nat} (hr : getReq d h.request = some r) :
    outputIn d h recs len = originOutput d h recs len (len - r.historyLen - recs.length) := by
  simp only [outputIn, hr, Option.map_some, Option.getD_some, lockIn]

theorem originLease_asks {n : Nat} {d1 : Dev} (hr : originReq d h = some r) (hcancel : r.cancelled = none) (hn : 0 < n)
    (hd1 : d1 = setReq d h.request { r with leaseAsk := n }) :
    originLease d h n =
      if budgetFits d1 r.fn (256 * n) then grantLease d1 h.request
      else if holdReport r.classFlags then reqNote (toOwner d1 h.request r (.leaseGrant 0) 0) r kHeld .budgetHeld 0
      else toOwner d1 h.request r (.leaseGrant 0) 0 := by
  subst hd1
  simp only [originLease, hr, hcancel, hn.ne', Option.isSome_none, Bool.false_eq_true, or_self, if_false]

theorem originReport_moored {v : W64} {o g : Option Holder} (hr : originReq d h = some r) (hcancel : r.cancelled = none)
    (hopen : r.ending = none) :
    originReport d h kMoored .ok v o g = endOps (reqNote d r kMoored .ok v.toNat) h.request 0x0502 .ok 0 0 := by
  simp only [originReport, hr, hcancel, hopen, Option.isSome_none, Bool.false_eq_true, or_self, if_false,
    if_neg (show kMoored ≠ kAdrift by decide), if_neg (show kMoored ≠ kEnded by decide), if_true]

theorem originReport_ended {st : Status} {v : W64} {o g : Option Holder} (hr : originReq d h = some r) (hcancel : r.cancelled = none)
    (hopen : r.ending = none) :
    originReport d h kEnded st v o g =
      if r.waiting.isEmpty then finalReq (endAsks d h.request st 0) h.request kEnded st v.toNat
      else setReq d h.request { r with ending := some (st, v) } := by
  simp only [originReport, hr, hcancel, hopen, Option.isSome_none, Bool.false_eq_true, or_self, if_false,
    if_neg (show kEnded ≠ kAdrift by decide), if_true]

end

/-! ## The owner -/

section
variable {d : Dev} {h : LockHdr} {b : Barge}

theorem ownerLease_of_owner (hb : getBarge d h.request = some b) (hepoch : h.epoch.toNat = b.epoch) (hstate : b.state ≠ .adrift)
    (n : Nat) :
    ownerLease d h n =
      if n = 0 then setBarge d { b with holdBudget := true }
      else setBarge d { b with holdBudget := false, asked := false, hdr := { b.hdr with lease := b.hdr.lease + n } } := by
  simp only [ownerLease, hb, hepoch, hstate, ne_eq, not_true_eq_false, or_self, if_false]

theorem ownerRing_of_owner (hb : getBarge d h.request = some b) (hepoch : h.epoch.toNat = b.epoch) (hstate : b.state ≠ .adrift)
    (on : Bool) : ownerRing d h on = setBarge d { b with holdRing := on } := by
  simp only [ownerRing, hb, hepoch, hstate, ne_eq, not_true_eq_false, or_self, if_false]

theorem ownerCancel_of_owner (hb : getBarge d h.request = some b) (hepoch : h.epoch.toNat = b.epoch) (hstate : b.state ≠ .adrift)
    (hsrc : b.src = none) : ownerCancel d h = ownerCancelNow d b h.reason.toNat := by
  simp only [ownerCancel, hb, hepoch, hstate, hsrc, ne_eq, not_true_eq_false, or_self, if_false]

end

/-! ## Doorbells, windows, the consumer word -/

theorem admitRetry_admits {d : Dev} {fn : Fn} {req : W64} {r : ReqSt} (hr : getReq d req = some r) (hfn : r.fn = fn)
    (hheld : r.phase = .held) (hcancel : r.cancelled = none) : admitRetry d fn req = tryAdmit d req := by
  simp only [admitRetry, hr, hfn, hheld, hcancel, and_self, if_true]

theorem cancelWrite_cancels {d : Dev} {fn : Fn} {v req : W64} {r : ReqSt} (hopen : barOpen d fn = true)
    (hnames : doorbellReq d fn v = some req) (hr : getReq d req = some r) (hcancel : r.cancelled = none) :
    cancelWrite d fn v = cancelReq d req rCancel := by
  simp only [cancelWrite, hopen, hnames, hr, hcancel, Option.any_some, Option.isSome_none, Bool.not_true, Bool.false_eq_true, if_false]

theorem cancelWrite_counts {d : Dev} {fn : Fn} {v : W64} (hopen : barOpen d fn = true) (hnames : doorbellReq d fn v = none) :
    cancelWrite d fn v = { d with badCancels := d.badCancels + 1 } := by
  simp only [cancelWrite, hopen, hnames, Bool.not_true, Bool.false_eq_true, if_false]

theorem windowStart_clears {d : Dev} {fn : Fn} {b b1 : Budget} (hb : getBudget d fn = some b) (hb1 : b1 = { b with used := 0 }) :
    windowStart d fn = grantLeases { d with budgets := tset d.budgets fn.val b1 } fn := by
  subst hb1
  simp only [windowStart, hb]

theorem rereadWord_writes {d : Dev} {fn : Fn} {slot k : Nat} {consumed : W32} {r : ReqSt}
    (hr : d.requests.find? (fun e => e.2.fn == fn && e.2.slot == slot) = some (k, r)) (hwait : r.waiting.isEmpty = false)
    (hopen : hostOpen d fn = true) :
    rereadWord d fn slot consumed =
      ringSignal (writeOut (BitVec.ofNat 64 k) (r.waiting.length + 1)
        (setReq { d with host := memWrite d.host (rqOut r.post + 16 * 2 ^ rqLog2 r.post) (leBytes consumed.toNat 4) }
          (BitVec.ofNat 64 k) { r with consumed := consumed })) (BitVec.ofNat 64 k) := by
  simp only [rereadWord, hr, hwait, hopen, Bool.not_true, Bool.or_self, Bool.false_eq_true, if_false]

/-! ## Steps -/

theorem stepAdmit_prefill {d d1 : Dev} {part : PartId} {pr : Program} {rows : List StepRow} {bytes : Nat} {cands : List Barge}
    (hk : keeperRuns d = true) (hpr : tget d.programs (part.val * 2) = some pr) (hactive : (getPart d part.val).state = .active)
    (hrole : roleOf (getPart d part.val) = 1) (hidle : tget d.steps part.val = none) (hawake : d.boot.dormant = false)
    (hjoin : d.health.joinHold.isEmpty = true)
    (hcands : cands = ((d.barges.map (fun e => e.2)).filter (mayStep d part.val)).mergeSort
      (fun a b => decide (stepKey (tickBarge d a) ≤ stepKey (tickBarge d b))))
    (hdst : pr.temps.any (fun t => patchDstate t.patch) = false)
    (hfill : fillStep false (pr.temps.any (fun t => patchEmit t.patch)) false pr cands d pr.batch 0 [] = (d1, rows, bytes)) :
    stepAdmit d part =
      if rows.isEmpty then d1
      else
        let rs := rows.mergeSort (fun a b => decide (a.request.toNat ≤ b.request.toNat))
        let posts := stepPosts d1 part rs pr.temps
        { d1 with steps := tset d1.steps part.val ⟨false, rs, posts, posts.length, emitPlace pr.temps, bytes, false⟩ } := by
  subst hcands
  have hdecode : (roleOf (getPart d part.val) == 2) = false := by rw [hrole]; rfl
  have hprompt : (roleOf (getPart d part.val) == 1) = true := by rw [hrole]; rfl
  simp only [stepAdmit, hdecode, hprompt, b2n, Bool.false_eq_true, if_false, Nat.add_zero, hpr, hactive, bne_self_eq_false, hidle,
    Option.isSome_none, hawake, hk, hjoin, Bool.true_or, Bool.not_true, Bool.or_self, hdst, hfill]

theorem stepFinish_ends {d d1 : Dev} {part : PartId} {y : StepSt} {res : List StepRes} (hy : tget d.steps part.val = some y)
    (hres : res = d.stepResults.filter (fun r => r.part == part)) (hposts : y.posts = []) (hall : y.count ≤ res.length)
    (hd1 : d1 = { d with stepResults := d.stepResults.filter (fun r => r.part != part), steps := tdel d.steps part.val }) :
    stepFinish d part =
      let d2 := match res.find? resFailed with
        | some r => y.rows.foldl (fun d q => failRow d y.rows r.status r.detail.toNat q) d1
        | none => (rowPlaces d y.rows 0 0).foldl (fun (d : Dev) (q : StepRow × Nat × Nat) => commitRow d part.val y q.1 q.2.1 q.2.2) d1
      joinAnswer { d2 with staging := memZeroRange d2.staging (part.val * 2 ^ 56) (2 ^ 56) } := by
  subst hres hd1
  simp only [stepFinish, hy, hposts, List.length_nil, Nat.sub_zero, hall.not_gt, List.isEmpty_nil, not_true_eq_false, false_and, or_self,
    if_false] <;> rfl

/-! ## Deadlines and moorings -/

theorem deadlineAct_barge_late {d d1 : Dev} {req : W64} {b b1 : Barge} (hb : getBarge d req = some b) (hb1 : b1 = tickBarge d b)
    (hhold : b1.holdRing = true) (hstate : b1.state = .underway) (hgone : deadlineGone b1 = true) (hcancel : b1.cancelled = none)
    (hclass : cancelOnLate b1.hdr.classFlags = true)
    (hd1 : d1 = sendLate (setBarge d { b1 with hdr := { b1.hdr with late := true } }) b1) (hr : getReq d1 req = none) :
    deadlineAct d req = d1 := by
  subst hb1 hd1
  have hlate : (((tickBarge d b).holdBudget || (tickBarge d b).holdQuota || (tickBarge d b).holdRing || (tickBarge d b).holdWeir) &&
      (tickBarge d b).state == .underway && deadlineGone (tickBarge d b) && (tickBarge d b).cancelled.isNone) = true := by
    rw [hhold, hstate, hgone, hcancel]; simp
  simp only [deadlineAct, hb, hlate, hclass, if_true, hr]

theorem deadlineAct_request_late {d : Dev} {req : W64} {r : ReqSt} (hb : getBarge d req = none) (hr : getReq d req = some r)
    (hheld : r.phase = .held) (hcancel : r.cancelled = none) (hclass : cancelOnLate r.classFlags = true)
    (hleft : r.left.any (fun n => decide (n ≤ (d.tclk - r.since).toNat)) = true) : deadlineAct d req = cancelReq d req rLate := by
  simp only [deadlineAct, hb, hr, hheld, hcancel, hclass, hleft, and_self, if_true]

theorem mooringEnd_releases {d : Dev} {req : W64} {b : Barge} (hb : getBarge d req = some b) (hmoored : b.state = .moored) :
    mooringEnd d req = releaseBarge (setBarge d { b with hdr := { b.hdr with ttl := 0 } }) b 0 := by
  simp only [mooringEnd, hb, if_pos hmoored]

theorem weirRetryAct_moves {d : Dev} {req : W64} {b : Barge} (hb : getBarge d req = some b) (hhold : b.holdWeir = true)
    (hstate : b.state = .underway) (hsrc : b.src = none) (hstep : b.inStep = false) : weirRetryAct d req = firstXfer d b := by
  simp only [weirRetryAct, hb, hhold, hstate, hsrc, hstep, beq_self_eq_true, Option.isNone_none, Bool.not_false, Bool.and_self, if_true]

/-- Settles O28: the origin's messages, the owner's, then doorbells, windows, steps and deadlines. -/
theorem servingMessagesAndTimers : Obligations.ServingMessagesAndTimers := by
  refine ⟨?origin, ?owner, ?request, ?function, ?admission, ?stepEnd, ?barge⟩
  case origin =>
    intro s h r hk hreq hlive hepoch hcancel
    have hr := originReq_of_live hreq hlive hepoch
    refine ⟨fun recs len => ?output, fun n d1 hn hd1 => ?lease, fun st v o g hopen => ?report⟩
    case output =>
      have houtput := (outputIn_of_request (recs := recs) (len := len) hreq).trans (originOutput_emits hr hcancel)
      constructor
      · intro hlen
        rw [if_pos (by omega)] at houtput
        exact lockAnswer_becomes hk houtput
      · intro hlen
        rw [if_neg (by omega)] at houtput
        exact lockAnswer_becomes hk houtput
    case lease =>
      have hlease := originLease_asks hr hcancel hn hd1
      refine ⟨fun hfits => lockAnswer_becomes hk (hlease.trans (if_pos hfits)),
        fun hlacks hquiet => lockAnswer_becomes hk ?_, fun hlacks hreport => lockAnswer_becomes hk ?_⟩
      · exact hlease.trans ((if_neg (ne_true_of_eq_false hlacks)).trans (if_neg (ne_true_of_eq_false hquiet)))
      · exact hlease.trans ((if_neg (ne_true_of_eq_false hlacks)).trans (if_pos hreport))
    case report =>
      have hended := originReport_ended (st := st) (v := v) (o := o) (g := g) hr hcancel hopen
      exact ⟨lockAnswer_becomes hk (originReport_moored hr hcancel hopen),
        fun hnone => lockAnswer_becomes hk (hended.trans (if_pos (List.isEmpty_iff.2 hnone))),
        fun hsome => lockAnswer_becomes hk (hended.trans (if_neg (fun hempty => hsome (List.isEmpty_iff.1 hempty))))⟩
  case owner =>
    intro s h b hk hb hepoch hstate
    have hlease := ownerLease_of_owner hb hepoch hstate
    exact ⟨fun n hn => lockAnswer_becomes hk ((hlease n).trans (if_neg hn.ne')), lockAnswer_becomes hk ((hlease 0).trans (if_pos rfl)),
      lockAnswer_becomes hk (ownerRing_of_owner hb hepoch hstate true), lockAnswer_becomes hk (ownerRing_of_owner hb hepoch hstate false),
      fun hparty hsrc => lockAnswer_becomes hk ((if_neg hparty).trans (ownerCancel_of_owner hb hepoch hstate hsrc))⟩
  case request =>
    intro s fn req r hk hr hfn hcancel
    exact ⟨fun hheld => lockAnswer_becomes hk (admitRetry_admits hr hfn hheld hcancel),
      fun v hopen hnames => lockAnswer_becomes hk (cancelWrite_cancels hopen hnames hr hcancel),
      fun hheld hb hclass hleft => lockAnswer_becomes hk (deadlineAct_request_late hb hr hheld hcancel hclass hleft)⟩
  case function =>
    intro s fn hk
    refine ⟨fun v hopen hnames => lockAnswer_becomes hk (cancelWrite_counts hopen hnames),
      fun b b1 hb hb1 => lockAnswer_becomes hk (windowStart_clears hb hb1), ?_⟩
    rintro slot k consumed r _ hr hwait hopen rfl
    exact lockAnswer_becomes hk (rereadWord_writes hr hwait hopen)
  case admission =>
    rintro s part pr d1 rows rs bytes cands posts st hk hpr hactive hrole hidle hawake hjoin hcands hdst hfill
    have hadmit := stepAdmit_prefill hk hpr hactive hrole hidle hawake hjoin hcands hdst hfill
    constructor
    · intro hnone
      exact lockAnswer_becomes hk (hadmit.trans (if_pos (List.isEmpty_iff.2 hnone)))
    · rintro hsome rfl rfl rfl
      exact lockAnswer_becomes hk (hadmit.trans (if_neg (fun hempty => hsome (List.isEmpty_iff.1 hempty))))
  case stepEnd =>
    intro s part y res d1 d2 hk hy hres hposts hall hd1
    have hends := stepFinish_ends hy hres hposts hall hd1
    constructor
    · rintro r hbad rfl
      rw [hbad] at hends
      exact lockAnswer_becomes hk hends
    · rintro hgood rfl
      rw [hgood] at hends
      exact lockAnswer_becomes hk hends
  case barge =>
    intro s req b hk hb
    exact ⟨fun b1 hb1 hhold hstate hgone hcancel hclass d1 hd1 hr =>
        lockAnswer_becomes hk (deadlineAct_barge_late hb hb1 hhold hstate hgone hcancel hclass hd1 hr),
      fun hawake hmoored => lockAnswer_becomes hk ((if_neg (ne_true_of_eq_false hawake)).trans (mooringEnd_releases hb hmoored)),
      fun hhold hstate hsrc hstep => lockAnswer_becomes hk (weirRetryAct_moves hb hhold hstate hsrc hstep)⟩

end Sys2Proof.Machine

/-! Classes, step programs, descriptor fetch, output moderation, the loss of a peer: 08_serving.md R284, R285, R295; 09_memory.md R341;
10_pod_fabric.md R356; 13_host.md R460. -/
namespace Sys2Proof.Machine

/-! ## REQ_CLASS and STEP_PROGRAM -/

theorem reqClassRule_of_fields {p : Post} {d : Dev} {f : Fn} (hf : f = poster d p) (h8 : dZero p 8 8 = true) (hclass : dNat p 16 1 ≤ 15)
    (hflags : dNat p 17 1 ≤ 15) (h18 : dZero p 18 2 = true) (h24 : dZero p 24 40 = true) :
    reqClassRule p d =
      if dNat p 20 4 = 0 then .plain .badLength d
      else .plain .ok { d with
        classes := tset d.classes (f.val * 16 + dNat p 16 1) ⟨BitVec.ofNat 8 (dNat p 17 1), dNat p 20 4⟩ } := by
  subst hf
  simp only [reqClassRule, h8, decide_eq_false hclass.not_gt, decide_eq_false hflags.not_gt, h18, h24, Bool.not_true, Bool.or_self,
    Bool.false_eq_true, if_false]

/-- The fields of STEP_PROGRAM that hold for either kind of program. -/
def programFieldsOk (p : Post) (d : Dev) : Prop :=
  dZero p 8 8 = true ∧ dNat p 17 1 ≤ 1 ∧ dZero p 18 2 = true ∧ dZero p 28 4 = true ∧ dZero p 40 24 = true ∧ spPart p ≤ 63 ∧
    mayName d (poster d p) (spPart p) = true ∧ 0 < spCount p ∧ spCount p ≤ 1024 ∧ 0 < spBatch p ∧ spBatch p ≤ 4096

/-- The templates that emit. -/
def emitting (ts : List Template) : List Template := ts.filter (fun t => patchEmit t.patch)

/-- What R285 asks of the role, the chunk and the emitting templates of a program of its kind. -/
def programKindOk (p : Post) (d : Dev) (ts : List Template) : Prop :=
  roleOf (getPart d (spPart p)) = (if spDecode p then 2 else 1) ∧ 0 < spChunk p ∧
    (if spDecode p then decide (256 < spChunk p) else decide (spChunk p < 16) || decide (16384 < spChunk p)) = false ∧
    (spDecode p && (emitting ts).isEmpty) = false

theorem programKindOk_of_kind {p : Post} {d : Dev} {ts : List Template} (hkind : dNat p 17 1 ≤ 1)
    (hprefill : dNat p 17 1 = 0 → roleOf (getPart d (spPart p)) = 1 ∧ 16 ≤ spChunk p ∧ spChunk p ≤ 16384)
    (hdecode : dNat p 17 1 = 1 → roleOf (getPart d (spPart p)) = 2 ∧ 0 < spChunk p ∧ spChunk p ≤ 256 ∧ emitting ts ≠ []) :
    programKindOk p d ts := by
  rcases Nat.le_one_iff_eq_zero_or_eq_one.1 hkind with h | h
  · obtain ⟨hrole, hlow, hhigh⟩ := hprefill h
    have hno : spDecode p = false := by simp [spDecode, h]
    simp only [programKindOk, hno, hrole, Bool.false_eq_true, if_false, hlow.not_gt, hhigh.not_gt, decide_false, Bool.or_self,
      Bool.false_and, and_self, and_true, true_and]
    omega
  · obtain ⟨hrole, hpos, hhigh, hemit⟩ := hdecode h
    have hyes : spDecode p = true := by simp [spDecode, h]
    have hsome : (emitting ts).isEmpty = false := by simpa using hemit
    simp only [programKindOk, hyes, hrole, hpos, hhigh.not_gt, hsome, if_true, decide_false, Bool.and_false, and_self]

theorem stepProgramRule_sets {p : Post} {d : Dev} {ts : List Template} (hfields : programFieldsOk p d) (hts : ts = templatesOf d p)
    (hkind : programKindOk p d ts) (hresv : patchResv p = false) (hone : (emitting ts).length ≤ 1)
    (hsample : (emitting ts).any (fun t => fNat t.desc 0 2 != 0x0108) = false)
    (hgood : firstBad (ts.map (templateBad d (partId (spPart p)))) = none) :
    stepProgramRule p d =
      .plain .ok { d with programs := tset d.programs (spPart p * 2 + b2n (spDecode p)) ⟨ts, spBatch p, spChunk p⟩ } := by
  subst hts
  obtain ⟨h8, h17, h18, h28, h40, hpart, hmay, hcount, hcountMax, hbatch, hbatchMax⟩ := hfields
  obtain ⟨hrole, hchunk, hchunkMax, hemit⟩ := hkind
  rw [emitting] at hone hsample hemit
  simp only [stepProgramRule, h8, decide_eq_false h17.not_gt, h18, h28, h40, decide_eq_false hpart.not_gt, hmay, hcount.ne', hbatch.ne',
    hchunk.ne', or_self, decide_eq_false hcountMax.not_gt, decide_eq_false hbatchMax.not_gt, hrole, bne_self_eq_false, hresv, hchunkMax,
    hsample, decide_eq_false hone.not_gt, hemit, hgood, Bool.not_true, Bool.or_self, Bool.false_eq_true, if_false]

/-! ## DESCRIPTOR_FETCH -/

theorem fetchMany_closed {d : Dev} {f : Fn} {r : Nat} (n : Nat) (h : fetchOpen d f r = false) : fetchMany f r n d = d := by
  cases n with
  | zero => rfl
  | succ n => simp only [fetchMany, h, Bool.not_false, if_true]

theorem fetchMany_takes {d : Dev} {f : Fn} {r : Nat} (n : Nat) (hopen : fetchOpen d f r = true)
    (hplain : nextDesc d (getRing d f r) % 65536 ≠ 0x0600) : fetchMany f r (n + 1) d = fetchMany f r n (fetchOne d f r) := by
  simp only [fetchMany, hopen, beq_eq_false_iff_ne.2 hplain, Bool.not_true, Bool.false_and, Bool.false_eq_true, if_false]

/-- The ring after the fetch of a descriptor. -/
def fetchedRing (d : Dev) (f : Fn) (R : RingSt) (desc : BitVec 512) (p : Post) : RingSt :=
  { R with
    fetched := R.fetched + 1, fetchNo := R.fetchNo + 1
    queue := if (fetchBad d R desc).isSome then R.queue else R.queue ++ [p]
    flight := R.flight ++ [⟨R.fetchNo, (getFn d f).fetchSeq, BitVec.ofNat 16 (opcode p), dFlags p,
      if (hostLineBad d (entryAddr R) 64).isSome then Config.lostTag R.fetchNo else dTag p⟩] }

section
variable {d d2 : Dev} {f : Fn} {r : Nat} {R R1 : RingSt} {desc : BitVec 512} {p : Post}

theorem fetchOne_queues (hR : R = getRing d f r) (hdesc : desc = nextDesc d R) (hp : p = fetchPost d (.ring f r R.fetchNo) desc)
    (hR1 : R1 = fetchedRing d f R desc p)
    (hd2 : d2 = setFn (setRing d f r R1) f { getFn (setRing d f r R1) f with fetchSeq := (getFn d f).fetchSeq + 1 })
    (hgood : fetchBad d R desc = none) : fetchOne d f r = d2 := by
  subst hd2 hR1 hp hdesc hR
  simp only [fetchOne, hgood, fetchedRing]

theorem fetchOne_unreadable {l : Nat} (hR : R = getRing d f r) (hdesc : desc = nextDesc d R)
    (hp : p = fetchPost d (.ring f r R.fetchNo) desc) (hR1 : R1 = fetchedRing d f R desc p)
    (hd2 : d2 = setFn (setRing d f r R1) f { getFn (setRing d f r R1) f with fetchSeq := (getFn d f).fetchSeq + 1 })
    (hbad : fetchBad d R desc = some l) (hread : hostLineBad d (entryAddr R) 64 = none) (hchain : chainFailed d2 p = none) :
    fetchOne d f r = completeRing d2 f r R.fetchNo (dTag p) (dTag p) (dFlags p) .memUncorrectable
      (BitVec.ofNat 64 (lineDetail 3 0 l)) (BitVec.ofNat 64 (stopExtra (opcode p))) := by
  subst hd2 hR1 hp hdesc hR
  simp only [fetchedRing, hbad, hread, Option.isSome_none, Bool.false_eq_true, if_false] at hchain
  simp only [fetchOne, hbad, hread, fetchedRing, Option.isSome_none, Bool.false_eq_true, if_false, hchain]

end

/-! ## OUTPUT_MOD_TIMER -/

theorem execOutputModTimer_no_request {s : State} {fn : Fn} {slot : Nat}
    (h : s.dev.requests.find? (fun e => e.2.fn == fn && e.2.slot == slot) = none) : execOutputModTimer fn slot s = answer s s.dev := by
  simp only [execOutputModTimer, h]

theorem execOutputModTimer_of_request {s : State} {fn : Fn} {slot k : Nat} {r : ReqSt}
    (h : s.dev.requests.find? (fun e => e.2.fn == fn && e.2.slot == slot) = some (k, r)) :
    execOutputModTimer fn slot s =
      if r.modTimer then
        answer s (fireVector (setReq s.dev (BitVec.ofNat 64 k) { r with modPend := 0, modTimer := false }) fn (rqVector r.post))
      else answer s s.dev := by
  simp only [execOutputModTimer, h]

/-! ## PEER_LOSS_TIMEOUT -/

theorem peerLoss_of_no_peer {d : Dev} {m : DevIx} (h : isMember d m.val = false ∨ m = selfDev d ∨ isLost d m.val = true) :
    peerLoss d m.val = d := by
  have hno : (!isMember d m.val || m.val == (selfDev d).val || isLost d m.val) = true := by
    rcases h with h | h | h
    · rw [h]; rfl
    · rw [← h]; simp
    · rw [h]; simp
  simp only [peerLoss, hno, if_true]

theorem peerLoss_of_peer {d d1 d2 d3 d4 : Dev} {m : DevIx} {sys : Nat} (hsys : sys = selfPod d * 64 + m.val)
    (hmember : isMember d m.val = true) (hother : m ≠ selfDev d) (hlive : isLost d m.val = false) (hrepl : coordinator d ≠ m.val)
    (hd1 : d1 = raise { d with peerLost := d.peerLost ||| BitVec.ofNat 64 (2 ^ m.val), beats := tdel d.beats m.val } 0x0104
      (unitOf 0x0B m.val) 0)
    (hd2 : d2 = replPeerLost (qpsLost (composeLost (legsLost (podLost d1 m.val) m.val) sys) sys) false m.val)
    (hd3 : d3 = asksLost (bargesHomeLost (homesLost d2 sys) sys) sys)
    (hd4 : d4 = { d3 with health := { d3.health with grants := d3.health.grants.filter (fun g => g.1 != m.val) } }) :
    peerLoss d m.val = admitLost d4 m.val := by
  have hpeer : (!isMember d m.val || m.val == (selfDev d).val || isLost d m.val) = false := by
    rw [hmember, hlive, beq_eq_false_iff_ne.2 (fun h => hother (Fin.ext h))]; rfl
  rw [hd4, hd3, hd2, hd1, hsys]
  simp only [peerLoss, hpeer, beq_eq_false_iff_ne.2 hrepl, Bool.false_eq_true, if_false]

/-- Settles O29: the two descriptors, the fetch, the moderation timer, the loss of a member. -/
theorem classesProgramsFetchAndLoss : Obligations.ClassesProgramsFetchAndLoss := by
  refine ⟨?reqClass, ?program, ?fetch, ?fetchOne, ?moderation, ?loss⟩
  case reqClass =>
    intro s p c1 hready h8 hclass hflags h18 h24
    have hrule := reqClassRule_of_fields (poster_takePost s.dev p p).symm h8 hclass hflags h18 h24
    constructor
    · intro hnone
      exact answer_completes (f := id) hready (hrule.trans (if_pos hnone))
    · rintro hsome rfl
      exact answer_completes (f := fun d => { d with
        classes := tset d.classes ((poster s.dev p).val * 16 + dNat p 16 1) ⟨BitVec.ofNat 8 (dNat p 17 1), dNat p 20 4⟩ }) hready
        (hrule.trans (if_neg hsome))
  case program =>
    rintro s p _ ts _ hready rfl h8 h17 h18 h28 h40 hpart hmay hcount hcountMax hbatch hbatchMax hprefill hdecode hts hresv hone hsample
      hgood rfl
    rw [← poster_takePost s.dev p p] at hmay
    have hkind := programKindOk_of_kind (ts := ts) h17 hprefill hdecode
    have hrule := stepProgramRule_sets ⟨h8, h17, h18, h28, h40, hpart, hmay, hcount, hcountMax, hbatch, hbatchMax⟩ hts hkind hresv hone
      hsample hgood
    have hplace : b2n (spDecode p) = dNat p 17 1 := by
      rcases Nat.le_one_iff_eq_zero_or_eq_one.1 h17 with h | h <;> simp [spDecode, b2n, h]
    rw [hplace] at hrule
    exact answer_completes (f := fun d => { d with
      programs := tset d.programs (spPart p * 2 + dNat p 17 1) ⟨ts, spBatch p, spChunk p⟩ }) hready hrule
  case fetch =>
    rintro s f r poison _ rfl
    exact ⟨rfl, fun hclosed => answer_becomes (congrArg (rejectBad f r) (fetchMany_closed 8 hclosed))⟩
  case fetchOne =>
    intro d f r n R R1 desc p d2 hopen hR hdesc hplain hp hR1 hd2
    have htakes := fetchMany_takes (d := d) (f := f) (r := r) n hopen (by rw [← hR, ← hdesc]; exact hplain)
    exact ⟨fun hgood => htakes.trans (congrArg (fetchMany f r n) (fetchOne_queues hR hdesc hp hR1 hd2 hgood)),
      fun l hbad hread hchain => htakes.trans
        (congrArg (fetchMany f r n) (fetchOne_unreadable hR hdesc hp hR1 hd2 hbad hread hchain))⟩
  case moderation =>
    intro s fn slot
    refine ⟨fun hnone => (execOutputModTimer_no_request hnone).trans (answer_becomes rfl), fun k r hr => ?_⟩
    have hexec := execOutputModTimer_of_request hr
    exact ⟨fun hoff => hexec.trans ((if_neg (ne_true_of_eq_false hoff)).trans (answer_becomes rfl)),
      fun hon => hexec.trans ((if_pos hon).trans (answer_becomes rfl))⟩
  case loss =>
    intro s m sys d1 d2 d3 d4 hsys
    constructor
    · intro hno
      exact answer_becomes (congrArg (settle 4096) (peerLoss_of_no_peer hno))
    · intro hmember hother hlive hrepl hd1 hd2 hd3 hd4
      exact answer_becomes (congrArg (settle 4096) (peerLoss_of_peer hsys hmember hother hlive hrepl hd1 hd2 hd3 hd4))

end Sys2Proof.Machine

/-! Health, self-test slices, votes, lockstep, failover and repair: 14_reliability.md R484 to R499. -/
namespace Sys2Proof.Machine

/-! ## Windows and grants -/

theorem windowEnd_of_not_running {d : Dev} (h : d.boot.phase ≠ .ready ∨ d.boot.dormant = true) : windowEnd d = d := by
  have hoff : (d.boot.phase != .ready || d.boot.dormant) = true := by
    rcases h with h | h
    · rw [bne_iff_ne.2 h]; rfl
    · rw [h, Bool.or_true]
  simp only [windowEnd, hoff, if_true]

theorem windowEnd_judges {d d1 : Dev} (hready : d.boot.phase = .ready) (hawake : d.boot.dormant = false)
    (hd1 : d1 = (List.range 181).foldl (partWindow ((List.range 181).map (windowScore d))) d) :
    windowEnd d = { d1 with health := { d1.health with counts := [], tsCorr := [], window := d1.health.window + 1 } } := by
  have hon : (d.boot.phase != .ready || d.boot.dormant) = false := by rw [hready, hawake]; rfl
  rw [windowEnd, if_neg (ne_true_of_eq_false hon), hd1]

theorem execHealthGrantRequest_decides {s : State} {m : DevIx} (part : Nat) (hcoord : isCoordinator s.dev = true)
    (hmember : isMember s.dev m.val = true) (hlive : isLost s.dev m.val = false) :
    execHealthGrantRequest m part s =
      answer s (send (decideGrant s.dev m.val part).2 (.grantAnswer m part (decideGrant s.dev m.val part).1)) := by
  simp only [execHealthGrantRequest, hcoord, hmember, hlive, Bool.not_true, Bool.or_self, Bool.false_eq_true, if_false]

theorem decideGrant_grants {d : Dev} {dev part : Nat} {gs : List (Nat × Nat)} (hgs : gs = d.health.grants.filter (fun g => g != (dev, part)))
    (hroom : gs.length < cfgField d .podSpares 0 8) :
    decideGrant d dev part = (true, { d with health := { d.health with grants := gs ++ [(dev, part)] } }) := by
  subst hgs
  exact if_pos hroom

theorem decideGrant_refuses {d : Dev} {dev part : Nat} {gs : List (Nat × Nat)} (hgs : gs = d.health.grants.filter (fun g => g != (dev, part)))
    (hfull : cfgField d .podSpares 0 8 ≤ gs.length) :
    decideGrant d dev part = (false, { d with health := { d.health with grants := gs } }) := by
  subst hgs
  exact if_neg hfull.not_gt

theorem execExpelGrant_of_asker {s : State} {part : Nat} {d1 : Dev} (hasks : s.dev.health.asks.contains part = true)
    (hd1 : d1 = { s.dev with health := { s.dev.health with asks := s.dev.health.asks.filter (fun i => i != part) } })
    (hwatch : (getHealth s.dev part).state = .watch) (granted : Bool) :
    execExpelGrant part granted s = answer s (if granted then expelPart d1 part true else capPart d1 part) := by
  subst hd1
  simp only [execExpelGrant, hasks, hwatch, Bool.not_true, Bool.false_eq_true, if_false]

/-! ## Self-test slices -/

theorem execSelftestSliceStart_of_fit {s : State} {group : Fin 18} {sl : Slice} (hready : s.dev.boot.phase = .ready)
    (hawake : s.dev.boot.dormant = false) (hen : sliceEn s.dev = true) (hfits : sliceFits s.dev group.val sl = true) :
    execSelftestSliceStart group sl s =
      if (tget s.dev.health.slices group.val).isSome then answer s s.dev
      else answer s { s.dev with health := { s.dev.health with slices := tset s.dev.health.slices group.val sl } } := by
  simp only [execSelftestSliceStart, hready, hawake, hen, hfits, bne_self_eq_false, Bool.not_true, Bool.or_false, Bool.false_or]

theorem execSelftestSliceEnd_of_slice {s : State} {group : Fin 18} {sl : Slice} {d1 : Dev}
    (hsl : tget s.dev.health.slices group.val = some sl)
    (hd1 : d1 = { s.dev with health := { s.dev.health with slices := tdel s.dev.health.slices group.val } }) (pass : Bool) :
    execSelftestSliceEnd group pass s = answer s (if pass then d1
      else raise (charge (fenceBlock d1 sl) (slicePart sl) wRetrain 1) 0x030C (unitOfPart (slicePart sl)) (Config.sliceCode sl.kind)) := by
  subst hd1
  simp only [execSelftestSliceEnd, hsl]

/-! ## The vote sweep keeps the lock bits that it has healed -/

theorem foldl_keeps_locks {α : Type} {f : Dev → α → Dev} (hf : ∀ d x, (f d x).locks = d.locks) (l : List α) (d : Dev) :
    (l.foldl f d).locks = d.locks := by
  induction l generalizing d with
  | nil => rfl
  | cons x xs ih => exact (ih (f d x)).trans (hf d x)

@[simp] theorem charge_locks (d : Dev) (i w k : Nat) : (charge d i w k).locks = d.locks := by
  simp only [charge]
  split <;> rfl

@[simp] theorem setPart_locks (d : Dev) (n : Nat) (x : PartSt) : (setPart d n x).locks = d.locks := rfl

@[simp] theorem postVotes_locks (d : Dev) (off lo : Nat) (bs : List Nat) : (postVotes d off lo bs).locks = d.locks :=
  foldl_keeps_locks (fun d b => by simp) bs d

@[simp] theorem sweepPart_locks (d : Dev) (n : Nat) : (sweepPart d n).locks = d.locks := by
  unfold sweepPart
  split
  · rfl
  · dsimp only
    split <;> simp

@[simp] theorem sweepKey_locks (d : Dev) (n : Nat) : (sweepKey d n).locks = d.locks := by
  unfold sweepKey
  split
  · rfl
  · dsimp only
    split
    · rfl
    · simp

theorem voteBits_same {w : Nat} (v : BitVec w) : voteBits (Tri.same v) = v := by simp [voteBits, Tri.same]

theorem voteSweep_locks (d : Dev) (us : List Upset) : (voteSweep d us).locks = healed (us.foldl upset d).locks := by
  rw [voteSweep, foldl_keeps_locks sweepKey_locks]
  exact congrArg healed ((foldl_keeps_locks sweepPart_locks _ _).trans (postVotes_locks _ _ _ _))

/-! ## Lockstep and failover -/

theorem lockstep_ignored {d : Dev} {count : W64}
    (h : lockstepEn d = false ∨ d.health.halted = true ∨ d.health.dead = true ∨ d.boot.lkpStarted = false) : lockstep d count = d := by
  have hoff : (!lockstepEn d || d.health.halted || d.health.dead || !d.boot.lkpStarted) = true := by
    rcases h with h | h | h | h <;> rw [h] <;> simp
  rw [lockstep, if_pos hoff]

theorem lockstep_halts {d d1 : Dev} {count : W64} (hen : lockstepEn d = true) (hrun : d.health.halted = false) (hlive : d.health.dead = false)
    (hstart : d.boot.lkpStarted = true)
    (hd1 : d1 = { d with health := { d.health with halted := true, dead := !d.health.standbyOk, failingOver := false } })
    (hauto : lkpAuto d = false) :
    lockstep d count = raise (assertAlert d1) 0x0305 (unitOf 9 (activePair d)) count.toNat := by
  have hon : (!lockstepEn d || d.health.halted || d.health.dead || !d.boot.lkpStarted) = false := by
    rw [hen, hrun, hlive, hstart]; rfl
  rw [lockstep, if_neg (ne_true_of_eq_false hon), hd1]
  exact if_neg (ne_true_of_eq_false hauto)

theorem startFailover_ignored {d : Dev}
    (h : d.health.standbyOk = false ∨ d.health.dead = true ∨ d.health.failingOver = true ∨ d.boot.phase ≠ .ready) : startFailover d = d := by
  have hoff : (!d.health.standbyOk || d.health.dead || d.health.failingOver || d.boot.phase != .ready) = true := by
    rcases h with h | h | h | h
    · rw [h]; simp
    · rw [h]; simp
    · rw [h]; simp
    · rw [bne_iff_ne.2 h]; simp
  rw [startFailover, if_pos hoff]

theorem startFailover_runs {d : Dev} (hstandby : d.health.standbyOk = true) (hlive : d.health.dead = false)
    (hfree : d.health.failingOver = false) (hready : d.boot.phase = .ready) : startFailover d = failover d := by
  have hon : (!d.health.standbyOk || d.health.dead || d.health.failingOver || d.boot.phase != .ready) = false := by
    rw [hstandby, hlive, hfree, hready]; rfl
  rw [startFailover, if_neg (ne_true_of_eq_false hon)]

theorem failover_queues_empty (d : Dev) :
    (failover d).fns.all (fun e => e.2.rings.all (fun r => r.2.queue.isEmpty)) = true := by
  simp only [failover, List.all_map, List.all_eq_true, Function.comp_apply, List.isEmpty_nil, implies_true]

theorem execFailoverResume_resumes {s : State} (h : s.dev.health.failingOver = true) :
    execFailoverResume s =
      answer s (raise { s.dev with health := { s.dev.health with failingOver := false } } 0x0306 (unitOf 9 (activePair s.dev)) 0) := by
  simp only [execFailoverResume, h, if_true]

theorem execFailoverResume_ignored {s : State} (h : s.dev.health.failingOver = false) : execFailoverResume s = answer s s.dev := by
  simp only [execFailoverResume, h, Bool.false_eq_true, if_false]

/-! ## HBM lanes -/

theorem execHbmLaneFailing_off {s : State} {stack : Fin 12} {channel lane : Nat} (h : hbmAuto s.dev = false) :
    execHbmLaneFailing stack channel lane s = answer s s.dev := by
  simp only [execHbmLaneFailing, h, Bool.not_false, Bool.true_or, if_true]

theorem execHbmLaneFailing_repairs {s : State} {stack : Fin 12} {channel lane n : Nat} {d1 : Dev} (hauto : hbmAuto s.dev = true)
    (hchannel : channel < 32) (hlane : lane < 256) (hsubst : substHbmLane s.dev stack.val channel lane = some (d1, n)) :
    execHbmLaneFailing stack channel lane s = answer s (postSpared d1 (unitOf 4 stack.val) n) := by
  simp only [execHbmLaneFailing, hauto, decide_eq_false hchannel.not_ge, decide_eq_false hlane.not_ge, Bool.not_true, Bool.or_self,
    Bool.false_eq_true, if_false, hsubst]

/-! ## HLT_REPAIR -/

/-- The fields of HLT_REPAIR that hold for every action. -/
def repairFieldsOk (p : Post) (d : Dev) : Prop := (poster d p).val = 0 ∧ dZero p 8 8 = true ∧ dZero p 24 40 = true

section
variable {p : Post} {d : Dev}

theorem repairRule_substitute (h : repairFieldsOk p d) (haction : hrAction p = 1) (failed : List Nat) :
    repairRule failed p d = repairSubst p d := by
  obtain ⟨hpf, h8, h24⟩ := h
  simp only [repairRule, hpf, h8, h24, bne_self_eq_false, Bool.not_true, Bool.or_self, Bool.false_eq_true, if_false, haction]

theorem repairRule_unfence (h : repairFieldsOk p d) (haction : hrAction p = 2) (failed : List Nat) :
    repairRule failed p d = repairUnfence p d := by
  obtain ⟨hpf, h8, h24⟩ := h
  simp only [repairRule, hpf, h8, h24, bne_self_eq_false, Bool.not_true, Bool.or_self, Bool.false_eq_true, if_false, haction]

theorem repairRule_clear (h : repairFieldsOk p d) (haction : hrAction p = 3) (failed : List Nat) :
    repairRule failed p d = repairClear p d := by
  obtain ⟨hpf, h8, h24⟩ := h
  simp only [repairRule, hpf, h8, h24, bne_self_eq_false, Bool.not_true, Bool.or_self, Bool.false_eq_true, if_false, haction]

theorem repairRule_test (h : repairFieldsOk p d) (haction : hrAction p = 4) (failed : List Nat) :
    repairRule failed p d = repairTest failed p d := by
  obtain ⟨hpf, h8, h24⟩ := h
  simp only [repairRule, hpf, h8, h24, bne_self_eq_false, Bool.not_true, Bool.or_self, Bool.false_eq_true, if_false, haction]

/-- A tile that SUBSTITUTE may replace: fenced, its rails at rest. -/
def tileRepairable (p : Post) (d : Dev) : Prop :=
  hrKind p = 1 ∧ hrIndex p < 64 ∧ hrSub p = 0 ∧ tileFenced d (hrIndex p) = true ∧ unsettled d 1 (physOf d (hrIndex p)) = false

theorem repairSubst_tile (h : tileRepairable p d) {d1 : Dev} {n : Nat} (hsubst : substTile d (hrIndex p) = some (d1, n)) :
    repairSubst p d = .done .ok n 0 d1 := by
  obtain ⟨hkind, hix, hsub, hfenced, hrest⟩ := h
  simp only [repairSubst, hkind, decide_eq_false hix.not_ge, hsub, hfenced, hrest, hsubst, bne_self_eq_false, Bool.true_or, Bool.not_true,
    Bool.or_self, Bool.false_eq_true, if_false]

theorem repairSubst_no_spare (h : tileRepairable p d) (hsubst : substTile d (hrIndex p) = none) :
    repairSubst p d = .plain .quotaExceeded d := by
  obtain ⟨hkind, hix, hsub, hfenced, hrest⟩ := h
  simp only [repairSubst, hkind, decide_eq_false hix.not_ge, hsub, hfenced, hrest, hsubst, bne_self_eq_false, Bool.true_or, Bool.not_true,
    Bool.or_self, Bool.false_eq_true, if_false]

theorem repairUnfence_part {i : Nat} (hsub : hrSub p = 0) (hfence : unfenceable d (hrKind p) (hrIndex p) = true)
    (hrest : unsettled d (hrKind p) (hrIndex p) = false) (hi : partOfUnit (hrKind p) (hrIndex p) = some i) :
    repairUnfence p d = .done .ok i 0 (unflag (unfence d (hrKind p) (hrIndex p)) i) := by
  simp only [repairUnfence, hsub, hfence, hrest, hi, bne_self_eq_false, Bool.not_true, Bool.or_self, Bool.false_eq_true, if_false]

theorem repairClear_part {i : Nat} (hsub : hrSub p = 0) (hi : partOfUnit (hrKind p) (hrIndex p) = some i) :
    repairClear p d = .done .ok i 0 (unflag d i) := by
  simp only [repairClear, hsub, hi, bne_self_eq_false, Bool.false_eq_true, if_false]

theorem repairTest_of_fields (hkind : hrKind p = 0) (hsub : hrSub p = 0) (failed : List Nat) :
    repairTest failed p d =
      if !selftestOpen d then .plain .badDescriptor d
      else .done .ok (dedup (failed.filter (fun i => decide (i < 181)))).length 0 (fullTest d failed) := by
  simp only [repairTest, hkind, hsub, bne_self_eq_false, Bool.false_or]

end

theorem fullSelftest_completes {s : State} {p : Post} {failed : List Nat} (hready : ready s.dev p 0x04A1 = true)
    (hfields : repairFieldsOk p (takePost s.dev p)) (haction : hrAction p = 4) (hkind : hrKind p = 0) (hsub : hrSub p = 0)
    (hopen : selftestOpen (takePost s.dev p) = true) :
    exec (.hltRepairFullSelftest p failed) s =
      completes s p (fun d => fullTest d failed) .ok (dedup (failed.filter (fun i => decide (i < 181)))).length 0 := by
  have hrule := (repairRule_test hfields haction failed).trans (repairTest_of_fields hkind hsub failed)
  rw [if_neg (by rw [hopen]; decide)] at hrule
  have hdone := answer_completes (f := fun d => fullTest d failed) hready hrule
  exact hdone

/-- Settles O30: windows and grants, slices, the sweep, lockstep and failover, lanes, HLT_REPAIR action by action. -/
theorem healthAndRepair : Obligations.HealthAndRepair := by
  refine ⟨?window, ?grant, ?expel, ?sliceStart, ?sliceEnd, ?sweep, ?lockstep, ?lane, ?repair⟩
  case window =>
    exact fun s => ⟨fun hoff => answer_becomes (windowEnd_of_not_running hoff),
      fun d1 hready hawake hd1 => answer_becomes (windowEnd_judges hready hawake hd1)⟩
  case grant =>
    intro s m part gs hcoord hmember hlive hgs
    have hexec := execHealthGrantRequest_decides part hcoord hmember hlive
    constructor
    · intro hroom
      rw [decideGrant_grants hgs hroom] at hexec
      exact hexec.trans (answer_becomes rfl)
    · intro hfull
      rw [decideGrant_refuses hgs hfull] at hexec
      exact hexec.trans (answer_becomes rfl)
  case expel =>
    intro s part d1 hasks hd1 hwatch
    have hexec := execExpelGrant_of_asker hasks hd1 hwatch
    exact ⟨(hexec true).trans (answer_becomes rfl), (hexec false).trans (answer_becomes rfl)⟩
  case sliceStart =>
    intro s group sl hready hawake hen hfits
    have hexec := execSelftestSliceStart_of_fit hready hawake hen hfits
    constructor
    · intro hnone
      rw [hnone] at hexec
      exact hexec.trans (answer_becomes rfl)
    · intro hsome
      exact hexec.trans ((if_pos (Option.isSome_iff_ne_none.2 hsome)).trans (answer_becomes rfl))
  case sliceEnd =>
    intro s group sl d1 hsl hd1
    have hexec := execSelftestSliceEnd_of_slice hsl hd1
    exact ⟨(hexec true).trans (answer_becomes rfl), (hexec false).trans (answer_becomes rfl)⟩
  case sweep =>
    intro s us
    refine ⟨voteSweep s.dev us, rfl, ?_⟩
    rw [voteSweep_locks]
    exact ⟨rfl, rfl, voteBits_same _⟩
  case lockstep =>
    intro s count
    refine ⟨fun hoff => answer_becomes (lockstep_ignored hoff),
      fun d1 hen hrun hlive hstart hd1 hauto => answer_becomes (lockstep_halts hen hrun hlive hstart hd1 hauto),
      fun hoff => answer_becomes (startFailover_ignored hoff), ?_,
      fun h => (execFailoverResume_resumes h).trans (answer_becomes rfl), fun h => (execFailoverResume_ignored h).trans (answer_becomes rfl)⟩
    intro hstandby hlive hfree hready
    exact ⟨failover s.dev, congrArg (answer s) (startFailover_runs hstandby hlive hfree hready), rfl, rfl, rfl, failover_queues_empty s.dev⟩
  case lane =>
    exact fun s stack channel lane d1 n => ⟨fun hoff => (execHbmLaneFailing_off hoff).trans (answer_becomes rfl),
      fun hauto hchannel hlane hsubst => (execHbmLaneFailing_repairs hauto hchannel hlane hsubst).trans (answer_becomes rfl)⟩
  case repair =>
    rintro s p _ hready rfl hpf h8 h24
    rw [← poster_takePost s.dev p p] at hpf
    have hfields : repairFieldsOk p (takePost s.dev p) := ⟨hpf, h8, h24⟩
    refine ⟨?substitute, ?unfence, ?clear, ?test, ?busy⟩
    case substitute =>
      intro haction hkind hix hsub hfenced hrest
      have hrule := repairRule_substitute hfields haction []
      have htile : tileRepairable p (takePost s.dev p) := ⟨hkind, hix, hsub, hfenced, hrest⟩
      exact ⟨fun d1 n hsubst => answer_completes (f := fun _ => d1) hready (hrule.trans (repairSubst_tile htile hsubst)),
        fun hnone => answer_completes (f := id) hready (hrule.trans (repairSubst_no_spare htile hnone))⟩
    case unfence =>
      intro i haction hsub hfence hrest hi
      exact answer_completes (f := fun d => unflag (unfence d (hrKind p) (hrIndex p)) i) hready
        ((repairRule_unfence hfields haction []).trans (repairUnfence_part hsub hfence hrest hi))
    case clear =>
      intro i haction hsub hi
      exact answer_completes (f := fun d => unflag d i) hready
        ((repairRule_clear hfields haction []).trans (repairClear_part hsub hi))
    case test =>
      exact fun failed haction hkind hsub hopen => fullSelftest_completes hready hfields haction hkind hsub hopen
    case busy =>
      intro failed haction hkind hsub hbusy
      exact answer_completes (f := id) hready ((repairRule_test hfields haction failed).trans
        ((repairTest_of_fields hkind hsub failed).trans (if_pos (by rw [hbusy]; rfl))))

end Sys2Proof.Machine

/-! Admission of a device to its pod: 14_reliability.md R500, R501, R503, R504; 10_pod_fabric.md R357. -/
namespace Sys2Proof.Machine

/-! ## ADMIT at the joining device -/

/-- What R500 checks of an ADMIT before the quarantine of its link. -/
def admitChecks (p : Post) (d : Dev) : Prop :=
  (poster d p).val = 0 ∧ dZero p 8 8 = true ∧ dZero p 18 2 = true ∧ dZero p 40 24 = true ∧ adPartner p ≤ 63 ∧ 0 < adPairs p ∧
    adPairs p ≤ 64 ∧ 100 ≤ adBarrier p ∧ adBarrier p ≤ 1000000 ∧ d.health.admState.phase = .idle ∧ isMember d (adPartner p) = true ∧
    selftestOpen d = true ∧
    (admitPairs p).all (fun e => decide (e.1 < 64) && decide (e.2 < 64) && (getPart d e.1).state == .active) = true

theorem admitRule_of_checks {p : Post} {d : Dev} (h : admitChecks p d) (failed : List Nat) :
    admitRule failed p d = if linkQuarantine d (adPartner p) then .plain .configMismatch d else admitStart p failed d := by
  obtain ⟨hpf, h8, h18, h40, hpartner, hpairs, hpairsMax, hbarrier, hbarrierMax, hidle, hmember, hopen, hactive⟩ := h
  have hsome : ¬(adPairs p = 0 ∨ adBarrier p = 0) := by omega
  simp only [admitRule, hpf, h8, h18, h40, decide_eq_false hpartner.not_gt, if_neg hsome, decide_eq_false hpairsMax.not_gt,
    decide_eq_false hbarrier.not_gt, decide_eq_false hbarrierMax.not_gt, hidle, hmember, hopen, hactive, bne_self_eq_false,
    beq_self_eq_true, Bool.true_or, Bool.not_true, Bool.or_self, Bool.false_eq_true, if_false]

theorem admitStart_fails {p : Post} {d d1 : Dev} {failed is : List Nat} {i : Nat}
    (hd1 : d1 = fullTest (raise d 0x0801 (unitOf 5 0) (adPartner p)) failed)
    (hfails : failed.filter (fun i => decide (i < 181)) = i :: is) :
    admitStart p failed d = .done .internal i 0 (setAdmit d1 AdmSt.reset) := by
  subst hd1
  simp only [admitStart, hfails]

theorem admitStart_opens {p : Post} {d d1 : Dev} {failed : List Nat} {pairs : List (PartId × PartId)} {a : AdmSt}
    (hd1 : d1 = fullTest (raise d 0x0801 (unitOf 5 0) (adPartner p)) failed) (hpass : failed.filter (fun i => decide (i < 181)) = [])
    (hpairs : pairs = (admitPairs p).map (fun e => (partId e.1, partId e.2)))
    (ha : a = { phase := .loading, post := some p, partner := devIx (adPartner p), pairs := pairs, barrier := adBarrier p
                group := BitVec.ofNat 64 (dNat p 24 8), arrived := 0, bytes := 0 }) :
    admitStart p failed d = .later (send (setAdmit d1 a) (.admitOpen a.partner pairs (pairs.map (fun e => shapeOf d e.1.val)))) := by
  subst hd1 ha hpairs
  simp only [admitStart, hpass]

/-! ## The partner -/

section
variable {d : Dev} {j : DevIx} {pairs : List (PartId × PartId)} {shapes : List (Nat × Nat × Nat × Nat × List Nat)}

theorem admitOpenIn_refuses (hk : keeperRuns d = true) (hmember : isMember d j.val = true)
    (hdiffers : ((pairs.zip shapes).all (fun e => shapeOf d e.1.2.val == e.2)) = false) :
    admitOpenIn d j pairs shapes = send d (.admitRefuse j) := by
  simp only [admitOpenIn, hk, hmember, hdiffers, Bool.not_true, Bool.not_false, Bool.or_self, Bool.or_true, Bool.false_eq_true, if_false,
    if_true]

theorem admitOpenIn_sends {d1 : Dev} {parts : List AdmitPart} (hk : keeperRuns d = true) (hmember : isMember d j.val = true)
    (hsome : pairs ≠ []) (hlength : shapes.length = pairs.length)
    (hsame : ((pairs.zip shapes).all (fun e => shapeOf d e.1.2.val == e.2)) = true)
    (hd1 : d1 = { d with health := { d.health with sessions := d.health.sessions.filter (fun i => i != j) ++ [j] } })
    (hgood : pairs.flatMap (fun e => admitBad d e.2.val) = []) (hparts : parts = pairs.flatMap (fun e => admitParts d e.1 e.2.val)) :
    admitOpenIn d j pairs shapes = send d1 (.admitData j parts (sha256 (Config.encodeAdmit parts))) := by
  subst hd1 hparts
  have hpairs : pairs.isEmpty = false := by simpa using hsome
  simp only [admitOpenIn, hk, hmember, hpairs, hlength, hsame, hgood, bne_self_eq_false, Bool.not_true, Bool.or_self, Bool.false_eq_true,
    if_false]

end

/-! ## Loading -/

section
variable {d : Dev} {a : AdmSt}

theorem admitVerify_mismatch {parts got : List AdmitPart} {digest : BitVec 256} {d1 : Dev} (ha : a = d.health.admState)
    (hloading : a.phase = .loading) (hload : loadParts a.pairs parts d = (got, d1)) (hdigest : sha256 (Config.encodeAdmit got) ≠ digest) :
    admitVerify d parts digest = admitEnd (setAdmit d1 { a with phase := .verify }) .configMismatch 0 := by
  subst ha
  unfold admitVerify
  rw [if_neg (not_not.2 hloading), hload]
  exact if_pos hdigest

theorem admitVerify_joins {parts got : List AdmitPart} {digest : BitVec 256} {d1 d2 : Dev} {b : AdmSt} (ha : a = d.health.admState)
    (hloading : a.phase = .loading) (hload : loadParts a.pairs parts d = (got, d1)) (hdigest : sha256 (Config.encodeAdmit got) = digest)
    (hb : b = { a with phase := .barrier, bytes := (Config.encodeAdmit got).length })
    (hd2 : d2 = raise (setAdmit d1 b) 0x0802 (unitOf 5 0) (Config.encodeAdmit got).length) :
    admitVerify d parts digest =
      joinCheck (((barrierGroup d2 b).filter (fun i => !isLost d2 i)).foldl (fun d i => send d (.joinCall (devIx i) a.barrier)) d2) := by
  subst ha
  rw [hd2, hb]
  unfold admitVerify
  rw [if_neg (not_not.2 hloading), hload]
  exact if_neg (not_not.2 hdigest)

theorem loadStall_partner {aborts : Bool} (ha : a = d.health.admState) (hloading : a.phase = .loading)
    (hgone : (aborts || isLost d a.partner.val) = true) :
    loadStall d aborts = admitEnd (postAbort d (unitOf 5 0) .stateLost) .stateLost (admitMask a) := by
  subst ha
  simp only [loadStall, hloading, ne_eq, not_true_eq_false, if_false, hgone, if_true]

theorem loadStall_remote (ha : a = d.health.admState) (hloading : a.phase = .loading) (hlive : isLost d a.partner.val = false) :
    loadStall d false =
      admitEnd (send (postAbort d (unitOf 5 0) .remoteTimeout) (.admitClose a.partner)) .remoteTimeout (admitMask a) := by
  subst ha
  simp only [loadStall, hloading, ne_eq, not_true_eq_false, if_false, hlive, Bool.or_self, Bool.false_eq_true]

theorem partnerRefuses_ends (ha : a = d.health.admState) (hloading : a.phase = .loading) :
    partnerRefuses d = admitEnd (setAdmit d { a with phase := .selftest }) .badDescriptor 0 := by
  subst ha
  unfold partnerRefuses
  exact if_neg (not_not.2 hloading)

end

/-! ## The join barrier -/

theorem joinCalled_holds {d : Dev} {j : DevIx} (hmember : isMember d j.val = true) :
    joinCalled d j = joinAnswer { d with health := { d.health with
      joinHold := d.health.joinHold.filter (fun i => i != j) ++ [j], joinOwed := d.health.joinOwed.filter (fun i => i != j) ++ [j] } } := by
  simp only [joinCalled, hmember, Bool.not_true, Bool.false_eq_true, if_false]

theorem joinArrived_notes {d : Dev} {i : DevIx} {a1 : AdmSt} (hbarrier : d.health.admState.phase = .barrier)
    (ha1 : a1 = { d.health.admState with arrived := d.health.admState.arrived ||| BitVec.ofNat 64 (2 ^ i.val) }) :
    joinArrived d i = joinCheck (setAdmit d a1) := by
  subst ha1
  unfold joinArrived
  exact if_neg (not_not.2 hbarrier)

theorem barrierOver_joining {d : Dev} (hbarrier : d.health.admState.phase = .barrier) :
    barrierOver d = admitEnd
      (((barrierGroup d d.health.admState).filter (fun i => !isLost d i)).foldl (fun d i => send d (.joinCancel (devIx i))) d)
      .remoteTimeout 0 := by
  simp only [barrierOver, hbarrier, if_true]

theorem barrierOver_member {d : Dev} {j : DevIx} {js : List DevIx} (hother : d.health.admState.phase ≠ .barrier)
    (hold : d.health.joinHold = j :: js) : barrierOver d = joinFree d j := by
  simp only [barrierOver, if_neg hother, hold]

theorem filter_ne_not_contains (l : List DevIx) (j : DevIx) : (l.filter (fun i => i != j)).contains j = false := by simp

theorem joinGoes_not_lost (d : Dev) (j : DevIx) : isLost (joinGoes d j) j.val = false := by
  have hbit : (BitVec.ofNat 64 (2 ^ j.val)).getLsbD j.val = true := by
    rw [BitVec.getLsbD_ofNat, Nat.testBit_two_pow_self, Bool.and_true]
    exact decide_eq_true j.isLt
  simp only [isLost, joinGoes, BitVec.getLsbD_and, BitVec.getLsbD_not, hbit, Bool.not_true, Bool.and_false]

/-- Settles O31: ADMIT at the joining device, the partner, the load, and the join barrier at the members. -/
theorem admissionRuns : Obligations.AdmissionRuns := by
  refine ⟨?admission, ?partner, ?load, ?call, ?barrier, ?free, ?member⟩
  case admission =>
    rintro s p failed _ d1 hready rfl hpf h8 h18 h40 hpartner hpairs hpairsMax hbarrier hbarrierMax hidle hmember hopen hactive
    rw [← poster_takePost s.dev p p] at hpf
    have hrule := admitRule_of_checks (p := p) (d := takePost s.dev p) ⟨hpf, h8, h18, h40, hpartner, hpairs, hpairsMax, hbarrier,
      hbarrierMax, hidle, hmember, hopen, hactive⟩ failed
    constructor
    · intro hquarantined
      exact answer_completes (f := id) hready (hrule.trans (if_pos hquarantined))
    · intro hfree hd1
      rw [if_neg (ne_true_of_eq_false hfree)] at hrule
      constructor
      · intro i is hfails
        exact answer_completes (f := fun _ => setAdmit d1 AdmSt.reset) hready (hrule.trans (admitStart_fails hd1 hfails))
      · intro pairs a hpass hpairs ha
        rw [admitStart_opens hd1 hpass hpairs ha] at hrule
        generalize send (setAdmit d1 a) _ = opened at hrule ⊢
        exact answer_starts (f := fun _ => opened) hready hrule
  case partner =>
    intro s j pairs shapes hk hmember hsome hlength
    exact ⟨fun hdiffers => answer_becomes (admitOpenIn_refuses hk hmember hdiffers),
      fun d1 parts hsame hd1 hgood hparts => answer_becomes (admitOpenIn_sends hk hmember hsome hlength hsame hd1 hgood hparts)⟩
  case load =>
    intro s a ha hloading
    refine ⟨fun parts got digest d1 d2 hload => ?_, fun hlost => answer_becomes (loadStall_partner ha hloading (by rw [hlost]; rfl)),
      answer_becomes (loadStall_partner ha hloading rfl), fun hlive => answer_becomes (loadStall_remote ha hloading hlive),
      answer_becomes (partnerRefuses_ends ha hloading)⟩
    exact ⟨fun hdigest => answer_becomes (admitVerify_mismatch ha hloading hload hdigest),
      fun b hdigest hb hd2 => answer_becomes (admitVerify_joins ha hloading hload hdigest hb hd2)⟩
  case call => exact fun s j timeout hmember => answer_becomes (joinCalled_holds hmember)
  case barrier =>
    exact fun s i a1 hbarrier ha1 => ⟨answer_becomes (joinArrived_notes hbarrier ha1), answer_becomes (barrierOver_joining hbarrier)⟩
  case free =>
    intro s j
    exact ⟨_, _, rfl, rfl, filter_ne_not_contains _ j, filter_ne_not_contains _ j, joinGoes_not_lost s.dev j,
      filter_ne_not_contains _ j, filter_ne_not_contains _ j, rfl⟩
  case member => exact fun s j js hother hold => answer_becomes (barrierOver_member hother hold)

end Sys2Proof.Machine

/-! Function resets: 13_host.md R455, R469 to R471, R473; 03_lowrank.md R109. -/
namespace Sys2Proof.Machine

/-! ## What the last steps of a reset leave -/

/-- JOIN_ARRIVE messages change what is sent and what is owed, nothing else. -/
theorem joinAnswer_frame (d : Dev) : ∃ (o : List Sent) (h : HealthSt), joinAnswer d = { d with out := o, health := h } := by
  unfold joinAnswer
  split
  · rw [foldl_send]
    exact ⟨_, _, rfl⟩
  · exact ⟨d.out, d.health, rfl⟩

@[simp] theorem joinAnswer_fns (d : Dev) : (joinAnswer d).fns = d.fns := by
  obtain ⟨o, h, heq⟩ := joinAnswer_frame d
  rw [heq]

@[simp] theorem joinAnswer_clearPages (d : Dev) : (joinAnswer d).clearPages = d.clearPages := by
  obtain ⟨o, h, heq⟩ := joinAnswer_frame d
  rw [heq]

@[simp] theorem joinAnswer_classes (d : Dev) : (joinAnswer d).classes = d.classes := by
  obtain ⟨o, h, heq⟩ := joinAnswer_frame d
  rw [heq]

@[simp] theorem joinAnswer_keys (d : Dev) : (joinAnswer d).keys = d.keys := by
  obtain ⟨o, h, heq⟩ := joinAnswer_frame d
  rw [heq]

@[simp] theorem joinAnswer_ended (d : Dev) : (joinAnswer d).ended = d.ended := by
  obtain ⟨o, h, heq⟩ := joinAnswer_frame d
  rw [heq]

theorem getFn_resetRegs (f : Fn) (d : Dev) :
    getFn (resetRegs f d) f = { FnSt.reset with clearing := d.clearPages.any (fun e => e.2 == f.val) } :=
  getFn_setFn_same d f _

theorem resetClasses_none (f : Fn) (d : Dev) {c : Nat} (hc : c < 16) : getClass (resetClasses f d) f c = none := by
  refine tget_none fun e he => ?_
  have hother : e.1 / 16 ≠ f.val := by simpa using (List.mem_filter.1 he).2
  omega

theorem resetKeys_disabled (f : Fn) (d : Dev) {e : Nat × KeySlot} (he : e ∈ (resetKeys f d).keys) (howner : e.2.owner = f) :
    voteBool e.2.enable = false ∧ e.2.loaded = false ∧ e.2.key = 0 := by
  obtain ⟨k, hk, rfl⟩ := List.mem_map.1 he
  by_cases hf : k.2.owner = f
  · rw [if_pos hf]
    exact ⟨rfl, rfl, rfl⟩
  · rw [if_neg hf] at howner
    exact absurd howner hf

/-! ## A VF's reset -/

/-- The device when steps 1 to 6 of a VF's reset have acted. -/
def resetStarted (d : Dev) (v : Fn) : Dev := (ownedParts d v).foldl (resetPart v) (resetWork v (ownedParts d v) d)

theorem vfReset_eq (d : Dev) (v : Fn) :
    vfReset d v = joinAnswer (resetRegs v (resetClasses v (resetPolicers v (resetKeys v (resetStarted d v))))) := rfl

theorem vfReset_fn (d : Dev) (v : Fn) :
    getFn (vfReset d v) v = { FnSt.reset with clearing := (vfReset d v).clearPages.any (fun e => e.2 == v.val) } := by
  rw [vfReset_eq, getFn, joinAnswer_fns, joinAnswer_clearPages]
  exact getFn_resetRegs v _

theorem vfReset_classes (d : Dev) (v : Fn) {c : Nat} (hc : c < 16) : getClass (vfReset d v) v c = none := by
  rw [vfReset_eq, getClass, joinAnswer_classes]
  exact resetClasses_none v _ hc

theorem vfReset_keys (d : Dev) (v : Fn) {e : Nat × KeySlot} (he : e ∈ (vfReset d v).keys) (howner : e.2.owner = v) :
    voteBool e.2.enable = false ∧ e.2.loaded = false ∧ e.2.key = 0 := by
  rw [vfReset_eq, joinAnswer_keys] at he
  exact resetKeys_disabled v _ he howner

theorem vfReset_ended (d : Dev) (v : Fn) {e : Fn × W64} (he : e ∈ (vfReset d v).ended) : e.1 ≠ v := by
  rw [vfReset_eq, joinAnswer_ended] at he
  simpa using (List.mem_filter.1 he).2

theorem execVfFlr_ignored {s : State} {v : Fn} (h : v.val = 0 ∨ fnExists s.dev v = false) : execVfFlr v s = answer s s.dev := by
  have hno : (v.val == 0 || !fnExists s.dev v) = true := by
    rcases h with h | h
    · rw [h]; rfl
    · rw [h, Bool.not_false, Bool.or_true]
  simp only [execVfFlr, hno, if_true]

theorem execVfFlr_resets {s : State} {v : Fn} (hv : v.val ≠ 0) (hexists : fnExists s.dev v = true) :
    execVfFlr v s = answer s (vfReset s.dev v) := by
  simp only [execVfFlr, beq_eq_false_iff_ne.2 hv, hexists, Bool.not_true, Bool.or_self, Bool.false_eq_true, if_false]

/-! ## VF Enable, and the end of the clearing -/

theorem vfWrite_of_le (d : Dev) (enable : Bool) {n : Nat} (hn : n ≤ 63) :
    vfWrite d enable n =
      { ((liveVfs d).filter (fun v => !(enable && decide (v.val ≤ n)))).foldl vfReset d with vfEnable := enable, numVfs := n } := by
  simp only [vfWrite, if_pos hn]

theorem fnExists_of_pos {d : Dev} {v : Fn} (hv : 0 < v.val) : fnExists d v = true ↔ d.vfEnable = true ∧ v.val ≤ d.numVfs := by
  simp only [fnExists, beq_eq_false_iff_ne.2 hv.ne', Bool.false_or, Bool.and_eq_true, decide_eq_true_eq]

/-- The device with the waiting pages of a VF cleared, before CLEARING goes to 0. -/
def pagesCleared (d : Dev) (v : Fn) : Dev :=
  let d1 := (d.clearPages.filter (fun e => e.2 == v.val)).foldl (fun d e => clearRun d e.1 1) d
  { d1 with clearPages := d1.clearPages.filter (fun e => e.2 != v.val) }

theorem clearDone_eq (d : Dev) (v : Fn) :
    clearDone d v =
      if (getFn (pagesCleared d v) v).clearing then
        setFn (pagesCleared d v) v { getFn (pagesCleared d v) v with clearing := false }
      else pagesCleared d v := rfl

theorem clearDone_pages (d : Dev) (v : Fn) {e : Nat × Nat} (he : e ∈ (clearDone d v).clearPages) : e.2 ≠ v.val := by
  have hcleared : e ∈ (pagesCleared d v).clearPages := by
    rw [clearDone_eq] at he
    split at he <;> exact he
  simpa using (List.mem_filter.1 hcleared).2

theorem clearDone_clearing (d : Dev) (v : Fn) : (getFn (clearDone d v) v).clearing = false := by
  rw [clearDone_eq]
  split
  · rw [getFn_setFn_same]
  next h => exact Bool.eq_false_iff.2 h

/-- Settles O32: a VF's reset step by step, the PF's resets, VF Enable, the end of the clearing. -/
theorem functionResetsLeave : Obligations.FunctionResetsLeave := by
  refine ⟨?ignored, ?vf, ?pf, ?enable, ?gone, ?cleared⟩
  case ignored => exact fun s v h => (execVfFlr_ignored h).trans (answer_becomes rfl)
  case vf =>
    intro s v hv hexists
    refine ⟨vfReset s.dev v, _, execVfFlr_resets hv hexists, vfReset_fn s.dev v, ?_, fun c hc => vfReset_classes s.dev v hc,
      fun e he howner => vfReset_keys s.dev v he howner, fun e he => vfReset_ended s.dev v he⟩
    rw [List.any_eq_true]
    simp only [beq_iff_eq]
  case pf => exact fun s => ⟨rfl, pfReset s.dev, rfl, ⟨_, getFn_resetRegs 0 _⟩, rfl⟩
  case enable =>
    intro s enable n hn
    refine ⟨_, congrArg (answer s) (vfWrite_of_le s.dev enable hn), rfl, rfl, fun v hv => fnExists_of_pos hv⟩
  case gone =>
    rintro s _ enable n hn rfl
    exact answer_becomes (vfWrite_of_le s.dev enable hn)
  case cleared =>
    exact fun s v => ⟨clearDone s.dev v, rfl, fun e he => clearDone_pages s.dev v he, clearDone_clearing s.dev v⟩

end Sys2Proof.Machine

/-! Basis generations, layouts and page tables: 03_lowrank.md R97 to R100, 06_attention.md R198 to R208 and R242. -/
namespace Sys2Proof.Machine

/-- The answer of a descriptor that its own rules keep waiting. -/
theorem answer_waits {s : State} {p : Post} {op : Nat} (h : ready s.dev p op = true) {eff : Dev → Res} {why : Stall} {d : Dev}
    (he : eff (takePost s.dev p) = .wait why d) : answer s (perform op p eff s.dev) = becomes s (fun _ => keepPost d p why) := by
  rw [perform_wait h he]; rfl

/-! ## Bases -/

/-- A basis slot that the end of a drain frees (Table 3.3). -/
def drained (t : BasisSlot) : Bool := t.state == .draining && t.pins == 0

section
variable {p : Post} {d d1 d2 d3 : Dev} {b : BasisSt} {obj off : Nat} {second : Bool}

/-- The storage of a target slot is reserved: what BASIS_REPLACE does next turns on its pins (R97 steps 2 to 4). -/
theorem replaceRule_reserved (hb : b = getBasis d (bId p)) (hfree : b.waiting = none) (hcheck : replaceCheck d p = none)
    (hsecond : second = targetSlot b) (hobj : freshObj d = (obj, d1))
    (hd2 : d2 = if (slotOf b second).state = .empty then d1 else heapFree d1 (bPart p) (slotOf b second).obj)
    (halloc : heapAlloc d2 (bPart p) .basis obj (vBytes p) = .ok d3 off) :
    replaceRule p d =
      if (slotOf b second).pins = 0 then
        let r := publish (setBasis d3 (bId p) (setSlot b second { slotOf b second with obj := obj })) p second
        .done r.1 r.2.1 0 r.2.2
      else .wait .basis (setBasis d3 (bId p) { setSlot b second { slotOf b second with obj := obj, state := .draining } with
        waiting := some p }) := by
  subst hb hsecond hd2
  simp only [replaceRule, hfree, hcheck, hobj, halloc, Option.isSome_none, Bool.false_eq_true, if_false]

end

theorem retireRule_retires {p : Post} {d : Dev} (hfree : (getBasis d (bId p)).waiting = none) (h8 : dZero p 8 8 = true)
    (h18 : dZero p 18 1 = true) (h20 : dZero p 20 44 = true) (hname : basisNamed d p = true) :
    retireRule p d =
      if bothEmpty (retireSlots d (bPart p) (bId p)) (bId p) then .plain .ok (retireSlots d (bPart p) (bId p))
      else .wait .basis (setBasis (retireSlots d (bPart p) (bId p)) (bId p)
        { getBasis (retireSlots d (bPart p) (bId p)) (bId p) with waiting := some p }) := by
  simp only [retireRule, hfree, h8, h18, h20, hname, Option.isSome_none, Bool.not_true, Bool.or_self, Bool.false_eq_true, if_false]

theorem drainDone_none {d : Dev} {id : Nat} (h : (getBasis d id).waiting = none) :
    drainDone d id = drainSlots d (basisOwner d id) id := by simp only [drainDone, h]

/-- The waiting replacement goes on: V lies in T1, and the first slot alone is free of pins. -/
theorem drainDone_replaces {d d1 : Dev} {id detail : Nat} {p : Post} {st : Status} (h : (getBasis d id).waiting = some p)
    (hop : opcode p = 0x0410) (htier : dNat p 40 1 = 0) (hfirst : drained (getBasis d id).s0 = true)
    (hsecond : drained (getBasis d id).s1 = false) (hpub : publish (takePost d p) p false = (st, detail, d1)) :
    drainDone d id = complete d1 p st detail 0 := by
  unfold drained at hfirst hsecond
  simp only [drainDone, h, hop, htier, hfirst, hsecond, hpub, Bool.true_or, beq_self_eq_true, Bool.and_self, if_true]

theorem drainDone_retires {d : Dev} {id : Nat} {p : Post} (h : (getBasis d id).waiting = some p) (hop : opcode p = 0x0411)
    (hempty : bothEmpty (drainSlots d (bPart p) id) id = true) :
    drainDone d id = complete (setBasis (takePost (drainSlots d (bPart p) id) p) id BasisSt.reset) p .ok 0 0 := by
  have hne : opcode p ≠ 0x0410 := by rw [hop]; decide
  simp only [drainDone, h, if_neg hne, hempty, if_true]

/-! ## Layouts -/

theorem setLayout_plain {d : Dev} {p : Post} {l : KvLayout} (part id : Nat) (hdigest : kvDigest l = false) :
    setLayout d p l part id =
      .plain .ok { dropLayout d part id with layouts := tset (dropLayout d part id).layouts (part * 16 + id) l } := by
  simp only [setLayout, hdigest, Bool.not_false, if_true]

theorem kvLayoutAny_sets {p : Post} {d : Dev} {l : KvLayout} (hl : l = ⟨BitVec.ofNat 304 (dNat p 18 38), [], none⟩)
    (hform : (dNat p 31 1).testBit 7 = false) (hhead : layoutHead d p l (dNat p 16 1) = true) (hsized : layoutSized l = true)
    (hranges : layoutRanges l = true) (hunused : layoutUsed d (dNat p 16 1) (dNat p 17 1) = false) :
    kvLayoutAny p d = setLayout d p l (dNat p 16 1) (dNat p 17 1) := by
  subst hl
  simp only [kvLayoutAny, hform, kvLayoutRule, hhead, hsized, hranges, hunused, Bool.not_true, Bool.or_self, Bool.false_eq_true, if_false]

theorem kvLayoutAny_removes {p : Post} {d : Dev} (hform : dNat p 31 1 = 128) (h8 : dZero p 8 8 = true)
    (hmay : mayName d (poster d p) (dNat p 16 1) = true) (hid : dNat p 17 1 ≤ 15) (h18 : dZero p 18 13 = true) (h32 : dZero p 32 32 = true)
    (hset : (getLayout d (dNat p 16 1) (dNat p 17 1)).isSome = true) (hunused : layoutUsed d (dNat p 16 1) (dNat p 17 1) = false) :
    kvLayoutAny p d = .plain .ok (dropLayout d (dNat p 16 1) (dNat p 17 1)) := by
  have hremove : Nat.testBit 128 7 = true := by decide
  have hsome : (getLayout d (dNat p 16 1) (dNat p 17 1)).isNone = false := by rw [← Option.not_isSome, hset]; rfl
  simp only [kvLayoutAny, hform, hremove, kvLayoutRemoveRule, h8, hmay, decide_eq_false hid.not_gt, h18, h32, hsome, hunused,
    bne_self_eq_false, Bool.not_true, Bool.or_self, Bool.false_eq_true, if_false, if_true]

theorem kvPolicyRule_sets {p : Post} {d : Dev} (h8 : dZero p 8 8 = true) (h18 : dZero p 18 46 = true)
    (hmay : mayName d (poster d p) (dNat p 16 1) = true) (hpolicy : dNat p 17 1 ≤ 1) :
    kvPolicyRule p d =
      .plain .ok (setPart d (dNat p 16 1) { getPart d (dNat p 16 1) with dropMoored := dNat p 17 1 == 1 }) := by
  simp only [kvPolicyRule, h8, h18, hmay, decide_eq_false hpolicy.not_gt, Bool.not_true, Bool.or_self, Bool.false_eq_true, if_false]

/-! ## Tables -/

/-- A table handle that its poster may name, with no transfer holding it back, reaches the action on its table. -/
theorem onTable_acts {p : Post} {u : TableUse} {h k : Nat} {d : Dev} {t : TableSt} (act : Nat → TableSt → Res)
    (hfind : findTable d h = some (k, t)) (hdev : t.dev = (selfDev d).val) (hmay : mayName d (poster d p) t.part = true)
    (hfree : tableWaits d t.request u = false) : onTable p u h d act = act k t := by
  simp only [onTable, hfind, hdev, hmay, hfree, bne_self_eq_false, Bool.not_true, Bool.or_self, Bool.false_eq_true, if_false]

/-- R205's checks of W and WINDOW_POS of a ring table, and of both 0 for any other. -/
theorem ptCreateRule_makes {p : Post} {d d1 : Dev} {l : KvLayout} {k : Nat} {ring : Bool} (hring : (dNat p 18 1).testBit 0 = ring)
    (hmay : mayName d (poster d p) (dNat p 16 1) = true) (hkind : dNat p 18 1 ≤ 1) (h19 : dZero p 19 1 = true) (h28 : dZero p 28 36 = true)
    (hid : dNat p 17 1 ≤ 15) (hl : getLayout d (dNat p 16 1) (dNat p 17 1) = some l)
    (hplain : ring = false → dNat p 20 4 = 0 ∧ dNat p 24 4 = 0)
    (hwindow : ring = true → 2 ≤ dNat p 20 4 ∧ dNat p 20 4 ≤ 4096 ∧ 0 < dNat p 24 4 ∧ dNat p 24 4 ≤ dNat p 20 4 * kvPage l)
    (hmake : makeTable d (dNat p 16 1) (dNat p 17 1) l (dHandle p) ring (dNat p 20 4) (dNat p 24 4) = .ok k d1) :
    ptCreateRule p d = .done .ok (((tget d1.tables k).map handleOf).getD 0) 0 d1 := by
  cases ring with
  | false =>
    obtain ⟨hw, hwp⟩ := hplain rfl
    rw [hw, hwp] at hmake
    simp only [ptCreateRule, hring, hmay, decide_eq_false hkind.not_gt, h19, h28, decide_eq_false hid.not_gt, hw, hwp, hl, hmake,
      bne_self_eq_false, Bool.not_true, Bool.not_false, Bool.and_false, Bool.false_and, Bool.or_self, Bool.false_eq_true, if_false]
  | true =>
    obtain ⟨hw, hwMax, hwp, hwpMax⟩ := hwindow rfl
    have hw0 : dNat p 20 4 ≠ 0 := by omega
    simp only [ptCreateRule, hring, hmay, decide_eq_false hkind.not_gt, h19, h28, decide_eq_false hid.not_gt, beq_eq_false_iff_ne.2 hw0,
      beq_eq_false_iff_ne.2 hwp.ne', decide_eq_false hw.not_gt, decide_eq_false hwMax.not_gt, decide_eq_false hwpMax.not_gt, hl, hmake,
      Bool.not_true, Bool.false_and, Bool.and_false, Bool.or_self, Bool.false_eq_true, if_false]

section
variable {p : Post} {d : Dev} {k : Nat} {t : TableSt}

theorem ptForkRule_none (h16 : dZero p 16 4 = true) (h24 : dZero p 24 40 = true) (hfind : findTable d (dNat p 8 8) = some (k, t))
    (hdev : t.dev = (selfDev d).val) (hmay : mayName d (poster d p) t.part = true) (hfree : tableWaits d t.request .read = false)
    (hn : dNat p 20 4 = 0) : ptForkRule p d = .plain .ok d := by
  simp only [ptForkRule, h16, h24, onTable_acts _ hfind hdev hmay hfree, hn, Bool.not_true, Bool.or_self, Bool.false_eq_true, if_false,
    if_true]

theorem ptForkRule_forks {d1 : Dev} {k1 : Nat} {es : Tab PtEntry} (h16 : dZero p 16 4 = true) (h24 : dZero p 24 40 = true)
    (hfind : findTable d (dNat p 8 8) = some (k, t)) (hdev : t.dev = (selfDev d).val) (hmay : mayName d (poster d p) t.part = true)
    (hfree : tableWaits d t.request .read = false) (hn : 0 < dNat p 20 4) (hring : t.isRing = false) (hhost : t.atHost = false)
    (hes : es = t.entries.filter (fun e => decide (e.1 < dNat p 20 4))) (hlen : es.length = dNat p 20 4)
    (hgood : es.any (fun e => !allDone t.layout e.2 || (!e.2.dropped && ownFrame d e.2 && decide (65535 ≤ shareCount d e.2.frame))) = false)
    (hpresent : es.filter (fun e => e.2.dropped) = []) (hfork : forkTable d t (dNat p 20 4) = .ok k1 d1) :
    ptForkRule p d = .done .ok (((tget d1.tables k1).map handleOf).getD 0) 0 d1 := by
  subst hes
  have hlenb := bne_eq_false_iff_eq.2 hlen
  simp only [ptForkRule, h16, h24, onTable_acts _ hfind hdev hmay hfree, if_neg hn.ne', hring, hhost, hlenb, hgood, hpresent, List.map_nil,
    firstRun, hfork, Bool.not_true, Bool.or_self, Bool.false_eq_true, if_false]

theorem ptTruncateRule_truncates (h16 : dZero p 16 8 = true) (h28 : dZero p 28 36 = true) (hfind : findTable d (dNat p 8 8) = some (k, t))
    (hdev : t.dev = (selfDev d).val) (hmay : mayName d (poster d p) t.part = true) (hfree : tableWaits d t.request .edit = false)
    (hok : truncateOk t (dNat p 24 4) = true) : ptTruncateRule p d = .plain .ok (truncateTable d k (dNat p 24 4)) := by
  simp only [ptTruncateRule, h16, h28, onTable_acts _ hfind hdev hmay hfree, hok, Bool.not_true, Bool.or_self, Bool.false_eq_true,
    if_false]

theorem ptDestroyRule_destroys (h16 : dZero p 16 48 = true) (hfind : findTable d (dNat p 8 8) = some (k, t))
    (hdev : t.dev = (selfDev d).val) (hmay : mayName d (poster d p) t.part = true) (hfree : tableWaits d t.request .destroy = false) :
    ptDestroyRule p d = .plain .ok (destroyTable d k) := by
  simp only [ptDestroyRule, h16, onTable_acts _ hfind hdev hmay hfree, Bool.not_true, Bool.false_eq_true, if_false]

theorem ptQueryRule_writes (h16 : dZero p 16 8 = true) (h28 : dZero p 28 4 = true) (h40 : dZero p 40 24 = true)
    (hdest : dNat p 32 8 % 64 = 0) (hfind : findTable d (dNat p 8 8) = some (k, t)) (hdev : t.dev = (selfDev d).val)
    (hmay : mayName d (poster d p) t.part = true) (hlen : 64 ≤ dNat p 24 4) (hmul : dNat p 24 4 % 8 = 0) :
    ptQueryRule p d = .plain .ok (hostWrite d (dNat p 32 8) ((tableRecord d t).take (dNat p 24 4))) := by
  have hlen0 : dNat p 24 4 ≠ 0 := by omega
  have hsize : ¬(dNat p 24 4 < 64 ∨ dNat p 24 4 % 8 ≠ 0) := by omega
  simp only [ptQueryRule, h16, h28, h40, hdest, hfind, hdev, hmay, if_neg hlen0, if_neg hsize, bne_self_eq_false, Bool.not_true,
    Bool.or_self, Bool.false_eq_true, if_false]

end

/-- Settles O22: bases, their drains, layouts, and the table descriptors, each by its own rule. -/
theorem basesLayoutsAndTables : Obligations.BasesLayoutsAndTables := by
  refine ⟨?replace, ?retire, ?drain, ?layout, ?policy, ?create, ?fork, ?table⟩
  case replace =>
    rintro s p _ d1 d2 d3 d4 b obj off detail st second hready rfl hb hfree hcheck hsecond hobj hd2 halloc
    have hrule := replaceRule_reserved hb hfree hcheck hsecond hobj hd2 halloc
    refine ⟨fun hpins hpub => ?_, fun hpins => ?_⟩
    · rw [if_pos hpins, hpub] at hrule
      exact answer_completes (f := fun _ => d4) hready hrule
    · exact answer_waits hready (hrule.trans (if_neg hpins))
  case retire =>
    rintro s p _ _ hready rfl hfree h8 h18 h20 hname rfl
    have hrule := retireRule_retires hfree h8 h18 h20 hname
    refine ⟨fun hempty => ?_, fun hempty => ?_⟩
    · exact answer_completes (f := fun d => retireSlots d (bPart p) (bId p)) hready (hrule.trans (if_pos hempty))
    · exact answer_waits hready (hrule.trans (if_neg (ne_true_of_eq_false hempty)))
  case drain =>
    rintro s id _ rfl
    refine ⟨fun hnone => ?_, fun p st detail d1 hwaiting hop htier hdraining hpins hother hpub => ?_, fun p hwaiting hop hempty => ?_⟩
    · exact answer_becomes (drainDone_none hnone)
    · have hfirst : drained (getBasis s.dev id).s0 = true := by simp [drained, hdraining, hpins]
      have hsecond : drained (getBasis s.dev id).s1 = false := by
        rcases hother with h | h <;> simp [drained, h]
      exact answer_becomes (drainDone_replaces hwaiting hop htier hfirst hsecond hpub)
    · exact answer_becomes (f := fun d => complete (setBasis (takePost (drainSlots d (bPart p) id) p) id BasisSt.reset) p .ok 0 0)
        (drainDone_retires hwaiting hop hempty)
  case layout =>
    rintro s p _ l _ _ hready rfl rfl rfl
    refine ⟨fun hl hform hhead hsized hranges hunused hdigest => ?_, fun hform h8 hmay hid h18 h32 hset hunused => ?_⟩
    · exact answer_completes (f := fun d => { dropLayout d (dNat p 16 1) (dNat p 17 1) with
          layouts := tset (dropLayout d (dNat p 16 1) (dNat p 17 1)).layouts (dNat p 16 1 * 16 + dNat p 17 1) l })
        hready ((kvLayoutAny_sets hl hform hhead hsized hranges hunused).trans (setLayout_plain _ _ hdigest))
    · rw [← poster_takePost s.dev p p] at hmay
      exact answer_completes (f := fun d => dropLayout d (dNat p 16 1) (dNat p 17 1)) hready
        (kvLayoutAny_removes hform h8 hmay hid h18 h32 hset hunused)
  case policy =>
    intro s p hready h8 h18 hmay hpolicy
    rw [← poster_takePost s.dev p p] at hmay
    exact answer_completes
      (f := fun d => setPart d (dNat p 16 1) { getPart d (dNat p 16 1) with dropMoored := dNat p 17 1 == 1 })
      hready (kvPolicyRule_sets h8 h18 hmay hpolicy)
  case create =>
    rintro s p _ d1 _ _ k l t hready rfl rfl rfl hmay hkind h19 h28 hid hl hplain hwindow hmake ht
    rw [← poster_takePost s.dev p p] at hmay
    have hring : (dNat p 18 1).testBit 0 = (dNat p 18 1 == 1) := by
      have h01 : dNat p 18 1 = 0 ∨ dNat p 18 1 = 1 := by omega
      rcases h01 with h | h <;> rw [h] <;> rfl
    have hrule := ptCreateRule_makes hring hmay hkind h19 h28 hid hl
      (fun h => hplain (by have := beq_eq_false_iff_ne.1 h; omega)) (fun h => hwindow (beq_iff_eq.1 h)) hmake
    rw [ht, Option.map_some, Option.getD_some] at hrule
    exact answer_completes (f := fun _ => d1) hready hrule
  case fork =>
    rintro s p _ d1 _ k k1 t u es hready rfl rfl h16 h24 hfind hdev hmay hfree
    rw [← poster_takePost s.dev p p] at hmay
    refine ⟨fun hn => ?_, fun hn hring hhost hes hlen hgood hpresent hfork hu => ?_⟩
    · exact answer_completes (f := id) hready (ptForkRule_none h16 h24 hfind hdev hmay hfree hn)
    · have hrule := ptForkRule_forks h16 h24 hfind hdev hmay hfree hn hring hhost hes hlen hgood hpresent hfork
      rw [hu, Option.map_some, Option.getD_some] at hrule
      exact answer_completes (f := fun _ => d1) hready hrule
  case table =>
    rintro s p _ k t rfl hfind hdev hmay
    rw [← poster_takePost s.dev p p] at hmay
    refine ⟨fun hready h16 h28 hfree hok => ?_, fun hready h16 hfree => ?_, fun hready h16 h28 h40 hdest hlen hmul => ?_⟩
    · exact answer_completes (f := fun d => truncateTable d k (dNat p 24 4)) hready
        (ptTruncateRule_truncates h16 h28 hfind hdev hmay hfree hok)
    · exact answer_completes (f := fun d => destroyTable d k) hready (ptDestroyRule_destroys h16 hfind hdev hmay hfree)
    · exact answer_completes (f := fun d => hostWrite d (dNat p 32 8) ((tableRecord d t).take (dNat p 24 4))) hready
        (ptQueryRule_writes h16 h28 h40 hdest hfind hdev hmay hlen hmul)

end Sys2Proof.Machine

/-! Memory and the lift: 09_memory.md R319 to R338, 05_partitions.md R185 to R191. -/
namespace Sys2Proof.Machine

/-! ## MEM_MAP (R324) -/

section
variable {p : Post} {d : Dev} (hhead : mapHead d p = true) (hcount : 0 < mmCount p)
  (hstate : mapState d p (getPart d (dNat p 16 1)) = true) (hregion : regionFits d (8 * mmCount p) = true)
include hhead hcount hstate hregion

theorem memMapRule_maps {pg : Nat} (htier : mmTier p = 1)
    (hquota : d.pool.isSome = true ∨ t1Charge (getPart d (dNat p 16 1)) + mmCount p ≤ t1QuotaOf (getPart d (dNat p 16 1)))
    (hpage : (if mmLowest p then freeRun d (mmCount p) 0 devicePages else some (mmTarget p / pageSize)) = some pg) :
    memMapRule p d = .done .ok (pg * pageSize) 0 (mapT1 d p (dNat p 16 1) pg) := by
  have hfits : (d.pool.isNone && decide (t1QuotaOf (getPart d (dNat p 16 1)) < t1Charge (getPart d (dNat p 16 1)) + mmCount p)) = false := by
    rcases hquota with h | h
    · rw [← Option.not_isSome, h]; rfl
    · rw [decide_eq_false h.not_gt, Bool.and_false]
  simp only [memMapRule, hhead, if_neg hcount.ne', hstate, hregion, htier, hfits, hpage, Bool.not_true, Bool.false_eq_true, if_false]

theorem memMapRule_grants2 (htier : mmTier p = 2)
    (hquota : (getPart d (dNat p 16 1)).grants2.length + mmCount p ≤ t2QuotaOf (getPart d (dNat p 16 1))) :
    memMapRule p d = .plain .ok (setPart d (dNat p 16 1)
      { getPart d (dNat p 16 1) with grants2 := grantPages p (getPart d (dNat p 16 1)).grants2 }) := by
  simp only [memMapRule, hhead, if_neg hcount.ne', hstate, hregion, htier, if_neg hquota.not_gt, Bool.not_true, Bool.false_eq_true,
    if_false]

theorem memMapRule_grants3 (htier : mmTier p = 3)
    (hquota : (getPart d (dNat p 16 1)).grants3.length + mmCount p ≤ t3QuotaOf (getPart d (dNat p 16 1))) :
    memMapRule p d = .plain .ok (setPart d (dNat p 16 1)
      { getPart d (dNat p 16 1) with grants3 := grantPages p (getPart d (dNat p 16 1)).grants3 }) := by
  simp only [memMapRule, hhead, if_neg hcount.ne', hstate, hregion, htier, if_neg hquota.not_gt, Bool.not_true, Bool.false_eq_true,
    if_false]

end

/-! ## MEM_UNMAP (R327) -/

section
variable {p : Post} {d : Dev} (hpf : (poster d p).val = 0) (h8 : dZero p 8 8 = true) (hpart : dNat p 16 1 ≤ 63)
  (h18 : dZero p 18 2 = true) (hcount : 0 < mmCount p) (hmax : mmCount p ≤ 65536) (h24 : dZero p 24 8 = true)
  (htarget : mmTarget p % pageSize = 0) (h48 : dZero p 48 16 = true)
include hpf h8 hpart h18 hcount hmax h24 htarget h48

theorem memUnmapRule_unmaps (htier : mmTier p = 1) (hpas : mmPas p % pageSize = 0)
    (hmapped : (mmPages (mmPas p) (mmCount p)).all (fun pg => (tget (getPart d (dNat p 16 1)).maps pg).isSome) = true) :
    memUnmapRule p d = .plain .ok (setPart
      ((((getPart d (dNat p 16 1)).maps.filter (fun m => (mmPages (mmPas p) (mmCount p)).contains m.1)).map (fun m => m.2.page)).foldl
        (fun d pg => clearRun d pg 1) d) (dNat p 16 1)
      { getPart d (dNat p 16 1) with
        maps := (getPart d (dNat p 16 1)).maps.filter (fun m => !(mmPages (mmPas p) (mmCount p)).contains m.1) }) := by
  have htierMax : decide (3 < 1) = false := by decide
  simp only [memUnmapRule, hpf, h8, decide_eq_false hpart.not_gt, htier, h18, decide_eq_false hmax.not_gt, h24, hpas, htarget, h48,
    if_neg hcount.ne', hmapped, htierMax, beq_eq_false_iff_ne.2 Nat.one_ne_zero, bne_self_eq_false, Bool.false_and,
    Bool.not_true, Bool.or_self, Bool.false_eq_true, if_false, if_true]

theorem memUnmapRule_revokes2 (htier : mmTier p = 2) (hpas0 : mmPas p = 0)
    (hgranted : (mmPages (mmTarget p) (mmCount p)).all (fun pg => (tget (getPart d (dNat p 16 1)).grants2 pg).isSome) = true) :
    memUnmapRule p d = .plain .ok (setPart d (dNat p 16 1) { getPart d (dNat p 16 1) with
      grants2 := (getPart d (dNat p 16 1)).grants2.filter (fun m => !(mmPages (mmTarget p) (mmCount p)).contains m.1) }) := by
  have htierMax : decide (3 < 2) = false := by decide
  have hnotT1 : ¬ 2 = 1 := by decide
  simp only [memUnmapRule, hpf, h8, decide_eq_false hpart.not_gt, htier, h18, decide_eq_false hmax.not_gt, h24, hpas0, htarget, h48,
    if_neg hcount.ne', if_neg hnotT1, hgranted, htierMax, beq_eq_false_iff_ne.2 (show 2 ≠ 0 by decide), Nat.zero_mod, bne_self_eq_false,
    Bool.and_false, Bool.not_true, Bool.or_self, Bool.false_eq_true, if_false]

theorem memUnmapRule_revokes3 (htier : mmTier p = 3) (hpas0 : mmPas p = 0)
    (hgranted : (mmPages (mmTarget p) (mmCount p)).all (fun pg => (tget (getPart d (dNat p 16 1)).grants3 pg).isSome) = true) :
    memUnmapRule p d = .plain .ok (setPart d (dNat p 16 1) { getPart d (dNat p 16 1) with
      grants3 := (getPart d (dNat p 16 1)).grants3.filter (fun m => !(mmPages (mmTarget p) (mmCount p)).contains m.1) }) := by
  have htierMax : decide (3 < 3) = false := by decide
  have hnotT1 : ¬ 3 = 1 := by decide
  simp only [memUnmapRule, hpf, h8, decide_eq_false hpart.not_gt, htier, h18, decide_eq_false hmax.not_gt, h24, hpas0, htarget, h48,
    if_neg hcount.ne', if_neg hnotT1, hgranted, htierMax, beq_eq_false_iff_ne.2 (show 3 ≠ 0 by decide), Nat.zero_mod, bne_self_eq_false,
    Bool.and_false, Bool.not_true, Bool.or_self, Bool.false_eq_true, if_false]

end

/-! ## MEM_MODE and MEM_HEAP (R319 to R322, R329) -/

theorem memModeRule_enters {p : Post} {d : Dev} (hpf : (poster d p).val = 0) (h8 : dZero p 8 8 = true) (h17 : dZero p 17 3 = true)
    (h24 : dZero p 24 8 = true) (h40 : dZero p 40 24 = true) (hpage : dNat p 32 8 % pageSize = 0) (hmode : dNat p 16 1 = 1)
    (hsize : 0 < dNat p 20 4) (hmax : dNat p 20 4 ≤ 16777215) (hnormal : d.pool = none) :
    memModeRule p d = .plain .ok { d with pool := some (dNat p 32 8 / pageSize, dNat p 20 4) } := by
  have hpool : ((1 : Nat) == 1) = true := rfl
  have hmode1 : decide (1 < 1) = false := by decide
  have hchange : (true == (none : Option (Nat × Nat)).isSome) = false := rfl
  simp only [memModeRule, hpf, h8, hmode, hmode1, hpool, h17, h24, h40, hpage, beq_eq_false_iff_ne.2 hsize.ne',
    decide_eq_false hmax.not_gt, hnormal, hchange, bne_self_eq_false, Bool.not_true, Bool.false_and, Bool.and_false, Bool.or_self,
    Bool.false_eq_true, if_false, if_true]

theorem memModeRule_leaves {p : Post} {d : Dev} (hpf : (poster d p).val = 0) (h8 : dZero p 8 8 = true) (h17 : dZero p 17 3 = true)
    (h24 : dZero p 24 8 = true) (h40 : dZero p 40 24 = true) (hpage : dNat p 32 8 % pageSize = 0) (hmode : dNat p 16 1 = 0)
    (hsize : dNat p 20 4 = 0) (h32 : dZero p 32 8 = true) (hpool : d.pool.isSome = true) (hquota : overQuota d = none)
    (hspill : spillInUse d = false) : memModeRule p d = .plain .ok { d with pool := none } := by
  have hleaves : ((0 : Nat) == 1) = false := rfl
  have hmode1 : decide (1 < 0) = false := by decide
  have hchange : (false == true) = false := rfl
  simp only [memModeRule, hpf, h8, hmode, hmode1, hleaves, h17, h24, h40, hpage, hsize, h32, hpool, hchange, hquota, hspill,
    bne_self_eq_false, Bool.not_true, Bool.false_and, Bool.and_false, Bool.or_self, Bool.false_eq_true, if_false]

theorem memHeapRule_sets {p : Post} {d : Dev} (h8 : dZero p 8 8 = true) (hmode : dNat p 17 1 ≤ 1)
    (hslot : dNat p 17 1 = 0 → dNat p 18 1 = 0) (h19 : dZero p 19 45 = true) (hmay : mayName d (poster d p) (dNat p 16 1) = true)
    (hxts : dNat p 17 1 = 1 → xtsSlotOk d (getPart d (dNat p 16 1)).owner (dNat p 18 1) = true)
    (hheap : (getPart d (dNat p 16 1)).heap = []) (hspill : (getPart d (dNat p 16 1)).spill = []) :
    memHeapRule p d = .plain .ok (setPart d (dNat p 16 1) { getPart d (dNat p 16 1) with
      heapKey := if dNat p 17 1 = 1 then some (dNat p 18 1) else none }) := by
  have hnone : (dNat p 17 1 == 0 && dNat p 18 1 != 0) = false := by
    by_cases h : dNat p 17 1 = 0
    · rw [hslot h, bne_self_eq_false, Bool.and_false]
    · rw [beq_eq_false_iff_ne.2 h, Bool.false_and]
  have hkey : (dNat p 17 1 == 1 && !xtsSlotOk d (getPart d (dNat p 16 1)).owner (dNat p 18 1)) = false := by
    by_cases h : dNat p 17 1 = 1
    · rw [hxts h, Bool.not_true, Bool.and_false]
    · rw [beq_eq_false_iff_ne.2 h, Bool.false_and]
  have hheapb : (getPart d (dNat p 16 1)).heap.isEmpty = true := by rw [hheap]; rfl
  have hspillb : (getPart d (dNat p 16 1)).spill.isEmpty = true := by rw [hspill]; rfl
  simp only [memHeapRule, h8, decide_eq_false hmode.not_gt, hnone, h19, hmay, hkey, hheapb, hspillb, Bool.not_true, Bool.or_self,
    Bool.false_eq_true, if_false]

/-! ## The dredge (R335 to R338) -/

/-- The device after the dredge's step over a stack. -/
def hbmSwept (d : Dev) (k : Nat) : Dev :=
  { d with dredge := { d.dredge with
    hbmPos := (dredgeNext d.dredge.hbmPos d.dredge.hbmPasses k stackLines).1
    hbmPasses := (dredgeNext d.dredge.hbmPos d.dredge.hbmPasses k stackLines).2 } }

/-- The device after the dredge's step over a tile's slice. -/
def tsSwept (d : Dev) (t : Nat) : Dev :=
  { d with dredge := { d.dredge with
    tsPos := (dredgeNext d.dredge.tsPos d.dredge.tsPasses t sliceRows).1
    tsPasses := (dredgeNext d.dredge.tsPos d.dredge.tsPasses t sliceRows).2 } }

/-- What the dredge does about what it finds in the line of a stack that it has stepped over. -/
def hbmFound (d : Dev) (k line : Nat) : Ecc → Dev
  | .clean => hbmSwept d k
  | .corrected => charge (hbmSwept d k) (partOfStack k) wHbmSym 1
  | .uncorrectable => raise { hbmSwept d k with hbmBad := line :: d.hbmBad } 0x0303 (unitOf 4 k) (lineDetail 1 0 line)

theorem execHbmDredgeTick_sweeps {s : State} {k : Fin 12} {line : Nat} (found : Ecc) (hen : hbmEn s.dev = true)
    (hawake : awake s.dev = true) (hclk : s.dev.boot.clkFenced.getLsbD 3 = false)
    (hline : line = stackOffset k.val (tgetD s.dev.dredge.hbmPos k.val 0 * 64)) (hgood : s.dev.hbmBad.contains line = false) :
    execHbmDredgeTick k found s = answer s (hbmFound s.dev k.val line found) := by
  subst hline
  cases found <;>
    simp only [execHbmDredgeTick, hen, hawake, hclk, hgood, hbmFound, hbmSwept, reduceCtorEq, Bool.not_true, Bool.or_self, or_self,
      or_false, Bool.false_eq_true, if_false, if_true]

/-- What a running tile-store dredge finds in a row of a store without a bad word. -/
theorem execTsDredgeTick_sweeps {s : State} {t : TileId} {found : Ecc} (hfound : found ≠ .uncorrectable) (hen : tsEn s.dev = true)
    (hawake : awake s.dev = true) (hnamed : s.dev.parts.any (fun e => e.2.state != .free && (tilesOf e.2).testBit t.val) = true)
    (hopen : tileFenced s.dev t.val = false) (hgood : s.dev.tsBad = []) :
    execTsDredgeTick t found s = answer s (if found = .corrected then
      tsCorrected (tsSwept s.dev t.val) (physOf s.dev t.val) (tgetD s.dev.dredge.tsPos t.val 0) else tsSwept s.dev t.val) := by
  have hnone : (found == Ecc.uncorrectable) = false := beq_eq_false_iff_ne.2 hfound
  simp only [execTsDredgeTick, hen, hawake, hnamed, hopen, hgood, hnone, tsSwept, List.filter_nil, List.isEmpty_nil, Bool.and_false,
    Bool.not_true, Bool.or_self, Bool.false_eq_true, if_false]
  split <;> rfl

/-! ## The lift (R185 to R191) -/

/-- The sequence that LIFT_START begins. -/
def startedLift (p : Post) (layers : List LayerEnt) : LiftSt :=
  { LiftSt.reset with
    run := true, depth := dNat p 17 1, loop := (dNat p 18 1).testBit 0, first := dNat p 24 4, limit := dNat p 28 4
    slotBase := dNat p 32 8, slotSize := dNat p 40 4, feedRing := dNat p 44 4, layers := layers }

/-- The device whose partition begins that sequence. -/
def liftStarted (p : Post) (es : List (LayerEnt × Bool)) (d : Dev) : Dev :=
  liftNext (setLift d (dNat p 16 1) (startedLift p (es.map (·.1)))) (dNat p 16 1)

theorem liftStartRule_starts {p : Post} {d : Dev} {x : PartSt} {es : List (LayerEnt × Bool)} (hx : x = getPart d (dNat p 16 1))
    (h8 : dZero p 8 8 = true) (hmay : mayName d (poster d p) (dNat p 16 1) = true) (hloop : dNat p 18 1 ≤ 1) (h19 : dZero p 19 1 = true)
    (h56 : dZero p 56 8 = true) (hbase : dNat p 32 8 % 4096 = 0) (hdepth : 0 < dNat p 17 1) (hdepthMax : dNat p 17 1 ≤ 8)
    (hfirst : dNat p 24 4 < dNat p 20 4) (hlayersMax : dNat p 20 4 ≤ 65536) (hlimit : 0 < dNat p 28 4)
    (hlimitMax : dNat p 28 4 ≤ 1000000) (hsize : 0 < dNat p 40 4) (hsizeMul : dNat p 40 4 % 4096 = 0) (hactive : x.state = .active)
    (hidle : x.lift.run = false) (hslots : rangeOk d x 0 (dNat p 32 8) (dNat p 17 1 * dNat p 40 4) true true = true)
    (htable : rangeOk d x 1 (dNat p 48 8) (32 * dNat p 20 4) false true = true) (hring : dNat p 44 4 < ringCount x.owner)
    (hfeed : (getRing d x.owner (dNat p 44 4)).enable = true) (hkind : (getRing d x.owner (dNat p 44 4)).kind = 0)
    (hgood : badIn d x 1 (dNat p 48 8) (32 * dNat p 20 4) = [])
    (hes : es = (List.range (dNat p 20 4)).map (fun i => layerEnt (tierBytes d x [] 1 (dNat p 48 8 + 32 * i) 32)))
    (huses : es.any (fun e => e.1.uses == 0) = false) (hok : es.all (fun e => e.2 && layerOk d x (dNat p 40 4) e.1) = true) :
    liftStartRule p d = .plain .ok (liftStarted p es d) := by
  subst hx hes
  have hsizes : ¬(dNat p 17 1 = 0 ∨ dNat p 20 4 = 0 ∨ dNat p 28 4 = 0 ∨ dNat p 40 4 = 0) := by omega
  simp only [liftStartRule, h8, hmay, decide_eq_false hloop.not_gt, h19, h56, hbase, if_neg hsizes, decide_eq_false hdepthMax.not_gt,
    decide_eq_false hlayersMax.not_gt, decide_eq_false hfirst.not_ge, decide_eq_false hlimitMax.not_gt, hsizeMul, hactive, hidle, hslots,
    htable, decide_eq_false hring.not_ge, hfeed, hkind, hgood, huses, hok, liftStarted, startedLift, bne_self_eq_false, Bool.not_true, Bool.false_and,
    Bool.or_self, Bool.false_eq_true, if_false]

section
variable {s : State} {part : PartId} (hheld : partHolds (getPart s.dev part.val) = false)
include hheld

theorem execLiftFenceTimeout_halts (hrun : (getPart s.dev part.val).lift.halted = false)
    (hlate : (lateReaders (getPart s.dev part.val).lift).isEmpty = false) :
    execLiftFenceTimeout part s = answer s (liftHalt s.dev part.val (fun _ _ => none)) := by
  simp only [execLiftFenceTimeout, hheld, hrun, hlate, Bool.or_self, Bool.false_eq_true, if_false]

variable {q : Nat} (hq : inFlight (getPart s.dev part.val).lift = some q)
include hq

theorem execLiftLoadFailure_fails (lost : Bool) (addr : W64) :
    execLiftLoadFailure part lost addr s =
      answer s (loadFail s.dev part.val q (if lost then .targetLost else .memUncorrectable) addr.toNat) := by
  simp only [execLiftLoadFailure, hq, hheld, Bool.false_eq_true, if_false]

theorem execLiftLoadComplete_ends (hpod : (getPart s.dev part.val).lift.podLeft = 0) :
    execLiftLoadComplete part s = answer s (refetchLoads (loadDone s.dev part.val q) part.val) := by
  simp only [execLiftLoadComplete, hq, hheld, hpod, bne_self_eq_false, Bool.or_self, Bool.false_eq_true, if_false]

end

/-- Settles O23: mappings, modes and the heap's key by their rules, the dredge by what it finds, the lift by its start, stop, halt
and load ends. -/
theorem memoryAndLift : Obligations.MemoryAndLift := by
  refine ⟨?map, ?unmap, ?mode, ?heap, ?hbm, ?ts, ?start, ?stop, ?lift⟩
  case map =>
    rintro s p _ _ _ _ pg hready rfl rfl rfl rfl hhead hcount hstate hregion
    refine ⟨fun htier hquota hpage => ?_, fun htier hquota => ?_, fun htier hquota => ?_⟩
    · exact answer_completes (f := fun d => mapT1 d p (dNat p 16 1) pg) hready
        (memMapRule_maps hhead hcount hstate hregion htier hquota hpage)
    · exact answer_completes hready (memMapRule_grants2 hhead hcount hstate hregion htier hquota)
    · exact answer_completes hready (memMapRule_grants3 hhead hcount hstate hregion htier hquota)
  case unmap =>
    rintro s p _ _ _ _ hready rfl rfl rfl hpf h8 hpart h18 hcount hmax h24 hpas htarget h48 rfl
    rw [← poster_takePost s.dev p p] at hpf
    refine ⟨fun htier hall => ?_, fun htier hpas0 hall => ?_, fun htier hpas0 hall => ?_⟩
    · rw [if_pos htier] at hall ⊢
      exact answer_completes hready (memUnmapRule_unmaps hpf h8 hpart h18 hcount hmax h24 htarget h48 htier hpas hall)
    · have hnotT1 : ¬ mmTier p = 1 := by omega
      rw [if_neg hnotT1] at hall ⊢
      exact answer_completes hready (memUnmapRule_revokes2 hpf h8 hpart h18 hcount hmax h24 htarget h48 htier hpas0 hall)
    · have hnotT1 : ¬ mmTier p = 1 := by omega
      rw [if_neg hnotT1] at hall ⊢
      exact answer_completes hready (memUnmapRule_revokes3 hpf h8 hpart h18 hcount hmax h24 htarget h48 htier hpas0 hall)
  case mode =>
    rintro s p _ hready rfl hpf h8 h17 h24 h40 hpage
    rw [← poster_takePost s.dev p p] at hpf
    refine ⟨fun hmode hsize hmax hnormal => ?_, fun hmode hsize h32 hpool hquota hspill => ?_⟩
    · exact answer_completes (f := fun d => { d with pool := some (dNat p 32 8 / pageSize, dNat p 20 4) }) hready
        (memModeRule_enters hpf h8 h17 h24 h40 hpage hmode hsize hmax hnormal)
    · exact answer_completes (f := fun d => { d with pool := none }) hready
        (memModeRule_leaves hpf h8 h17 h24 h40 hpage hmode hsize h32 hpool hquota hspill)
  case heap =>
    rintro s p _ _ _ hready rfl rfl rfl h8 hmode hslot h19 hmay hxts hheap hspill
    rw [← poster_takePost s.dev p p] at hmay
    exact answer_completes hready (memHeapRule_sets h8 hmode hslot h19 hmay hxts hheap hspill)
  case hbm =>
    rintro s k line _ hen hawake hclk hline hgood rfl
    exact ⟨execHbmDredgeTick_sweeps .clean hen hawake hclk hline hgood,
      execHbmDredgeTick_sweeps .corrected hen hawake hclk hline hgood,
      execHbmDredgeTick_sweeps .uncorrectable hen hawake hclk hline hgood⟩
  case ts =>
    rintro s t _ hen hawake hnamed hopen hgood rfl
    exact ⟨execTsDredgeTick_sweeps (found := .clean) (by decide) hen hawake hnamed hopen hgood,
      execTsDredgeTick_sweeps (found := .corrected) (by decide) hen hawake hnamed hopen hgood⟩
  case start =>
    rintro s p _ x _ _ es hready rfl rfl hx rfl hturn h8 hmay hloop h19 h56 hbase hdepth hdepthMax hfirst hlayersMax hlimit hlimitMax
      hsize hsizeMul hactive hidle hslots htable hring hfeed hkind hgood hes huses hok
    rw [← poster_takePost s.dev p p] at hmay
    have hrule := liftStartRule_starts hx h8 hmay hloop h19 h56 hbase hdepth hdepthMax hfirst hlayersMax hlimit hlimitMax hsize hsizeMul
      hactive hidle hslots htable hring hfeed hkind hgood hes huses hok
    exact turn_completes (f := liftStarted p es) hready hturn hrule
  case stop =>
    rintro s p _ _ hready rfl rfl hturn h8 hmay h17 hfree
    rw [← poster_takePost s.dev p p] at hmay
    exact turn_completes (f := fun d => setLift (dropLoads d (dNat p 16 1)) (dNat p 16 1) LiftSt.reset) hready hturn
      (liftStopRule_of_no_reader h8 hmay h17 hfree)
  case lift =>
    rintro s part _ rfl hheld
    refine ⟨fun hrun hlate => ?_, fun q hq => ⟨fun lost addr => ?_, fun hpod => ?_⟩⟩
    · exact (execLiftFenceTimeout_halts hheld hrun hlate).trans (answer_eq _ _)
    · exact (execLiftLoadFailure_fails hheld hq lost addr).trans (answer_eq _ _)
    · exact (execLiftLoadComplete_ends hheld hq hpod).trans (answer_eq _ _)

end Sys2Proof.Machine
